-- ==== Sys2Proof/Syntax.lean ====
section
/-!
DEFINITION. The commands of the block: one constructor of `Instr` per row of the opcode table, with the operands the
row's step needs. The table gives a row no bits, so a command comes with its operands already read out of the frame,
pin or pulse that carries it; what the node itself must check of them is checked by the command's meaning.
-/

namespace Sys2Proof

/-- The two tick inputs (R29). -/
inductive TickIn where
  | a | b
deriving DecidableEq, Repr

/-- The two management rings (R483). -/
inductive Ring where
  | a | b
deriving DecidableEq, Repr

/-- Who sends a dictionary service (Table 2-3 sources 50 to 52 and 64; R495 for the station of a ring). -/
inductive Source where
  | ringA (station : BitVec 16)
  | ringB (station : BitVec 16)
  | f0
  | jtag
deriving DecidableEq, Repr

/-- How a dictionary service arrives: its source, whether a valid tag (or an unlocked function 0) carries it (R489,
R504), whether its AWL flag is set (Table 19-2), and its sequence number (R491). -/
structure Via where
  src : Source
  auth : Bool
  awl : Bool
  seq : BitVec 32
deriving DecidableEq, Repr

/-- The 64-byte request header of Table 3-1 (R63). `oparg` is OPARG with its byte 32 of the header as byte 0. -/
structure Header where
  opcode : BitVec 8
  flags : BitVec 8
  session : BitVec 16
  requestId : BitVec 32
  sequenceId : BitVec 48
  layer : BitVec 16
  headFirst : BitVec 16
  headCount : BitVec 16
  deadline : BitVec 40
  res25 : BitVec 8
  epoch : BitVec 16
  payloadLen : BitVec 32
  oparg : BitVec 128
  res48 : BitVec 128
deriving DecidableEq, Repr

/-- A request message: its header, the payload bytes received, and the source number of Table 2-3 it came from
(0 to 47 a link port, 64 to 128 a host function). -/
structure Request where
  hdr : Header
  payload : Bytes
  source : Nat
deriving DecidableEq, Repr

/-- An open request by its session and REQUEST_ID (unique under check 3 of Table 3-5). -/
structure ReqRef where
  session : BitVec 16
  id : BitVec 32
deriving DecidableEq, Repr

/-- A hardware thread: region, cell of the region (block × 16 + cell), thread (R14, R186). -/
structure ThreadId where
  region : Fin 16
  cell : Fin 256
  thread : Fin 16
deriving DecidableEq, Repr

/-- The operand fields of an instruction word (Table 7-6); CLASS and OP are the constructor. -/
structure Fields where
  rd : Fin 32
  ra : Fin 32
  rb : Fin 32
  fmt : Fin 8
  mod : Fin 8
  imm : BitVec 32
deriving DecidableEq, Repr

/-- What the side band finds on a line that is read (R259): the line's number within the slot or run, and the number
of its 80 symbols in error. The code itself is not given, so the errors present are an input. -/
structure LineErr where
  line : Nat
  symbols : Nat
deriving DecidableEq, Repr

/-- A near-bank command (Table 10-5) without its OP, which is the row. `stream` holds the lines of a STREAM source. -/
structure NbArgs where
  stack : Fin 16
  sfmt : BitVec 8
  dfmt : BitVec 8
  arg : BitVec 8
  dst : BitVec 32
  src : BitVec 32
  lines : BitVec 32
  scalar : BitVec 32
  owner : BitVec 32
  tag : BitVec 32
  model : BitVec 16
  fenceId : BitVec 16
  stream : List (BitVec 512)
deriving DecidableEq, Repr

/-- A rewrite of one page of a sequence (R144 to R148): near-bank CONVERT or ROTATE_PAIR, with its operand. -/
structure Rewrite where
  seq : BitVec 20
  track : Nat
  page : Nat
  op : BitVec 8
  scalar : BitVec 32
deriving DecidableEq, Repr

/-- The measured values of a tick (R539): F32 junction, stack, inlet, outlet, voltage and power, and the measured
edge skew of the tick inputs in ns (R35). -/
structure Sensors where
  junction : BitVec 32
  stack : BitVec 32
  coolantIn : BitVec 32
  coolantOut : BitVec 32
  volts : BitVec 32
  watts : BitVec 32
deriving DecidableEq, Repr

/-- The commands: one constructor per row of the opcode table, those without operands last. -/
inductive Instr where
  /-- TICK_EDGE (R30). -/
  | tickEdge (input : TickIn) (ns : Nat) (width : Nat)
  /-- MISSED_TICK (R36). -/
  | missedTick (input : TickIn)
  /-- INPUT_LOST (R36). -/
  | inputLost (input : TickIn)
  /-- TICK_BOUNDARY (R43). -/
  | tickBoundary (m : Sensors)
  /-- TICK_PRIMARY_WRITE (R37). -/
  | tickPrimaryWrite (via : Via) (v : BitVec 8)
  /-- LAST_LOAD (R51). -/
  | lastLoad (via : Via) (image : Bytes)
  /-- OBJECT_WRITE (R493). -/
  | objectWrite (via : Via) (index : BitVec 16) (sub : BitVec 8) (value : Bytes)
  /-- ARM (R55). -/
  | arm (via : Via)
  /-- DISARM (R58). -/
  | disarm (via : Via)
  /-- DISCARD (R54). -/
  | discard (via : Via)
  /-- REGION_ARM_REPORT (R56). -/
  | regionArmReport (r : Fin 16) (holds : Bool)
  /-- SEQ_OPEN (R106). -/
  | seqOpen (r : Request)
  /-- SEQ_FORK (R107). -/
  | seqFork (r : Request)
  /-- FORK_COPY_DONE (R108). -/
  | forkCopyDone (child : BitVec 20)
  /-- SEQ_CLOSE (R110). -/
  | seqClose (r : Request)
  /-- SEQUENCE_FREE (R110). -/
  | sequenceFree (seq : BitVec 20)
  /-- APPEND (R113). -/
  | append (r : Request)
  /-- ATTEND (R173). -/
  | attend (r : Request)
  /-- ATTEND_APPEND (R172). -/
  | attendAppend (r : Request)
  /-- BACKWARD_COMPUTE (R222). -/
  | backwardCompute (r : Request)
  /-- BACKWARD_FETCH (R232). -/
  | backwardFetch (r : Request)
  /-- BACKWARD_RELEASE (R232). -/
  | backwardRelease (r : Request)
  /-- WEIGHT_LOAD (R299). -/
  | weightLoad (r : Request)
  /-- WEIGHT_DIGEST_CHECK (R300). -/
  | weightDigestCheck (desc : BitVec 16)
  /-- SEARCH_IVF (R330). -/
  | searchIvf (r : Request)
  /-- SEARCH_TREE (R331). -/
  | searchTree (r : Request)
  /-- SEARCH_PROBE (R331). -/
  | searchProbe (r : Request)
  /-- INSERT (R326). -/
  | insert (r : Request)
  /-- DELETE (R326). -/
  | delete (r : Request)
  /-- FOLD (R328). -/
  | fold (r : Request)
  /-- GENERATION_RECLAIM (R329). -/
  | generationReclaim (index : BitVec 8)
  /-- BALL_TREE_BUILD (R331). -/
  | ballTreeBuild (index : BitVec 8)
  /-- ABORT (R87). -/
  | abort (r : Request)
  /-- REASSEMBLY_TIMEOUT (R344). -/
  | reassemblyTimeout (p : Fin 48) (src : BitVec 16) (msgId : BitVec 32)
  /-- COMPUTE_WINDOW_OPEN (R188). -/
  | computeWindowOpen (r : Fin 16)
  /-- ITEM_START (R188). -/
  | itemStart (r : Fin 16) (cell : Fin 256)
  /-- ITEM_COMPLETION (R197). -/
  | itemCompletion (t : ThreadId)
  /-- PHASE2_START (R180). -/
  | phase2Start (q : ReqRef)
  /-- PHASE2_COMPLETE (R180). -/
  | phase2Complete (q : ReqRef)
  /-- BUDGET_TRAP (R207). -/
  | budgetTrap (t : ThreadId)
  /-- BUILTIN_OVERRUN (R208). -/
  | builtinOverrun (t : ThreadId)
  /-- BR (R200). -/
  | br (t : ThreadId) (f : Fields)
  /-- BRC (R200). -/
  | brc (t : ThreadId) (f : Fields)
  /-- LOOP (R200). -/
  | loop (t : ThreadId) (f : Fields)
  /-- END (R197). -/
  | endItem (t : ThreadId) (f : Fields)
  /-- ADD (R200). -/
  | add (t : ThreadId) (f : Fields)
  /-- SUB (R200). -/
  | sub (t : ThreadId) (f : Fields)
  /-- MUL (R200). -/
  | mul (t : ThreadId) (f : Fields)
  /-- AND (R200). -/
  | and (t : ThreadId) (f : Fields)
  /-- OR (R200). -/
  | or (t : ThreadId) (f : Fields)
  /-- XOR (R200). -/
  | xor (t : ThreadId) (f : Fields)
  /-- SHL (R200). -/
  | shl (t : ThreadId) (f : Fields)
  /-- SHR (R200). -/
  | shr (t : ThreadId) (f : Fields)
  /-- MIN (R200). -/
  | min (t : ThreadId) (f : Fields)
  /-- MAX (R200). -/
  | max (t : ThreadId) (f : Fields)
  /-- LI (R200). -/
  | li (t : ThreadId) (f : Fields)
  /-- VADD (R200). -/
  | vadd (t : ThreadId) (f : Fields)
  /-- VMUL (R200). -/
  | vmul (t : ThreadId) (f : Fields)
  /-- VFMA (R200). -/
  | vfma (t : ThreadId) (f : Fields)
  /-- VMAX (R200). -/
  | vmax (t : ThreadId) (f : Fields)
  /-- VSEL (R200). -/
  | vsel (t : ThreadId) (f : Fields)
  /-- VBCAST (R200). -/
  | vbcast (t : ThreadId) (f : Fields)
  /-- VREDMAX (R200). -/
  | vredmax (t : ThreadId) (f : Fields)
  /-- VREDSUM (R200). -/
  | vredsum (t : ThreadId) (f : Fields)
  /-- VEXP2 (R201). -/
  | vexp2 (t : ThreadId) (f : Fields)
  /-- VTANH (R201). -/
  | vtanh (t : ThreadId) (f : Fields)
  /-- VCVT (R201). -/
  | vcvt (t : ThreadId) (f : Fields)
  /-- MMA (R201). -/
  | mma (t : ThreadId) (f : Fields)
  /-- ACC_CLR (R200). -/
  | accClr (t : ThreadId) (f : Fields)
  /-- ACC_RD (R200). -/
  | accRd (t : ThreadId) (f : Fields)
  /-- TLD_PAGE (R203). -/
  | tldPage (t : ThreadId) (f : Fields) (errs : List LineErr)
  /-- TLD_MEM (R205). -/
  | tldMem (t : ThreadId) (f : Fields)
  /-- TLD_WEIGHT (R205). -/
  | tldWeight (t : ThreadId) (f : Fields) (errs : List LineErr)
  /-- TST (R205). -/
  | tst (t : ThreadId) (f : Fields)
  /-- LD (R200). -/
  | ld (t : ThreadId) (f : Fields)
  /-- ST (R200). -/
  | st (t : ThreadId) (f : Fields)
  /-- LDV (R200). -/
  | ldv (t : ThreadId) (f : Fields)
  /-- STV (R200). -/
  | stv (t : ThreadId) (f : Fields)
  /-- FENCE_L (R196). -/
  | fenceL (t : ThreadId) (f : Fields)
  /-- FENCE_F (R196). -/
  | fenceF (t : ThreadId) (f : Fields)
  /-- FENCE_N (R196). -/
  | fenceN (t : ThreadId) (f : Fields)
  /-- IARG (R202). -/
  | iarg (t : ThreadId) (f : Fields)
  /-- PART_WR (R202). -/
  | partWr (t : ThreadId) (f : Fields)
  /-- NBC (R263). -/
  | nbc (t : ThreadId) (f : Fields) (op : BitVec 8) (c : NbArgs)
  /-- NB_ZERO (R264). -/
  | nbZero (c : NbArgs)
  /-- NB_ZERO_SLOT (R264). -/
  | nbZeroSlot (c : NbArgs)
  /-- NB_ZERO_CHANNEL (R277). -/
  | nbZeroChannel (c : NbArgs)
  /-- NB_FILL (R264). -/
  | nbFill (c : NbArgs)
  /-- NB_COPY (R264). -/
  | nbCopy (c : NbArgs)
  /-- NB_ADD (R264). -/
  | nbAdd (c : NbArgs)
  /-- NB_MUL (R264). -/
  | nbMul (c : NbArgs)
  /-- NB_AXPY (R264). -/
  | nbAxpy (c : NbArgs)
  /-- NB_ACT_RELU (R264). -/
  | nbActRelu (c : NbArgs)
  /-- NB_ACT_SILU (R264). -/
  | nbActSilu (c : NbArgs)
  /-- NB_ACT_GELU_TANH (R264). -/
  | nbActGeluTanh (c : NbArgs)
  /-- NB_ACT_SIGMOID (R264). -/
  | nbActSigmoid (c : NbArgs)
  /-- NB_ACT_EXP2 (R264). -/
  | nbActExp2 (c : NbArgs)
  /-- NB_ACT_SOFTCAP (R264). -/
  | nbActSoftcap (c : NbArgs)
  /-- NB_CONVERT (R265). -/
  | nbConvert (c : NbArgs)
  /-- NB_ROTATE_PAIR (R265). -/
  | nbRotatePair (c : NbArgs)
  /-- STROKE_END (R268). -/
  | strokeEnd (stack : Fin 16) (channel : Fin 32)
  /-- REFRESH_BURST (R274). -/
  | refreshBurst (stack : Fin 16)
  /-- APPEND_WRITE (R114). -/
  | appendWrite (q : ReqRef)
  /-- PAGE_RECLAIM (R149). -/
  | pageReclaim (page : BitVec 32)
  /-- PAGE_REWRITE_START (R145). -/
  | pageRewriteStart (w : Rewrite)
  /-- PACKER_START (R243). -/
  | packerStart (r : Fin 16)
  /-- PAGE_COMPRESSED (R246). -/
  | pageCompressed (page : BitVec 32)
  /-- SPILL_COMPLETE (R122). -/
  | spillComplete (slot : BitVec 32)
  /-- PREFETCH_COMPLETE (R123). -/
  | prefetchComplete (page : BitVec 32)
  /-- SLOW_READ_COMPLETION (R297). -/
  | slowReadCompletion (slot : BitVec 32) (unit : BitVec 16) (data : Bytes) (ok : Bool) (poison : Bool)
  /-- SLOW_READ_TIMEOUT (R533). -/
  | slowReadTimeout (slot : BitVec 32)
  /-- REFETCH_TIMEOUT (R306). -/
  | refetchTimeout (desc : BitVec 16) (tile : BitVec 16)
  /-- TILE_RESPONSE (R306). -/
  | tileResponse (desc : BitVec 16) (tile : BitVec 16) (bytes : Bytes)
  /-- TILE_REQUEST_SERVE (R306). -/
  | tileRequestServe (src : BitVec 16) (model : BitVec 16) (layer : BitVec 16) (kind : BitVec 8) (tile : BitVec 16) (digest : Bytes)
  /-- WEIGHT_HOLD_EXPIRY (R308). -/
  | weightHoldExpiry (desc : BitVec 16)
  /-- HELD_DEADLINE_MARGIN (R308). -/
  | heldDeadlineMargin (q : ReqRef)
  /-- DOMAIN_CREATE (R127). -/
  | domainCreate (via : Via) (value : Bytes)
  /-- DOMAIN_DESTROY (R130). -/
  | domainDestroy (via : Via) (value : Bytes)
  /-- MODEL_DEF (R155). -/
  | modelDef (via : Via) (value : Bytes)
  /-- MODEL_RETIRE (R185). -/
  | modelRetire (via : Via) (v : BitVec 16)
  /-- MODEL_FREE (R185). -/
  | modelFree (model : BitVec 8)
  /-- PROG_LOAD (R212). -/
  | progLoad (via : Via) (image : Bytes)
  /-- PROG_READY (R212). -/
  | progReady (slot : BitVec 8)
  /-- PROG_UNLOAD (R212). -/
  | progUnload (via : Via) (v : BitVec 8)
  /-- PROG_SLOT_FREE (R212). -/
  | progSlotFree (slot : BitVec 8)
  /-- QUOTA_SET (R285). -/
  | quotaSet (via : Via) (value : Bytes)
  /-- INDEX_DEF (R314). -/
  | indexDef (via : Via) (value : Bytes)
  /-- CENTROID_LOAD (R317). -/
  | centroidLoad (via : Via) (image : Bytes)
  /-- INDEX_RETIRE (R318). -/
  | indexRetire (via : Via) (value : Bytes)
  /-- INDEX_FREE (R318). -/
  | indexFree (index : BitVec 8)
  /-- FLIT_RECEIVE (R339). -/
  | flitReceive (p : Fin 48) (flit : Bytes)
  /-- REPLAY_ACK_TIMEOUT (R359). -/
  | replayAckTimeout (p : Fin 48)
  /-- LANE_LOCK_LOSS (R359). -/
  | laneLockLoss (p : Fin 48)
  /-- PEER_SILENT (R359). -/
  | peerSilent (p : Fin 48)
  /-- TRAIN_TIMEOUT (R356). -/
  | trainTimeout (p : Fin 48)
  /-- CREDIT_STALL (R359). -/
  | creditStall (p : Fin 48) (vc : Fin 8)
  /-- HELLO_RECEIVE (R357). -/
  | helloReceive (p : Fin 48) (payload : Bytes)
  /-- HELLO_SEND (R357). -/
  | helloSend (p : Fin 48)
  /-- CAMRIS_FRAME_RECEIVE (R342). -/
  | camrisFrameReceive (p : Fin 48) (frame : Bytes)
  /-- ETH_FRAME_RECEIVE (R351). -/
  | ethFrameReceive (p : Fin 48) (frame : Bytes)
  /-- PATH_ACK_RECEIVE (R352). -/
  | pathAckReceive (p : Fin 48) (frame : Bytes)
  /-- PATH_ACK_SEND (R352). -/
  | pathAckSend (endpoint : BitVec 16) (vc : Fin 8)
  /-- PATH_RETRY (R351). -/
  | pathRetry (endpoint : BitVec 16) (vc : Fin 8) (number : BitVec 32)
  /-- PFC_RECEIVE (R350). -/
  | pfcReceive (p : Fin 48) (frame : Bytes)
  /-- PAUSE_RECEIVE (R338). -/
  | pauseReceive (p : Fin 48)
  /-- LOOPBACK_RESULT (R359). -/
  | loopbackResult (p : Fin 48) (pass : Bool)
  /-- RETRAIN (R361). -/
  | retrain (via : Via) (p : Fin 48) (v : BitVec 8)
  /-- DOWN_HOLD_EXPIRY (R362). -/
  | downHoldExpiry (p : Fin 48)
  /-- FRAME_START (R366). -/
  | frameStart (p : Fin 48)
  /-- GATE_UNIT (R369). -/
  | gateUnit (p : Fin 48)
  /-- HIST_CLEAR (R383). -/
  | histClear (via : Via) (v : BitVec 8)
  /-- CMD_DOORBELL (R523). -/
  | cmdDoorbell (v : BitVec 32) (frame : Bytes)
  /-- SPACE4_READ (R525). -/
  | space4Read (addr : BitVec 35) (len : Nat)
  /-- SQ_TAIL_DOORBELL (R526). -/
  | sqTailDoorbell (session : BitVec 16) (v : BitVec 32)
  /-- DMA_TAIL_DOORBELL (R528). -/
  | dmaTailDoorbell (vf : Fin 64) (v : BitVec 32)
  /-- DMA_DESCRIPTOR (R528). -/
  | dmaDescriptor (vf : Fin 64) (desc : Bytes)
  /-- ATTEST_GO (R528). -/
  | attestGo (vf : Fin 64) (v : BitVec 32)
  /-- FLR_VF (R529). -/
  | flrVf (vf : Fin 64)
  /-- SLOW_PORT_ERROR (R533). -/
  | slowPortError (p : Fin 8) (kind : BitVec 8)
  /-- RESCAN (R531). -/
  | rescan (via : Via) (v : BitVec 8)
  /-- SLICE_BIND (R391). -/
  | sliceBind (via : Via) (value : Bytes)
  /-- SESSION_OPEN (R393). -/
  | sessionOpen (via : Via) (value : Bytes)
  /-- SESSION_CLOSE (R393). -/
  | sessionClose (via : Via) (value : Bytes)
  /-- SLICE_RELEASE (R394). -/
  | sliceRelease (via : Via) (v : BitVec 8)
  /-- DRAIN_BOUND (R438). -/
  | drainBound (slice : Fin 64)
  /-- SCRUB_END (R440). -/
  | scrubEnd (slice : Fin 64)
  /-- MOVE_RECEIVE (R403). -/
  | moveReceive (src : BitVec 16) (bytes : Bytes)
  /-- MOVE_TIMEOUT (R403). -/
  | moveTimeout (seq : BitVec 20)
  /-- ROUND_HEADER_RECEIVE (R408). -/
  | roundHeaderReceive (bytes : Bytes)
  /-- HOLD_STOP (R409). -/
  | holdStop (via : Via) (v : BitVec 8)
  /-- REJOIN (R410). -/
  | rejoin (via : Via) (v : BitVec 8)
  /-- QUARANTINE_KEEP (R412). -/
  | quarantineKeep (via : Via) (value : Bytes)
  /-- QUARANTINE_YIELD (R412). -/
  | quarantineYield (via : Via) (value : Bytes)
  /-- QUARANTINE_DROP (R412). -/
  | quarantineDrop (via : Via) (value : Bytes)
  /-- KEY_INSTALL (R418). -/
  | keyInstall (via : Via) (value : Bytes)
  /-- KEY_RETIRE (R420). -/
  | keyRetire (via : Via) (value : Bytes)
  /-- KEY_RETIREMENT (R420). -/
  | keyRetirement (slot : BitVec 16)
  /-- FW_STAGED (R428). -/
  | fwStaged (via : Via) (image : Bytes)
  /-- ATTEST_REQ (R429). -/
  | attestReq (via : Via) (value : Bytes)
  /-- OPROOT_WRITE (R561). -/
  | oprootWrite (value : Bytes)
  /-- TARGETED_TEST_START (R445). -/
  | targetedTestStart (kind : BitVec 8) (unit : BitVec 32)
  /-- TEST_RESULT (R445). -/
  | testResult (kind : BitVec 8) (unit : BitVec 32) (pass : Bool) (addr : BitVec 32) (bit : BitVec 16)
  /-- ROW_REPAIR (R278). -/
  | rowRepair (stack : Fin 16) (channel : Fin 32) (bank : BitVec 8) (row : BitVec 16)
  /-- STATE_LOST_MARGIN (R450). -/
  | stateLostMargin (q : ReqRef)
  /-- PAGE_RESTORE (R453). -/
  | pageRestore (page : BitVec 32)
  /-- PAGE_RESTORE_TIMEOUT (R453). -/
  | pageRestoreTimeout (page : BitVec 32)
  /-- REPL_RECEIVE (R455). -/
  | replReceive (src : BitVec 16) (bytes : Bytes)
  /-- CUT_ACK_RECEIVE (R455). -/
  | cutAckReceive (src : BitVec 16) (bytes : Bytes)
  /-- ROSTER_RECEIVE (R456). -/
  | rosterReceive (src : BitVec 16) (bytes : Bytes)
  /-- TAKEOVER_START (R460). -/
  | takeoverStart (via : Via) (value : Bytes)
  /-- TAKEOVER_STOP (R460). -/
  | takeoverStop (via : Via) (value : Bytes)
  /-- SEQUENCE_RESTORED (R461). -/
  | sequenceRestored (seq : BitVec 48)
  /-- SELFTEST_SLICE_END (R474). -/
  | selftestSliceEnd (cls : BitVec 8) (target : BitVec 8) (pass : Bool) (addr : BitVec 32) (bit : BitVec 16)
  /-- LOCKSTEP_MISMATCH (R470). -/
  | lockstepMismatch (unit : BitVec 8)
  /-- TEST_REQ (R479). -/
  | testReq (via : Via) (value : Bytes)
  /-- DISCOVER (R488). -/
  | discover (ring : Ring) (frame : Bytes)
  /-- BEACON_RECEIVE (R485). -/
  | beaconReceive (ring : Ring) (frame : Bytes)
  /-- RING_FRAME_FORWARD (R484). -/
  | ringFrameForward (ring : Ring) (frame : Bytes)
  /-- READ (R492). -/
  | read (ring : Ring) (frame : Bytes)
  /-- WRITE (R492). -/
  | write (ring : Ring) (frame : Bytes)
  /-- BLOCK_READ (R495). -/
  | blockRead (ring : Ring) (frame : Bytes)
  /-- BLOCK_WRITE (R495). -/
  | blockWrite (ring : Ring) (frame : Bytes)
  /-- DESCRIBE (R498). -/
  | describe (ring : Ring) (frame : Bytes)
  /-- COMMIT (R496). -/
  | commit (ring : Ring) (frame : Bytes)
  /-- AWL (R499). -/
  | awl (ring : Ring) (frame : Bytes)
  /-- RING_KEY_INSTALL (R490). -/
  | ringKeyInstall (via : Via) (value : Bytes)
  /-- F0_UNLOCK (R504). -/
  | f0Unlock (via : Via) (value : Bytes)
  /-- F0_LOCK (R504). -/
  | f0Lock (via : Via) (v : BitVec 8)
  /-- EYELET_CLOSE (R486). -/
  | eyeletClose (ring : Ring)
  /-- EYELET_OPEN (R486). -/
  | eyeletOpen (ring : Ring)
  /-- STATE_REQ_OPERATIONAL (R548). -/
  | stateReqOperational (via : Via)
  /-- STATE_REQ_PREOP (R548). -/
  | stateReqPreop (via : Via)
  /-- STATE_REQ_SAFE (R542). -/
  | stateReqSafe (via : Via)
  /-- SENSOR_TRIP (R542). -/
  | sensorTrip (m : Sensors)
  /-- RESET_REQ (R549). -/
  | resetReq (via : Via) (v : BitVec 8)
  /-- RING_PORT_DOWN (R485). -/
  | ringPortDown (ring : Ring) (east : Bool)
  /-- RING_PORT_UP (R487). -/
  | ringPortUp (ring : Ring) (east : Bool)
  /-- HOST_READ_COMPLETION (R526). -/
  | hostReadCompletion (index : Nat) (bytes : Bytes)
  /-- IDE_KM (R521). -/
  | ideKm (value : Bytes)
  /-- MAILBOX_ENABLE (R526). -/
  | mailboxEnable (session : BitVec 16) (v : BitVec 32)
  /-- ARBITER_TIMEOUT (R444). -/
  | arbiterTimeout (r : Fin 16) (cell : Fin 256)
  /-- HOLDOVER_LIMIT (R38). -/
  | holdoverLimit
  /-- ROUND_BOUNDARY (R47). -/
  | roundBoundary
  /-- ARM_DEADLINE (R56). -/
  | armDeadline
  /-- COMMIT_APPLY (R59). -/
  | commitApply
  /-- ADMIT_TICK (R70). -/
  | admitTick
  /-- HASH_CHAIN (R132). -/
  | hashChain
  /-- REFILL_ATTEMPT (R120). -/
  | refillAttempt
  /-- SPILL_START (R290). -/
  | spillStart
  /-- PREFETCH_READ (R292). -/
  | prefetchRead
  /-- STATISTICS_SAMPLE (R383). -/
  | statisticsSample
  /-- MAILBOX_FETCH (R526). -/
  | mailboxFetch
  /-- HOST_REPLY_WRITE (R527). -/
  | hostReplyWrite
  /-- FLR_F0 (R529). -/
  | flrF0
  /-- HOST_LINK_DOWN (R529). -/
  | hostLinkDown
  /-- HOST_READ_TIMEOUT (R529). -/
  | hostReadTimeout
  /-- HOST_PORT_RESET (R549). -/
  | hostPortReset
  /-- PRE_COPY (R401). -/
  | preCopy
  /-- EPOCH_ADMISSION_END (R399). -/
  | epochAdmissionEnd
  /-- DRAIN_TICK (R399). -/
  | drainTick
  /-- HEADER_WAIT_EXPIRY (R408). -/
  | headerWaitExpiry
  /-- ATTEST_REPORT_READY (R429). -/
  | attestReportReady
  /-- SCAN_ENTRY (R480). -/
  | scanEntry
  /-- REPAIR_RECORD_WRITE (R478). -/
  | repairRecordWrite
  /-- JOURNAL_CUT (R455). -/
  | journalCut
  /-- PARTNER_SUSPECT (R457). -/
  | partnerSuspect
  /-- TAKEOVER_TIMEOUT (R462). -/
  | takeoverTimeout
  /-- SELFTEST_SLICE_START (R468). -/
  | selftestSliceStart
  /-- SELFTEST_SLICE_STOP (R468). -/
  | selftestSliceStop
  /-- CYCLE_OVERRUN (R473). -/
  | cycleOverrun
  /-- BEACON_SEND (R485). -/
  | beaconSend
  /-- BLOCK_TIMEOUT (R495). -/
  | blockTimeout
  /-- WATCHDOG_EXPIRY (R486). -/
  | watchdogExpiry
  /-- INPUT_TRIP (R542). -/
  | inputTrip
  /-- COOLANT_ALARM (R555). -/
  | coolantAlarm
  /-- POWER_LOSS (R537). -/
  | powerLoss
  /-- POWER_UP (R545). -/
  | powerUp
  /-- MODULE_RESET (R555). -/
  | moduleReset
  /-- HOST_LINK_UP (R529). -/
  | hostLinkUp
  /-- ZEROIZATION_COMPLETE (R480). -/
  | zeroizationComplete
  /-- MODULE_RESET_RELEASE (R555). -/
  | moduleResetRelease
  /-- COOLANT_ALARM_RELEASE (R555). -/
  | coolantAlarmRelease
deriving DecidableEq, Repr

end Sys2Proof
end

