-- ==== Sys2Proof/Decode.lean ====
section
/-!
DEFINITION. The command that a word spells by the opcode table's bits. The table of this part gives no row any bits: its rows are
operations and events, not encodings; so no word spells a command.
-/

namespace Sys2Proof

/-- The command a table word spells: none, for the table gives no bits. -/
def decodeTableWord (_nbits _w : Nat) : Option Instr := none

end Sys2Proof
end

