-- ==== Sys2Proof/Config.lean ====
section
/-!
DEFINITION. What an implementation fixes and the manual leaves open: free values and free functions, constants without a
body, so that nothing in Lean can evaluate them or prove a value of them. A statement about the model holds for every
value they take. Each is named in the assumption log.
-/

namespace Sys2Proof

/-- The n-th free value drawn in a run: random keys and nonces, and other values the manual leaves open. -/
opaque Config.freeValue : Nat → Nat

/-- Sign and payload of a NaN that an FP32 operation makes from its operands (IEEE 754 leaves both open). -/
opaque Config.nanBits : Nat → Nat → Nat

/-- An FP32 accumulation whose order the manual does not fix (R174, R201): the FP32 sum of products, each product given as
mantissa and binary exponent, onto a first FP32 value. -/
opaque Config.fp32Sum : Nat → List (Int × Int) → Nat

/-- FP32 base-2 exponential within the bound of R174. -/
opaque Config.exp2 : Nat → Nat

/-- FP32 tanh within the bound of R170 (Table 6-9 stage 6). -/
opaque Config.tanh : Nat → Nat

/-- FP32 cosine of position × base^(−2i/D) within the bound of R171: position, base, i, D. -/
opaque Config.cosTheta : Int → Nat → Nat → Nat → Nat

/-- FP32 sine of the same angle (R171). -/
opaque Config.sinTheta : Int → Nat → Nat → Nat → Nat

/-- FP32 square root (R320 gives no rounding). -/
opaque Config.sqrt : Nat → Nat

/-- The linear-bias slope 2^(−SLOPE_EXP × (h + 1) / Q_HEADS) in FP32 (R171): exponent bits, h, Q_HEADS. -/
opaque Config.slope : Nat → Nat → Nat → Nat

/-- Near-bank activation functions within the bound of R265: ARG, operand, SCALAR. -/
opaque Config.act : Nat → Nat → Nat → Nat

/-- The scale byte of an MX block whose elements are all zero (the OCP rule gives none). -/
opaque Config.mxZeroScale : Nat → Nat

/-- A packer's encoding of the tile-order bytes of a block as facet streams (R245): a function of the bytes and
PACK_MODE. -/
opaque Config.packStreams : Nat → Bytes → List Bytes

/-- Whether an ML-DSA-87 signature verifies (FIPS 204, whose algorithm the manual does not give): public key, context, message, signature. -/
opaque Config.verify : Bytes → Bytes → Bytes → Bytes → Bool

/-- An ML-DSA-87 signature of a message under a private key (R430). -/
opaque Config.sign : Bytes → Bytes → Bytes

/-- ML-KEM-1024 decapsulation (FIPS 203): private key, ciphertext; the shared secret. -/
opaque Config.decaps : Bytes → Bytes → Bytes

/-- A built-in program's result where the manual fixes the program's effect only in part: what, argument. -/
opaque Config.open : Nat → Nat → Nat

end Sys2Proof
end

