-- ==== Sys2Proof/Machine/Float.lean ====
section
/-!
DEFINITION. Floating-point arithmetic on bit patterns: FP32 and BF16 with one rounding to nearest even (R265), the MX element
formats E4M3, E3M2 and E2M1 with their E8M0 scales (R157, R158), and the conversion into them (R171). A finite value is
a dyadic number m × 2^e.
-/

namespace Sys2Proof.Machine

/-- A decoded value. -/
inductive FVal where
  | nan
  | inf (neg : Bool)
  | fin (neg : Bool) (m : Nat) (e : Int)
deriving DecidableEq, Repr

/-- NaN or infinite. -/
def FVal.nonFinite : FVal → Bool
  | .fin _ _ _ => false
  | _ => true

/-- The signed mantissa of a finite value. -/
def FVal.int : FVal → Int × Int
  | .fin n m e => (if n then -(m : Int) else m, e)
  | _ => (0, 0)

/-- The value of FP32 bits. -/
def f32Val (b : Nat) : FVal :=
  let s := bitOf b 31
  let x := bitsOf b 23 8
  let f := bitsOf b 0 23
  if x = 255 then (if f = 0 then .inf s else .nan)
  else if x = 0 then .fin s f (-149)
  else .fin s (f + 2 ^ 23) ((x : Int) - 150)

/-- Round a magnitude m × 2^e to a format of precision `p` and least exponent `emin` (that of the least normal value), to
nearest even: the format's biased magnitude bits, unbounded above. -/
def roundMag (p : Nat) (emin : Int) (m : Nat) (e : Int) : Nat :=
  if m = 0 then 0
  else
    let top : Int := (Nat.log2 m : Int) + e
    let q : Int := (if top < emin then emin else top) - ((p : Int) - 1)
    let qmin : Int := emin - ((p : Int) - 1)
    let mant : Nat :=
      if q ≤ e then m * 2 ^ (e - q).toNat
      else
        let sh := (q - e).toNat
        let d := m / 2 ^ sh
        let r := m % 2 ^ sh
        let half := 2 ^ (sh - 1)
        if r > half ∨ (r = half ∧ d % 2 = 1) then d + 1 else d
    if mant < 2 ^ (p - 1) then mant else ((q - qmin).toNat + 1) * 2 ^ (p - 1) + (mant - 2 ^ (p - 1))

/-- FP32 bits of a dyadic magnitude, rounded once to nearest even; overflow gives infinity. -/
def f32Round (neg : Bool) (m : Nat) (e : Int) : Nat :=
  let b := roundMag 24 (-126) m e
  (if b ≥ 0x7F800000 then 0x7F800000 else b) + (if neg then 2 ^ 31 else 0)

/-- FP32 bits of a signed dyadic number; an exact zero is +0. -/
def f32OfInt (m e : Int) : Nat := f32Round (decide (m < 0)) m.natAbs e

/-- The NaN an operation answers (IEEE 754 leaves sign and payload open). -/
def f32Nan (a b : Nat) : Nat :=
  let p := Config.nanBits a b
  0x7FC00000 + p % 2 ^ 22 + (p / 2 ^ 22 % 2) * 2 ^ 31

/-- The quiet NaN of R175. -/
abbrev qnan : Nat := 0x7FC00000
/-- FP32 infinities. -/
abbrev f32PosInf : Nat := 0x7F800000
abbrev f32NegInf : Nat := 0xFF800000

/-- Sum of two dyadic numbers, exactly. -/
def dyAdd (a b : Int × Int) : Int × Int :=
  if a.2 ≤ b.2 then (a.1 + b.1 * 2 ^ (b.2 - a.2).toNat, a.2) else (a.1 * 2 ^ (a.2 - b.2).toNat + b.1, b.2)

/-- FP32 addition. -/
def f32Add (a b : Nat) : Nat :=
  match f32Val a, f32Val b with
  | .nan, _ => f32Nan a b
  | _, .nan => f32Nan a b
  | .inf x, .inf y => if x = y then a else f32Nan a b
  | .inf _, _ => a
  | _, .inf _ => b
  | .fin x m e, .fin y m' e' =>
    let s := dyAdd (FVal.fin x m e).int (FVal.fin y m' e').int
    if s.1 = 0 then (if x && y then 2 ^ 31 else 0) else f32OfInt s.1 s.2

/-- The bits with the sign reversed. -/
def f32Neg (a : Nat) : Nat := if bitOf a 31 then a - 2 ^ 31 else a + 2 ^ 31

/-- FP32 subtraction. -/
def f32Sub (a b : Nat) : Nat := f32Add a (f32Neg b)

/-- FP32 multiplication. -/
def f32Mul (a b : Nat) : Nat :=
  let s := bitOf a 31 != bitOf b 31
  match f32Val a, f32Val b with
  | .nan, _ => f32Nan a b
  | _, .nan => f32Nan a b
  | .inf _, .fin _ m _ => if m = 0 then f32Nan a b else 0x7F800000 + (if s then 2 ^ 31 else 0)
  | .fin _ m _, .inf _ => if m = 0 then f32Nan a b else 0x7F800000 + (if s then 2 ^ 31 else 0)
  | .inf _, .inf _ => 0x7F800000 + (if s then 2 ^ 31 else 0)
  | .fin _ m e, .fin _ m' e' => f32Round s (m * m') (e + e')

/-- FP32 fused multiply-add a × b + c, rounded once. -/
def f32Fma (a b c : Nat) : Nat :=
  match f32Val a, f32Val b, f32Val c with
  | .fin x m e, .fin y m' e', .fin z k f =>
    let p := (FVal.fin (x != y) (m * m') (e + e')).int
    let s := dyAdd p (FVal.fin z k f).int
    if s.1 = 0 then (if (x != y) && z then 2 ^ 31 else 0)
    else f32OfInt s.1 s.2
  | .fin _ _ _, .fin _ _ _, .inf _ => c
  | _, _, .nan => f32Nan a c
  | _, _, _ => f32Add (f32Mul a b) c

/-- FP32 division, rounded once; a zero divisor follows IEEE 754. -/
def f32Div (a b : Nat) : Nat :=
  let s := bitOf a 31 != bitOf b 31
  let sg := if s then 2 ^ 31 else 0
  match f32Val a, f32Val b with
  | .nan, _ => f32Nan a b
  | _, .nan => f32Nan a b
  | .inf _, .inf _ => f32Nan a b
  | .inf _, _ => 0x7F800000 + sg
  | _, .inf _ => sg
  | .fin _ m e, .fin _ m' e' =>
    if m' = 0 then (if m = 0 then f32Nan a b else 0x7F800000 + sg)
    else if m = 0 then sg
    else
      let q := m * 2 ^ 64 / m'
      let st := if m * 2 ^ 64 % m' = 0 then 0 else 1
      f32Round s (q * 2 + st) (e - e' - 65)

/-- Order of FP32 values: whether a < b; false where either is NaN. -/
def f32Lt (a b : Nat) : Bool :=
  match f32Val a, f32Val b with
  | .nan, _ => false
  | _, .nan => false
  | .inf x, .inf y => x && !y
  | .inf x, .fin _ _ _ => x
  | .fin _ _ _, .inf y => !y
  | .fin x m e, .fin y m' e' =>
    let d := dyAdd (FVal.fin x m e).int (FVal.fin (!y) m' e').int
    decide (d.1 < 0)

/-- Equal as values (−0 equals +0; NaN equals nothing). -/
def f32Eq (a b : Nat) : Bool :=
  f32Val a != .nan && f32Val b != .nan && !f32Lt a b && !f32Lt b a

/-- The larger of two FP32 values; a NaN operand leaves which NaN or number results open. -/
def f32Max (a b : Nat) : Nat :=
  if f32Val a = .nan ∨ f32Val b = .nan then f32Nan a b else if f32Lt a b then b else a

/-- FP32 bits of a value. -/
def FVal.toF32 : FVal → Nat
  | .nan => qnan
  | .inf n => if n then f32NegInf else f32PosInf
  | .fin n m e => f32Round n m e

/-- BF16 bits of FP32 bits, rounded to nearest even. -/
def bf16Of (a : Nat) : Nat :=
  match f32Val a with
  | .nan => if a = qnan then 0x7FC0 else 0x7FC0 + f32Nan a 0 / 2 ^ 16 % 64
  | .inf n => if n then 0xFF80 else 0x7F80
  | .fin n m e =>
    let b := roundMag 8 (-126) m e
    (if b ≥ 0x7F80 then 0x7F80 else b) + (if n then 2 ^ 15 else 0)

/-- FP32 bits of BF16 bits. -/
def f32OfBf16 (b : Nat) : Nat := b * 2 ^ 16

/-- Round FP32 to BF16 and widen again. -/
def f32ToBf16 (a : Nat) : Nat := f32OfBf16 (bf16Of a)

/-- FP32 bits of a natural number, rounded once. -/
def f32OfNat (n : Nat) : Nat := f32Round false n 0

/-! ### Element formats. The code is that of Table 7-6: 1 BF16, 2 E4M3, 3 E3M2, 4 E2M1. -/

/-- Exponent bits, mantissa bits, bias and largest magnitude code of an MX element format. -/
def mxShape (fmt : Nat) : Nat × Nat × Int × Nat :=
  if fmt = 2 then (4, 3, 7, 0x7E) else if fmt = 3 then (3, 2, 3, 0x1F) else (2, 1, 1, 0x7)

/-- Bits of an element. -/
def elemBits (fmt : Nat) : Nat := if fmt = 0 then 32 else if fmt = 1 then 16 else if fmt = 2 then 8 else if fmt = 3 then 6 else if fmt = 5 then 8 else 4

/-- The value of an element's bits without scale (R157). -/
def elemVal (fmt b : Nat) : FVal :=
  if fmt = 0 then f32Val b
  else if fmt = 1 then f32Val (f32OfBf16 b)
  else
    let (eb, mb, bias, _) := mxShape fmt
    let s := bitOf b (eb + mb)
    let x := bitsOf b mb eb
    let f := bitsOf b 0 mb
    if fmt = 2 ∧ x = 15 ∧ f = 7 then .nan
    else if x = 0 then .fin s f (1 - bias - mb)
    else .fin s (f + 2 ^ mb) ((x : Int) - bias - mb)

/-- An element times its E8M0 scale; scale 0xFF decodes as NaN (R158). -/
def scaled (scale : Nat) (v : FVal) : FVal :=
  if scale = 0xFF then .nan
  else match v with
    | .fin n m e => .fin n m (e + (scale : Int) - 127)
    | w => w

/-- Bytes of n elements of a format (Table 6-3). -/
def vecBytes (fmt n : Nat) : Nat :=
  if fmt = 0 then 4 * n else if fmt = 1 then 2 * n else if fmt = 2 then n + n / 32 else if fmt = 3 then 3 * n / 4 + n / 32 else n / 2 + n / 32

/-- The i-th element of a stored vector (R158). -/
def vecElem (fmt : Nat) (bs : Bytes) (i : Nat) : FVal :=
  if fmt ≤ 1 then elemVal fmt (fieldB bs (i * (elemBits fmt / 8)) (elemBits fmt / 8))
  else
    let blk := 1 + 32 * elemBits fmt / 8
    let off := i / 32 * blk
    let packed := fieldB bs (off + 1) (blk - 1)
    scaled (fieldB bs off 1) (elemVal fmt (bitsOf packed (i % 32 * elemBits fmt) (elemBits fmt)))

/-- The n elements of a stored vector. -/
def vecElems (fmt : Nat) (bs : Bytes) (n : Nat) : List FVal := (List.range n).map (vecElem fmt bs)

/-- An MX element of a finite value over a scale 2^k, to nearest even, saturating (R171). -/
def mxEncode (fmt : Nat) (k : Int) (v : FVal) : Nat :=
  let (eb, mb, bias, top) := mxShape fmt
  match v with
  | .fin n m e =>
    let b := roundMag (mb + 1) (1 - bias) m (e - k)
    (if b > top then top else b) + (if n then 2 ^ (eb + mb) else 0)
  | _ => 0

/-- The greatest binary exponent among finite values, none where all are zero. -/
def topExp (vs : List FVal) : Option Int :=
  vs.foldl (fun acc v => match v with
    | .fin _ m e => if m = 0 then acc else
        let t : Int := (Nat.log2 m : Int) + e
        match acc with | none => some t | some a => some (if a < t then t else a)
    | _ => acc) none

/-- An MX block of 32 values: the scale byte, then the packed elements (R171: the OCP scale; a block with a NaN or infinite
element takes scale 0xFF and zero elements). -/
def mxBlock (fmt : Nat) (vs : List FVal) : Bytes :=
  let w := elemBits fmt
  let n := 32 * w / 8
  if vs.any FVal.nonFinite then BitVec.ofNat 8 0xFF :: List.replicate n 0
  else
    let emax : Int := if fmt = 2 then 8 else if fmt = 3 then 4 else 2
    match topExp vs with
    | none => BitVec.ofNat 8 (Config.mxZeroScale fmt % 255) ::
        leBytes n ((vs.map (mxEncode fmt 0)).foldr (fun b acc => b + 2 ^ w * acc) 0)
    | some t =>
      let k : Int := if t - emax < -127 then -127 else if t - emax > 127 then 127 else t - emax
      BitVec.ofNat 8 (k + 127).toNat ::
        leBytes n ((vs.map (mxEncode fmt k)).foldr (fun b acc => b + 2 ^ w * acc) 0)

/-- Store a vector in a format: FP32, BF16 rounded to nearest even, or MX blocks (R158, R171). -/
def vecStore (fmt : Nat) (vs : List FVal) : Bytes :=
  if fmt = 0 then (vs.map fun v => leBytes 4 v.toF32).flatten
  else if fmt = 1 then (vs.map fun v => leBytes 2 (match v with
    | .nan => 0x7FC0
    | .inf n => if n then 0xFF80 else 0x7F80
    | .fin n m e => let b := roundMag 8 (-126) m e
                    (if b ≥ 0x7F80 then 0x7F80 else b) + (if n then 2 ^ 15 else 0))).flatten
  else ((List.range (vs.length / 32)).map fun i => mxBlock fmt ((vs.drop (32 * i)).take 32)).flatten

/-- The exact product of two decoded values as a signed dyadic number. -/
def dyMul (a b : FVal) : Int × Int := (a.int.1 * b.int.1, a.int.2 + b.int.2)

/-- An FP32 accumulation of exact products onto a first value, in an order the manual leaves open (R174, R201). -/
def fp32Dot (first : Nat) (a b : List FVal) : Nat :=
  if (a.zip b).isEmpty then first else Config.fp32Sum first ((a.zip b).map fun p => dyMul p.1 p.2) % 2 ^ 32

/-- An FP32 accumulation of exact products in element order (R321). -/
def fp32DotInOrder (a b : List FVal) : Nat :=
  (a.zip b).foldl (fun acc p =>
    match f32Val acc with
    | .fin n m e => let s := dyAdd (FVal.fin n m e).int (dyMul p.1 p.2)
                    if s.1 = 0 then 0 else f32OfInt s.1 s.2
    | _ => acc) 0

/-- exp2 in FP32, with exp2(−∞) = 0 (R174). -/
def f32Exp2 (a : Nat) : Nat := if a = f32NegInf then 0 else Config.exp2 a % 2 ^ 32

/-! ### Check sequences -/

/-- One bit step of a reflected CRC-32 with the polynomial 0x82F63B78 (Castagnoli, R241). -/
def crcStep (c : BitVec 32) : BitVec 32 :=
  if c.getLsbD 0 then (c >>> 1) ^^^ 0x82F63B78#32 else c >>> 1

/-- CRC-32C over bytes (R241). -/
def crc32c (bs : Bytes) : BitVec 32 :=
  ~~~ (bs.foldl (fun c b =>
    let x := c ^^^ (b.setWidth 32)
    crcStep (crcStep (crcStep (crcStep (crcStep (crcStep (crcStep (crcStep x)))))))) 0xFFFFFFFF#32)

end Sys2Proof.Machine
end

