-- ==== Sys2Proof/Machine/Crypto.lean ====
section
/-!
DEFINITION. The published primitives that the manual names: SHA3-512 (FIPS 202), KMAC128 (SP 800-185) and AES-256-GCM (FIPS 197, SP 800-38D),
written out from those standards (PRESUMED, log entry 125), and the key unwrapping that the manual builds on them (R418, R490). ML-KEM-1024 and ML-DSA-87
stay functions without a body (Config.lean).
-/

namespace Sys2Proof.Machine

/-! ### Keccak -/

/-- The rotation of lane x + 5 × y. -/
def keccakRot : List Nat :=
  [0, 1, 62, 28, 27] ++ [36, 44, 6, 55, 20] ++ [3, 10, 43, 25, 39] ++ [41, 45, 15, 21, 8] ++ [18, 2, 61, 56, 14]

/-- The round constants of Keccak-f[1600], the first lowest, 64 bits each. -/
def keccakRounds : List (BitVec 64) :=
  [0x0000000000000001, 0x0000000000008082, 0x800000000000808A, 0x8000000080008000, 0x000000000000808B, 0x0000000080000001] ++
  [0x8000000080008081, 0x8000000000008009, 0x000000000000008A, 0x0000000000000088, 0x0000000080008009, 0x000000008000000A] ++
  [0x000000008000808B, 0x800000000000008B, 0x8000000000008089, 0x8000000000008003, 0x8000000000008002, 0x8000000000000080] ++
  [0x000000000000800A, 0x800000008000000A, 0x8000000080008081, 0x8000000000008080, 0x0000000080000001, 0x8000000080008008]

/-- One round on 25 lanes: theta, rho and pi, chi, iota. -/
def keccakRound (a : List (BitVec 64)) (rc : BitVec 64) : List (BitVec 64) :=
  let c := (List.range 5).map fun x => (List.range 5).foldl (fun v y => v ^^^ a.getD (x + 5 * y) 0) 0
  let d := (List.range 5).map fun x => c.getD ((x + 4) % 5) 0 ^^^ (c.getD ((x + 1) % 5) 0).rotateLeft 1
  let b := (List.range 25).map fun i =>
    let x := (i % 5 + 3 * (i / 5)) % 5
    let k := x + 5 * (i % 5)
    (a.getD k 0 ^^^ d.getD x 0).rotateLeft (keccakRot.getD k 0)
  (List.range 25).map fun i =>
    let at_ := fun (x : Nat) => b.getD (x % 5 + 5 * (i / 5)) 0
    let v := at_ (i % 5) ^^^ (~~~(at_ (i % 5 + 1)) &&& at_ (i % 5 + 2))
    if i = 0 then v ^^^ rc else v

/-- The permutation. -/
def keccakF (a : List (BitVec 64)) : List (BitVec 64) := keccakRounds.foldl keccakRound a

/-- A sponge of a rate in bytes with a suffix byte: the first bytes squeezed, at most one block. -/
def keccak (rate : Nat) (suffix : Byte) (len : Nat) (bs : Bytes) : Bytes :=
  let q := rate - bs.length % rate
  let padded := bs ++ (if q = 1 then [suffix ||| 0x80] else suffix :: (List.replicate (q - 2) 0 ++ [0x80]))
  let out := (List.range (padded.length / rate)).foldl (fun (a : List (BitVec 64)) k =>
    keccakF ((List.range 25).map fun i =>
      let lane := if 8 * i + 8 ≤ rate then BitVec.ofNat 64 (fieldB padded (rate * k + 8 * i) 8) else 0
      a.getD i 0 ^^^ lane)) (List.replicate 25 0)
  (out.flatMap fun v => leBytes 8 v.toNat).take len

/-- SHA3-512. -/
@[irreducible] def sha3_512 (bs : Bytes) : Bytes := keccak 72 0x06 64 bs

/-- A number in big-endian bytes, at least one. -/
def beBytes (v : Nat) : Bytes := if v < 256 then [BitVec.ofNat 8 v] else if v < 65536 then (leBytes 2 v).reverse else (leBytes 4 v).reverse

/-- left_encode and encode_string of SP 800-185. -/
def leftEncode (v : Nat) : Bytes := BitVec.ofNat 8 (beBytes v).length :: beBytes v
def encodeString (bs : Bytes) : Bytes := leftEncode (8 * bs.length) ++ bs

/-- bytepad of SP 800-185. -/
def bytePad (w : Nat) (bs : Bytes) : Bytes :=
  let v := leftEncode w ++ bs
  v ++ List.replicate ((w - v.length % w) % w) 0

/-- The bytes of a name in ASCII. -/
def nameBytes (s : String) : Bytes := s.toList.map fun c => BitVec.ofNat 8 c.toNat

/-- KMAC128 with 256 bits of output: key, customization, message. -/
def kmac128 (key custom msg : Bytes) : Bytes :=
  keccak 168 0x04 32 (bytePad 168 (encodeString (nameBytes "KMAC") ++ encodeString custom) ++ bytePad 168 (encodeString key) ++ msg ++ [1, 0, 2])

/-- The prefix hash (R131): KMAC128 under a domain key with the customization "UHLELLE PREFIX". -/
@[irreducible] def prefixMac (key msg : Bytes) : Bytes := kmac128 key (nameBytes "UHLELLE PREFIX") msg

/-! ### AES-256 -/

/-- The S-box of AES, entry 0 lowest. -/
def aesTable : Nat :=
  0x16bb54b00f2d99416842e6bf0d89a18cdf2855cee9871e9b948ed9691198f8e1 * 2 ^ 1792 +
  0x9e1dc186b95735610ef6034866b53e708a8bbd4b1f74dde8c6b4a61c2e2578ba * 2 ^ 1536 +
  0x08ae7a65eaf4566ca94ed58d6d37c8e779e4959162acd3c25c2406490a3a32e0 * 2 ^ 1280 +
  0xdb0b5ede14b8ee4688902a22dc4f816073195d643d7ea7c41744975fec130ccd * 2 ^ 1024 +
  0xd2f3ff1021dab6bcf5389d928f40a351a89f3c507f02f94585334d43fbaaefd0 * 2 ^ 768 +
  0xcf584c4a39becb6a5bb1fc20ed00d153842fe329b3d63b52a05a6e1b1a2c8309 * 2 ^ 512 +
  0x75b227ebe28012079a059618c323c7041531d871f1e5a534ccf73f362693fdb7 * 2 ^ 256 +
  0xc072a49cafa2d4adf04759fa7dc982ca76abd7fe2b670130c56f6bf27b777c63

/-- SubBytes of a byte. -/
def aesSub (b : Byte) : Byte := BitVec.ofNat 8 (aesTable >>> (8 * b.toNat))

/-- A byte times x in the field of AES. -/
def aesDouble (b : Byte) : Byte := (b <<< 1) ^^^ (if b.msb then 0x1B else 0)

/-- The round keys of a 32-byte key, as words of four bytes, the last first. -/
def aesKeyWords (key : Bytes) : List Bytes :=
  let k := sliceB key 0 32
  let first := ((List.range 8).map fun i => sliceB k (4 * i) 4).reverse
  ((List.range 52).foldl (fun (acc : List Bytes × Byte) j =>
    let i := j + 8
    let prev := acc.1.headD []
    let mixed := if i % 8 = 0 then List.zipWith (· ^^^ ·) ((prev.drop 1 ++ prev.take 1).map aesSub) [acc.2, 0, 0, 0]
                 else if i % 8 = 4 then prev.map aesSub else prev
    (List.zipWith (· ^^^ ·) (acc.1.getD 7 []) mixed :: acc.1, if i % 8 = 0 then aesDouble acc.2 else acc.2)) (first, 1)).1

/-- The sixteen bytes of each of the fifteen round keys. -/
def aesRoundKeys (key : Bytes) : List Bytes :=
  let w := (aesKeyWords key).reverse
  (List.range 15).map fun r => (List.range 4).flatMap fun c => w.getD (4 * r + c) []

/-- SubBytes and ShiftRows of a block. -/
def aesShift (b : Bytes) : Bytes := (List.range 16).map fun i => aesSub (b.getD ((i + 4 * (i % 4)) % 16) 0)

/-- MixColumns of a block. -/
def aesMix (b : Bytes) : Bytes :=
  (List.range 16).map fun i =>
    let at_ := fun (r : Nat) => b.getD (i / 4 * 4 + (i + r) % 4) 0
    aesDouble (at_ 0) ^^^ (aesDouble (at_ 1) ^^^ at_ 1) ^^^ at_ 2 ^^^ at_ 3

/-- A block encrypted under round keys. -/
def aesBlock (rks : List Bytes) (b : Bytes) : Bytes :=
  let add := fun (x : Bytes) (r : Nat) => List.zipWith (· ^^^ ·) x (rks.getD r [])
  let x := (List.range 13).foldl (fun x r => add (aesMix (aesShift x)) (r + 1)) (add b 0)
  add (aesShift x) 14

/-! ### GCM -/

/-- A product in the field of GHASH; bit 127 is the first bit of a block. -/
def ghashMul (x y : BitVec 128) : BitVec 128 :=
  ((List.range 128).foldl (fun (acc : BitVec 128 × BitVec 128) i =>
    (if x.getLsbD (127 - i) then acc.1 ^^^ acc.2 else acc.1,
     (acc.2 >>> 1) ^^^ (if acc.2.getLsbD 0 then BitVec.ofNat 128 (0xE1 * 2 ^ 120) else 0))) (0, y)).1

/-- A block as a number, its first byte highest. -/
def blockNat (bs : Bytes) : Nat := leNat bs.reverse

/-- GHASH of whole blocks. -/
def ghash (h : BitVec 128) (bs : Bytes) : BitVec 128 :=
  (List.range (bs.length / 16)).foldl (fun y k => ghashMul (y ^^^ BitVec.ofNat 128 (blockNat (sliceB bs (16 * k) 16))) h) 0

/-- Zeros up to a whole number of blocks. -/
def blockPad (bs : Bytes) : Bytes := bs ++ List.replicate ((16 - bs.length % 16) % 16) 0

/-- The counter block of a 96-bit nonce. -/
def gcmCounter (nonce k : Nat) : Bytes := leBytes 12 nonce ++ (leBytes 4 k).reverse

/-- Counter mode from counter 2 on. -/
def gcmStream (rks : List Bytes) (nonce : Nat) (bs : Bytes) : Bytes :=
  let pad := (List.range (ceilDiv bs.length 16)).flatMap fun k => aesBlock rks (gcmCounter nonce (k + 2))
  List.zipWith (· ^^^ ·) bs pad

/-- The tag of a ciphertext. -/
def gcmTag (rks : List Bytes) (nonce : Nat) (aad ct : Bytes) : Bytes :=
  let h := BitVec.ofNat 128 (blockNat (aesBlock rks (List.replicate 16 0)))
  let lens := (leBytes 8 (8 * aad.length)).reverse ++ (leBytes 8 (8 * ct.length)).reverse
  let s := ghash h (blockPad aad ++ blockPad ct ++ lens)
  List.zipWith (· ^^^ ·) (leBytes 16 s.toNat).reverse (aesBlock rks (gcmCounter nonce 1))

/-- AES-256-GCM: key, nonce (its first byte lowest), additional data, plaintext; the ciphertext and its 16-byte tag. -/
@[irreducible] def gcmSeal (key : Bytes) (nonce : Nat) (aad pt : Bytes) : Bytes :=
  let rks := aesRoundKeys key
  let ct := gcmStream rks nonce pt
  ct ++ gcmTag rks nonce aad ct

/-- AES-256-GCM opening of a ciphertext with its tag: none where the tag fails. -/
@[irreducible] def gcmOpen (key : Bytes) (nonce : Nat) (aad body : Bytes) : Option Bytes :=
  let rks := aesRoundKeys key
  let ct := body.take (body.length - 16)
  if body.length < 16 ∨ gcmTag rks nonce aad ct ≠ body.drop (body.length - 16) then none else some (gcmStream rks nonce ct)

/-- A wrapped key opened (R418, R490): decapsulation, kek from the secret, `aad` and a label, and AES-256-GCM with a nonce of zero bytes. -/
def unwrapKey (kemPrivate ct aad : Bytes) (label : String) (wrapped : Bytes) : Option Bytes :=
  gcmOpen ((sha3_512 (Config.decaps kemPrivate ct ++ aad ++ nameBytes label)).take 32) 0 aad wrapped

end Sys2Proof.Machine
end

