-- ==== Sys2Proof/Machine/Dict.lean ====
section
/-!
DEFINITION. The object dictionary's table of entries: for every entry its index, subindex, name, type, access code,
default and effect, as the object tables of the chapters give them, one table each (R507 to R518 for the map).
The value of an entry is held in State; this file says what the entry is.
-/

namespace Sys2Proof.Machine

/-- Entry types of Table 19-8 (R500); the number is the byte length. -/
inductive EType where
  | bool | u (n : Nat) | i (n : Nat) | f32 | octets (n : Nat) | str (n : Nat) | domain
deriving DecidableEq, Repr

/-- Byte length of a value of the type; a DOMAIN has none of its own. -/
def EType.bytes : EType → Nat
  | .bool => 1 | .u n => n | .i n => n | .f32 => 4 | .octets n => n | .str n => n | .domain => 0

/-- Type codes of Table 19-8. -/
def EType.code : EType → Nat
  | .bool => 1
  | .u n => if n = 1 then 2 else if n = 2 then 3 else if n = 4 then 4 else 5
  | .i n => if n = 4 then 6 else 7
  | .f32 => 8 | .octets _ => 9 | .str _ => 10 | .domain => 11

/-- Access codes of Table 0-6. -/
inductive Access where
  | ro | rw | wo | const | rws | w1c
deriving DecidableEq, Repr

/-- ACCESS of Table 19-7. -/
def Access.code : Access → Nat
  | .ro => 1 | .rw => 2 | .wo => 3 | .const => 4 | .rws => 5 | .w1c => 6

/-- Effect terms of Table 0-6. -/
inductive Effect where
  | immediate | nextRound | commitTick | reset
deriving DecidableEq, Repr

/-- EFFECT of Table 19-7. -/
def Effect.code : Effect → Nat
  | .immediate => 1 | .nextRound => 2 | .commitTick => 3 | .reset => 4

/-- One entry of the dictionary. `lo` and `hi` bound the values a write may carry (R494 status RANGE);
an entry whose table states no range takes every value of its type. -/
structure Entry where
  sub : Nat
  name : String
  ty : EType
  access : Access
  dflt : Nat
  eff : Effect
  lo : Nat
  hi : Nat
deriving DecidableEq, Repr

/-- The key of `index:sub`: a dictionary value is kept under this number. -/
abbrev dkey (index sub : Nat) : Nat := index * 256 + sub

/-- Entries of `0x1000` (chapter 20). -/
def obj1000 : List Entry := [
  ⟨0x01, "DEVICE_TYPE", .u 4, .const, 0x00013C02, .reset, 0, 4294967295⟩]

/-- Entries of `0x1008` (chapter 20). -/
def obj1008 : List Entry := [
  ⟨0x01, "WINDOW_A", .u 8, .rw, 0, .immediate, 0, 18446744073709551615⟩,
  ⟨0x02, "WINDOW_B", .u 8, .rw, 0, .immediate, 0, 18446744073709551615⟩,
  ⟨0x03, "WINDOW_F0", .u 8, .rw, 0, .immediate, 0, 18446744073709551615⟩]

/-- Entries of `0x1018` (chapter 20). -/
def obj1018 : List Entry := [
  ⟨0x01, "IDENTITY", .octets 32, .const, 0, .reset, 0, 256 ^ 32 - 1⟩,
  ⟨0x02, "STACK_IDS", .octets 128, .const, 0, .reset, 0, 256 ^ 128 - 1⟩,
  ⟨0x03, "PART_NUMBER", .str 16, .const, 0, .reset, 0, 256 ^ 16 - 1⟩]

/-- Entries of `0x1020` (chapter 20). -/
def obj1020 : List Entry := [
  ⟨0x01, "CAP_UNITS", .u 4, .const, 511, .reset, 0, 4294967295⟩,
  ⟨0x02, "REGIONS", .u 1, .const, 16, .reset, 0, 255⟩,
  ⟨0x03, "STACKS", .u 1, .const, 16, .reset, 0, 255⟩,
  ⟨0x04, "CHANNELS", .u 2, .const, 512, .reset, 0, 65535⟩,
  ⟨0x05, "LINK_PORTS", .u 1, .const, 48, .reset, 0, 255⟩,
  ⟨0x06, "SESSIONS", .u 2, .const, 3072, .reset, 0, 65535⟩,
  ⟨0x07, "SEQUENCES", .u 4, .const, 1048576, .reset, 0, 4294967295⟩,
  ⟨0x08, "POOL_CELLS", .u 4, .const, 196608, .reset, 0, 4294967295⟩,
  ⟨0x09, "SLICES", .u 1, .const, 64, .reset, 0, 255⟩,
  ⟨0x0A, "T1_SLOTS", .u 4, .const, 62914560, .reset, 0, 4294967295⟩,
  ⟨0x0B, "SLOW_MAX", .u 8, .const, 17592186044416, .reset, 0, 18446744073709551615⟩,
  ⟨0x0C, "HOST_LANES", .u 1, .const, 16, .reset, 0, 255⟩]

/-- Entries of `0x1030` (chapter 20). -/
def obj1030 : List Entry := [
  ⟨0x01, "NODE_STATE", .u 1, .ro, 1, .immediate, 0, 255⟩,
  ⟨0x02, "STATE_TICK", .u 8, .ro, 0, .immediate, 0, 18446744073709551615⟩,
  ⟨0x03, "STATE_CAUSE", .u 1, .ro, 0, .immediate, 0, 255⟩,
  ⟨0x04, "STATE_REQ", .u 1, .wo, 0, .immediate, 0, 255⟩,
  ⟨0x05, "REQ_REFUSED", .u 4, .ro, 0, .immediate, 0, 4294967295⟩]

/-- Entries of `0x1100` (chapter 2). -/
def obj1100 : List Entry := [
  ⟨0x01, "TICK_NOW", .u 8, .ro, 0, .immediate, 0, 18446744073709551615⟩,
  ⟨0x02, "TIME_SOURCE", .u 1, .ro, 0, .immediate, 0, 255⟩,
  ⟨0x03, "TIME_STATUS", .u 4, .ro, 0, .immediate, 0, 4294967295⟩,
  ⟨0x04, "TICK_PRIMARY", .u 1, .rw, 1, .immediate, 1, 2⟩,
  ⟨0x05, "HOLDOVER_TICKS", .u 4, .ro, 0, .immediate, 0, 4294967295⟩,
  ⟨0x06, "HOLDOVER_LIMIT", .u 4, .rw, 100000, .nextRound, 1000, 100000⟩,
  ⟨0x07, "TIME_EVENTS", .u 4, .w1c, 0, .immediate, 0, 4294967295⟩,
  ⟨0x08, "SWITCH_COUNT", .u 4, .ro, 0, .immediate, 0, 4294967295⟩,
  ⟨0x09, "SKEW_AB", .i 4, .ro, 0, .immediate, 0, 4294967295⟩]

/-- Entries of `0x1110` (chapter 2). -/
def obj1110 : List Entry := [
  ⟨0x01, "LAST_ID", .u 4, .ro, 0, .commitTick, 0, 4294967295⟩,
  ⟨0x02, "ROUND_LEN", .u 2, .ro, 2000, .commitTick, 0, 65535⟩,
  ⟨0x03, "ROUND_BASE", .u 8, .ro, 0, .commitTick, 0, 18446744073709551615⟩,
  ⟨0x04, "ROUND_NUMBER", .u 8, .ro, 0, .immediate, 0, 18446744073709551615⟩,
  ⟨0x05, "LAST_STAGED", .domain, .rws, 0, .commitTick, 0, 0⟩,
  ⟨0x06, "LAST_ACTIVE", .domain, .ro, 0, .commitTick, 0, 0⟩,
  ⟨0x07, "LAST_LOAD_STATUS", .u 2, .ro, 0, .immediate, 0, 65535⟩]

/-- Entries of `0x1120` (chapter 2). -/
def obj1120 : List Entry := [
  ⟨0x01, "COMMIT_TICK", .u 8, .rw, 0, .immediate, 0, 18446744073709551615⟩,
  ⟨0x02, "COMMIT_CTRL", .u 1, .wo, 0, .immediate, 0, 255⟩,
  ⟨0x03, "COMMIT_STATE", .u 1, .ro, 0, .immediate, 0, 255⟩,
  ⟨0x04, "ARM_RESULT", .u 4, .ro, 0, .immediate, 0, 4294967295⟩,
  ⟨0x05, "CONFIG_GEN", .u 4, .ro, 0, .commitTick, 0, 4294967295⟩,
  ⟨0x06, "ARM_LEAD", .u 4, .rw, 1000, .immediate, 250, 1000000⟩,
  ⟨0x07, "DISARM_GUARD", .u 2, .rw, 64, .immediate, 16, 4096⟩,
  ⟨0x08, "LAST_COMMIT_TICK", .u 8, .ro, 0, .commitTick, 0, 18446744073709551615⟩,
  ⟨0x09, "GEN_TARGET", .u 4, .rw, 0, .commitTick, 0, 4294967295⟩]

/-- Entries of `0x1200` (chapter 19). -/
def obj1200 : List Entry := [
  ⟨0x01, "RING_STATIONS_MAX", .u 1, .const, 128, .reset, 0, 255⟩,
  ⟨0x02, "HOP_US", .u 1, .const, 16, .reset, 0, 255⟩,
  ⟨0x03, "VOXLEY_VERSION", .u 1, .const, 1, .reset, 0, 255⟩,
  ⟨0x04, "PAYLOAD_MAX", .u 2, .const, 1440, .reset, 0, 65535⟩,
  ⟨0x05, "RING_MAC_A", .octets 6, .rw, 0, .immediate, 0, 281474976710655⟩,
  ⟨0x06, "RING_MAC_B", .octets 6, .rw, 0, .immediate, 0, 281474976710655⟩,
  ⟨0x07, "BEACON_TICKS", .u 2, .rw, 1000, .nextRound, 100, 65535⟩,
  ⟨0x08, "DEDUP_TICKS", .u 4, .const, 1000000, .reset, 0, 4294967295⟩,
  ⟨0x09, "BLOCK_TIMEOUT", .u 4, .rw, 100000, .nextRound, 1000, 10000000⟩]

/-- Entries of `0x1201` (chapter 19). -/
def obj1201 : List Entry := [
  ⟨0x01, "RING_STATE", .octets 2, .ro, 514, .immediate, 0, 65535⟩,
  ⟨0x02, "EYELET_STATE", .u 1, .ro, 0, .immediate, 0, 255⟩,
  ⟨0x03, "EVENT_SEQ", .u 4, .ro, 0, .immediate, 0, 4294967295⟩,
  ⟨0x04, "AUTH_STATE", .u 1, .ro, 0, .immediate, 0, 255⟩,
  ⟨0x05, "UNLOCK_NONCE", .octets 32, .ro, 0, .immediate, 0, 256 ^ 32 - 1⟩,
  ⟨0x06, "SLICE_STATES", .octets 64, .ro, 0, .immediate, 0, 256 ^ 64 - 1⟩,
  ⟨0x07, "FRAMES_REFUSED", .u 8, .ro, 0, .immediate, 0, 18446744073709551615⟩,
  ⟨0x08, "DUPLICATES", .u 8, .ro, 0, .immediate, 0, 18446744073709551615⟩,
  ⟨0x09, "RING_KEY_ID", .u 2, .ro, 0, .immediate, 0, 65535⟩]

/-- Entries of `0x1204` (chapter 19). -/
def obj1204 : List Entry := [
  ⟨0x01, "RING_KEY_INSTALL", .domain, .wo, 0, .immediate, 0, 0⟩,
  ⟨0x02, "F0_UNLOCK", .domain, .wo, 0, .immediate, 0, 0⟩,
  ⟨0x03, "F0_LOCK", .u 1, .wo, 0, .immediate, 0, 255⟩,
  ⟨0x04, "AUTH_RESULT", .u 1, .ro, 0, .immediate, 0, 255⟩,
  ⟨0x05, "EYELET_HOLD", .u 1, .rw, 0, .immediate, 0, 255⟩]

/-- Entries of `0x1208` (chapter 19). -/
def obj1208 : List Entry := [
  ⟨0x01, "EVENT_LOG", .domain, .ro, 0, .immediate, 0, 0⟩,
  ⟨0x02, "RING_PORT_STATS", .domain, .ro, 0, .immediate, 0, 0⟩]

/-- Entries of `0x1210` (chapter 21). -/
def obj1210 : List Entry := [
  ⟨0x01, "VF_MAX", .u 1, .const, 64, .reset, 0, 255⟩,
  ⟨0x02, "HOST_LINK", .octets 2, .ro, 0, .immediate, 0, 65535⟩,
  ⟨0x03, "IDE_STREAMS", .u 1, .ro, 0, .immediate, 0, 255⟩]

/-- Entries of `0x1211` (chapter 21). -/
def obj1211 : List Entry := [
  ⟨0x01, "ENTRIES_FETCHED", .u 8, .ro, 0, .immediate, 0, 18446744073709551615⟩,
  ⟨0x02, "HOST_REPLIES_LOST", .u 8, .ro, 0, .immediate, 0, 18446744073709551615⟩,
  ⟨0x03, "DMA_DESCRIPTORS", .u 8, .ro, 0, .immediate, 0, 18446744073709551615⟩,
  ⟨0x04, "REGISTER_DROPS", .u 8, .ro, 0, .immediate, 0, 18446744073709551615⟩]

/-- Entries of `0x1220` (chapter 21). -/
def obj1220 : List Entry := [
  ⟨0x01, "SLOW_PORT_CAP", .octets 16, .ro, 0, .immediate, 0, 256 ^ 16 - 1⟩,
  ⟨0x02, "SLOW_PORT_STATE", .octets 2, .ro, 0, .immediate, 0, 65535⟩,
  ⟨0x03, "CXL_IDE_EN", .bool, .rws, 0, .commitTick, 0, 1⟩,
  ⟨0x04, "RESCAN", .u 1, .wo, 0, .immediate, 0, 255⟩]

/-- Entries of `0x1221` (chapter 21). -/
def obj1221 : List Entry := [
  ⟨0x01, "CXL_POISON", .u 8, .ro, 0, .immediate, 0, 18446744073709551615⟩,
  ⟨0x02, "CXL_TIMEOUTS", .u 8, .ro, 0, .immediate, 0, 18446744073709551615⟩,
  ⟨0x03, "CXL_CORRECTED", .u 8, .ro, 0, .immediate, 0, 18446744073709551615⟩]

/-- Entries of `0x1228` (chapter 21). -/
def obj1228 : List Entry := [
  ⟨0x01, "SLOW_DEVICES", .domain, .ro, 0, .immediate, 0, 0⟩]

/-- Entries of `0x2000` (chapter 3). -/
def obj2000 : List Entry := [
  ⟨0x01, "ITEM_PAGES", .u 1, .rws, 12, .commitTick, 1, 64⟩,
  ⟨0x02, "DEADLINE_MARGIN", .u 1, .rws, 2, .commitTick, 2, 64⟩,
  ⟨0x03, "DEADLINE_MAX", .u 4, .rw, 10000000, .nextRound, 1000, 100000000⟩,
  ⟨0x04, "POOL_SIZE", .u 2, .const, 16384, .reset, 0, 65535⟩,
  ⟨0x05, "EXAMINE_RATE", .u 2, .const, 512, .reset, 0, 65535⟩,
  ⟨0x06, "C_FIX", .u 4, .const, 3000, .reset, 0, 4294967295⟩,
  ⟨0x07, "C_DEC", .u 2, .const, 160, .reset, 0, 65535⟩,
  ⟨0x08, "C_RAW", .u 2, .const, 128, .reset, 0, 65535⟩,
  ⟨0x09, "REF_SPAN", .u 1, .const, 36, .reset, 0, 255⟩,
  ⟨0x0A, "REF_STALL", .u 1, .const, 1, .reset, 0, 255⟩,
  ⟨0x0B, "C_RED_FIX", .u 4, .const, 4000, .reset, 0, 4294967295⟩,
  ⟨0x0C, "C_RED_ITEM", .u 2, .const, 96, .reset, 0, 65535⟩,
  ⟨0x0D, "MESH_TICKS", .u 1, .const, 1, .reset, 0, 255⟩,
  ⟨0x0E, "SEND_BYTES", .u 4, .const, 96000, .reset, 0, 4294967295⟩,
  ⟨0x0F, "POOL_DEPTH", .u 2, .ro, 0, .immediate, 0, 65535⟩,
  ⟨0x10, "ADMITTED", .u 8, .ro, 0, .immediate, 0, 18446744073709551615⟩,
  ⟨0x11, "REFUSED", .u 8, .ro, 0, .immediate, 0, 18446744073709551615⟩,
  ⟨0x12, "LATE_NOTICES", .u 8, .ro, 0, .immediate, 0, 18446744073709551615⟩,
  ⟨0x13, "LATE_DELIVERIES", .u 8, .ro, 0, .immediate, 0, 18446744073709551615⟩,
  ⟨0x14, "SESSION_TABLE", .domain, .ro, 0, .immediate, 0, 0⟩,
  ⟨0x15, "NOTICE_SLOTS", .u 1, .const, 8, .reset, 0, 255⟩]

/-- Entries of `0x2100` (chapter 4). -/
def obj2100 : List Entry := [
  ⟨0x01, "SEQ_MAX", .u 4, .const, 1048576, .reset, 0, 4294967295⟩,
  ⟨0x02, "PAGE_SLOTS", .u 4, .const, 62914560, .reset, 0, 4294967295⟩,
  ⟨0x03, "PAGE_DESC_MAX", .u 4, .const, 1140850688, .reset, 0, 4294967295⟩,
  ⟨0x04, "TRACKS_MAX", .u 2, .const, 1024, .reset, 0, 65535⟩,
  ⟨0x05, "SPAN_LIMIT_MAX", .u 4, .const, 16777216, .reset, 0, 4294967295⟩,
  ⟨0x06, "ROUND_SEQ_MAX", .u 2, .const, 4096, .reset, 0, 65535⟩,
  ⟨0x07, "FORK_CYCLES", .u 4, .const, 2400, .reset, 0, 4294967295⟩]

/-- Entries of `0x2101` (chapter 4). -/
def obj2101 : List Entry := [
  ⟨0x01, "SEQ_ACTIVE", .u 4, .ro, 0, .immediate, 0, 4294967295⟩,
  ⟨0x02, "TRACKS_NO_SPARE", .u 4, .ro, 0, .immediate, 0, 4294967295⟩,
  ⟨0x03, "PAGE_STATE_COUNTS", .domain, .ro, 0, .immediate, 0, 0⟩,
  ⟨0x04, "SEALS", .u 8, .ro, 0, .immediate, 0, 18446744073709551615⟩,
  ⟨0x05, "FORKS", .u 8, .ro, 0, .immediate, 0, 18446744073709551615⟩,
  ⟨0x06, "NO_PAGE_REFUSALS", .u 8, .ro, 0, .immediate, 0, 18446744073709551615⟩,
  ⟨0x07, "SPILL_CANCELS", .u 8, .ro, 0, .immediate, 0, 18446744073709551615⟩]

/-- Entries of `0x2104` (chapter 4). -/
def obj2104 : List Entry := [
  ⟨0x01, "REFILL_BOUND", .u 1, .const, 5, .reset, 0, 255⟩,
  ⟨0x02, "SPARE_POLICY", .u 1, .rws, 0, .commitTick, 0, 1⟩]

/-- Entries of `0x2108` (chapter 4). -/
def obj2108 : List Entry := [
  ⟨0x01, "SEQ_TABLE", .domain, .ro, 0, .immediate, 0, 0⟩,
  ⟨0x02, "TRACK_DIRS", .domain, .ro, 0, .immediate, 0, 0⟩,
  ⟨0x03, "PAGE_TABLE", .domain, .ro, 0, .immediate, 0, 0⟩,
  ⟨0x04, "PAGE_DESCS", .domain, .ro, 0, .immediate, 0, 0⟩]

/-- Entries of `0x2200` (chapter 5). -/
def obj2200 : List Entry := [
  ⟨0x01, "DOMAIN_MAX", .u 2, .const, 4096, .reset, 0, 65535⟩,
  ⟨0x02, "NODE_MAX", .u 4, .const, 16777216, .reset, 0, 4294967295⟩,
  ⟨0x03, "PREFIX_TOKENS_MAX", .u 4, .const, 65520, .reset, 0, 4294967295⟩,
  ⟨0x04, "PUBLISH_SEQ_MAX", .u 2, .const, 4096, .reset, 0, 65535⟩,
  ⟨0x05, "HASH_RATE", .u 1, .const, 64, .reset, 0, 255⟩,
  ⟨0x06, "COW_TICKS", .u 1, .const, 6, .reset, 0, 255⟩,
  ⟨0x07, "ATTACH_TICK_MAX", .u 4, .const, 4194304, .reset, 0, 4294967295⟩]

/-- Entries of `0x2201` (chapter 5). -/
def obj2201 : List Entry := [
  ⟨0x01, "DOMAINS_ACTIVE", .u 2, .ro, 0, .immediate, 0, 65535⟩,
  ⟨0x02, "NODES_LIVE", .u 4, .ro, 0, .immediate, 0, 4294967295⟩,
  ⟨0x03, "LOOKUPS", .u 8, .ro, 0, .immediate, 0, 18446744073709551615⟩,
  ⟨0x04, "PAGES_ATTACHED", .u 8, .ro, 0, .immediate, 0, 18446744073709551615⟩,
  ⟨0x05, "PUBLISHED", .u 8, .ro, 0, .immediate, 0, 18446744073709551615⟩,
  ⟨0x06, "PUBLISH_DUPLICATES", .u 8, .ro, 0, .immediate, 0, 18446744073709551615⟩,
  ⟨0x07, "HASH_COLLISIONS", .u 8, .ro, 0, .immediate, 0, 18446744073709551615⟩,
  ⟨0x08, "COW_COPIES", .u 8, .ro, 0, .immediate, 0, 18446744073709551615⟩,
  ⟨0x09, "RECLAIMED", .u 8, .ro, 0, .immediate, 0, 18446744073709551615⟩,
  ⟨0x0A, "NODES_REMOVED", .u 8, .ro, 0, .immediate, 0, 18446744073709551615⟩]

/-- Entries of `0x2204` (chapter 5). -/
def obj2204 : List Entry := [
  ⟨0x01, "DOMAIN_CMD", .octets 16, .wo, 0, .immediate, 0, 256 ^ 16 - 1⟩,
  ⟨0x02, "DOMAIN_RESULT", .u 1, .ro, 0, .immediate, 0, 255⟩]

/-- Entries of `0x2208` (chapter 5). -/
def obj2208 : List Entry := [
  ⟨0x01, "DOMAINS", .domain, .ro, 0, .immediate, 0, 0⟩,
  ⟨0x02, "PREFIX_NODES", .domain, .ro, 0, .immediate, 0, 0⟩,
  ⟨0x03, "PAGE_SETS", .domain, .ro, 0, .immediate, 0, 0⟩]

/-- Entries of `0x2300` (chapter 6). -/
def obj2300 : List Entry := [
  ⟨0x01, "MODEL_MAX", .u 2, .const, 256, .reset, 0, 65535⟩,
  ⟨0x02, "WEIGHT_DESC_MAX", .u 4, .const, 65536, .reset, 0, 4294967295⟩,
  ⟨0x03, "ROWS_MAX", .u 1, .const, 16, .reset, 0, 255⟩,
  ⟨0x04, "ABSORB_CYCLES_MAX", .u 2, .const, 2048, .reset, 0, 65535⟩,
  ⟨0x05, "ROW_ACC_MAX", .u 2, .const, 4096, .reset, 0, 65535⟩,
  ⟨0x06, "STAGING_POOL", .u 4, .const, 6291456, .reset, 0, 4294967295⟩,
  ⟨0x07, "PAGE_FIX_FLOOR", .u 4, .const, 1200, .reset, 0, 4294967295⟩]

/-- Entries of `0x2301` (chapter 6). -/
def obj2301 : List Entry := [
  ⟨0x01, "ITEMS_RUN", .u 8, .ro, 0, .immediate, 0, 18446744073709551615⟩,
  ⟨0x02, "KEYS_SCORED", .u 8, .ro, 0, .immediate, 0, 18446744073709551615⟩,
  ⟨0x03, "ENTRIES_EMPTY", .u 8, .ro, 0, .immediate, 0, 18446744073709551615⟩,
  ⟨0x04, "ENTRIES_NONFINITE", .u 8, .ro, 0, .immediate, 0, 18446744073709551615⟩,
  ⟨0x05, "STAGING_SHORT", .u 8, .ro, 0, .immediate, 0, 18446744073709551615⟩,
  ⟨0x06, "BOOKED_WAITS", .u 8, .ro, 0, .immediate, 0, 18446744073709551615⟩]

/-- Entries of `0x2304` (chapter 6). -/
def obj2304 : List Entry := [
  ⟨0x01, "MODEL_DEF", .octets 64, .wo, 0, .immediate, 0, 256 ^ 64 - 1⟩,
  ⟨0x02, "MODEL_RETIRE", .u 2, .wo, 0, .immediate, 0, 65535⟩,
  ⟨0x03, "MODEL_RESULT", .u 1, .ro, 0, .immediate, 0, 255⟩]

/-- Entries of `0x2308` (chapter 6). -/
def obj2308 : List Entry := [
  ⟨0x01, "MODEL_TABLE", .domain, .ro, 0, .immediate, 0, 0⟩,
  ⟨0x02, "WEIGHT_DESCS", .domain, .ro, 0, .immediate, 0, 0⟩]

/-- Entries of `0x2310` (chapter 8). -/
def obj2310 : List Entry := [
  ⟨0x01, "GRAD_MAP_MAX", .u 4, .const, 16777216, .reset, 0, 4294967295⟩,
  ⟨0x02, "C_AXPY", .u 4, .const, 5100, .reset, 0, 4294967295⟩,
  ⟨0x03, "BWD_OUT_RH", .u 4, .const, 1600, .reset, 0, 4294967295⟩,
  ⟨0x04, "GRAD_ZERO_TICKS", .u 1, .const, 6, .reset, 0, 255⟩,
  ⟨0x05, "FETCH_SLOT", .u 4, .const, 200, .reset, 0, 4294967295⟩]

/-- Entries of `0x2311` (chapter 8). -/
def obj2311 : List Entry := [
  ⟨0x01, "BWD_ADMITTED", .u 8, .ro, 0, .immediate, 0, 18446744073709551615⟩,
  ⟨0x02, "GRAD_SLOTS_HELD", .u 4, .ro, 0, .immediate, 0, 4294967295⟩,
  ⟨0x03, "GRAD_WAITS", .u 8, .ro, 0, .immediate, 0, 18446744073709551615⟩,
  ⟨0x04, "BWD_NONFINITE", .u 8, .ro, 0, .immediate, 0, 18446744073709551615⟩,
  ⟨0x05, "GRAD_PARTIALS", .u 8, .ro, 0, .immediate, 0, 18446744073709551615⟩]

/-- Entries of `0x2318` (chapter 8). -/
def obj2318 : List Entry := [
  ⟨0x01, "GRAD_MAP", .domain, .ro, 0, .immediate, 0, 0⟩]

/-- Entries of `0x2400` (chapter 7). -/
def obj2400 : List Entry := [
  ⟨0x01, "THREADS_PER_CELL", .u 1, .const, 16, .reset, 0, 255⟩,
  ⟨0x02, "TILE_REGS", .u 1, .const, 16, .reset, 0, 255⟩,
  ⟨0x03, "PROG_SLOTS", .u 1, .const, 32, .reset, 0, 255⟩,
  ⟨0x04, "PROG_CODE_MAX", .u 4, .const, 16384, .reset, 0, 4294967295⟩,
  ⟨0x05, "PROG_AREA", .u 4, .const, 98304, .reset, 0, 4294967295⟩,
  ⟨0x06, "SCRATCH_WINDOW", .u 2, .const, 8192, .reset, 0, 65535⟩]

/-- Entries of `0x2401` (chapter 7). -/
def obj2401 : List Entry := [
  ⟨0x01, "ITEMS_STARTED", .u 8, .ro, 0, .immediate, 0, 18446744073709551615⟩,
  ⟨0x02, "BUDGET_TRAPS", .u 8, .ro, 0, .immediate, 0, 18446744073709551615⟩,
  ⟨0x03, "PROG_FAULTS", .u 8, .ro, 0, .immediate, 0, 18446744073709551615⟩,
  ⟨0x04, "REMOTE_ACCESSES", .u 8, .ro, 0, .immediate, 0, 18446744073709551615⟩,
  ⟨0x05, "BUILTIN_OVERRUNS", .u 4, .ro, 0, .immediate, 0, 4294967295⟩]

/-- Entries of `0x2404` (chapter 7). -/
def obj2404 : List Entry := [
  ⟨0x01, "PROG_LOAD", .domain, .wo, 0, .immediate, 0, 0⟩,
  ⟨0x02, "PROG_UNLOAD", .u 1, .wo, 0, .immediate, 0, 255⟩,
  ⟨0x03, "PROG_RESULT", .u 1, .ro, 0, .immediate, 0, 255⟩]

/-- Entries of `0x2408` (chapter 7). -/
def obj2408 : List Entry := [
  ⟨0x01, "PROG_TABLE", .domain, .ro, 0, .immediate, 0, 0⟩,
  ⟨0x02, "BUILTIN_TABLE", .domain, .ro, 0, .reset, 0, 0⟩]

/-- Entries of `0x2500` (chapter 9). -/
def obj2500 : List Entry := [
  ⟨0x01, "PACKERS", .u 1, .const, 8, .reset, 0, 255⟩,
  ⟨0x02, "PACK_TICKS", .u 1, .const, 8, .reset, 0, 255⟩,
  ⟨0x03, "PACK_MODE", .u 1, .rws, 1, .commitTick, 0, 1⟩,
  ⟨0x04, "DECODERS", .u 1, .const, 16, .reset, 0, 255⟩,
  ⟨0x05, "FACET_CYCLES", .u 1, .const, 40, .reset, 0, 255⟩,
  ⟨0x06, "BLOCK_FORMAT", .u 1, .const, 1, .reset, 0, 255⟩]

/-- Entries of `0x2501` (chapter 9). -/
def obj2501 : List Entry := [
  ⟨0x01, "PACK_QUEUE", .u 4, .ro, 0, .immediate, 0, 4294967295⟩,
  ⟨0x02, "PAGES_PACKED", .u 8, .ro, 0, .immediate, 0, 18446744073709551615⟩,
  ⟨0x03, "BLOCKS_ZERO", .u 8, .ro, 0, .immediate, 0, 18446744073709551615⟩,
  ⟨0x04, "BLOCKS_PACKED", .u 8, .ro, 0, .immediate, 0, 18446744073709551615⟩,
  ⟨0x05, "BLOCKS_RAW", .u 8, .ro, 0, .immediate, 0, 18446744073709551615⟩,
  ⟨0x06, "VERIFY_FALLBACKS", .u 8, .ro, 0, .immediate, 0, 18446744073709551615⟩,
  ⟨0x07, "GRANULES_WRITTEN", .u 8, .ro, 0, .immediate, 0, 18446744073709551615⟩,
  ⟨0x08, "FACETS_REEXPANDED", .u 8, .ro, 0, .immediate, 0, 18446744073709551615⟩,
  ⟨0x09, "CODEC_FAULTS", .u 8, .ro, 0, .immediate, 0, 18446744073709551615⟩,
  ⟨0x0A, "LAST_FAULT", .octets 16, .ro, 0, .immediate, 0, 256 ^ 16 - 1⟩,
  ⟨0x0B, "PACK_STOPS", .u 8, .ro, 0, .immediate, 0, 18446744073709551615⟩]

/-- Entries of `0x2600` (chapter 10). -/
def obj2600 : List Entry := [
  ⟨0x01, "STACKS", .u 1, .const, 16, .reset, 0, 255⟩,
  ⟨0x02, "CHANNELS_PER_STACK", .u 1, .const, 32, .reset, 0, 255⟩,
  ⟨0x03, "UNITS_PER_CHANNEL", .u 1, .const, 8, .reset, 0, 255⟩,
  ⟨0x04, "REF_TICKS", .u 1, .const, 4, .reset, 0, 255⟩,
  ⟨0x05, "REF_POSTPONE", .u 1, .const, 8, .reset, 0, 255⟩,
  ⟨0x06, "REF_BURST_NS", .u 2, .const, 720, .reset, 0, 65535⟩,
  ⟨0x07, "STROKE_LINES", .u 1, .const, 64, .reset, 0, 255⟩,
  ⟨0x08, "STROKE_NS", .u 2, .const, 900, .reset, 0, 65535⟩,
  ⟨0x09, "DEFER_NS", .u 1, .const, 40, .reset, 0, 255⟩,
  ⟨0x0A, "CHANNEL_ZERO_US", .u 1, .const, 98, .reset, 0, 255⟩,
  ⟨0x0B, "SPARE_ROWS", .u 1, .const, 32, .reset, 0, 255⟩,
  ⟨0x0C, "QUEUE_DEPTH", .u 1, .const, 64, .reset, 0, 255⟩]

/-- Entries of `0x2601` (chapter 10). -/
def obj2601 : List Entry := [
  ⟨0x01, "CE_COUNT", .u 8, .ro, 0, .immediate, 0, 18446744073709551615⟩,
  ⟨0x02, "UE_COUNT", .u 8, .ro, 0, .immediate, 0, 18446744073709551615⟩,
  ⟨0x03, "MISDIRECTED", .u 8, .ro, 0, .immediate, 0, 18446744073709551615⟩,
  ⟨0x04, "DOMAIN_FAULTS", .u 8, .ro, 0, .immediate, 0, 18446744073709551615⟩,
  ⟨0x05, "POISON_READS", .u 8, .ro, 0, .immediate, 0, 18446744073709551615⟩,
  ⟨0x06, "COMMANDS", .u 8, .ro, 0, .immediate, 0, 18446744073709551615⟩,
  ⟨0x07, "STROKES_SHORTENED", .u 8, .ro, 0, .immediate, 0, 18446744073709551615⟩,
  ⟨0x08, "ROWS_REPAIRED", .u 4, .ro, 0, .immediate, 0, 4294967295⟩,
  ⟨0x09, "BURSTS", .u 8, .ro, 0, .immediate, 0, 18446744073709551615⟩,
  ⟨0x0A, "LAST_ERROR", .octets 16, .ro, 0, .immediate, 0, 256 ^ 16 - 1⟩]

/-- Entries of `0x2608` (chapter 10). -/
def obj2608 : List Entry := [
  ⟨0x01, "STACK_STATUS", .domain, .ro, 0, .immediate, 0, 0⟩,
  ⟨0x02, "REPAIR_MAP", .domain, .ro, 0, .immediate, 0, 0⟩]

/-- Entries of `0x2700` (chapter 11). -/
def obj2700 : List Entry := [
  ⟨0x01, "SLOW_SLOT_COUNT", .u 4, .ro, 0, .immediate, 0, 4294967295⟩,
  ⟨0x02, "READ_SLOTS_TICK", .u 1, .ro, 6, .reset, 0, 255⟩,
  ⟨0x03, "WRITE_SLOTS_TICK", .u 1, .ro, 6, .reset, 0, 255⟩,
  ⟨0x04, "PF_LAT", .u 1, .const, 4, .reset, 0, 255⟩,
  ⟨0x05, "PF_QUEUE_MAX", .u 4, .const, 65536, .reset, 0, 4294967295⟩,
  ⟨0x06, "WEIGHT_HOLD", .u 2, .rws, 200, .commitTick, 50, 10000⟩,
  ⟨0x07, "REFETCH_TIMEOUT", .u 2, .rw, 40, .nextRound, 8, 1000⟩,
  ⟨0x08, "WL_SLOT_CYCLES", .u 4, .const, 400, .reset, 0, 4294967295⟩,
  ⟨0x09, "SLOW_CAPACITY", .u 8, .ro, 0, .immediate, 0, 18446744073709551615⟩,
  ⟨0x0A, "WEIGHT_TILES_MAX", .u 4, .const, 4194304, .reset, 0, 4294967295⟩]

/-- Entries of `0x2701` (chapter 11). -/
def obj2701 : List Entry := [
  ⟨0x01, "SPILLS", .u 8, .ro, 0, .immediate, 0, 18446744073709551615⟩,
  ⟨0x02, "SPILLS_CLEAN", .u 8, .ro, 0, .immediate, 0, 18446744073709551615⟩,
  ⟨0x03, "PREFETCHES", .u 8, .ro, 0, .immediate, 0, 18446744073709551615⟩,
  ⟨0x04, "PREFETCHES_BG", .u 8, .ro, 0, .immediate, 0, 18446744073709551615⟩,
  ⟨0x05, "PF_DROPPED", .u 8, .ro, 0, .immediate, 0, 18446744073709551615⟩,
  ⟨0x06, "SLOW_READ_FAULTS", .u 8, .ro, 0, .immediate, 0, 18446744073709551615⟩,
  ⟨0x07, "SLOW_COPIES_DROPPED", .u 8, .ro, 0, .immediate, 0, 18446744073709551615⟩,
  ⟨0x08, "WEIGHT_HOLDS", .u 8, .ro, 0, .immediate, 0, 18446744073709551615⟩,
  ⟨0x09, "WEIGHT_REFETCHES", .u 8, .ro, 0, .immediate, 0, 18446744073709551615⟩,
  ⟨0x0A, "WEIGHT_LOSSES", .u 8, .ro, 0, .immediate, 0, 18446744073709551615⟩]

/-- Entries of `0x2704` (chapter 11). -/
def obj2704 : List Entry := [
  ⟨0x01, "QUOTA_SET", .octets 16, .rws, 0, .commitTick, 0, 256 ^ 16 - 1⟩,
  ⟨0x02, "QUOTA_RESULT", .u 1, .ro, 0, .immediate, 0, 255⟩]

/-- Entries of `0x2708` (chapter 11). -/
def obj2708 : List Entry := [
  ⟨0x01, "QUOTAS", .domain, .ro, 0, .immediate, 0, 0⟩,
  ⟨0x02, "WEIGHT_RES", .domain, .ro, 0, .immediate, 0, 0⟩]

/-- Entries of `0x2800` (chapter 12). -/
def obj2800 : List Entry := [
  ⟨0x01, "INDEX_MAX", .u 2, .const, 256, .reset, 0, 65535⟩,
  ⟨0x02, "CENTROID_MAX", .u 4, .const, 65536, .reset, 0, 4294967295⟩,
  ⟨0x03, "NPROBE_MAX", .u 2, .const, 512, .reset, 0, 65535⟩,
  ⟨0x04, "K_MAX", .u 2, .const, 1024, .reset, 0, 65535⟩,
  ⟨0x05, "DIM_MAX", .u 2, .const, 4096, .reset, 0, 65535⟩,
  ⟨0x06, "SIDE_LIMIT", .u 4, .const, 1048576, .reset, 0, 4294967295⟩,
  ⟨0x07, "CENT_ITEM", .u 2, .const, 2048, .reset, 0, 65535⟩,
  ⟨0x08, "LIST_ITEM", .u 2, .const, 4096, .reset, 0, 65535⟩,
  ⟨0x09, "CENT_FIX", .u 1, .const, 4, .reset, 0, 255⟩,
  ⟨0x0A, "VEC_FIX", .u 1, .const, 8, .reset, 0, 255⟩,
  ⟨0x0B, "MERGE_ENT", .u 1, .const, 2, .reset, 0, 255⟩,
  ⟨0x0C, "INS_CYC", .u 4, .const, 600, .reset, 0, 4294967295⟩,
  ⟨0x0D, "DEL_CYC", .u 4, .const, 120, .reset, 0, 4294967295⟩,
  ⟨0x0E, "FOLD_CYC", .u 4, .const, 160, .reset, 0, 4294967295⟩]

/-- Entries of `0x2801` (chapter 12). -/
def obj2801 : List Entry := [
  ⟨0x01, "SEARCHES", .u 8, .ro, 0, .immediate, 0, 18446744073709551615⟩,
  ⟨0x02, "SHORT_RESULTS", .u 8, .ro, 0, .immediate, 0, 18446744073709551615⟩,
  ⟨0x03, "INSERTED", .u 8, .ro, 0, .immediate, 0, 18446744073709551615⟩,
  ⟨0x04, "DELETED", .u 8, .ro, 0, .immediate, 0, 18446744073709551615⟩,
  ⟨0x05, "FOLDS", .u 8, .ro, 0, .immediate, 0, 18446744073709551615⟩,
  ⟨0x06, "VECTORS_SCANNED", .u 8, .ro, 0, .immediate, 0, 18446744073709551615⟩,
  ⟨0x07, "POISON_DROPPED", .u 8, .ro, 0, .immediate, 0, 18446744073709551615⟩,
  ⟨0x08, "PROBES", .u 8, .ro, 0, .immediate, 0, 18446744073709551615⟩]

/-- Entries of `0x2804` (chapter 12). -/
def obj2804 : List Entry := [
  ⟨0x01, "INDEX_DEF", .octets 32, .wo, 0, .immediate, 0, 256 ^ 32 - 1⟩,
  ⟨0x02, "INDEX_CMD", .octets 4, .wo, 0, .immediate, 0, 4294967295⟩,
  ⟨0x03, "CENTROID_LOAD", .domain, .wo, 0, .immediate, 0, 0⟩,
  ⟨0x04, "INDEX_RESULT", .u 1, .ro, 0, .immediate, 0, 255⟩]

/-- Entries of `0x2808` (chapter 12). -/
def obj2808 : List Entry := [
  ⟨0x01, "INDEX_TABLE", .domain, .ro, 0, .immediate, 0, 0⟩,
  ⟨0x02, "LIST_TABLE", .domain, .ro, 0, .immediate, 0, 0⟩]

/-- Entries of `0x3000` (chapter 13). -/
def obj3000 : List Entry := [
  ⟨0x01, "PORTS", .u 1, .const, 48, .reset, 0, 255⟩,
  ⟨0x02, "LANES_PER_PORT", .u 1, .const, 4, .reset, 0, 255⟩,
  ⟨0x03, "CAMRIS_VERSION", .u 1, .const, 1, .reset, 0, 255⟩,
  ⟨0x04, "TRAIN_NATIVE_MS", .u 2, .rw, 30, .nextRound, 10, 1000⟩,
  ⟨0x05, "TRAIN_ETH_MS", .u 2, .rw, 1000, .nextRound, 100, 10000⟩,
  ⟨0x06, "REASSEMBLY_TICKS", .u 2, .rw, 64, .nextRound, 16, 4096⟩,
  ⟨0x07, "REPLAY_LIMIT", .u 1, .const, 2, .reset, 0, 255⟩,
  ⟨0x08, "REPLAY_SPAN", .u 1, .const, 64, .reset, 0, 255⟩,
  ⟨0x09, "DOWN_HOLD", .u 4, .rw, 10000, .nextRound, 0, 1000000⟩,
  ⟨0x0A, "Q7_SEND_CAP", .u 2, .ro, 1024, .immediate, 0, 65535⟩,
  ⟨0x0B, "PORTS_IN_SERVICE", .u 8, .ro, 0, .immediate, 0, 18446744073709551615⟩,
  ⟨0x0C, "DOWN_EVENTS", .u 8, .ro, 0, .immediate, 0, 18446744073709551615⟩,
  ⟨0x0D, "PATH_RETRY_TICKS", .u 2, .rw, 64, .nextRound, 32, 4096⟩]

/-- Entries of `0x3100` (chapter 14). -/
def obj3100 : List Entry := [
  ⟨0x01, "POOL_CELLS", .u 4, .const, 196608, .reset, 0, 4294967295⟩,
  ⟨0x02, "CELL_BYTES", .u 2, .const, 512, .reset, 0, 65535⟩,
  ⟨0x03, "Q6_POOL", .u 4, .const, 65536, .reset, 0, 4294967295⟩,
  ⟨0x04, "IN_RESERVE", .u 2, .rws, 64, .commitTick, 16, 1024⟩,
  ⟨0x05, "IN_RESERVE_TV", .u 2, .rws, 128, .commitTick, 16, 1024⟩,
  ⟨0x06, "Q7_RESERVE", .u 2, .rws, 64, .commitTick, 16, 1024⟩,
  ⟨0x07, "QB_RESERVE", .u 2, .rws, 32, .commitTick, 0, 1024⟩,
  ⟨0x08, "DT_NUM", .u 1, .rws, 8, .commitTick, 1, 64⟩,
  ⟨0x09, "PFC_HEADROOM", .u 2, .rws, 24, .commitTick, 8, 512⟩,
  ⟨0x0A, "GATE_UNITS", .u 1, .const, 64, .reset, 0, 255⟩,
  ⟨0x0B, "GUARD_UNITS", .u 1, .const, 3, .reset, 0, 255⟩,
  ⟨0x0C, "HOST_SEND_BYTES", .u 4, .ro, 64000, .immediate, 0, 4294967295⟩,
  ⟨0x0D, "SLOW_NODE_QUANTUM", .u 4, .rw, 16384, .nextRound, 512, 1048576⟩,
  ⟨0x0E, "HIST_PERIOD", .u 1, .const, 64, .reset, 0, 255⟩,
  ⟨0x0F, "GATE_MARGIN_NS", .u 1, .const, 5, .reset, 0, 255⟩]

/-- Entries of `0x3101` (chapter 14). -/
def obj3101 : List Entry := [
  ⟨0x01, "SHARED_FREE", .u 4, .ro, 92672, .immediate, 0, 4294967295⟩,
  ⟨0x02, "Q6_POOL_BOOKED", .u 4, .ro, 0, .immediate, 0, 4294967295⟩,
  ⟨0x03, "POOL_DROPS", .u 8, .ro, 0, .immediate, 0, 18446744073709551615⟩,
  ⟨0x04, "GATE_HOLDS_ALL", .u 8, .ro, 0, .immediate, 0, 18446744073709551615⟩,
  ⟨0x05, "HIST_CLEAR", .u 1, .wo, 0, .immediate, 0, 255⟩,
  ⟨0x06, "Q6_POOL_SHORT", .u 8, .ro, 0, .immediate, 0, 18446744073709551615⟩]

/-- Entries of `0x3108` (chapter 14). -/
def obj3108 : List Entry := [
  ⟨0x01, "QUEUE_HIST", .domain, .ro, 0, .immediate, 0, 0⟩,
  ⟨0x02, "HOST_HIST", .domain, .ro, 0, .immediate, 0, 0⟩]

/-- Entries of `0x3200` (chapter 15). -/
def obj3200 : List Entry := [
  ⟨0x01, "SLICE_MAX", .u 1, .const, 64, .reset, 0, 255⟩,
  ⟨0x02, "REBIND_US", .u 2, .const, 3000, .reset, 0, 65535⟩,
  ⟨0x03, "FW_VERSION", .octets 2, .const, 0, .reset, 0, 65535⟩,
  ⟨0x04, "HEADER_WAIT", .u 2, .rw, 16, .nextRound, 4, 250⟩,
  ⟨0x05, "MOVE_TICKS", .u 2, .rw, 1000, .nextRound, 100, 65535⟩]

/-- Entries of `0x3201` (chapter 15). -/
def obj3201 : List Entry := [
  ⟨0x01, "EPOCH", .u 2, .ro, 0, .commitTick, 0, 65535⟩,
  ⟨0x02, "PREV_EPOCH", .u 2, .ro, 0, .commitTick, 0, 65535⟩,
  ⟨0x03, "EPOCH_STATE", .u 1, .ro, 0, .immediate, 0, 255⟩,
  ⟨0x04, "DRAIN_TICK", .u 8, .ro, 0, .immediate, 0, 18446744073709551615⟩,
  ⟨0x05, "GROUP_STATE", .u 1, .ro, 0, .immediate, 0, 255⟩,
  ⟨0x06, "DIGEST", .octets 32, .ro, 0, .immediate, 0, 256 ^ 32 - 1⟩,
  ⟨0x07, "DIGEST_MISMATCHES", .u 8, .ro, 0, .immediate, 0, 18446744073709551615⟩,
  ⟨0x08, "EPOCH_RETIRED_COUNT", .u 8, .ro, 0, .immediate, 0, 18446744073709551615⟩,
  ⟨0x09, "OUT_OF_ROUNDS", .bool, .ro, 0, .immediate, 0, 255⟩,
  ⟨0x0A, "REJOIN_REFUSED", .u 4, .ro, 0, .immediate, 0, 4294967295⟩,
  ⟨0x0B, "QUARANTINED_SEQS", .u 4, .ro, 0, .immediate, 0, 4294967295⟩]

/-- Entries of `0x3204` (chapter 15). -/
def obj3204 : List Entry := [
  ⟨0x01, "SLICE_BIND", .octets 128, .wo, 0, .immediate, 0, 256 ^ 128 - 1⟩,
  ⟨0x02, "BIND_RESULT", .u 1, .ro, 0, .immediate, 0, 255⟩,
  ⟨0x03, "SLICE_RELEASE", .u 1, .wo, 0, .immediate, 0, 255⟩,
  ⟨0x04, "SESSION_SET", .octets 16, .wo, 0, .immediate, 0, 256 ^ 16 - 1⟩,
  ⟨0x05, "COMP_STAGED", .domain, .rws, 0, .commitTick, 0, 0⟩,
  ⟨0x06, "QUARANTINE_CMD", .octets 16, .wo, 0, .immediate, 0, 256 ^ 16 - 1⟩,
  ⟨0x07, "HOLD_STOP", .u 1, .wo, 0, .immediate, 0, 255⟩,
  ⟨0x08, "REJOIN", .u 1, .wo, 0, .immediate, 0, 255⟩,
  ⟨0x09, "SESSION_RESULT", .u 1, .ro, 0, .immediate, 0, 255⟩]

/-- Entries of `0x3208` (chapter 15). -/
def obj3208 : List Entry := [
  ⟨0x01, "SLICES", .domain, .ro, 0, .immediate, 0, 0⟩,
  ⟨0x02, "COMP_MAP", .domain, .ro, 0, .commitTick, 0, 0⟩,
  ⟨0x03, "PEER_HEADERS", .domain, .ro, 0, .immediate, 0, 0⟩]

/-- Entries of `0x3400` (chapter 16). -/
def obj3400 : List Entry := [
  ⟨0x01, "KEY_SLOTS", .u 2, .const, 8192, .reset, 0, 65535⟩,
  ⟨0x02, "DRAIN_TICKS", .u 2, .rws, 128, .commitTick, 64, 1000⟩,
  ⟨0x03, "SCRUB_FIX", .u 1, .const, 40, .reset, 0, 255⟩,
  ⟨0x04, "SCRUB_PER_16G", .u 1, .const, 110, .reset, 0, 255⟩,
  ⟨0x05, "KEM_PUBLIC", .octets 1568, .ro, 0, .reset, 0, 256 ^ 1568 - 1⟩,
  ⟨0x06, "DIK_PUBLIC", .octets 2592, .ro, 0, .reset, 0, 256 ^ 2592 - 1⟩,
  ⟨0x07, "FW_SVN_MIN", .u 2, .ro, 0, .reset, 0, 65535⟩,
  ⟨0x08, "CERT_CHAIN", .domain, .ro, 0, .reset, 0, 0⟩,
  ⟨0x09, "ATTEST_TICKS", .u 2, .const, 500, .reset, 0, 65535⟩]

/-- Entries of `0x3401` (chapter 16). -/
def obj3401 : List Entry := [
  ⟨0x01, "KEYS_LIVE", .u 2, .ro, 0, .immediate, 0, 65535⟩,
  ⟨0x02, "KEY_INSTALLS", .u 8, .ro, 0, .immediate, 0, 18446744073709551615⟩,
  ⟨0x03, "KEY_REFUSALS", .u 8, .ro, 0, .immediate, 0, 18446744073709551615⟩,
  ⟨0x04, "KEYS_RETIRED", .u 8, .ro, 0, .immediate, 0, 18446744073709551615⟩,
  ⟨0x05, "OPERATOR_READS", .u 8, .ro, 0, .immediate, 0, 18446744073709551615⟩,
  ⟨0x06, "DRAIN_DISCARDS", .u 8, .ro, 0, .immediate, 0, 18446744073709551615⟩,
  ⟨0x07, "DMA_TAG_FAILURES", .u 8, .ro, 0, .immediate, 0, 18446744073709551615⟩,
  ⟨0x08, "ATTEST_STATE", .u 1, .ro, 0, .immediate, 0, 255⟩,
  ⟨0x09, "UNSENT_FINALS", .u 8, .ro, 0, .immediate, 0, 18446744073709551615⟩,
  ⟨0x0A, "SCRUBS", .u 8, .ro, 0, .immediate, 0, 18446744073709551615⟩]

/-- Entries of `0x3404` (chapter 16). -/
def obj3404 : List Entry := [
  ⟨0x01, "KEY_INSTALL", .octets 1632, .wo, 0, .immediate, 0, 256 ^ 1632 - 1⟩,
  ⟨0x02, "KEY_RETIRE", .octets 16, .wo, 0, .immediate, 0, 256 ^ 16 - 1⟩,
  ⟨0x03, "KEY_RESULT", .u 1, .ro, 0, .immediate, 0, 255⟩,
  ⟨0x04, "ATTEST_REQ", .octets 72, .wo, 0, .immediate, 0, 256 ^ 72 - 1⟩,
  ⟨0x06, "FW_STAGED", .domain, .wo, 0, .reset, 0, 0⟩,
  ⟨0x07, "FW_RESULT", .u 1, .ro, 0, .immediate, 0, 255⟩]

/-- Entries of `0x3408` (chapter 16). -/
def obj3408 : List Entry := [
  ⟨0x01, "KEY_TABLE", .domain, .ro, 0, .immediate, 0, 0⟩,
  ⟨0x02, "ATTEST_REPORT", .domain, .ro, 0, .immediate, 0, 0⟩,
  ⟨0x03, "INSPECTED", .domain, .ro, 0, .immediate, 0, 0⟩]

/-- Entries of `0x3500` (chapter 17). -/
def obj3500 : List Entry := [
  ⟨0x01, "TEST_START_TICKS", .u 1, .const, 50, .reset, 0, 255⟩,
  ⟨0x02, "RETIRE_LIMIT", .u 1, .const, 4, .reset, 0, 255⟩,
  ⟨0x03, "ACK_TICKS", .u 1, .const, 16, .reset, 0, 255⟩,
  ⟨0x04, "PAGE_RESTORE_TICKS", .u 4, .rw, 100000, .nextRound, 10000, 10000000⟩,
  ⟨0x05, "RESTORE_BYTES_TICK", .u 4, .const, 90000, .reset, 0, 4294967295⟩,
  ⟨0x06, "NOTICE_PORT", .u 1, .rw, 255, .immediate, 0, 255⟩,
  ⟨0x07, "ADM_RECORD_BYTES", .u 4, .const, 1572864, .reset, 0, 4294967295⟩,
  ⟨0x08, "TAKEOVER_TICKS", .u 4, .rw, 30000000, .nextRound, 1000000, 600000000⟩]

/-- Entries of `0x3501` (chapter 17). -/
def obj3501 : List Entry := [
  ⟨0x01, "TRANSIENTS", .u 8, .ro, 0, .immediate, 0, 18446744073709551615⟩,
  ⟨0x02, "LASTING", .u 8, .ro, 0, .immediate, 0, 18446744073709551615⟩,
  ⟨0x03, "RETIRED", .octets 8, .ro, 0, .immediate, 0, 18446744073709551615⟩,
  ⟨0x04, "STATE_LOSSES", .u 8, .ro, 0, .immediate, 0, 18446744073709551615⟩,
  ⟨0x05, "RERUNS", .u 8, .ro, 0, .immediate, 0, 18446744073709551615⟩,
  ⟨0x06, "LAST_ACKED_CUT", .u 8, .ro, 0, .immediate, 0, 18446744073709551615⟩,
  ⟨0x07, "CUTS_SENT", .u 8, .ro, 0, .immediate, 0, 18446744073709551615⟩,
  ⟨0x08, "PAGES_RESTORED", .u 8, .ro, 0, .immediate, 0, 18446744073709551615⟩,
  ⟨0x09, "PARTNER_STATE", .octets 2, .ro, 0, .immediate, 0, 65535⟩,
  ⟨0x0A, "LOSS_ENTRIES", .u 8, .ro, 0, .immediate, 0, 18446744073709551615⟩]

/-- Entries of `0x3504` (chapter 17). -/
def obj3504 : List Entry := [
  ⟨0x01, "TAKEOVER_CMD", .octets 16, .wo, 0, .immediate, 0, 256 ^ 16 - 1⟩,
  ⟨0x02, "TAKEOVER_RESULT", .u 1, .ro, 0, .immediate, 0, 255⟩,
  ⟨0x03, "REPLICA_MAP", .octets 128, .rws, 256 ^ 128 - 1, .commitTick, 0, 256 ^ 128 - 1⟩]

/-- Entries of `0x3508` (chapter 17). -/
def obj3508 : List Entry := [
  ⟨0x01, "ERROR_LOG", .domain, .ro, 0, .immediate, 0, 0⟩,
  ⟨0x02, "REPLICA_SETS", .domain, .ro, 0, .immediate, 0, 0⟩,
  ⟨0x03, "LOSS_REPORTS", .domain, .ro, 0, .immediate, 0, 0⟩,
  ⟨0x04, "ROSTERS", .domain, .ro, 0, .immediate, 0, 0⟩]

/-- Entries of `0x3600` (chapter 18). -/
def obj3600 : List Entry := [
  ⟨0x01, "SLICE_US_MAX", .u 1, .const, 40, .reset, 0, 255⟩,
  ⟨0x02, "CYCLE_TICKS", .u 4, .const, 600000000, .reset, 0, 4294967295⟩,
  ⟨0x03, "ZEROIZE_US", .u 1, .const, 200, .reset, 0, 255⟩,
  ⟨0x04, "REPAIR_RECORDS_MAX", .u 2, .const, 8192, .reset, 0, 65535⟩]

/-- Entries of `0x3601` (chapter 18). -/
def obj3601 : List Entry := [
  ⟨0x01, "CYCLE_START", .u 8, .ro, 0, .immediate, 0, 18446744073709551615⟩,
  ⟨0x02, "CYCLE_LAST", .u 4, .ro, 0, .immediate, 0, 4294967295⟩,
  ⟨0x03, "COVERAGE_STATUS", .u 1, .ro, 0, .immediate, 0, 255⟩,
  ⟨0x04, "SLICES_RUN", .u 8, .ro, 0, .immediate, 0, 18446744073709551615⟩,
  ⟨0x05, "SLICES_FAILED", .u 8, .ro, 0, .immediate, 0, 18446744073709551615⟩,
  ⟨0x06, "SLICES_REPEATED", .u 8, .ro, 0, .immediate, 0, 18446744073709551615⟩,
  ⟨0x07, "TARGETED_RUN", .u 8, .ro, 0, .immediate, 0, 18446744073709551615⟩,
  ⟨0x08, "REPAIRS", .u 4, .ro, 0, .immediate, 0, 4294967295⟩,
  ⟨0x09, "REPAIR_RECORDS_USED", .u 2, .ro, 0, .immediate, 0, 65535⟩,
  ⟨0x0A, "SCAN_STATE", .u 1, .ro, 0, .immediate, 0, 255⟩,
  ⟨0x0B, "LAST_RESULT", .octets 32, .ro, 0, .immediate, 0, 256 ^ 32 - 1⟩,
  ⟨0x0C, "REPAIR_CRC_SKIPS", .u 2, .ro, 0, .immediate, 0, 65535⟩]

/-- Entries of `0x3604` (chapter 18). -/
def obj3604 : List Entry := [
  ⟨0x01, "TEST_REQ", .octets 4, .wo, 0, .immediate, 0, 4294967295⟩,
  ⟨0x02, "TEST_RESULT", .u 1, .ro, 0, .immediate, 0, 255⟩]

/-- Entries of `0x3608` (chapter 18). -/
def obj3608 : List Entry := [
  ⟨0x01, "REPAIR_LOG", .domain, .ro, 0, .immediate, 0, 0⟩,
  ⟨0x02, "SIGNATURES", .domain, .ro, 0, .reset, 0, 0⟩]

/-- Entries of `0x3700` (chapter 22). -/
def obj3700 : List Entry := [
  ⟨0x01, "POWER_MAX", .u 2, .const, 2200, .reset, 0, 65535⟩,
  ⟨0x02, "POWER_LIMIT", .u 2, .rw, 2200, .nextRound, 1000, 2200⟩,
  ⟨0x03, "CAP_FLOOR", .u 1, .const, 20, .reset, 0, 255⟩,
  ⟨0x04, "SAFE_CLEAR_TICKS", .u 4, .const, 100000, .reset, 0, 4294967295⟩]

/-- Entries of `0x3701` (chapter 22). -/
def obj3701 : List Entry := [
  ⟨0x01, "ADMIT_CAP", .u 1, .ro, 100, .nextRound, 0, 255⟩,
  ⟨0x02, "THERMAL_STATE", .u 1, .ro, 0, .immediate, 0, 255⟩,
  ⟨0x03, "JUNCTION_MAX", .f32, .ro, 0, .immediate, 0, 4294967295⟩,
  ⟨0x04, "STACK_MAX", .f32, .ro, 0, .immediate, 0, 4294967295⟩,
  ⟨0x05, "COOLANT_IN", .f32, .ro, 0, .immediate, 0, 4294967295⟩,
  ⟨0x06, "COOLANT_OUT", .f32, .ro, 0, .immediate, 0, 4294967295⟩,
  ⟨0x07, "INPUT_V", .f32, .ro, 0, .immediate, 0, 4294967295⟩,
  ⟨0x08, "INPUT_W", .f32, .ro, 0, .immediate, 0, 4294967295⟩,
  ⟨0x09, "TRIP_CAUSE", .u 1, .ro, 0, .immediate, 0, 255⟩,
  ⟨0x0A, "THROTTLE_ROUNDS", .u 8, .ro, 0, .immediate, 0, 18446744073709551615⟩,
  ⟨0x0B, "TRIPS", .u 4, .ro, 0, .immediate, 0, 4294967295⟩]

/-- Entries of `0x3704` (chapter 22). -/
def obj3704 : List Entry := [
  ⟨0x01, "RESET_REQ", .u 1, .wo, 0, .immediate, 0, 255⟩]

/-- Entries of `0x3708` (chapter 22). -/
def obj3708 : List Entry := [
  ⟨0x01, "ROUND_LOG", .domain, .ro, 0, .immediate, 0, 0⟩]

/-- Entries of `0x4000` (chapter 20). -/
def obj4000 : List Entry := [
  ⟨0x01, "REGION_STATE", .u 1, .ro, 0, .immediate, 0, 255⟩,
  ⟨0x02, "BLOCKS_RETIRED", .u 2, .ro, 0, .immediate, 0, 65535⟩,
  ⟨0x03, "CELLS_RETIRED", .octets 32, .ro, 0, .immediate, 0, 256 ^ 32 - 1⟩,
  ⟨0x04, "CHANNELS_RETIRED", .u 4, .ro, 0, .immediate, 0, 4294967295⟩,
  ⟨0x05, "SLICE_OF_BLOCK", .octets 16, .ro, 256 ^ 16 - 1, .immediate, 0, 256 ^ 16 - 1⟩]

/-- Entries of `0x4001` (chapter 20). -/
def obj4001 : List Entry := [
  ⟨0x01, "ITEMS_ISSUED", .u 8, .ro, 0, .immediate, 0, 18446744073709551615⟩,
  ⟨0x02, "CYCLES_CHARGED", .u 8, .ro, 0, .immediate, 0, 18446744073709551615⟩,
  ⟨0x03, "STAGING_RESERVED", .u 4, .ro, 0, .immediate, 0, 4294967295⟩,
  ⟨0x04, "BURST_STALL_NS", .u 8, .ro, 0, .immediate, 0, 18446744073709551615⟩]

/-- Entries of `0x4002` (chapter 20). -/
def obj4002 : List Entry := [
  ⟨0x01, "BOOKINGS", .domain, .ro, 0, .immediate, 0, 0⟩]

/-- Entries of `0x5000` (chapter 13). -/
def obj5000 : List Entry := [
  ⟨0x01, "MODE", .u 1, .rws, 0, .commitTick, 0, 3⟩,
  ⟨0x02, "MAC", .octets 6, .rws, 0, .commitTick, 0, 281474976710655⟩,
  ⟨0x03, "VLAN", .u 2, .rws, 0, .commitTick, 0, 65535⟩,
  ⟨0x04, "AUTO_RETRAIN", .bool, .rw, 1, .immediate, 0, 1⟩,
  ⟨0x05, "PEER_EXPECT", .u 2, .rw, 65535, .immediate, 0, 65535⟩,
  ⟨0x06, "RETRAIN", .u 1, .wo, 0, .immediate, 0, 255⟩]

/-- Entries of `0x5001` (chapter 13). -/
def obj5001 : List Entry := [
  ⟨0x01, "STATE", .u 1, .ro, 0, .immediate, 0, 255⟩,
  ⟨0x02, "PEER", .u 2, .ro, 65535, .immediate, 0, 65535⟩,
  ⟨0x03, "PEER_PORT", .u 1, .ro, 0, .immediate, 0, 255⟩,
  ⟨0x04, "DOWN_REASON", .u 1, .ro, 0, .immediate, 0, 255⟩,
  ⟨0x05, "TRAIN_MS", .u 2, .ro, 0, .immediate, 0, 65535⟩,
  ⟨0x06, "Q7_CAP", .u 2, .ro, 1024, .immediate, 0, 65535⟩]

/-- Entries of `0x5002` (chapter 13). -/
def obj5002 : List Entry := [
  ⟨0x01, "FEC_CORRECTED", .u 8, .ro, 0, .immediate, 0, 18446744073709551615⟩,
  ⟨0x02, "FLIT_ERRORS", .u 8, .ro, 0, .immediate, 0, 18446744073709551615⟩,
  ⟨0x03, "REPLAYS", .u 8, .ro, 0, .immediate, 0, 18446744073709551615⟩,
  ⟨0x04, "FRAMES_TX", .u 8, .ro, 0, .immediate, 0, 18446744073709551615⟩,
  ⟨0x05, "FRAMES_RX", .u 8, .ro, 0, .immediate, 0, 18446744073709551615⟩,
  ⟨0x06, "FRAMES_DROPPED", .u 8, .ro, 0, .immediate, 0, 18446744073709551615⟩,
  ⟨0x07, "TAG_FAILURES", .u 8, .ro, 0, .immediate, 0, 18446744073709551615⟩,
  ⟨0x08, "RETIRED_KEY_DROPS", .u 8, .ro, 0, .immediate, 0, 18446744073709551615⟩,
  ⟨0x09, "REASSEMBLY_DROPS", .u 8, .ro, 0, .immediate, 0, 18446744073709551615⟩,
  ⟨0x0A, "FCS_ERRORS", .u 8, .ro, 0, .immediate, 0, 18446744073709551615⟩,
  ⟨0x0B, "PFC_RX", .u 8, .ro, 0, .immediate, 0, 18446744073709551615⟩,
  ⟨0x0C, "PAUSE_IGNORED", .u 8, .ro, 0, .immediate, 0, 18446744073709551615⟩,
  ⟨0x0D, "CREDIT_STALLS", .u 8, .ro, 0, .immediate, 0, 18446744073709551615⟩,
  ⟨0x0E, "HELD_DISCARDS", .u 8, .ro, 0, .immediate, 0, 18446744073709551615⟩,
  ⟨0x0F, "PATH_RESENDS", .u 8, .ro, 0, .immediate, 0, 18446744073709551615⟩]

/-- Entries of `0x5003` (chapter 14). -/
def obj5003 : List Entry := [
  ⟨0x01, "WEIGHTS", .octets 6, .rws, 35459518497025, .commitTick, 0, 281474976710655⟩,
  ⟨0x02, "GATE_MODE", .u 1, .rws, 0, .commitTick, 0, 1⟩]

/-- Entries of `0x5004` (chapter 14). -/
def obj5004 : List Entry := [
  ⟨0x01, "GATE_STATE", .u 1, .ro, 175, .immediate, 0, 255⟩,
  ⟨0x02, "Q_DEPTH", .octets 32, .ro, 0, .immediate, 0, 256 ^ 32 - 1⟩,
  ⟨0x03, "PFC_TX", .u 8, .ro, 0, .immediate, 0, 18446744073709551615⟩,
  ⟨0x04, "GATE_HOLDS", .u 8, .ro, 0, .immediate, 0, 18446744073709551615⟩]

/-- Every object of Table 20-1 by its index; per-region objects stand at the index of region 0, per-link objects
at that of port 0 (R509, R511). -/
def Dict.objects : List (Nat × List Entry) :=
  [(0x1000, obj1000), (0x1008, obj1008), (0x1018, obj1018), (0x1020, obj1020), (0x1030, obj1030), (0x1100, obj1100), (0x1110, obj1110), (0x1120, obj1120), (0x1200, obj1200), (0x1201, obj1201), (0x1204, obj1204), (0x1208, obj1208), (0x1210, obj1210)] ++
  [(0x1211, obj1211), (0x1220, obj1220), (0x1221, obj1221), (0x1228, obj1228), (0x2000, obj2000), (0x2100, obj2100), (0x2101, obj2101), (0x2104, obj2104), (0x2108, obj2108), (0x2200, obj2200), (0x2201, obj2201), (0x2204, obj2204)] ++
  [(0x2208, obj2208), (0x2300, obj2300), (0x2301, obj2301), (0x2304, obj2304), (0x2308, obj2308), (0x2310, obj2310), (0x2311, obj2311), (0x2318, obj2318), (0x2400, obj2400), (0x2401, obj2401), (0x2404, obj2404), (0x2408, obj2408)] ++
  [(0x2500, obj2500), (0x2501, obj2501), (0x2600, obj2600), (0x2601, obj2601), (0x2608, obj2608), (0x2700, obj2700), (0x2701, obj2701), (0x2704, obj2704), (0x2708, obj2708), (0x2800, obj2800), (0x2801, obj2801), (0x2804, obj2804)] ++
  [(0x2808, obj2808), (0x3000, obj3000), (0x3100, obj3100), (0x3101, obj3101), (0x3108, obj3108), (0x3200, obj3200), (0x3201, obj3201), (0x3204, obj3204), (0x3208, obj3208), (0x3400, obj3400), (0x3401, obj3401), (0x3404, obj3404)] ++
  [(0x3408, obj3408), (0x3500, obj3500), (0x3501, obj3501), (0x3504, obj3504), (0x3508, obj3508), (0x3600, obj3600), (0x3601, obj3601), (0x3604, obj3604), (0x3608, obj3608), (0x3700, obj3700), (0x3701, obj3701), (0x3704, obj3704)] ++
  [(0x3708, obj3708), (0x4000, obj4000), (0x4001, obj4001), (0x4002, obj4002), (0x5000, obj5000), (0x5001, obj5001), (0x5002, obj5002), (0x5003, obj5003), (0x5004, obj5004)]

/-- The index at which an index's entries are listed: region 0's for a per-region index, port 0's for a per-link
index (R509, R511), itself otherwise; `none` where the region or port does not exist. -/
def Dict.base (index : Nat) : Option Nat :=
  if 0x4000 ≤ index ∧ index < 0x5000 then some (0x4000 + index % 0x100)
  else if 0x5000 ≤ index ∧ index < 0x5C00 then some (0x5000 + (index - 0x5000) % 0x40)
  else some index

/-- The entries of an index, none where the index is not in use (R508). -/
def Dict.object (index : Nat) : Option (List Entry) :=
  match Dict.base index with
  | none => none
  | some b => (Dict.objects.find? (fun p => p.1 == b)).map (·.2)

/-- The entry at `index:sub`. -/
def Dict.entry (index sub : Nat) : Option Entry :=
  match Dict.object index with
  | none => none
  | some es => es.find? (fun e => e.sub == sub)

/-- The default of the value kept under a key. -/
def Dict.dflt (key : Nat) : Nat :=
  match Dict.entry (key / 256) (key % 256) with
  | none => 0
  | some e => e.dflt

/-- The key of a per-region value of region `r`, from the key at region 0 (R509). -/
abbrev regionKey (r key : Nat) : Nat := key + r * 0x10000

/-- The key of a per-link value of port `p`, from the key at port 0 (R511). -/
abbrev linkKey (p key : Nat) : Nat := key + p * 0x4000

/-! The keys by name. -/

abbrev Reg.deviceType : Nat := 0x100001
abbrev Reg.windowA : Nat := 0x100801
abbrev Reg.windowB : Nat := 0x100802
abbrev Reg.windowF0 : Nat := 0x100803
abbrev Reg.identity : Nat := 0x101801
abbrev Reg.stackIds : Nat := 0x101802
abbrev Reg.partNumber : Nat := 0x101803
abbrev Reg.capUnits : Nat := 0x102001
abbrev Reg.regions : Nat := 0x102002
abbrev Reg.stacks1020 : Nat := 0x102003
abbrev Reg.channels : Nat := 0x102004
abbrev Reg.linkPorts : Nat := 0x102005
abbrev Reg.sessions : Nat := 0x102006
abbrev Reg.sequences : Nat := 0x102007
abbrev Reg.poolCells1020 : Nat := 0x102008
abbrev Reg.slices1020 : Nat := 0x102009
abbrev Reg.t1Slots : Nat := 0x10200A
abbrev Reg.slowMax : Nat := 0x10200B
abbrev Reg.hostLanes : Nat := 0x10200C
abbrev Reg.nodeState : Nat := 0x103001
abbrev Reg.stateTick : Nat := 0x103002
abbrev Reg.stateCause : Nat := 0x103003
abbrev Reg.stateReq : Nat := 0x103004
abbrev Reg.reqRefused : Nat := 0x103005
abbrev Reg.tickNow : Nat := 0x110001
abbrev Reg.timeSource : Nat := 0x110002
abbrev Reg.timeStatus : Nat := 0x110003
abbrev Reg.tickPrimary : Nat := 0x110004
abbrev Reg.holdoverTicks : Nat := 0x110005
abbrev Reg.holdoverLimit : Nat := 0x110006
abbrev Reg.timeEvents : Nat := 0x110007
abbrev Reg.switchCount : Nat := 0x110008
abbrev Reg.skewAb : Nat := 0x110009
abbrev Reg.lastId : Nat := 0x111001
abbrev Reg.roundLen : Nat := 0x111002
abbrev Reg.roundBase : Nat := 0x111003
abbrev Reg.roundNumber : Nat := 0x111004
abbrev Reg.lastStaged : Nat := 0x111005
abbrev Reg.lastActive : Nat := 0x111006
abbrev Reg.lastLoadStatus : Nat := 0x111007
abbrev Reg.commitTick : Nat := 0x112001
abbrev Reg.commitCtrl : Nat := 0x112002
abbrev Reg.commitState : Nat := 0x112003
abbrev Reg.armResult : Nat := 0x112004
abbrev Reg.configGen : Nat := 0x112005
abbrev Reg.armLead : Nat := 0x112006
abbrev Reg.disarmGuard : Nat := 0x112007
abbrev Reg.lastCommitTick : Nat := 0x112008
abbrev Reg.genTarget : Nat := 0x112009
abbrev Reg.ringStationsMax : Nat := 0x120001
abbrev Reg.hopUs : Nat := 0x120002
abbrev Reg.voxleyVersion : Nat := 0x120003
abbrev Reg.payloadMax : Nat := 0x120004
abbrev Reg.ringMacA : Nat := 0x120005
abbrev Reg.ringMacB : Nat := 0x120006
abbrev Reg.beaconTicks : Nat := 0x120007
abbrev Reg.dedupTicks : Nat := 0x120008
abbrev Reg.blockTimeout : Nat := 0x120009
abbrev Reg.ringState : Nat := 0x120101
abbrev Reg.eyeletState : Nat := 0x120102
abbrev Reg.eventSeq : Nat := 0x120103
abbrev Reg.authState : Nat := 0x120104
abbrev Reg.unlockNonce : Nat := 0x120105
abbrev Reg.sliceStates : Nat := 0x120106
abbrev Reg.framesRefused : Nat := 0x120107
abbrev Reg.duplicates : Nat := 0x120108
abbrev Reg.ringKeyId : Nat := 0x120109
abbrev Reg.ringKeyInstall : Nat := 0x120401
abbrev Reg.f0Unlock : Nat := 0x120402
abbrev Reg.f0Lock : Nat := 0x120403
abbrev Reg.authResult : Nat := 0x120404
abbrev Reg.eyeletHold : Nat := 0x120405
abbrev Reg.eventLog : Nat := 0x120801
abbrev Reg.ringPortStats : Nat := 0x120802
abbrev Reg.vfMax : Nat := 0x121001
abbrev Reg.hostLink : Nat := 0x121002
abbrev Reg.ideStreams : Nat := 0x121003
abbrev Reg.entriesFetched : Nat := 0x121101
abbrev Reg.hostRepliesLost : Nat := 0x121102
abbrev Reg.dmaDescriptors : Nat := 0x121103
abbrev Reg.registerDrops : Nat := 0x121104
abbrev Reg.slowPortCap : Nat := 0x122001
abbrev Reg.slowPortState : Nat := 0x122002
abbrev Reg.cxlIdeEn : Nat := 0x122003
abbrev Reg.rescan : Nat := 0x122004
abbrev Reg.cxlPoison : Nat := 0x122101
abbrev Reg.cxlTimeouts : Nat := 0x122102
abbrev Reg.cxlCorrected : Nat := 0x122103
abbrev Reg.slowDevices : Nat := 0x122801
abbrev Reg.itemPages : Nat := 0x200001
abbrev Reg.deadlineMargin : Nat := 0x200002
abbrev Reg.deadlineMax : Nat := 0x200003
abbrev Reg.poolSize : Nat := 0x200004
abbrev Reg.examineRate : Nat := 0x200005
abbrev Reg.cFix : Nat := 0x200006
abbrev Reg.cDec : Nat := 0x200007
abbrev Reg.cRaw : Nat := 0x200008
abbrev Reg.refSpan : Nat := 0x200009
abbrev Reg.refStall : Nat := 0x20000A
abbrev Reg.cRedFix : Nat := 0x20000B
abbrev Reg.cRedItem : Nat := 0x20000C
abbrev Reg.meshTicks : Nat := 0x20000D
abbrev Reg.sendBytes : Nat := 0x20000E
abbrev Reg.poolDepth : Nat := 0x20000F
abbrev Reg.admitted : Nat := 0x200010
abbrev Reg.refused : Nat := 0x200011
abbrev Reg.lateNotices : Nat := 0x200012
abbrev Reg.lateDeliveries : Nat := 0x200013
abbrev Reg.sessionTable : Nat := 0x200014
abbrev Reg.noticeSlots : Nat := 0x200015
abbrev Reg.seqMax : Nat := 0x210001
abbrev Reg.pageSlots : Nat := 0x210002
abbrev Reg.pageDescMax : Nat := 0x210003
abbrev Reg.tracksMax : Nat := 0x210004
abbrev Reg.spanLimitMax : Nat := 0x210005
abbrev Reg.roundSeqMax : Nat := 0x210006
abbrev Reg.forkCycles : Nat := 0x210007
abbrev Reg.seqActive : Nat := 0x210101
abbrev Reg.tracksNoSpare : Nat := 0x210102
abbrev Reg.pageStateCounts : Nat := 0x210103
abbrev Reg.seals : Nat := 0x210104
abbrev Reg.forks : Nat := 0x210105
abbrev Reg.noPageRefusals : Nat := 0x210106
abbrev Reg.spillCancels : Nat := 0x210107
abbrev Reg.refillBound : Nat := 0x210401
abbrev Reg.sparePolicy : Nat := 0x210402
abbrev Reg.seqTable : Nat := 0x210801
abbrev Reg.trackDirs : Nat := 0x210802
abbrev Reg.pageTable : Nat := 0x210803
abbrev Reg.pageDescs : Nat := 0x210804
abbrev Reg.domainMax : Nat := 0x220001
abbrev Reg.nodeMax : Nat := 0x220002
abbrev Reg.prefixTokensMax : Nat := 0x220003
abbrev Reg.publishSeqMax : Nat := 0x220004
abbrev Reg.hashRate : Nat := 0x220005
abbrev Reg.cowTicks : Nat := 0x220006
abbrev Reg.attachTickMax : Nat := 0x220007
abbrev Reg.domainsActive : Nat := 0x220101
abbrev Reg.nodesLive : Nat := 0x220102
abbrev Reg.lookups : Nat := 0x220103
abbrev Reg.pagesAttached : Nat := 0x220104
abbrev Reg.published : Nat := 0x220105
abbrev Reg.publishDuplicates : Nat := 0x220106
abbrev Reg.hashCollisions : Nat := 0x220107
abbrev Reg.cowCopies : Nat := 0x220108
abbrev Reg.reclaimed : Nat := 0x220109
abbrev Reg.nodesRemoved : Nat := 0x22010A
abbrev Reg.domainCmd : Nat := 0x220401
abbrev Reg.domainResult : Nat := 0x220402
abbrev Reg.domains : Nat := 0x220801
abbrev Reg.prefixNodes : Nat := 0x220802
abbrev Reg.pageSets : Nat := 0x220803
abbrev Reg.modelMax : Nat := 0x230001
abbrev Reg.weightDescMax : Nat := 0x230002
abbrev Reg.rowsMax : Nat := 0x230003
abbrev Reg.absorbCyclesMax : Nat := 0x230004
abbrev Reg.rowAccMax : Nat := 0x230005
abbrev Reg.stagingPool : Nat := 0x230006
abbrev Reg.pageFixFloor : Nat := 0x230007
abbrev Reg.itemsRun : Nat := 0x230101
abbrev Reg.keysScored : Nat := 0x230102
abbrev Reg.entriesEmpty : Nat := 0x230103
abbrev Reg.entriesNonfinite : Nat := 0x230104
abbrev Reg.stagingShort : Nat := 0x230105
abbrev Reg.bookedWaits : Nat := 0x230106
abbrev Reg.modelDef : Nat := 0x230401
abbrev Reg.modelRetire : Nat := 0x230402
abbrev Reg.modelResult : Nat := 0x230403
abbrev Reg.modelTable : Nat := 0x230801
abbrev Reg.weightDescs : Nat := 0x230802
abbrev Reg.gradMapMax : Nat := 0x231001
abbrev Reg.cAxpy : Nat := 0x231002
abbrev Reg.bwdOutRh : Nat := 0x231003
abbrev Reg.gradZeroTicks : Nat := 0x231004
abbrev Reg.fetchSlot : Nat := 0x231005
abbrev Reg.bwdAdmitted : Nat := 0x231101
abbrev Reg.gradSlotsHeld : Nat := 0x231102
abbrev Reg.gradWaits : Nat := 0x231103
abbrev Reg.bwdNonfinite : Nat := 0x231104
abbrev Reg.gradPartials : Nat := 0x231105
abbrev Reg.gradMap : Nat := 0x231801
abbrev Reg.threadsPerCell : Nat := 0x240001
abbrev Reg.tileRegs : Nat := 0x240002
abbrev Reg.progSlots : Nat := 0x240003
abbrev Reg.progCodeMax : Nat := 0x240004
abbrev Reg.progArea : Nat := 0x240005
abbrev Reg.scratchWindow : Nat := 0x240006
abbrev Reg.itemsStarted : Nat := 0x240101
abbrev Reg.budgetTraps : Nat := 0x240102
abbrev Reg.progFaults : Nat := 0x240103
abbrev Reg.remoteAccesses : Nat := 0x240104
abbrev Reg.builtinOverruns : Nat := 0x240105
abbrev Reg.progLoad : Nat := 0x240401
abbrev Reg.progUnload : Nat := 0x240402
abbrev Reg.progResult : Nat := 0x240403
abbrev Reg.progTable : Nat := 0x240801
abbrev Reg.builtinTable : Nat := 0x240802
abbrev Reg.packers : Nat := 0x250001
abbrev Reg.packTicks : Nat := 0x250002
abbrev Reg.packMode : Nat := 0x250003
abbrev Reg.decoders : Nat := 0x250004
abbrev Reg.facetCycles : Nat := 0x250005
abbrev Reg.blockFormat : Nat := 0x250006
abbrev Reg.packQueue : Nat := 0x250101
abbrev Reg.pagesPacked : Nat := 0x250102
abbrev Reg.blocksZero : Nat := 0x250103
abbrev Reg.blocksPacked : Nat := 0x250104
abbrev Reg.blocksRaw : Nat := 0x250105
abbrev Reg.verifyFallbacks : Nat := 0x250106
abbrev Reg.granulesWritten : Nat := 0x250107
abbrev Reg.facetsReexpanded : Nat := 0x250108
abbrev Reg.codecFaults : Nat := 0x250109
abbrev Reg.lastFault : Nat := 0x25010A
abbrev Reg.packStops : Nat := 0x25010B
abbrev Reg.stacks2600 : Nat := 0x260001
abbrev Reg.channelsPerStack : Nat := 0x260002
abbrev Reg.unitsPerChannel : Nat := 0x260003
abbrev Reg.refTicks : Nat := 0x260004
abbrev Reg.refPostpone : Nat := 0x260005
abbrev Reg.refBurstNs : Nat := 0x260006
abbrev Reg.strokeLines : Nat := 0x260007
abbrev Reg.strokeNs : Nat := 0x260008
abbrev Reg.deferNs : Nat := 0x260009
abbrev Reg.channelZeroUs : Nat := 0x26000A
abbrev Reg.spareRows : Nat := 0x26000B
abbrev Reg.queueDepth : Nat := 0x26000C
abbrev Reg.ceCount : Nat := 0x260101
abbrev Reg.ueCount : Nat := 0x260102
abbrev Reg.misdirected : Nat := 0x260103
abbrev Reg.domainFaults : Nat := 0x260104
abbrev Reg.poisonReads : Nat := 0x260105
abbrev Reg.commands : Nat := 0x260106
abbrev Reg.strokesShortened : Nat := 0x260107
abbrev Reg.rowsRepaired : Nat := 0x260108
abbrev Reg.bursts : Nat := 0x260109
abbrev Reg.lastError : Nat := 0x26010A
abbrev Reg.stackStatus : Nat := 0x260801
abbrev Reg.repairMap : Nat := 0x260802
abbrev Reg.slowSlotCount : Nat := 0x270001
abbrev Reg.readSlotsTick : Nat := 0x270002
abbrev Reg.writeSlotsTick : Nat := 0x270003
abbrev Reg.pfLat : Nat := 0x270004
abbrev Reg.pfQueueMax : Nat := 0x270005
abbrev Reg.weightHold : Nat := 0x270006
abbrev Reg.refetchTimeout : Nat := 0x270007
abbrev Reg.wlSlotCycles : Nat := 0x270008
abbrev Reg.slowCapacity : Nat := 0x270009
abbrev Reg.weightTilesMax : Nat := 0x27000A
abbrev Reg.spills : Nat := 0x270101
abbrev Reg.spillsClean : Nat := 0x270102
abbrev Reg.prefetches : Nat := 0x270103
abbrev Reg.prefetchesBg : Nat := 0x270104
abbrev Reg.pfDropped : Nat := 0x270105
abbrev Reg.slowReadFaults : Nat := 0x270106
abbrev Reg.slowCopiesDropped : Nat := 0x270107
abbrev Reg.weightHolds : Nat := 0x270108
abbrev Reg.weightRefetches : Nat := 0x270109
abbrev Reg.weightLosses : Nat := 0x27010A
abbrev Reg.quotaSet : Nat := 0x270401
abbrev Reg.quotaResult : Nat := 0x270402
abbrev Reg.quotas : Nat := 0x270801
abbrev Reg.weightRes : Nat := 0x270802
abbrev Reg.indexMax : Nat := 0x280001
abbrev Reg.centroidMax : Nat := 0x280002
abbrev Reg.nprobeMax : Nat := 0x280003
abbrev Reg.kMax : Nat := 0x280004
abbrev Reg.dimMax : Nat := 0x280005
abbrev Reg.sideLimit : Nat := 0x280006
abbrev Reg.centItem : Nat := 0x280007
abbrev Reg.listItem : Nat := 0x280008
abbrev Reg.centFix : Nat := 0x280009
abbrev Reg.vecFix : Nat := 0x28000A
abbrev Reg.mergeEnt : Nat := 0x28000B
abbrev Reg.insCyc : Nat := 0x28000C
abbrev Reg.delCyc : Nat := 0x28000D
abbrev Reg.foldCyc : Nat := 0x28000E
abbrev Reg.searches : Nat := 0x280101
abbrev Reg.shortResults : Nat := 0x280102
abbrev Reg.inserted : Nat := 0x280103
abbrev Reg.deleted : Nat := 0x280104
abbrev Reg.folds : Nat := 0x280105
abbrev Reg.vectorsScanned : Nat := 0x280106
abbrev Reg.poisonDropped : Nat := 0x280107
abbrev Reg.probes : Nat := 0x280108
abbrev Reg.indexDef : Nat := 0x280401
abbrev Reg.indexCmd : Nat := 0x280402
abbrev Reg.centroidLoad : Nat := 0x280403
abbrev Reg.indexResult : Nat := 0x280404
abbrev Reg.indexTable : Nat := 0x280801
abbrev Reg.listTable : Nat := 0x280802
abbrev Reg.ports : Nat := 0x300001
abbrev Reg.lanesPerPort : Nat := 0x300002
abbrev Reg.camrisVersion : Nat := 0x300003
abbrev Reg.trainNativeMs : Nat := 0x300004
abbrev Reg.trainEthMs : Nat := 0x300005
abbrev Reg.reassemblyTicks : Nat := 0x300006
abbrev Reg.replayLimit : Nat := 0x300007
abbrev Reg.replaySpan : Nat := 0x300008
abbrev Reg.downHold : Nat := 0x300009
abbrev Reg.q7SendCap : Nat := 0x30000A
abbrev Reg.portsInService : Nat := 0x30000B
abbrev Reg.downEvents : Nat := 0x30000C
abbrev Reg.pathRetryTicks : Nat := 0x30000D
abbrev Reg.poolCells3100 : Nat := 0x310001
abbrev Reg.cellBytes : Nat := 0x310002
abbrev Reg.q6Pool : Nat := 0x310003
abbrev Reg.inReserve : Nat := 0x310004
abbrev Reg.inReserveTv : Nat := 0x310005
abbrev Reg.q7Reserve : Nat := 0x310006
abbrev Reg.qbReserve : Nat := 0x310007
abbrev Reg.dtNum : Nat := 0x310008
abbrev Reg.pfcHeadroom : Nat := 0x310009
abbrev Reg.gateUnits : Nat := 0x31000A
abbrev Reg.guardUnits : Nat := 0x31000B
abbrev Reg.hostSendBytes : Nat := 0x31000C
abbrev Reg.slowNodeQuantum : Nat := 0x31000D
abbrev Reg.histPeriod : Nat := 0x31000E
abbrev Reg.gateMarginNs : Nat := 0x31000F
abbrev Reg.sharedFree : Nat := 0x310101
abbrev Reg.q6PoolBooked : Nat := 0x310102
abbrev Reg.poolDrops : Nat := 0x310103
abbrev Reg.gateHoldsAll : Nat := 0x310104
abbrev Reg.histClear : Nat := 0x310105
abbrev Reg.q6PoolShort : Nat := 0x310106
abbrev Reg.queueHist : Nat := 0x310801
abbrev Reg.hostHist : Nat := 0x310802
abbrev Reg.sliceMax : Nat := 0x320001
abbrev Reg.rebindUs : Nat := 0x320002
abbrev Reg.fwVersion : Nat := 0x320003
abbrev Reg.headerWait : Nat := 0x320004
abbrev Reg.moveTicks : Nat := 0x320005
abbrev Reg.epoch : Nat := 0x320101
abbrev Reg.prevEpoch : Nat := 0x320102
abbrev Reg.epochState : Nat := 0x320103
abbrev Reg.drainTick : Nat := 0x320104
abbrev Reg.groupState : Nat := 0x320105
abbrev Reg.digest : Nat := 0x320106
abbrev Reg.digestMismatches : Nat := 0x320107
abbrev Reg.epochRetiredCount : Nat := 0x320108
abbrev Reg.outOfRounds : Nat := 0x320109
abbrev Reg.rejoinRefused : Nat := 0x32010A
abbrev Reg.quarantinedSeqs : Nat := 0x32010B
abbrev Reg.sliceBind : Nat := 0x320401
abbrev Reg.bindResult : Nat := 0x320402
abbrev Reg.sliceRelease : Nat := 0x320403
abbrev Reg.sessionSet : Nat := 0x320404
abbrev Reg.compStaged : Nat := 0x320405
abbrev Reg.quarantineCmd : Nat := 0x320406
abbrev Reg.holdStop : Nat := 0x320407
abbrev Reg.rejoin : Nat := 0x320408
abbrev Reg.sessionResult : Nat := 0x320409
abbrev Reg.slices3208 : Nat := 0x320801
abbrev Reg.compMap : Nat := 0x320802
abbrev Reg.peerHeaders : Nat := 0x320803
abbrev Reg.keySlots : Nat := 0x340001
abbrev Reg.drainTicks : Nat := 0x340002
abbrev Reg.scrubFix : Nat := 0x340003
abbrev Reg.scrubPer16g : Nat := 0x340004
abbrev Reg.kemPublic : Nat := 0x340005
abbrev Reg.dikPublic : Nat := 0x340006
abbrev Reg.fwSvnMin : Nat := 0x340007
abbrev Reg.certChain : Nat := 0x340008
abbrev Reg.attestTicks : Nat := 0x340009
abbrev Reg.keysLive : Nat := 0x340101
abbrev Reg.keyInstalls : Nat := 0x340102
abbrev Reg.keyRefusals : Nat := 0x340103
abbrev Reg.keysRetired : Nat := 0x340104
abbrev Reg.operatorReads : Nat := 0x340105
abbrev Reg.drainDiscards : Nat := 0x340106
abbrev Reg.dmaTagFailures : Nat := 0x340107
abbrev Reg.attestState : Nat := 0x340108
abbrev Reg.unsentFinals : Nat := 0x340109
abbrev Reg.scrubs : Nat := 0x34010A
abbrev Reg.keyInstall : Nat := 0x340401
abbrev Reg.keyRetire : Nat := 0x340402
abbrev Reg.keyResult : Nat := 0x340403
abbrev Reg.attestReq : Nat := 0x340404
abbrev Reg.fwStaged : Nat := 0x340406
abbrev Reg.fwResult : Nat := 0x340407
abbrev Reg.keyTable : Nat := 0x340801
abbrev Reg.attestReport : Nat := 0x340802
abbrev Reg.inspected : Nat := 0x340803
abbrev Reg.testStartTicks : Nat := 0x350001
abbrev Reg.retireLimit : Nat := 0x350002
abbrev Reg.ackTicks : Nat := 0x350003
abbrev Reg.pageRestoreTicks : Nat := 0x350004
abbrev Reg.restoreBytesTick : Nat := 0x350005
abbrev Reg.noticePort : Nat := 0x350006
abbrev Reg.admRecordBytes : Nat := 0x350007
abbrev Reg.takeoverTicks : Nat := 0x350008
abbrev Reg.transients : Nat := 0x350101
abbrev Reg.lasting : Nat := 0x350102
abbrev Reg.retired : Nat := 0x350103
abbrev Reg.stateLosses : Nat := 0x350104
abbrev Reg.reruns : Nat := 0x350105
abbrev Reg.lastAckedCut : Nat := 0x350106
abbrev Reg.cutsSent : Nat := 0x350107
abbrev Reg.pagesRestored : Nat := 0x350108
abbrev Reg.partnerState : Nat := 0x350109
abbrev Reg.lossEntries : Nat := 0x35010A
abbrev Reg.takeoverCmd : Nat := 0x350401
abbrev Reg.takeoverResult : Nat := 0x350402
abbrev Reg.replicaMap : Nat := 0x350403
abbrev Reg.errorLog : Nat := 0x350801
abbrev Reg.replicaSets : Nat := 0x350802
abbrev Reg.lossReports : Nat := 0x350803
abbrev Reg.rosters : Nat := 0x350804
abbrev Reg.sliceUsMax : Nat := 0x360001
abbrev Reg.cycleTicks : Nat := 0x360002
abbrev Reg.zeroizeUs : Nat := 0x360003
abbrev Reg.repairRecordsMax : Nat := 0x360004
abbrev Reg.cycleStart : Nat := 0x360101
abbrev Reg.cycleLast : Nat := 0x360102
abbrev Reg.coverageStatus : Nat := 0x360103
abbrev Reg.slicesRun : Nat := 0x360104
abbrev Reg.slicesFailed : Nat := 0x360105
abbrev Reg.slicesRepeated : Nat := 0x360106
abbrev Reg.targetedRun : Nat := 0x360107
abbrev Reg.repairs : Nat := 0x360108
abbrev Reg.repairRecordsUsed : Nat := 0x360109
abbrev Reg.scanState : Nat := 0x36010A
abbrev Reg.lastResult : Nat := 0x36010B
abbrev Reg.repairCrcSkips : Nat := 0x36010C
abbrev Reg.testReq : Nat := 0x360401
abbrev Reg.testResult : Nat := 0x360402
abbrev Reg.repairLog : Nat := 0x360801
abbrev Reg.signatures : Nat := 0x360802
abbrev Reg.powerMax : Nat := 0x370001
abbrev Reg.powerLimit : Nat := 0x370002
abbrev Reg.capFloor : Nat := 0x370003
abbrev Reg.safeClearTicks : Nat := 0x370004
abbrev Reg.admitCap : Nat := 0x370101
abbrev Reg.thermalState : Nat := 0x370102
abbrev Reg.junctionMax : Nat := 0x370103
abbrev Reg.stackMax : Nat := 0x370104
abbrev Reg.coolantIn : Nat := 0x370105
abbrev Reg.coolantOut : Nat := 0x370106
abbrev Reg.inputV : Nat := 0x370107
abbrev Reg.inputW : Nat := 0x370108
abbrev Reg.tripCause : Nat := 0x370109
abbrev Reg.throttleRounds : Nat := 0x37010A
abbrev Reg.trips : Nat := 0x37010B
abbrev Reg.resetReq : Nat := 0x370401
abbrev Reg.roundLog : Nat := 0x370801
abbrev Reg.regionState : Nat := 0x400001
abbrev Reg.blocksRetired : Nat := 0x400002
abbrev Reg.cellsRetired : Nat := 0x400003
abbrev Reg.channelsRetired : Nat := 0x400004
abbrev Reg.sliceOfBlock : Nat := 0x400005
abbrev Reg.itemsIssued : Nat := 0x400101
abbrev Reg.cyclesCharged : Nat := 0x400102
abbrev Reg.stagingReserved : Nat := 0x400103
abbrev Reg.burstStallNs : Nat := 0x400104
abbrev Reg.bookings : Nat := 0x400201
abbrev Reg.portMode : Nat := 0x500001
abbrev Reg.mac : Nat := 0x500002
abbrev Reg.vlan : Nat := 0x500003
abbrev Reg.autoRetrain : Nat := 0x500004
abbrev Reg.peerExpect : Nat := 0x500005
abbrev Reg.retrain : Nat := 0x500006
abbrev Reg.portState : Nat := 0x500101
abbrev Reg.peer : Nat := 0x500102
abbrev Reg.peerPort : Nat := 0x500103
abbrev Reg.downReason : Nat := 0x500104
abbrev Reg.trainMs : Nat := 0x500105
abbrev Reg.q7Cap : Nat := 0x500106
abbrev Reg.fecCorrected : Nat := 0x500201
abbrev Reg.flitErrors : Nat := 0x500202
abbrev Reg.replays : Nat := 0x500203
abbrev Reg.framesTx : Nat := 0x500204
abbrev Reg.framesRx : Nat := 0x500205
abbrev Reg.framesDropped : Nat := 0x500206
abbrev Reg.tagFailures : Nat := 0x500207
abbrev Reg.retiredKeyDrops : Nat := 0x500208
abbrev Reg.reassemblyDrops : Nat := 0x500209
abbrev Reg.fcsErrors : Nat := 0x50020A
abbrev Reg.pfcRx : Nat := 0x50020B
abbrev Reg.pauseIgnored : Nat := 0x50020C
abbrev Reg.creditStalls : Nat := 0x50020D
abbrev Reg.heldDiscards : Nat := 0x50020E
abbrev Reg.pathResends : Nat := 0x50020F
abbrev Reg.weights : Nat := 0x500301
abbrev Reg.gateMode : Nat := 0x500302
abbrev Reg.gateState : Nat := 0x500401
abbrev Reg.qDepth : Nat := 0x500402
abbrev Reg.pfcTx : Nat := 0x500403
abbrev Reg.gateHolds : Nat := 0x500404

end Sys2Proof.Machine
end

