-- ==== Sys2Proof/Machine/Map.lean ====
section
/-!
DEFINITION. Sparse tables in one canonical form: a list of key and value pairs, keys strictly rising, and no entry equal to
what an unlisted key reads as. Equal tables are then equal lists, so states compare and print.
-/

namespace Sys2Proof.Machine

/-- A sparse table from numbers to values. -/
abbrev Map (α : Type) := List (Nat × α)

/-- The value at a key; an unlisted key reads `d`. -/
def Map.get {α : Type} (d : α) (m : Map α) (k : Nat) : α :=
  match m with
  | [] => d
  | (k', v) :: t => if k' = k then v else Map.get d t k

/-- The table without a key. -/
def Map.erase {α : Type} (m : Map α) (k : Nat) : Map α := m.filter fun e => e.1 != k

/-- Put a pair before the first greater key. -/
def Map.insert {α : Type} (k : Nat) (v : α) : Map α → Map α
  | [] => [(k, v)]
  | (k', v') :: t => if k < k' then (k, v) :: (k', v') :: t else (k', v') :: Map.insert k v t

/-- Write a key; writing what an unlisted key reads as removes the entry. -/
def Map.set {α : Type} [DecidableEq α] (d : α) (m : Map α) (k : Nat) (v : α) : Map α :=
  if v = d then Map.erase m k else Map.insert k v (Map.erase m k)

/-- The canonical form: keys strictly rising, no entry equal to the unlisted value. -/
def Map.wf {α : Type} [DecidableEq α] (d : Nat → α) : Map α → Bool
  | [] => true
  | [(k, v)] => v != d k
  | (k, v) :: (k', v') :: t => v != d k && decide (k < k') && Map.wf d ((k', v') :: t)

/-- The listed keys. -/
def Map.keys {α : Type} (m : Map α) : List Nat := m.map (·.1)

/-- The listed values. -/
def Map.vals {α : Type} (m : Map α) : List α := m.map (·.2)

/-- The entry at a key, if listed. -/
def Map.find {α : Type} : Map α → Nat → Option α
  | [], _ => none
  | (k', v) :: t, k => if k' = k then some v else Map.find t k

/-- Write an entry of a table whose unlisted keys hold nothing. -/
def Map.put {α : Type} (m : Map α) (k : Nat) (v : α) : Map α := Map.insert k v (Map.erase m k)

/-- Change an entry if it is listed. -/
def Map.modify {α : Type} (m : Map α) (k : Nat) (f : α → α) : Map α :=
  m.map fun e => if e.1 = k then (e.1, f e.2) else e

/-- Change every listed value. -/
def Map.mapVals {α : Type} (m : Map α) (f : Nat → α → α) : Map α := m.map fun e => (e.1, f e.1 e.2)

/-- Change every listed value and drop those that become the unlisted one. -/
def Map.norm {α : Type} [DecidableEq α] (d : α) (m : Map α) (f : Nat → α → α) : Map α :=
  (m.map fun e => (e.1, f e.1 e.2)).filter fun e => decide (e.2 ≠ d)

/-- Put a number into a rising list of distinct numbers. -/
def insertNat (k : Nat) : List Nat → List Nat
  | [] => [k]
  | a :: t => if k < a then k :: a :: t else if k = a then a :: t else a :: insertNat k t

/-- Insertion by a strict order: the new element goes behind those it does not precede. -/
def insertBy {α : Type} (lt : α → α → Bool) (x : α) : List α → List α
  | [] => [x]
  | y :: t => if lt x y then x :: y :: t else y :: insertBy lt x t

/-- Stable insertion sort. -/
def sortBy {α : Type} (lt : α → α → Bool) (l : List α) : List α :=
  l.foldl (fun acc x => insertBy lt x acc) []

end Sys2Proof.Machine
end

