-- ==== Sys2Proof/Machine/Types.lean ====
section
/-!
DEFINITION. The records that the node's state is made of, chapter by chapter. A number is a Nat where the manual counts
with it, a bit vector where the manual gives bits; a record laid out by a table of the manual keeps the table's names.
-/

namespace Sys2Proof.Machine

/-! ### Time and lasts (chapter 2) -/

/-- What the time unit knows of one tick input (R30 to R34). `lastEdge` is the time in ns of the last edge taken,
`pos` the tick's place in its number frame (0 the Marker), `bits` the number read so far. -/
structure TickInput where
  locked : Bool := false
  lastEdge : Option Nat := none
  inFrame : Bool := false
  pos : Nat := 0
  bits : Nat := 0
  markCount : Nat := 0
  prevFrame : Option Nat := none
  missed : Nat := 0
deriving DecidableEq, Repr

/-- The time unit. `counted` says that the tick count is set (R34), `selected` is 0 for none, 1 TICK_A, 2 TICK_B;
`limit` the holdover limit fixed at `holdoverStart` (R38), `align` an alignment due at the next round boundary (R40);
`outOfRounds` the cause of leaving rounds (R38, R41, R410), with the node state to return to. -/
structure TimeUnit where
  a : TickInput := {}
  b : TickInput := {}
  counted : Bool := false
  selected : Nat := 0
  holdover : Bool := false
  holdoverStart : Nat := 0
  limit : Nat := 0
  align : Option TickIn := none
  switchPending : Option TickIn := none
deriving DecidableEq, Repr

/-- A window record (Table 2-6). -/
structure Window where
  start : Nat
  length : Nat
  kind : Nat
  param : Nat
  target : Nat
deriving DecidableEq, Repr

/-- A gate list of a link port: its port and its entries of (gate mask, units) (chapter 14). -/
structure GateList where
  number : Nat
  raw : Bytes
deriving DecidableEq, Repr

/-- A last: the image and what its header and records say (R49, R50). -/
structure Last where
  raw : Bytes := []
  id : Nat := 0
  roundLen : Nat := 2000
  regionMask : Nat := 0
  windows : List Window := []
  gates : List GateList := []
deriving DecidableEq, Repr

/-- A change under ARM (R54 to R58): regions that must report, those that have, and the failures so far as a pair of
reason and region. `armTick` is the commit tick it was armed for, `refusedAt` the boundary at which reports refused it. -/
structure Arming where
  armTick : Nat := 0
  refusedAt : Option Nat := none
  affected : Nat := 0
  reported : Nat := 0
  failures : List (Nat × Nat) := []
deriving DecidableEq, Repr

/-- The schedule: the active last, the staged image, and the change under way. -/
structure Sched where
  active : Last := {}
  staged : Option Last := none
  arming : Arming := {}
deriving DecidableEq, Repr

/-! ### Replies, requests and bookings (chapter 3) -/

/-- A reply (Table 3-9); `final` says that it is the final reply of an admitted request (R79). -/
structure Reply where
  status : Nat
  opcode : Nat := 0
  detail : Nat := 0
  requestId : Nat := 0
  sequenceId : Nat := 0
  session : Nat := 0
  queueTick : Nat := 0
  node : Nat := 0
  info : Nat := 0
  body : Bytes := []
  final : Bool := false
deriving DecidableEq, Repr

/-- A session context (Table 3-4); OPEN_REQUESTS is counted from the pool and the admitted requests. -/
structure Session where
  state : Nat := 0
  slice : Nat := 0
  tenant : Nat := 0
  replyPort : Nat := 0
  keySlot : Nat := 0
  quantum : Nat := 0
  lastActivity : Nat := 0
deriving DecidableEq, Repr

/-- A request in the waiting pool (R69), with its arrival tick and full deadline (R65), and the pages of its prefix
hash chain computed so far (R132). `badForm` says that its message fails check 1 by R526. `examined` is the last tick that examined it and left
it waiting: a tick examines a request once (R70). -/
structure Waiting where
  req : Request
  arrival : Nat
  deadline : Nat
  hashed : Nat := 0
  badForm : Bool := false
  examined : Option Nat := none
deriving DecidableEq, Repr

/-- The kinds of work an item does. -/
inductive WorkKind where
  | attn | append | forkCopy | backward | fetch | release | weight | coarse | scan | merge | insert | delete | fold | other
deriving DecidableEq, Repr

/-- One key of an item's view (R115): where it is read and what it is. -/
structure ViewPage where
  page : Nat
  index : Nat
  tokens : Nat
  state : Nat
deriving DecidableEq, Repr

/-- A partial of one row and head (R178): FP32 m, l and o. -/
structure Partial where
  row : Nat
  head : Nat
  m : Nat
  l : Nat
  o : List Nat
deriving DecidableEq, Repr

/-- A work item: its number, region, booked cell, window and cycles (R74), and once issued its view. `state` is 0 booked,
1 issued and queued, 2 running, 3 done, 4 stopped; `order` its place in the cell's booking order; `pos` the absolute position of row 0
(R172). -/
structure Item where
  num : Nat := 0
  kind : WorkKind := .other
  region : Nat := 0
  cell : Nat := 0
  winStart : Nat := 0
  cycles : Nat := 0
  endTick : Nat := 0
  order : Nat := 0
  track : Nat := 0
  head0 : Nat := 0
  heads : Nat := 0
  pages : List Nat := []
  last : Bool := false
  state : Nat := 0
  view : List ViewPage := []
  thread : Nat := 0
  partials : List Partial := []
  pos : Nat := 0
  budget : Nat := 0
deriving DecidableEq, Repr

/-- A booking of phase 2: cell, window start, cycles, end g (R74). -/
structure RedBooking where
  cell : Nat := 0
  winStart : Nat := 0
  cycles : Nat := 0
  endTick : Nat := 0
deriving DecidableEq, Repr

/-- Where the reply is booked: port, window start, bytes, send tick s, notice tick n (R74, R78), the tick g of its completion and the
Q6 cells it books from there (R374), and on a host function the bytes of the ledger by tick (R380). `msg` is the length of the message, 0 for a
status-only final. -/
structure SendBooking where
  port : Nat := 0
  msg : Nat := 0
  winStart : Nat := 0
  bytes : Nat := 0
  sendTick : Nat := 0
  notice : Option Nat := none
  doneTick : Nat := 0
  cells : Nat := 0
  hostTicks : List (Nat × Nat) := []
deriving DecidableEq, Repr

/-- An admitted request. `phase` is 0 items to run, 1 phase 2 running, 2 final queued; `target` a number its opcode works on, `record`
the region and bytes of its admission record (R450), `tokens` its TOKEN_COUNT, `bases` the TOKENS of each of its tracks at admission, `needs` the weight descriptors it reads, `slots` tier-1 slots
reserved for what it writes (R329), `added` the gradient pages it has added into (R231). -/
structure Admitted where
  req : Request
  arrival : Nat := 0
  deadline : Nat := 0
  admitTick : Nat := 0
  slice : Nat := 0
  home : Nat := 0
  items : List Item := []
  red : RedBooking := {}
  send : SendBooking := {}
  staging : List (Nat × Nat) := []
  phase : Nat := 0
  lateSent : Bool := false
  tokenWritten : Bool := false
  tracks : List Nat := []
  tokenBase : Nat := 0
  armedPart : Bool := false
  heldBy : Option Nat := none
  held : Bool := false
  stateLost : Bool := false
  target : Nat := 0
  body : Bytes := []
  record : Nat × Nat := (0, 0)
  tokens : Nat := 0
  needs : List Nat := []
  bases : List Nat := []
  slots : List Nat := []
  added : List Nat := []
deriving DecidableEq, Repr

/-- The admission unit: the waiting pool in arrival order, the admitted requests in admission order, the
placements against an armed last that R56 found for earlier requests, the requests
examined in a tick (R70), and the sequences named in the round (R94). -/
structure Admission where
  sessions : Map Session := []
  pool : List Waiting := []
  admitted : List Admitted := []
  armed : List Admitted := []
  examTick : Nat := 0
  examined : Nat := 0
  roundSeqs : List Nat := []
  roundOf : Nat := 0
  orderNext : Nat := 0
deriving DecidableEq, Repr

/-! ### Sequences and pages (chapters 4 and 5) -/

/-- Page states (Table 4-8); `code` gives the value. -/
inductive PState where
  | free | spare | tail | sealed | compressed | spilled | prefetching | poisoned | quarantined | released
deriving DecidableEq, Repr

/-- The value of a page state (Table 4-8). -/
def PState.code : PState → Nat
  | .free => 0 | .spare => 1 | .tail => 2 | .sealed => 3 | .compressed => 4
  | .spilled => 5 | .prefetching => 6 | .poisoned => 7 | .quarantined => 8 | .released => 9

/-- A page descriptor (Table 4-5), with the state a QUARANTINED page had before (R412) and whether the copy pin and
the packer's pin are taken (R144). -/
structure Page where
  state : PState := .free
  prior : PState := .free
  moving : Bool := false
  replicated : Bool := false
  dirty : Bool := false
  tokens : Nat := 0
  format : Nat := 0
  t1 : Option Nat := none
  slow : Option Nat := none
  blockLen : List Nat := []
  ref : Nat := 0
  pin : Nat := 0
  lastUse : Nat := 0
  slice : Nat := 0
  node : Option Nat := none
  copies : Nat := 0
deriving DecidableEq, Repr

/-- A track of a sequence (Table 4-3): its page table in page-index order, tail included. `refill` is a spare being
zero-filled, with the boundary from which it is present (R120), `sealDue` the boundary at which a full
tail seals (Table 4-12). -/
structure Track where
  layer : Nat := 0
  group : Nat := 0
  noSpare : Bool := false
  tokens : Nat := 0
  booked : Nat := 0
  spare : Option Nat := none
  pages : List Nat := []
  chunks : List Nat := []
  refill : Option (Nat × Nat) := none
  sealDue : Option Nat := none
deriving DecidableEq, Repr

/-- Sequence states (Table 4-2). -/
inductive SState where
  | free | opened | closing | quarantined | lost | forking
deriving DecidableEq, Repr

/-- The value of a sequence state (Table 4-2). -/
def SState.code : SState → Nat
  | .free => 0 | .opened => 1 | .closing => 2 | .quarantined => 3 | .lost => 4 | .forking => 5

/-- The counters of a sequence descriptor (bytes 64 to 111 of Table 4-1). -/
structure SeqCounts where
  appends : Nat := 0
  attends : Nat := 0
  seals : Nat := 0
  cowCopies : Nat := 0
  noPage : Nat := 0
  spills : Nat := 0
  prefetches : Nat := 0
  poisoned : Nat := 0
  journalRound : Nat := 0
deriving DecidableEq, Repr

/-- The publishing side of a sequence (R133, R141): its token list, MODEL_TAG, P, the next index to publish, and the
tree nodes of its own pages. -/
structure Publish where
  tokens : List Nat := []
  tag : Nat := 0
  pages : Nat := 0
  next : Nat := 0
  nodes : Map Nat := []
deriving DecidableEq, Repr

/-- A sequence descriptor (Table 4-1) with its tracks in track-index order, and the session that opened it (Table 17-4). -/
structure Seq where
  id : Nat := 0
  state : SState := .free
  slice : Nat := 0
  home : Nat := 0
  forked : Bool := false
  attached : Bool := false
  layerFirst : Nat := 0
  layerCount : Nat := 0
  groupCount : Nat := 0
  format : Nat := 0
  spanBase : Nat := 0
  spanLimit : Nat := 0
  domain : Nat := 0
  parent : Nat := 0
  dir : Nat := 0
  openTick : Nat := 0
  lastAppend : Nat := 0
  cnt : SeqCounts := {}
  aBytes : Nat := 0
  bBytes : Nat := 0
  tracks : List Track := []
  publish : Option Publish := none
  session : Nat := 0xFFFF
deriving DecidableEq, Repr

/-- A rewrite of a page for a sequence (R145, R146): the page, and the copy's page while it is made. -/
structure PageRewrite where
  seq : Nat
  track : Nat
  index : Nat
  page : Nat
  copy : Option Nat
  op : Nat
  scalar : Nat
deriving DecidableEq, Repr

/-- The sequence manager. Free node-local numbers are a queue: those released come after those never used, in order of
release (R90). `fresh` counts the numbers never used. `slots` says which tier-1 slots are taken. -/
structure SeqMgr where
  seqs : Map Seq := []
  released : List Nat := []
  fresh : Nat := 0
  pages : Map Page := []
  slots : Map Nat := []
  chunkNext : Nat := 0
  dirNext : Nat := 0
  rewrites : List PageRewrite := []
  attachTick : Nat := 0
  attachedNow : Nat := 0
deriving DecidableEq, Repr

/-- A share domain (Table 5-8). Its key is a free value kept in the security engine (R127). -/
structure Domain where
  tenant : Nat := 0
  slice : Nat := 0
  keySlot : Nat := 0
  key : Bytes := []
  created : Nat := 0
  attaches : Nat := 0
deriving DecidableEq, Repr

/-- A prefix-tree node (Table 5-2). -/
structure PNode where
  hash : Bytes := []
  parent : Option Nat := none
  pageSet : List Nat := []
  domain : Nat := 0
  index : Nat := 0
  live : Bool := false
  tick : Nat := 0
  tag : Nat := 0
  spanBase : Nat := 0
  format : Nat := 0
  layerFirst : Nat := 0
  layerCount : Nat := 0
  groupCount : Nat := 0
  aBytes : Nat := 0
  bBytes : Nat := 0
  tokens : List Nat := []
deriving DecidableEq, Repr

/-- The prefix tree and its domains. -/
structure Sharing where
  domains : Map Domain := []
  nodes : Map PNode := []
  nodeNext : Nat := 0
deriving DecidableEq, Repr

/-! ### Models, weights, programs (chapters 6, 7, 11) -/

/-- A model record (Table 6-1); `freeFrom` is the first boundary at which a RETIRING model can become FREE (R185). -/
structure Model where
  state : Nat := 0
  layout : Nat := 0
  tenant : Nat := 0
  layerFirst : Nat := 0
  layerCount : Nat := 0
  qHeads : Nat := 0
  kvHeads : Nat := 0
  groupKv : Nat := 0
  format : Nat := 0
  posMode : Nat := 0
  pairing : Nat := 0
  dQk : Nat := 0
  dRope : Nat := 0
  dLat : Nat := 0
  dV : Nat := 0
  ropeBase : Nat := 0
  scale : Nat := 0
  softcap : Nat := 0
  slopeExp : Nat := 0
  pageFix : Nat := 0
  pageRh : Nat := 0
  outRh : Nat := 0
  weightDir : Nat := 0xFFFFFFFF
  freeFrom : Nat := 0
deriving DecidableEq, Repr

/-- A tenant program slot (R212, R216). `readyAfter` is the boundary by which the copy has ended,
and of a RETIRING slot the first at which it can become FREE. -/
structure Prog where
  state : Nat := 0
  tenant : Nat := 0
  loadTick : Nat := 0
  traps : Nat := 0
  header : Bytes := []
  code : Bytes := []
  digest : Bytes := []
  readyAfter : Nat := 0
deriving DecidableEq, Repr

/-- A thread's state (Table 7-1), scratch apart: x1 to x31, v0 to v15 (64 lanes of FP32 bits each), ACC (32 × 32 FP32 bits),
pc, the tile registers granted, the item it runs, and rows and heads already written by PART.WR (R202). `tokensOut` lists the near-bank
commands whose tokens are out, `remoteOut` counts the remote accesses not yet answered, `load` is the remote load that the thread waits for (0 x, 1 v,
2 tile; register; MOD). `facets` lists the facets (page, facet) that the item has expanded, `facetHold` the facet hold (R250). `ended` is
set at END. -/
structure Thread where
  running : Bool := false
  session : Nat := 0
  request : Nat := 0
  item : Nat := 0
  program : Option Nat := none
  x : Map Nat := []
  v : Map (List Nat) := []
  acc : Map Nat := []
  pc : Nat := 0
  tiles : List Nat := []
  written : List (Nat × Nat) := []
  tokensOut : List Nat := []
  remoteOut : Nat := 0
  load : Option (Nat × Nat × Nat) := none
  facets : List (Nat × Nat) := []
  facetHold : List (Nat × Nat) := []
  ended : Bool := false
deriving DecidableEq, Repr

/-- A tile register (R187): 2,048 bytes of elements and the 64-byte scale field. -/
structure Tile where
  data : Bytes := []
  scales : Bytes := []
deriving DecidableEq, Repr

/-- The cells: threads and tile registers by number, and the items issued and not yet started, per cell, in booking order. -/
structure Cells where
  threads : Map Thread := []
  tiles : Map Tile := []
  queues : Map (List (Nat × Nat × Nat)) := []
deriving DecidableEq, Repr

/-- A weight descriptor (Table 6-8) with its residency record (Table 11-7), its tile digests (R300), the bytes loaded so far
(R299), and the refetch under way (R306): the poisoned tiles, each with the place of the source asked and the tick it was asked. -/
structure Weight where
  model : Nat := 0
  layer : Nat := 0
  kind : Nat := 0
  state : Nat := 0
  wformat : Nat := 0
  bytes : Nat := 0
  homeNode : Nat := 0
  replicas : List Nat := []
  loadTick : Nat := 0
  digest : Bytes := []
  res : Nat := 0
  slice : Nat := 0
  t1 : Option Nat := none
  slots : List Nat := []
  slow : Option Nat := none
  lastUse : Nat := 0
  holdTick : Nat := 0
  source : Nat := 0xFF
  loaded : Nat := 0
  tileDigests : List Bytes := []
  poisoned : List (Nat × Nat × Nat) := []
  moving : Bool := false
  prefetchDone : Nat := 0
  lastPart : Option (Nat × Nat) := none
  arrived : List Nat := []
deriving DecidableEq, Repr

/-! ### Backward, packers, stacks (chapters 8 to 10) -/

/-- A gradient record (Table 8-5). `zeroDue` is the boundary from which its slots are zero and it is LIVE (R229). -/
structure Grad where
  seq : Nat := 0
  track : Nat := 0
  index : Nat := 0
  slot : Nat := 0
  count : Nat := 0
  state : Nat := 0
  isPartial : Bool := false
  lastAdd : Nat := 0
  adds : Nat := 0
  zeroDue : Nat := 0
deriving DecidableEq, Repr

/-- A packer at work on a page (R243), with its start boundary and its copy of the raw slot (R116). `repack` marks a rewrite of
the blocks as RAW before a page rewrite (R248). -/
structure Packer where
  page : Nat
  region : Nat
  start : Nat
  raw : Bytes
deriving DecidableEq, Repr

/-- A line of a stack: 64 data bytes as one number, byte 0 lowest, and the side band (Table 10-4) without its check symbols. -/
structure Line where
  data : BitVec 512 := 0
  share : BitVec 16 := 0
  tag : BitVec 32 := 0
deriving DecidableEq, Repr

/-- What the lines of a slot that are not listed read as: zero data with this TAG, and the SHARE that the owner gives (R261). -/
structure Fill where
  owner : Nat := 0
  tag : Nat := 0
deriving DecidableEq, Repr

/-- A near-bank command in a channel's queue (Table 10-5), with its issuer's class (W or M), the lines done, whether poison was
written, and the thread or engine the fence token returns to. -/
structure NbCommand where
  op : Nat
  args : NbArgs
  workClass : Bool := true
  issuer : Nat := 0
  done : Nat := 0
  poisoned : Bool := false
  id : Nat := 0
deriving DecidableEq, Repr

/-- A fence token (Table 10-8) returned, with the number of the command it answers. -/
structure FenceToken where
  fenceId : Nat
  status : Nat
  linesDone : Nat
  tick : Nat
deriving DecidableEq, Repr

/-- The memory stacks: lines by stack × 2^30 + line address, the fill of whole slots that were zeroed by stack × 2^22 + slot, command queues by stack × 32 + channel, tokens returned, rows mapped
to spare rows as stack, channel, bank, spare, row (R278), errors per stack, the burst taken per channel, and gradient records
that become PARTIAL once an issuer's last fence token is back (R233). -/
structure Stacks where
  lines : Map Line := []
  fills : Map Fill := []
  queues : Map (List NbCommand) := []
  tokens : List FenceToken := []
  cmdNext : Nat := 0
  rowMap : List (List Nat) := []
  repairs : List (List Nat) := []
  ce : Map Nat := []
  ue : Map Nat := []
  lastBurst : Map Nat := []
  marks : List (Nat × Nat) := []
deriving DecidableEq, Repr

/-! ### Tiers (chapter 11) and vector search (chapter 12) -/

/-- A quota record (Table 11-4) without the use counts, which are counted from what is held. -/
structure Quota where
  high : Nat := 95
  low : Nat := 90
  t0Kib : Nat := 0
  t1Slots : Nat := 0
  slowSlots : Nat := 0
  spilling : Bool := false
  refillFailed : Bool := false
deriving DecidableEq, Repr

/-- A slow-tier slot: its write generation and what the expander holds: the stored units, in clear here, and who wrote them
(slice, bind generation, generation), which is what the MAC of R297 binds. -/
structure SlowSlot where
  gen : Nat := 0
  used : Bool := false
  data : List (BitVec 512) := []
  slice : Nat := 0
  bindGen : Nat := 0
deriving DecidableEq, Repr

/-- A slow-tier read of a page booked or under way (R292): the tick of the read, whether it has started, from which queue, and the units that have arrived. -/
structure PageRead where
  page : Nat
  tick : Nat
  started : Bool := false
  background : Bool := false
  dest : Nat := 0
  request : Nat := 0
  arrived : List Nat := []
deriving DecidableEq, Repr

/-- The tiers: quotas by slice, the staged QUOTA_SET, the slow-slot table, reads, the background queue, spills under way as page (or 2^40 +
weight descriptor), first slow slot and start tick; reads of weight tiles by tick × 2 + port. -/
structure Tiers where
  quotas : Map Quota := []
  stagedQuota : Option Bytes := none
  slow : Map SlowSlot := []
  reads : List PageRead := []
  background : List Nat := []
  spillsNow : List (Nat × Nat × Nat) := []
  weights : Map Weight := []
  weightReads : Map Nat := []
deriving DecidableEq, Repr

/-- A vector record (Table 12-2): elements as stored bytes; `foldGen` is the generation that folded a side entry in, 0 for none. -/
structure VRec where
  id : Nat
  tag : Nat
  scale : Nat
  norm2 : Nat
  list : Nat
  kind : Nat
  foldGen : Nat := 0
  commit : Nat := 0
  elems : Bytes
  poisoned : Bool := false
deriving DecidableEq, Repr

/-- A version of a list: the generations it is current for, `toGen` none while it is current. -/
structure ListVersion where
  list : Nat
  fromGen : Nat
  toGen : Option Nat
  recs : List VRec
  slots : List Nat := []
deriving DecidableEq, Repr

/-- An index record (Table 12-1) and what it stores. Side entries stand in commit order; `treeGen` is the generation whose ball
tree is built (R331); `loadDue` the boundary from which its centroids are written (R317), `freeFrom` the first at which a RETIRING index can
become FREE (R318). -/
structure VIndex where
  state : Nat := 0
  metric : Nat := 0
  tenant : Nat := 0
  slice : Nat := 0
  elem : Nat := 0
  dim : Nat := 0
  centroids : Nat := 0
  sideMax : Nat := 0
  vecMax : Nat := 0
  regionMask : Nat := 0
  home : Nat := 0
  gen : Nat := 0
  foldTick : Nat := 0
  digest : Bytes := []
  centroidTab : List Bytes := []
  centroidBad : Bool := false
  side : List VRec := []
  lists : List ListVersion := []
  slots : List Nat := []
  treeGen : Option Nat := none
  loadDue : Option Nat := none
  freeFrom : Nat := 0
deriving DecidableEq, Repr

/-! ### Links and queues (chapters 13 and 14) -/

/-- A unit of traffic in an egress queue: its Camris frame type (Table 13-5), the endpoint or node it goes to, its bytes, and,
for a reply, the reply with the notice tick it leaves by (R78) and the window and bytes booked for it. `sent` counts the
message bytes whose frames have started, `msgId` is the number its first frame was given (Table 13-4). -/
structure OutMsg where
  ftype : Nat
  dst : Nat := 0xFFFF
  bytes : Bytes := []
  reply : Option Reply := none
  notice : Option Nat := none
  winStart : Nat := 0
  booked : Nat := 0
  queuedAt : Nat := 0
  sent : Nat := 0
  slice : Nat := 64
  msgId : Option Nat := none
deriving DecidableEq, Repr

/-- A message being put together from frames (R342, R344): its frame type, source, the bytes by offset, the total length once
the LAST frame is known, the tick of the latest frame. -/
structure InMsg where
  ftype : Nat
  src : Nat
  msgId : Nat
  vc : Nat
  parts : List (Nat × Bytes) := []
  total : Option Nat := none
  lastTick : Nat := 0
  keyId : Nat := 0
deriving DecidableEq, Repr

/-- One path of Ethernet mode (R351, R352), as sender or receiver: next number, unacknowledged frames as number, tick sent,
resends, bytes; received numbers above the next one expected; whether an acknowledgement is owed since a tick. -/
structure Path where
  next : Nat := 0
  unacked : List (Nat × Nat × Nat × Bytes) := []
  expect : Nat := 0
  seen : List Nat := []
  owedSince : Option Nat := none
deriving DecidableEq, Repr

/-- A link port beyond its dictionary entries: the SEQ of the next DATA flit and of the latest received in order, unacknowledged flits as SEQ and data (R340), the
ticks of its replays (R341), the replay under way as tick and first SEQ, credits held per channel and since when one has run out (R348), cells owed to
the peer and cells withheld from it (R377), paused priorities (R350) and XOFF sent (R378), training and DOWN ticks, whether its loopback test runs, the
tick of the latest valid reception, received bytes not yet a whole frame, MAC addresses by endpoint (R345), the peer's firmware and the
latest frame started. -/
structure Port where
  nextSeq : Nat := 0
  rxSeq : Nat := 4095
  unacked : List (Nat × Bytes) := []
  replayTicks : List Nat := []
  replayStart : Option (Nat × Nat) := none
  discarding : Bool := false
  nakOwed : Bool := false
  credits : Map Nat := []
  owed : Map Nat := []
  withheld : Map Nat := []
  stalledSince : Map Nat := []
  paused : Nat := 0
  xoffSent : Nat := 0
  trainStart : Nat := 0
  downTick : Nat := 0
  testing : Bool := false
  lastRx : Nat := 0
  rxStream : Bytes := []
  destMac : Map Nat := []
  peerFw : Nat := 0
  txFrame : Bytes := []
deriving DecidableEq, Repr

/-- A port's shaping state (R367, R369): deficits, the DRR position and whether its visit has had its quantum, the gate unit of the tick, the time within
the tick in ps at which the latest frame ends, the Q7 bytes of a tick under the cap (R347), and the queues whose head frame a gate rule has held. -/
structure Shaper where
  deficits : Map Nat := []
  pos : Nat := 0
  visited : Bool := false
  unit : Nat := 0
  busy : Nat := 0
  capTick : Nat := 0
  capUsed : Nat := 0
  held : List Nat := []
deriving DecidableEq, Repr

/-- The link complex: ports, queues by port × 8 + queue, shapers, messages being received by port, paths by endpoint × 8 + channel,
message numbers, histograms, the source endpoint of each session's latest request (R345). -/
structure Links where
  ports : Map Port := []
  queues : Map (List OutMsg) := []
  shapers : Map Shaper := []
  inbound : Map (List InMsg) := []
  tx : Map Path := []
  rx : Map Path := []
  msgNext : Nat := 0
  hist : Map Nat := []
  replyDst : Map Nat := []
deriving DecidableEq, Repr

/-! ### Slices and composition (chapter 15) -/

/-- Slice states (Table 15-3). -/
inductive SliceState where
  | free | bound | releasing | scrubbing
deriving DecidableEq, Repr

/-- The value of a slice state. -/
def SliceState.code : SliceState → Nat
  | .free => 0 | .bound => 1 | .releasing => 2 | .scrubbing => 3

/-- A slice record (Table 15-2), the bind that waits (R392), and the release: its tick, T1_USED and channels at that tick, the
drain bound and the scrub's end (R438, R440). -/
structure Slice where
  state : SliceState := .free
  bindGen : Nat := 0
  tenant : Nat := 0
  blocks : Nat := 0
  channels : Nat := 0
  ports : Nat := 0
  sessFirst : Nat := 0
  sessCount : Nat := 0
  stateTick : Nat := 0
  pendingBind : Option Bytes := none
  usedAtRelease : Nat := 0
  drainTick : Nat := 0
  scrubEnd : Nat := 0
deriving DecidableEq, Repr

/-- A composition map (Table 15-6). -/
structure CompMap where
  raw : Bytes := []
  epoch : Nat := 0
  group : Nat := 0
  role : Nat := 0
  memberCount : Nat := 0
  weltA : Nat := 0xFFFF
  weltB : Nat := 0xFFFF
  spare : Nat := 0xFFFF
  members : List Nat := []
deriving DecidableEq, Repr

/-- What a peer's latest round header said (R405), by node. -/
structure PeerHeader where
  raw : Bytes := []
  tick : Nat := 0
  round : Nat := 0
  matched : Bool := false
deriving DecidableEq, Repr

/-- The composition unit: maps, the old epoch's end of admission and drain tick (R399), headers by node, the members reported silent,
a moving slice's pre-copied pages, the local numbers of sequences still moving in and the bound of the move (R401 to R403), where pages that came in
stand (source node, page there, page here), the largest D − S admitted under the current and the previous epoch (R399), and whether and why the node is
out of rounds with the state it returns to (R410). -/
structure Compose where
  slices : Map Slice := []
  current : Option CompMap := none
  previous : Option CompMap := none
  stagedMap : Option CompMap := none
  commitTick : Nat := 0
  admissionEnd : Option Nat := none
  headers : Map PeerHeader := []
  silent : List Nat := []
  outCause : Nat := 0
  returnState : Nat := 0
  rejoinPending : Bool := false
  preCopied : List Nat := []
  moving : List Nat := []
  moveDue : Nat := 0
  moved : List (Nat × Nat × Nat) := []
  maxLead : Nat := 0
  prevLead : Nat := 0
deriving DecidableEq, Repr

/-! ### Security and recovery (chapters 16 and 17) -/

/-- A key slot (Table 16-2) with its key material, its frame counter (R354) and its scheduled retirement (R420). -/
structure KeySlot where
  state : Nat := 0
  ktype : Nat := 0
  tenant : Nat := 0
  slice : Nat := 0
  keyId : Nat := 0
  liveTick : Nat := 0
  key : Bytes := []
  nonce : Nat := 0
  retireAt : Option Nat := none
deriving DecidableEq, Repr

/-- The security engine: key slots, KEY_IDs used since reset (R419), the KEM and identity keys of this power-up (R424, R426),
the attestation request, the node's state at its boundary and the report (R429), tenants inspected with the tick (R434), what the running
images are (R427), and the operator-root digest in force since the latest reset (R561). -/
structure Security where
  keys : Map KeySlot := []
  usedIds : List Nat := []
  kemPublic : Bytes := []
  kemPrivate : Bytes := []
  dikPublic : Bytes := []
  dikPrivate : Bytes := []
  attestTenant : Nat := 0
  attestNonce : Bytes := []
  attestSnap : Bytes := []
  attestIgnored : Nat := 0
  attestDest : Option (Nat × Nat) := none
  report : Bytes := []
  inspected : Map Nat := []
  fwDigests : Bytes := []
  fwSvn : Nat := 0
  fwFloor : Nat := 0
  fwVersion : Nat := 0
  opRoot : Bytes := []
  jtagUsed : Bool := false
  awlUsed : Bool := false
deriving DecidableEq, Repr

/-- Unit kinds of Table 17-2, numbered from 1. -/
inductive UnitKind where
  | thread | cell | block | channel | region | port | chip
deriving DecidableEq, Repr

/-- The row number of a unit kind in Table 17-2. -/
def UnitKind.code : UnitKind → Nat
  | .thread => 1 | .cell => 2 | .block => 3 | .channel => 4 | .region => 5 | .port => 6 | .chip => 7

/-- An error record (Table 17-1). -/
structure ErrRec where
  tick : Nat
  level : Nat
  kind : UnitKind
  unit : Nat
  address : Nat := 0xFFFFFFFF
  bit : Nat := 0xFFFF
  outcome : Nat := 0
  requestId : Nat := 0xFFFFFFFF
  session : Nat := 0xFFFF
deriving DecidableEq, Repr

/-- A unit out of service: since when, whether its targeted test has started, whether it is retired. -/
structure UnitState where
  since : Nat := 0
  started : Bool := false
  retired : Bool := false
  onDemand : Bool := false
deriving DecidableEq, Repr

/-- One change since the latest cut (R455): its kind (1 token write, 2 open, 3 fork, 4 close, 5 page-table change, 6 session change,
7 release), SEQUENCE_ID, track, position, bytes, and the slice whose change it is. -/
structure JEntry where
  kind : Nat
  seq : Nat
  track : Nat := 0
  pos : Nat := 0
  bytes : Bytes := []
  slice : Nat := 64
deriving DecidableEq, Repr

/-- A cut sent and not yet acknowledged by every partner (R455). -/
structure Cut where
  round : Nat
  tick : Nat
  pages : List Nat
  seqs : List Nat
  waiting : List Nat
deriving DecidableEq, Repr

/-- A page of another node held here: its source node and page ID there, its descriptor fields, and the local slot, charged to `slice`, that holds
it. `mismatch` is set by a replica comparison that failed (R412). -/
structure Replica where
  source : Nat
  page : Nat
  slice : Nat := 0
  slot : Nat := 0
  state : Nat := 4
  tokens : Nat := 16
  format : Nat := 0
  blockLen : List Nat := []
  mismatch : Bool := false
deriving DecidableEq, Repr

/-- A journal entry held for another node, with the round and tick of its cut. -/
structure Held where
  source : Nat
  round : Nat
  tick : Nat
  entry : JEntry
deriving DecidableEq, Repr

/-- A cut being received from a node: the round, its tick, and the replicas still to come (R455). -/
structure CutIn where
  source : Nat
  round : Nat
  tick : Nat
  left : Nat
deriving DecidableEq, Repr

/-- A loss-report record (Table 17-6). -/
structure LossRec where
  seqId : Nat
  session : Nat
  node : Nat
  host : Nat
  reason : Nat
  tick : Nat
deriving DecidableEq, Repr

/-- A roster record (Table 17-4). -/
structure Roster where
  seqId : Nat
  session : Nat
  host : Nat
  node : Nat
  op : Nat
deriving DecidableEq, Repr

/-- A takeover stream (R460): the command's fields, the SEQUENCE_IDs still to send, next first, and the bytes that the ticks so far still allow. -/
structure Takeover where
  lost : Nat
  spare : Nat
  slice : Nat
  spareSlice : Nat
  left : List Nat := []
  credit : Nat := 0
deriving DecidableEq, Repr

/-- A sequence coming in by MOVE frames (R403, R453, R460): the node that sends it, its descriptor once it has come, what the sender said of the pages and tokens,
the slice it goes to, and for a takeover the lost node and the tick of the restored cut. -/
structure Incoming where
  source : Nat
  slice : Nat
  image : Bytes := []
  tokens : List JEntry := []
  lost : Option Nat := none
  cutTick : Nat := 0
  session : Nat := 0
deriving DecidableEq, Repr

/-- Errors and recovery: the log, units out of service by kind × 2^20 + number, retirements per unit, the journal, cuts in flight,
replicas, journals and session tables held for other nodes, cuts coming in, the latest cut held per node as round and tick, restores under way as page and
due tick, restored pages whose bytes have come, sequences coming in by SEQUENCE_ID, loss reports, rosters, takeovers, nodes lost. -/
structure Recovery where
  log : List ErrRec := []
  units : Map UnitState := []
  retiredIn : Map Nat := []
  journal : List JEntry := []
  cuts : List Cut := []
  cutRound : Option Nat := none
  replicas : List Replica := []
  heldJournal : List Held := []
  sessionsHeld : List (Nat × Nat × Nat) := []
  cutsIn : List CutIn := []
  cutsHeld : Map (Nat × Nat) := []
  restores : List (Nat × Nat) := []
  arrivedPages : List Replica := []
  losses : List LossRec := []
  rosters : List Roster := []
  takeovers : List Takeover := []
  takeoverDue : Option Nat := none
  takeoverNodes : List Nat := []
  lostNodes : List Nat := []
  incoming : Map Incoming := []
deriving DecidableEq, Repr

/-! ### Self-test (chapter 18) -/

/-- A test slice running (R468): its class, target (16 for the chip), place in the class's slices, window end, and whether a
request of R479 put it there. -/
structure RunSlice where
  cls : Nat
  target : Nat
  place : Nat
  start : Nat
  winEnd : Nat
  onDemand : Bool := false
deriving DecidableEq, Repr

/-- The self-test controller: the cursor per class × 17 + target, slices run this cycle per the same key, slices running, on-demand
requests waiting, spare rows used per memory, tests under way on DOWN ports. -/
structure SelfTest where
  cursor : Map Nat := []
  done : Map Nat := []
  running : List RunSlice := []
  demand : List (UnitKind × Nat) := []
  spares : Map Nat := []
  started : Bool := false
  overrun : Bool := false
  pendingRepairs : List (List Nat × Nat) := []
deriving DecidableEq, Repr

/-! ### Rings and the dictionary services (chapters 19, 20), host port and slow-tier ports (21), power (22), pins (23) -/

/-- A block write that is open or was discarded (R495). -/
structure BlockWrite where
  source : Nat
  key : Nat
  data : Bytes
  lastTick : Nat
  discarded : Bool := false
deriving DecidableEq, Repr

/-- A frame queued on a ring in the tick: the ring, the header's fields (TICK is the tick's), the payload before its tag, and the ports it leaves by (0 east,
1 west, 2 both). A frame that is forwarded is `raw`: its payload holds the whole frame. -/
structure RingOut where
  ring : Nat
  vtype : Nat
  flags : Nat
  dst : Nat
  seq : Nat
  payload : Bytes
  hops : Nat := 128
  src : Nat := 0
  port : Nat := 2
  auth : Bool := false
  keyId : Nat := 0
  ctr : Nat := 0
  raw : Bool := false
deriving DecidableEq, Repr

/-- A ring's state beyond its entries: ports up, whether each passes its link test, beacon numbers, the tick the own beacon last
returned, whether the eyelet is open. -/
structure RingUnit where
  eastUp : Bool := true
  westUp : Bool := true
  linkTest : Bool := true
  beaconSeq : Nat := 0
  lastBeacon : Nat := 0
  lastReturn : Option Nat := none
  eyelet : Bool := false
deriving DecidableEq, Repr

/-- The management complex: rings, frames queued, the cache of applied commands (source, SEQ, tick, response), block writes, the
event log, ring keys with the tick of the latest install, watchdog. -/
structure Management where
  a : RingUnit := {}
  b : RingUnit := {}
  out : List RingOut := []
  cache : List (Nat × Nat × Nat × Bytes) := []
  blocks : List BlockWrite := []
  events : List Bytes := []
  ringKey : Option (Nat × Bytes) := none
  prevKey : Option (Nat × Bytes) := none
  keyTick : Nat := 0
  ringNonce : Nat := 0
  portStats : Map Nat := []
  watchdogOk : Bool := true
  mgmtFwOk : Bool := false
  outSeq : Nat := 0
deriving DecidableEq, Repr

/-- A session's mailbox page (Table 21-3). -/
structure Mailbox where
  sqBase : Nat := 0
  sqSize : Nat := 0
  cqSize : Nat := 0
  cqBase : Nat := 0
  sqTail : Nat := 0
  sqHead : Nat := 0
  cqHead : Nat := 0
  cqTail : Nat := 0
  msix : Nat := 0
  enable : Bool := false
  mstatus : Nat := 0
  phase : Bool := true
deriving DecidableEq, Repr

/-- A virtual function's DMA ring (Table 21-4) and attestation registers (R528). -/
structure VFunc where
  dmaBase : Nat := 0
  dmaSize : Nat := 0
  dmaTail : Nat := 0
  dmaHead : Nat := 0
  dmaVector : Nat := 0
  dmaEnable : Bool := true
  nonce : Bytes := []
  reportAddr : Nat := 0
  astatus : Nat := 0
deriving DecidableEq, Repr

/-- An outstanding read of host memory for a session's submission entry and its message (R526): the session, the ring index, the tick it was
issued, the slice it was issued for, and the bytes that have come. -/
structure HostRead where
  owner : Nat
  index : Nat
  issued : Nat
  slice : Nat
  data : Bytes := []
deriving DecidableEq, Repr

/-- A DMA message waiting for the host port (R381, R528): its session, function, host address, data, and for the last one of a descriptor the
ring index and the DSTATUS written back after it, and the tick it was queued. -/
structure DmaPart where
  session : Nat
  func : Nat
  addr : Nat
  data : Bytes
  last : Option (Nat × Nat) := none
  queuedAt : Nat := 0
deriving DecidableEq, Repr

/-- What the node wrote to host memory: an address, the bytes; MSI-X messages are kept as function and vector of the tick. -/
structure HostWrite where
  func : Nat
  addr : Nat
  bytes : Bytes
deriving DecidableEq, Repr

/-- The host port: function-0 registers (Table 21-2), what the latest read of BAR 2 returned, the open command, mailboxes by session, virtual functions, reads outstanding,
replies waiting for host functions, what was written, vectors raised in the tick, entries fetched by function, where replies go by request (address, limit,
ring index), DMA messages waiting, the DRR's deficits, place and whether its visit has had its quantum, IDE keys, doorbells dropped. -/
structure HostPort where
  cmdDoorbell : Nat := 0
  rspSeq : Nat := 0
  eqTail : Nat := 0
  eqHead : Nat := 0
  eqDrops : Nat := 0
  space4 : Nat := 0
  space4Data : Bytes := []
  cmdOpen : Bool := false
  command : Bytes := []
  response : Bytes := []
  eventQueue : Map Bytes := []
  unlocked : Bool := false
  boxes : Map Mailbox := []
  funcs : Map VFunc := []
  reads : List HostRead := []
  out : List OutMsg := []
  writes : List HostWrite := []
  msix : List (Nat × Nat) := []
  fetched : Map Nat := []
  replyAddr : Map (Nat × Nat × Nat) := []
  deficits : Map Nat := []
  drrPos : Nat := 0
  drrIn : Bool := false
  dma : List DmaPart := []
  linkUp : Bool := true
  ideKeys : Map Bytes := []
deriving DecidableEq, Repr

/-- A slow-tier port (R530, R531): whether it is up, what its device reports, and the device's vendor, device and serial numbers. -/
structure SlowPort where
  up : Bool := false
  capacity : Nat := 0
  latencyNs : Nat := 0
  bandwidth : Nat := 0
  present : Bool := false
  ident : Nat := 0
deriving DecidableEq, Repr

/-- Power and start-up (`round` is the number of the round whose maxima are kept): the round's largest inlet and outlet temperatures (R539), the sum of its power samples
as FP32 and their number, quiet ticks (R544), the boot stage reached (0 not
begun, 1 to 4 of Table 22-4, 7 once PREOP has been entered), whether PREOP waits for the drain (R548), a pending OPERATIONAL entry, whether
OPERATIONAL has been reached (R428), the round log, whether the coolant alarm input is low, whether the module reset input is, and whether the
stacks are powered down. -/
structure Power where
  inletMax : Nat := 0
  outletMax : Nat := 0
  wattSum : Nat := 0
  samples : Nat := 0
  quiet : Nat := 0
  round : Nat := 0
  stage : Nat := 0
  draining : Bool := false
  toOperational : Bool := false
  opReached : Bool := false
  log : List Bytes := []
  alarmLow : Bool := false
  inReset : Bool := false
  stacksOff : Bool := false
deriving DecidableEq, Repr

/-- A mutable record of the package record (Table 23-5): generation, minimum SVN, active bank, operator-root digest. -/
structure Mutable where
  gen : Nat := 0
  svnMin : Nat := 0
  bank : Nat := 0
  opRoot : Bytes := []
  valid : Bool := true
deriving DecidableEq, Repr

/-- The package record (R559): identity, stack identities, two copies of the mutable record, the repair records, firmware images by
bank, helper data and certificates. It survives every reset. -/
structure Package where
  headerOk : Bool := true
  identity : Bytes := []
  stackIds : Bytes := []
  partNumber : Bytes := []
  ringMacs : Bytes := []
  copyA : Mutable := {}
  copyB : Mutable := {}
  repairs : List Bytes := []
  banks : Map Bytes := []
  puf : Bytes := []
  certs : Bytes := []
  certKey : Bytes := []
  romSigner : Bytes := []
deriving DecidableEq, Repr

end Sys2Proof.Machine
end

