-- ==== Sys2Proof/Machine/Node.lean ====
section
/-!
DEFINITION. The node: everything the manual gives it but its clock, its on-die memory and its package record, which stand
beside it in `State`. Scalar entries of the object dictionary are in `regs`, by the key of Dict.lean; a listed entry is
one that differs from the default of its table.
-/

namespace Sys2Proof.Machine

/-- The built-in start-up last (R547, Table 22-5): an ADMIT window, for every region COMPUTE, MAINT with scrub, REDUCE and five
SELFTEST windows, and the chip's three SELFTEST windows, sorted by target, then start. -/
def startupLast : Last :=
  { windows :=
      (List.range 16).flatMap (fun r =>
        [⟨24, 1000, 2, 0, r⟩, ⟨24, 1000, 5, 4, r⟩, ⟨1024, 80, 3, 0, r⟩, ⟨1200, 40, 6, 1, r⟩, ⟨1240, 40, 6, 2, r⟩,
         ⟨1280, 40, 6, 3, r⟩, ⟨1320, 40, 6, 4, r⟩, ⟨1360, 40, 6, 5, r⟩]) ++
      [⟨0, 24, 1, 255, 0xFFFF⟩, ⟨1200, 40, 6, 6, 0xFFFF⟩, ⟨1240, 40, 6, 7, 0xFFFF⟩, ⟨1280, 40, 6, 8, 0xFFFF⟩]
    regionMask := 0xFFFF }

/-- The node's state. `staged` holds the staged values of RWS entries (R53), `nextRound` the pending values of next-round
entries (R61); `slow` the slow-tier ports; `straps` the node number read in stage 3 (R556); `pins` the levels of the
NODE_ID pins. `tops` keeps how many records each table of the dictionary has had since
reset (R512). `freeCount` counts the free values drawn: the model's own field, not the manual's. -/
structure Node where
  regs : Map Nat := []
  staged : Map Nat := []
  nextRound : Map Nat := []
  time : TimeUnit := {}
  sched : Sched := { active := startupLast }
  adm : Admission := {}
  seqs : SeqMgr := {}
  share : Sharing := {}
  models : Map Model := []
  progs : Map Prog := []
  cells : Cells := {}
  grads : Map Grad := []
  packers : List Packer := []
  packOrder : List (Nat × Nat) := []
  stk : Stacks := {}
  tiers : Tiers := {}
  indexes : Map VIndex := []
  links : Links := {}
  comp : Compose := {}
  sec : Security := {}
  rcv : Recovery := {}
  test : SelfTest := {}
  mgmt : Management := {}
  host : HostPort := {}
  slow : Map SlowPort := []
  power : Power := {}
  straps : Nat := 1023
  pins : Nat := 1023
  tops : Map Nat := []
  freeCount : Nat := 0
deriving DecidableEq, Repr

end Sys2Proof.Machine
end

