-- ==== Sys2Proof/Machine/State.lean ====
section
/-!
DEFINITION. The state of the block: the commands waiting, the clock, the on-die memory of fabric address space 3, the package
record and the node; the closed lists of faults and refusals; and the state after reset.
-/

namespace Sys2Proof.Machine

/-- The clock: `tick` is the tick count (R29, R34), the boundary at which the batch now taken is applied; `boundaryNs` the time
in ns of that boundary on the time scale of the commands' edges. -/
structure Clock where
  tick : Nat := 0
  boundaryNs : Nat := 0
deriving DecidableEq, Repr

/-- The state. `mem` lists the bytes of space 3 (Table 7-2) that differ from 0, by address, strictly rising. -/
structure State where
  pending : List Instr
  clock : Clock
  mem : List Host.Cell
  pkg : Package
  node : Node
deriving DecidableEq, Repr

/-- Stops of the machine. The manual gives every command an effect, so no meaning raises one. -/
inductive Fault where
  /-- Kept so that the type is inhabited; nothing raises it (safe: no run reaches it). -/
  | unreachable
deriving DecidableEq, Repr

/-- Refusals by name. -/
inductive Refusal where
  /-- A row of the table whose meaning is not written; raised only by an arm of the dispatch (safe: the run stops). -/
  | notModelled (mnemonic : String)
deriving DecidableEq, Repr

/-- The state right after reset: the dictionary at its defaults, every table empty, nothing pending. -/
def State.reset : State :=
  { pending := [], clock := {}, mem := [], pkg := {}, node := {} }

end Sys2Proof.Machine
end

