-- ==== Sys2Proof/Machine/Ops.lean ====
section
/-!
DEFINITION. The named operations that every chapter uses: dictionary values, free values, the round and its windows, events,
error records, node states, and the queueing of replies.
-/

namespace Sys2Proof.Machine

/-! ### Dictionary values -/

/-- The value kept under a dictionary key. -/
def Node.reg (n : Node) (k : Nat) : Nat := Map.get (Dict.dflt k) n.regs k

/-- Write the value kept under a dictionary key. -/
def Node.setReg (n : Node) (k v : Nat) : Node := { n with regs := Map.set (Dict.dflt k) n.regs k v }

/-- Add to a U64 counter. -/
def Node.bumpBy (n : Node) (k d : Nat) : Node := n.setReg k ((n.reg k + d) % 2 ^ 64)

/-- Add 1 to a U64 counter. -/
def Node.bump (n : Node) (k : Nat) : Node := n.bumpBy k 1

/-- Add 1 to a U32 counter. -/
def Node.bump32 (n : Node) (k : Nat) : Node := n.setReg k ((n.reg k + 1) % 2 ^ 32)

/-- Byte `i` of an OCTETS value. -/
def Node.octet (n : Node) (k i : Nat) : Nat := n.reg k / 256 ^ i % 256

/-- Set byte `i` of an OCTETS value. -/
def Node.setOctet (n : Node) (k i v : Nat) : Node :=
  let old := n.reg k
  n.setReg k (old - old / 256 ^ i % 256 * 256 ^ i + v % 256 * 256 ^ i)

/-- Draw a free value of `len` bytes: what the manual calls random, or leaves open. -/
def Node.draw (n : Node) (len : Nat) : Bytes × Node :=
  (leBytes len (Config.freeValue n.freeCount), { n with freeCount := n.freeCount + 1 })

/-! ### Node states (R519) and the units present (R6) -/

abbrev stBoot : Nat := 1
abbrev stPreop : Nat := 2
abbrev stOperational : Nat := 3
abbrev stHold : Nat := 4
abbrev stFault : Nat := 5
abbrev stSafe : Nat := 6

/-- The node's state (Table 20-12). -/
def Node.st (n : Node) : Nat := n.reg Reg.nodeState

/-- The cell, near-bank and link clocks are stopped: the node is in SAFE (R543). -/
def Node.stopped (n : Node) : Bool := n.st == stSafe

/-- A unit bit of CAP_UNITS (Table 0-4). -/
def Node.hasUnit (n : Node) (b : Nat) : Bool := bitOf (n.reg Reg.capUnits) b

/-! ### Rounds and windows (R47, R50) -/

/-- A tick is a round boundary of the active last (R47). -/
def Node.isRound (n : Node) (t : Nat) : Bool :=
  decide (n.reg Reg.roundBase ≤ t) && (t - n.reg Reg.roundBase) % n.reg Reg.roundLen == 0

/-- The round number at a tick (R47). -/
def Node.roundAt (n : Node) (t : Nat) : Nat := (t - n.reg Reg.roundBase) / n.reg Reg.roundLen

/-- The offset of a tick in its round. -/
def Node.offset (n : Node) (t : Nat) : Nat := (t - n.reg Reg.roundBase) % n.reg Reg.roundLen

/-- The first round boundary after a tick. -/
def Node.nextRoundAt (n : Node) (t : Nat) : Nat :=
  if t < n.reg Reg.roundBase then n.reg Reg.roundBase
  else n.reg Reg.roundBase + (n.roundAt t + 1) * n.reg Reg.roundLen

/-- The node runs windows: not out of rounds (R410). -/
def Node.inRounds (n : Node) : Bool := n.reg Reg.outOfRounds == 0

/-- The window of the active last of a kind and target that a tick lies in, with its absolute start. -/
def Node.windowAt (n : Node) (t kind target : Nat) : Option (Nat × Window) :=
  let o := n.offset t
  if t < n.reg Reg.roundBase then none else
  (n.sched.active.windows.find? fun w =>
    w.kind == kind && w.target == target && decide (w.start ≤ o) && decide (o < w.start + w.length)).map
      fun w => (t - (o - w.start), w)

/-- The windows of a kind and target that open at a tick. -/
def Node.windowOpens (n : Node) (t kind target : Nat) : Option Window :=
  match n.windowAt t kind target with
  | some (s, w) => if s = t then some w else none
  | none => none

/-- A MAINT window of the target with the bit set covers the tick (Table 2-7). -/
def Node.maintAt (n : Node) (t target bit : Nat) : Bool :=
  let o := n.offset t
  decide (n.reg Reg.roundBase ≤ t) && n.sched.active.windows.any fun w =>
    w.kind == 5 && w.target == target && bitOf w.param bit && decide (w.start ≤ o) && decide (o < w.start + w.length)

/-- A last and the tick its round 0 began: what is searched for windows. `limit` is the tick at which the last ends, if it is
known to end (R57). -/
structure Plan where
  last : Last
  base : Nat
  limit : Option Nat := none
deriving DecidableEq, Repr

/-- The windows of one round of a plan of a kind and target, as start and length, by start. -/
def Plan.roundWindows (p : Plan) (round kind target : Nat) : List (Nat × Nat × Nat) :=
  let b := p.base + round * p.last.roundLen
  (p.last.windows.filter fun w => w.kind == kind && w.target == target).map fun w => (b + w.start, w.length, w.param)

/-- The first window from `fuel` rounds on whose start lies from `lo` to `hi` and that `f` accepts. -/
def Plan.search {α : Type} (p : Plan) (kind target lo hi : Nat) (f : Nat × Nat × Nat → Option α) : Nat → Nat → Option α
  | 0, _ => none
  | fuel + 1, round =>
    let ws := (p.roundWindows round kind target).filter fun w =>
      decide (lo ≤ w.1) && decide (w.1 ≤ hi) && (match p.limit with | some l => decide (w.1 < l) | none => true)
    match ws.findSome? f with
    | some a => some a
    | none => Plan.search p kind target lo hi f fuel (round + 1)

/-- The first window of a kind and target of a plan with start from `lo` to `hi` that `f` accepts, earliest first. -/
def Plan.first {α : Type} (p : Plan) (kind target lo hi : Nat) (f : Nat × Nat × Nat → Option α) : Option α :=
  if p.last.roundLen = 0 ∨ hi < p.base then none else
  let r0 := (lo - p.base) / p.last.roundLen
  let r1 := (hi - p.base) / p.last.roundLen
  Plan.search p kind target (Nat.max lo p.base) hi f (r1 + 1 - r0) r0

/-- The plan of the active last. -/
def Node.plan (n : Node) : Plan := { last := n.sched.active, base := n.reg Reg.roundBase }

/-! ### Rings, events and the error log -/

/-- The state of a ring (R485): 0 WHOLE, 1 BROKEN, 2 LOST. -/
def Node.ringState (n : Node) (ring : Nat) : Nat := n.octet Reg.ringState ring

/-- A ring key is LIVE. -/
def Node.ringKeyLive (n : Node) : Bool := n.mgmt.ringKey.isSome

/-- The unit of a ring: 0 A, 1 B. -/
def Node.ringUnit (n : Node) (r : Nat) : RingUnit := if r = 0 then n.mgmt.a else n.mgmt.b

/-- Count at a ring port (RING_PORT_STATS): ports A east, A west, B east, B west; 0 received, 1 sent, 2 FCS errors, 3 link losses. -/
def Node.ringCount (n : Node) (r : Nat) (east : Bool) (k : Nat) : Node :=
  let key := (2 * r + if east then 0 else 1) * 4 + k
  { n with mgmt := { n.mgmt with portStats := Map.set 0 n.mgmt.portStats key ((Map.get 0 n.mgmt.portStats key + 1) % 2 ^ 64) } }

/-- Queue a Voxley frame on a ring that is not LOST, on its port or on both (0 east, 1 west, 2 both), and count it at each that is up. -/
def Node.ringOut (n : Node) (f : RingOut) : Node :=
  if n.ringState f.ring = 2 then n else
  let u := n.ringUnit f.ring
  let n := { n with mgmt := { n.mgmt with out := n.mgmt.out ++ [f] } }
  let n := if u.eastUp && f.port != 1 then n.ringCount f.ring true 1 else n
  if u.westUp && f.port != 0 then n.ringCount f.ring false 1 else n

/-- Queue a frame of the node's own, with the key and counter of its tag if it carries one (R488, R489). -/
def Node.ringSend (n : Node) (f : RingOut) : Node :=
  if n.ringState f.ring = 2 then n else
  let key := if f.auth then (n.mgmt.ringKey.map (·.1)).getD 0 else 0
  let ctr := if f.auth then n.mgmt.ringNonce else 0
  let n := if f.auth then { n with mgmt := { n.mgmt with ringNonce := (n.mgmt.ringNonce + 1) % 2 ^ 64 } } else n
  n.ringOut { f with src := n.straps, keyId := key, ctr := ctr }

/-- Queue a frame of the node's own on both rings. -/
def Node.ringSendBoth (n : Node) (vtype dst : Nat) (payload : Bytes) : Node :=
  let sq := n.mgmt.outSeq
  let fl := if n.ringKeyLive && vtype != 1 && vtype != 2 then 1 else 0
  let f : RingOut := { ring := 0, vtype := vtype, flags := fl, dst := dst, seq := sq, payload := payload, auth := fl == 1 }
  let n := { n with mgmt := { n.mgmt with outSeq := (sq + 1) % 2 ^ 32 } }
  (n.ringSend f).ringSend { f with ring := 1 }

/-- Pad or cut a byte list to a length. -/
def padTo (len : Nat) (bs : Bytes) : Bytes := sliceB bs 0 len

/-- Put an event into function 0's queue and raise vector 1, or drop and count it where the queue is full (R524). -/
def Node.eventQueueWrite (n : Node) (payload : Bytes) : Node :=
  let h := n.host
  if (h.eqTail + 1) % 512 = h.eqHead % 512 then { n with host := { h with eqDrops := (h.eqDrops + 1) % 2 ^ 32 } }
  else
    let q := Map.put h.eventQueue h.eqTail (padTo 128 payload)
    let msix := if (0, 1) ∈ h.msix then h.msix else h.msix ++ [(0, 1)]
    { n with host := { h with eventQueue := q, eqTail := (h.eqTail + 1) % 512, msix := msix } }

/-- Queue an event (R497): logged, sent on both rings to every station, and copied to function 0 (R503). -/
def Node.event (n : Node) (code : Nat) (data : Bytes) : Node :=
  let sq := (n.reg Reg.eventSeq + 1) % 2 ^ 32
  let payload := leBytes 4 sq ++ leBytes 2 code ++ leBytes 2 data.length ++ data
  let log := n.mgmt.events ++ [padTo 48 payload]
  let log := log.drop (log.length - 1024)
  let n := n.setReg Reg.eventSeq sq
  let n := { n with mgmt := { n.mgmt with events := log } }
  (n.ringSendBoth 0x20 0xFFFF payload).eventQueueWrite payload

/-- The TIME event (Table 19-6). -/
def Node.timeEvent (n : Node) : Node := n.event 0x0010 (leBytes 4 (n.reg Reg.timeStatus))

/-- The COMMIT event (Table 19-6). -/
def Node.commitEvent (n : Node) : Node :=
  n.event 0x0003 (leBytes 4 (n.reg Reg.commitState) ++ leBytes 4 (n.reg Reg.armResult))

/-- Set or clear bits of TIME_STATUS; bits 7:4 set stay in TIME_EVENTS (Table 2-9); a change is an event. -/
def Node.setTimeStatus (n : Node) (v : Nat) : Node :=
  if v = n.reg Reg.timeStatus then n else
  let n := (n.setReg Reg.timeStatus v).setReg Reg.timeEvents (n.reg Reg.timeEvents ||| (v &&& 0xF0))
  n.timeEvent

/-- Enter an error record (R443): the log keeps the latest 4,096. -/
def Node.logError (n : Node) (r : ErrRec) : Node :=
  let log := n.rcv.log ++ [r]
  { n with rcv := { n.rcv with log := log.drop (log.length - 4096) } }

/-- Bytes 8 to 11 of an error record. -/
def ErrRec.unitBytes (r : ErrRec) : Bytes := leBytes 1 r.level ++ leBytes 1 r.kind.code ++ leBytes 2 r.unit

/-- Change the node state (R519), with its cause and the event NODE_STATE. -/
def Node.setState (n : Node) (now st cause : Nat) : Node :=
  let prev := n.st
  if prev = st then n else
  (((n.setReg Reg.nodeState st).setReg Reg.stateTick now).setReg Reg.stateCause cause).event 0x0001
    (leBytes 1 st ++ leBytes 1 prev)

/-! ### Replies -/

/-- Status codes (Table 3-11). -/
abbrev stDone : Nat := 0x0000
abbrev stShort : Nat := 0x0001
abbrev stAlreadyDone : Nat := 0x0002
abbrev stLateNotice : Nat := 0x0100
abbrev stNotAdmitted : Nat := 0x0200
abbrev stNoPage : Nat := 0x0201
abbrev stQuota : Nat := 0x0202
abbrev stPrefetchPending : Nat := 0x0203
abbrev stEpochRetired : Nat := 0x0300
abbrev stGroupHold : Nat := 0x0301
abbrev stTimeSplit : Nat := 0x0302
abbrev stCommitRefused : Nat := 0x0303
abbrev stWeightLost : Nat := 0x0400
abbrev stStateLost : Nat := 0x0401
abbrev stCodecFault : Nat := 0x0402
abbrev stPoison : Nat := 0x0403
abbrev stSeqLost : Nat := 0x0404
abbrev stTenantGone : Nat := 0x0500
abbrev stAborted : Nat := 0x0600
abbrev stUnitAbsent : Nat := 0x0700
abbrev stFormat : Nat := 0x0701
abbrev stBudgetTrap : Nat := 0x0702

/-- The key of a request among the open ones: session and REQUEST_ID. -/
def reqKey (session id : Nat) : Nat := session * 2 ^ 32 + id

end Sys2Proof.Machine

namespace Sys2Proof

open Sys2Proof.Machine

/-- The key of a request. -/
def Request.key (r : Request) : Nat := reqKey r.hdr.session.toNat r.hdr.requestId.toNat

/-- The key a reference names. -/
def ReqRef.key (q : ReqRef) : Nat := reqKey q.session.toNat q.id.toNat

/-- The reply header's echoes of a request. -/
def Request.reply (r : Request) (status detail info : Nat) (body : Bytes) : Reply :=
  { status := status, opcode := r.hdr.opcode.toNat, detail := detail, requestId := r.hdr.requestId.toNat,
    sequenceId := r.hdr.sequenceId.toNat, session := r.hdr.session.toNat, info := info, body := body }

end Sys2Proof

namespace Sys2Proof.Machine

/-- The session context of a number. -/
def Node.session (n : Node) (s : Nat) : Session := Map.get {} n.adm.sessions s

/-- Write a session context. -/
def Node.setSession (n : Node) (s : Nat) (v : Session) : Node :=
  { n with adm := { n.adm with sessions := Map.set {} n.adm.sessions s v } }

/-- Enter a change in the journal of the round's cut (R455): its slice is that of the session, the page (or of the slice released, TRACK less 1), or the
sequence. -/
def Node.journal (n : Node) (kind seq track pos : Nat) (bytes : Bytes) : Node :=
  let sl := if kind = 6 then (n.session seq).slice
    else if kind = 7 then (if track = 0 then (Map.get {} n.seqs.pages pos).slice else track - 1)
    else (Map.get {} n.seqs.seqs (seq % 2 ^ 20)).slice
  let e : JEntry := { kind := kind, seq := seq, track := track, pos := pos, bytes := bytes, slice := sl }
  { n with rcv := { n.rcv with journal := n.rcv.journal ++ [e] } }

/-- The port a request's replies go to: its session's REPLY_PORT (R68); where no context is open for it, the port it arrived
on (DESIGN CHOICE, log entry 12). -/
def Node.replyPort (n : Node) (r : Request) : Nat :=
  let s := n.session r.hdr.session.toNat
  if s.state = 0 then (if r.source < 48 then r.source else 0x100 + (r.source - 64)) else s.replyPort

/-- The entry of a port. -/
def Node.portReg (n : Node) (p k : Nat) : Nat := n.reg (linkKey p k)

/-- Write the entry of a port. -/
def Node.setPortReg (n : Node) (p k v : Nat) : Node := n.setReg (linkKey p k) v

/-- The port is IN_SERVICE (Table 13-7). -/
def Node.inService (n : Node) (p : Nat) : Bool := n.portReg p Reg.portState == 3

/-- The port runs in native mode. -/
def Node.isNative (n : Node) (p : Nat) : Bool := decide (n.portReg p Reg.portMode ≤ 1)

/-- The link state of a port. -/
def Node.port (n : Node) (p : Nat) : Port := Map.get {} n.links.ports p

/-- Write the link state of a port. -/
def Node.setPort (n : Node) (p : Nat) (v : Port) : Node :=
  { n with links := { n.links with ports := Map.set {} n.links.ports p v } }

/-- An egress queue of a port. -/
def Node.queue (n : Node) (p q : Nat) : List OutMsg := Map.get [] n.links.queues (p * 8 + q)

/-- Write an egress queue. -/
def Node.setQueue (n : Node) (p q : Nat) (l : List OutMsg) : Node :=
  { n with links := { n.links with queues := Map.set [] n.links.queues (p * 8 + q) l } }

/-- Put a unit of traffic behind the others of its queue. -/
def Node.enqueue (n : Node) (p q : Nat) (m : OutMsg) : Node := n.setQueue p q (n.queue p q ++ [m])

/-- The request counts as answered (R84): it is no longer open, and its notice tick is free (R78). -/
def Node.answered (n : Node) (session id : Nat) : Node :=
  { n with adm := { n.adm with admitted := n.adm.admitted.filter fun q => q.req.key != reqKey session id } }

/-- The slice that holds a link port, if any (R387). -/
def Node.portSlice (n : Node) (p : Nat) : Option Nat :=
  (n.comp.slices.find? fun e => e.2.state != .free && bitOf e.2.ports p).map (·.1)

/-- A link port that the replies of a slice may use: its own, or a node port (R393, R465). -/
def Node.portUsable (n : Node) (s p : Nat) : Bool :=
  match n.portSlice p with
  | none => true
  | some t => t == s

/-- The other ports in service that a slice's replies may use, ascending (R465). -/
def Node.otherPorts (n : Node) (p s : Nat) : List Nat :=
  (List.range 48).filter fun c => c != p && n.inService c && n.portUsable s c

/-- The port that takes a status entry of a slice queued for a port: that port while it is IN_SERVICE, else the first other port in service, and the
port itself where there is none (R362, R465; DEDUCED, log entry 131). -/
def Node.statusPort (n : Node) (p s : Nat) : Nat := if n.inService p then p else (n.otherPorts p s).headD p

/-- Queue a reply on its port (R68, R81, R376): status-only in Q7, with a body in Q6, on a host function for the host port to write
(R380). A reply to the host port while the host link is down is discarded and counted (R529). -/
def Node.queueReply (n : Node) (now port : Nat) (rep : Reply) (notice : Option Nat) (winStart booked : Nat) : Node :=
  let rep := { rep with queueTick := now, node := n.straps }
  let m : OutMsg := { ftype := 2, dst := Map.get 0xFFFF n.links.replyDst rep.session, reply := some rep, notice := notice,
                      winStart := winStart, booked := booked, queuedAt := now, slice := (n.session rep.session).slice }
  if port < 48 then (if rep.body = [] then n.enqueue (n.statusPort port m.slice) 7 m else n.enqueue port 6 m)
  else if n.host.linkUp then { n with host := { n.host with out := n.host.out ++ [{ m with dst := port }] } }
  else
    let n := n.bump Reg.hostRepliesLost
    if rep.final then n.answered rep.session rep.requestId else n

/-- Refuse a request (R71, R76): a status-only reply, counted in REFUSED. -/
def Node.refuse (n : Node) (now : Nat) (r : Request) (status detail info : Nat) : Node :=
  (n.bump Reg.refused).queueReply now (n.replyPort r) (r.reply status detail info []) none 0 0

/-- The admitted request of a key. -/
def Node.admitted? (n : Node) (key : Nat) : Option Admitted := n.adm.admitted.find? fun q => q.req.key == key

/-- Change an admitted request. -/
def Node.setAdmitted (n : Node) (key : Nat) (f : Admitted → Admitted) : Node :=
  { n with adm := { n.adm with admitted := n.adm.admitted.map fun q => if q.req.key = key then f q else q } }

/-- Queue the LATE_NOTICE of a named fault, once per request (R80), with the request's notice tick. `info` is 0xFFFFFFFF where the
completion tick is not known (Table 3-9). -/
def Node.lateNotice (n : Node) (now : Nat) (q : Admitted) (detail info : Nat) : Node :=
  if q.lateSent ∨ 2 ≤ q.phase then n else
  (n.queueReply now q.send.port (q.req.reply stLateNotice detail info []) q.send.notice 0 0).setAdmitted q.req.key
    fun q => { q with lateSent := true }

/-- Queue a request's status-only final (R79, R82): with its notice tick where no LATE_NOTICE has used it. -/
def Node.queueFinal (n : Node) (now : Nat) (q : Admitted) (status detail : Nat) : Node :=
  (n.queueReply now q.send.port { q.req.reply status detail 0 [] with final := true } (if q.lateSent then none else q.send.notice) 0 0).setAdmitted
    q.req.key fun q => { q with phase := 2, items := [], staging := [] }

/-- Queue a request's result in the bytes booked for it (R79, R376); INFO as the opcode's chapter gives. -/
def Node.queueResult (n : Node) (now key status info : Nat) (body : Bytes) : Node :=
  match n.admitted? key with
  | none => n
  | some q =>
    (n.queueReply now q.send.port { q.req.reply status 0 info body with final := true } (if body = [] ∧ !q.lateSent then q.send.notice else none)
      q.send.winStart q.send.bytes).setAdmitted key fun q => { q with phase := 2, items := [], staging := [] }

/-- The unfinished admitted requests: those without a queued final. -/
def Node.unfinished (n : Node) : List Admitted := n.adm.admitted.filter fun q => decide (q.phase < 2)

/-- A slice record. -/
def Node.slice (n : Node) (s : Nat) : Slice := Map.get {} n.comp.slices s

/-- Write a slice record. -/
def Node.setSlice (n : Node) (s : Nat) (v : Slice) : Node :=
  { n with comp := { n.comp with slices := Map.set {} n.comp.slices s v } }

/-- Change a slice's state, with the SLICE_STATE event (Table 19-6). -/
def Node.setSliceState (n : Node) (now s : Nat) (st : SliceState) : Node :=
  (n.setSlice s { n.slice s with state := st, stateTick := now }).event 0x0002 (leBytes 1 s ++ leBytes 1 st.code)

/-- Apply a function to the node for every element of a list, in order. -/
def Node.foldl {α : Type} (n : Node) (l : List α) (f : Node → α → Node) : Node := l.foldl f n

end Sys2Proof.Machine
end

