-- ==== Sys2Proof/Machine/Operands.lean ====
section
/-!
DEFINITION. The operand forms of requests: header fields, OPARG layouts and payload parts of the opcodes (Tables 3-1, 4-10, 5-1, 6-5,
6-6, 7-12, 8-2, 11-6, 12-3), the lengths that a model gives them, and the parsing of a header from bytes.
-/

namespace Sys2Proof

open Sys2Proof.Machine

/-- A request header from its 64 bytes (Table 3-1). -/
def Header.ofBytes (bs : Bytes) : Header :=
  { opcode := BitVec.ofNat 8 (fieldB bs 0 1), flags := BitVec.ofNat 8 (fieldB bs 1 1),
    session := BitVec.ofNat 16 (fieldB bs 2 2), requestId := BitVec.ofNat 32 (fieldB bs 4 4),
    sequenceId := BitVec.ofNat 48 (fieldB bs 8 6), layer := BitVec.ofNat 16 (fieldB bs 14 2),
    headFirst := BitVec.ofNat 16 (fieldB bs 16 2), headCount := BitVec.ofNat 16 (fieldB bs 18 2),
    deadline := BitVec.ofNat 40 (fieldB bs 20 5), res25 := BitVec.ofNat 8 (fieldB bs 25 1),
    epoch := BitVec.ofNat 16 (fieldB bs 26 2), payloadLen := BitVec.ofNat 32 (fieldB bs 28 4),
    oparg := BitVec.ofNat 128 (fieldB bs 32 16), res48 := BitVec.ofNat 128 (fieldB bs 48 16) }

/-- The bytes of a request header. -/
def Header.bytes (h : Header) : Bytes :=
  leBytes 1 h.opcode.toNat ++ leBytes 1 h.flags.toNat ++ leBytes 2 h.session.toNat ++ leBytes 4 h.requestId.toNat ++
  leBytes 6 h.sequenceId.toNat ++ leBytes 2 h.layer.toNat ++ leBytes 2 h.headFirst.toNat ++ leBytes 2 h.headCount.toNat ++
  leBytes 5 h.deadline.toNat ++ leBytes 1 h.res25.toNat ++ leBytes 2 h.epoch.toNat ++ leBytes 4 h.payloadLen.toNat ++
  leBytes 16 h.oparg.toNat ++ leBytes 16 h.res48.toNat

/-- A request from the bytes of a message, at least 64 of them (R63). -/
def Request.ofBytes (bs : Bytes) (source : Nat) : Request :=
  { hdr := Header.ofBytes bs, payload := bs.drop 64, source := source }

/-- `size` bytes of OPARG from header byte `b` on (32 to 47). -/
def Request.arg (r : Request) (b size : Nat) : Nat := bitsOf r.hdr.oparg.toNat (8 * (b - 32)) (8 * size)

/-- Opcode values (Table 3-2). -/
abbrev opSeqOpen : Nat := 0x01
abbrev opSeqFork : Nat := 0x02
abbrev opSeqClose : Nat := 0x03
abbrev opAppend : Nat := 0x10
abbrev opAttend : Nat := 0x11
abbrev opAttendAppend : Nat := 0x12
abbrev opBackward : Nat := 0x13
abbrev opWeightLoad : Nat := 0x20
abbrev opSearch : Nat := 0x30
abbrev opInsert : Nat := 0x31
abbrev opDelete : Nat := 0x32
abbrev opFold : Nat := 0x33
abbrev opAbort : Nat := 0x7F

/-- The opcode of a request. -/
def Request.op (r : Request) : Nat := r.hdr.opcode.toNat

/-- O_FP32 (Table 3-3). -/
def Request.oFp32 (r : Request) : Bool := r.hdr.flags.getLsbD 0
/-- QUERY_BF16. -/
def Request.queryBf16 (r : Request) : Bool := r.hdr.flags.getLsbD 1
/-- TENANT_PROG. -/
def Request.tenantProg (r : Request) : Bool := r.hdr.flags.getLsbD 2

/-- ATTEND or ATTEND_APPEND. -/
def Request.isAtt (r : Request) : Bool := r.op == opAttend || r.op == opAttendAppend
/-- An opcode that writes tokens. -/
def Request.isWrite (r : Request) : Bool := r.op == opAppend || r.op == opAttendAppend
/-- BACKWARD in a mode. -/
def Request.isBackward (r : Request) (mode : Nat) : Bool := r.op == opBackward && r.arg 32 1 == mode
/-- The opcodes of vector search. -/
def Request.isVector (r : Request) : Bool := decide (0x30 ≤ r.op) && decide (r.op ≤ 0x33)
/-- The opcodes that name no sequence (check 1 and check 9 of Table 3-5). -/
def Request.noSeq (r : Request) : Bool := r.op == opSeqOpen || r.op == opWeightLoad || r.isVector

/-- The full deadline tick D (R65), at arrival tick `a`; a tick before 0 counts as 0. -/
def Request.deadlineTick (r : Request) (a : Nat) : Nat :=
  let base : Int := (a : Int) - 2 ^ 39
  (base + ((r.hdr.deadline.toNat : Int) - base) % 2 ^ 40).toNat

/-- TOKEN_COUNT of a request that writes tokens, else 0. -/
def Request.tokenCount (r : Request) : Nat := if r.isWrite then r.arg 32 1 else 0

/-- ROWS. -/
def Request.rows (r : Request) : Nat := r.arg 33 1
/-- MODEL of attention, BACKWARD and WEIGHT_LOAD arguments. -/
def Request.model (r : Request) : Nat := r.arg 34 2
/-- MASK, 0 for a tenant program (R214). -/
def Request.mask (r : Request) : Nat := if r.tenantProg then 0 else r.arg 36 1
/-- QFLAGS of ATTEND and ATTEND_APPEND; 0 otherwise (R214, R218). -/
def Request.qflags (r : Request) : Nat := if r.isAtt && !r.tenantProg then r.arg 37 1 else 0
/-- PRE_ABSORBED; always taken so in BACKWARD (R219). -/
def Request.preAbsorbed (r : Request) : Bool := bitOf r.qflags 0 || r.op == opBackward
/-- NO_OUTPUT_PROJ; always so in BACKWARD. -/
def Request.noProj (r : Request) : Bool := bitOf r.qflags 1 || r.op == opBackward
/-- NO_DKV of a COMPUTE. -/
def Request.noDkv (r : Request) : Bool := r.isBackward 0 && bitOf (r.arg 37 1) 0
/-- The header fields as numbers. -/
def Request.head0 (r : Request) : Nat := r.hdr.headFirst.toNat
def Request.headN (r : Request) : Nat := r.hdr.headCount.toNat
def Request.lay (r : Request) : Nat := r.hdr.layer.toNat
def Request.seqId (r : Request) : Nat := r.hdr.sequenceId.toNat
def Request.sess (r : Request) : Nat := r.hdr.session.toNat

/-- Reserved fields of OPARG are 0 (R13, with the tables of the opcode). -/
def Request.argsReserved (r : Request) : Bool :=
  if r.op = opSeqOpen then true
  else if r.op = opSeqFork then r.arg 36 12 == 0
  else if r.op = opSeqClose then r.arg 32 16 == 0
  else if r.op = opAppend then r.arg 33 15 == 0
  else if r.isAtt then
    (r.op == opAttendAppend || r.arg 32 1 == 0) &&
    (if r.tenantProg then r.arg 37 1 == 0 && r.arg 46 2 == 0 else decide (r.arg 36 1 < 16) && decide (r.arg 37 1 < 4))
  else if r.op = opBackward then
    (match r.arg 32 1 with
     | 0 => decide (r.arg 36 1 < 16) && decide (r.arg 37 1 < 2)
     | 1 => decide (r.arg 33 1 < 2) && r.arg 34 2 == 0 && r.arg 42 6 == 0
     | _ => r.arg 33 15 == 0)
  else if r.op = opWeightLoad then decide (r.arg 44 2 < 1024) && r.arg 46 2 == 0
  else if r.isVector then r.arg 33 1 == 0 && r.arg 40 8 == 0 && (r.op == opSearch || r.arg 32 1 == 0)
  else if r.op = opAbort then r.arg 36 12 == 0
  else true

/-- Reserved fields of the header are 0. -/
def Request.hdrReserved (r : Request) : Bool :=
  r.hdr.res25 == 0 && r.hdr.res48 == 0 && decide (r.hdr.flags.toNat < 8)

/-- The opcode is one of Table 3-2 (R64). -/
def Request.known (r : Request) : Bool :=
  r.op ∈ [opSeqOpen, opSeqFork, opSeqClose, opAppend, opAttend, opAttendAppend, opBackward, opWeightLoad, opSearch, opInsert,
    opDelete, opFold, opAbort]

/-- The attention arguments that check 1 names (Table 6-7): rows, mask fields, HEAD_COUNT. -/
def Request.maskOk (r : Request) : Bool :=
  let m := r.mask
  let w := r.arg 38 4
  let s := r.arg 42 2
  let th := r.arg 44 2
  let tn := r.arg 46 2
  decide (1 ≤ r.headN) && decide (1 ≤ r.rows) && decide (r.rows ≤ 16) &&
  (r.tenantProg ||
    ((if bitOf m 1 then decide (1 ≤ w) && decide (w ≤ 16777216) else w == 0) &&
     (if bitOf m 2 then decide (1 ≤ s) else s == 0) &&
     (if bitOf m 3 then th != 0 || tn != 0 else th == 0 && tn == 0)))

/-- The SEQ_OPEN payload holds Table 5-1, or is empty (R133); SPAN_LIMIT and PREFIX_TOKENS_MAX bound the prefix. -/
def Request.openPayloadOk (r : Request) : Bool :=
  let p := r.payload
  if p = [] then true
  else
    let pt := fieldB p 4 4
    decide (32 ≤ p.length) && fieldB p 0 4 != 0 && decide (pt ≤ 65520) && decide (pt ≤ r.arg 44 4) &&
    p.length == 32 + 4 * pt && decide (fieldB p 16 1 < 4) && fieldB p 17 15 == 0

/-- SHARE_DOMAIN of a SEQ_OPEN; 0 for none. -/
def Request.shareDomain (r : Request) : Nat := if r.op = opSeqOpen then fieldB r.payload 0 4 else 0
/-- PREFIX_TOKENS. -/
def Request.prefixTokens (r : Request) : Nat := fieldB r.payload 4 4
/-- P of R133. -/
def Request.prefixPages (r : Request) : Nat := r.prefixTokens / 16
/-- ATTACH. -/
def Request.attach (r : Request) : Bool := bitOf (fieldB r.payload 16 1) 0
/-- PUBLISH. -/
def Request.publishes (r : Request) : Bool := bitOf (fieldB r.payload 16 1) 1
/-- The token IDs of a declared prefix. -/
def Request.prefixList (r : Request) : List Nat :=
  (List.range r.prefixTokens).map fun i => fieldB r.payload (32 + 4 * i) 4

end Sys2Proof

namespace Sys2Proof.Machine

/-- Element code of a cache format (Table 6-3): the low digit. -/
def elemOf (format : Nat) : Nat := format % 16

/-- A code of Table 6-3. -/
def formatOk (f : Nat) : Bool := decide (1 ≤ f) && decide (f ≤ 4) || decide (0x11 ≤ f) && decide (f ≤ 0x14)

/-- MACs per cycle at an element format (R156). -/
def macRate (elem : Nat) : Nat := if elem = 1 then 256 else if elem = 4 then 1024 else 512

/-- The model is LATENT. -/
def Model.latent (m : Model) : Bool := m.layout == 2
/-- Head groups. -/
def Model.groups (m : Model) : Nat := m.kvHeads / m.groupKv
/-- The head group of a query head (R153). -/
def Model.groupOf (m : Model) (h : Nat) : Nat := h * m.kvHeads / m.qHeads / m.groupKv
/-- The key/value head of a query head (R153). -/
def Model.kvOf (m : Model) (h : Nat) : Nat := h * m.kvHeads / m.qHeads
/-- D_S (R166). -/
def Model.dS (m : Model) : Nat := if m.latent then m.dLat + m.dRope else m.dQk
/-- D_ACC (R166). -/
def Model.dAcc (m : Model) : Nat := if m.latent then m.dLat else m.dV
/-- Bytes of part A of the token record (R158). -/
def Model.aBytes (m : Model) : Nat :=
  if m.latent then vecBytes (elemOf m.format) m.dLat else m.groupKv * vecBytes (elemOf m.format) m.dQk
/-- Bytes of part B. -/
def Model.bBytes (m : Model) : Nat :=
  if m.latent then vecBytes (elemOf m.format) m.dRope else m.groupKv * vecBytes (elemOf m.format) m.dV
/-- Elements of a token record (R227). -/
def Model.recElems (m : Model) : Nat := if m.latent then m.dLat + m.dRope else m.groupKv * (m.dQk + m.dV)
/-- Elements of a stored part of a format: the inverse of the byte length. -/
def elemsOf (format bytes : Nat) : Nat :=
  let e := elemOf format
  if e = 1 then bytes / 2 else if e = 2 then bytes * 32 / 33 else if e = 3 then bytes * 32 / 25 else bytes * 32 / 17
/-- D_QIN (R161, R219). -/
def Model.dQin (m : Model) (preAbsorbed : Bool) : Nat :=
  if m.latent then (if preAbsorbed then m.dLat else m.dQk) + m.dRope else m.dQk
/-- D_OUT (R167). -/
def Model.dOut (m : Model) (noProj : Bool) : Nat := if m.latent && noProj then m.dLat else m.dV

/-- The head groups a head range maps to, ascending (R153). -/
def Model.groupsOf (m : Model) (h0 hn : Nat) : List Nat :=
  (List.range m.groups).filter fun g => (List.range hn).any fun i => m.groupOf (h0 + i) == g

/-- The heads of a range that map to a group: the first and how many (they are consecutive). -/
def Model.headsOf (m : Model) (h0 hn g : Nat) : Nat × Nat :=
  let hs := (List.range hn).filter fun i => m.groupOf (h0 + i) == g
  (h0 + hs.headD 0, hs.length)

/-- Bytes of a query vector (R161). -/
def queryBytes (bf16 : Bool) (n : Nat) : Nat := vecBytes (if bf16 then 1 else 2) n

/-- Absorb cycles (R168); `wfmt` is the ABSORB weight's format, 0 where there is none yet. -/
def absorbCycles (r : Request) (m : Model) (wfmt : Nat) : Nat :=
  if m.latent && !r.preAbsorbed then
    let q := macRate (if r.queryBf16 then 1 else 2)
    let w := if wfmt = 0 then q else macRate wfmt
    ceilDiv (r.rows * r.headN * m.dQk * m.dLat) (Nat.min q w)
  else 0

/-- C_PAGE (R156), or a tenant program's page cost (R211). -/
def pageCost (fix rh u : Nat) : Nat := fix + rh * u

/-- Whether key position `pk` passes CAUSAL and WINDOW for a row at `pq` (R172). -/
def passes (r : Request) (pq pk : Nat) : Bool :=
  let m := r.mask
  (!bitOf m 0 || decide (pk ≤ pq)) &&
  (!bitOf m 1 || decide (pq < pk + r.arg 38 4) || (bitOf m 2 && decide (pk < r.arg 42 2)))

/-- Whether a key's TAG passes TAG_HAVE and TAG_NOT (R172). -/
def tagPasses (r : Request) (tag : Nat) : Bool :=
  !bitOf r.mask 3 || ((tag &&& r.arg 44 2) == r.arg 44 2 && (tag &&& r.arg 46 2) == 0)

/-- Where a COMPUTE or attention payload's parts begin: the token block after header and queries, or the gradient block (R161, R219). -/
def queryEnd (r : Request) (m : Model) : Nat :=
  16 + r.rows * r.headN * queryBytes r.queryBf16 (m.dQin r.preAbsorbed)

/-- The exact PAYLOAD_LEN of an attention request (R161) or a COMPUTE (R219); `argBytes` is a tenant program's argument block. -/
def payloadExpected (r : Request) (m : Model) (argBytes : Nat) : Nat :=
  if r.op = opBackward then queryEnd r m + r.rows * r.headN * (2 * m.dAcc + 8)
  else queryEnd r m + r.tokenCount * (4 + (m.groupsOf r.head0 r.headN).length * (m.aBytes + m.bBytes)) + argBytes

/-- Reserved fields of a token block: bits 31:16 of the tag words (Table 6-4). -/
def tokenTagsOk (p : Bytes) (off count step : Nat) : Bool :=
  (List.range count).all fun i => decide (fieldB p (off + i * step) 4 < 2 ^ 16)

/-- Reserved bytes of the payload header of an attention request or a COMPUTE (Tables 6-6, 8-3). -/
def payloadHeadOk (r : Request) : Bool :=
  if r.op = opAttendAppend then fieldB r.payload 0 16 == 0 else fieldB r.payload 5 11 == 0

/-- Q_POS_FIRST. -/
def qPosFirst (r : Request) : Nat := fieldB r.payload 0 5

/-- CREC of an index (R317). -/
def VIndex.crec (d : VIndex) : Nat := ceilDiv (if d.elem = 1 then 2 * d.dim else if d.elem = 2 then d.dim + d.dim / 32 else d.dim) 64 * 64
/-- VREC of an index (R319). -/
def VIndex.vrec (d : VIndex) : Nat :=
  ceilDiv (32 + if d.elem = 1 then 2 * d.dim else if d.elem = 2 then d.dim + d.dim / 32 else d.dim) 64 * 64

/-- Bytes of a vector in a vector-search payload: MXFP8, or BF16 with QUERY_BF16 set. -/
def vecPayload (r : Request) (dim : Nat) : Nat := queryBytes r.queryBf16 dim

/-- The exact payload of a vector-search request (Table 12-4). -/
def vectorPayload (r : Request) (dim : Nat) : Nat :=
  if r.op = opSearch then 16 + vecPayload r dim
  else if r.op = opInsert then r.arg 36 2 * (16 + vecPayload r dim)
  else if r.op = opDelete then r.arg 36 2 * 8 else 0

end Sys2Proof.Machine
end

