-- ==== Sys2Proof/Machine/Lines.lean ====
section
/-!
DEFINITION. The lines of the stacks: addresses, side band, whole-slot reads and writes (R255 to R262). A slot is named by
stack × 2^22 + SLOT (Table 4-6), a line by stack × 2^30 + its stack line address (Table 10-2), which is slot × 256 + LINE.
-/

namespace Sys2Proof.Machine

/-- KIND of a TAG (Table 10-4). -/
def tagKind (t : Nat) : Nat := bitsOf t 27 3

/-- SLICE of a TAG. -/
def tagSlice (t : Nat) : Nat := bitsOf t 21 6

/-- BIND_GEN of a TAG. -/
def tagGen (t : Nat) : Nat := bitsOf t 13 8

/-- POISON of a TAG. -/
def tagPoison (t : Nat) : Bool := bitOf t 31

abbrev kindPage : Nat := 1
abbrev kindWeight : Nat := 2
abbrev kindGradient : Nat := 3
abbrev kindSystem : Nat := 4

/-- A TAG (Table 10-4). -/
def mkTag (dirty : Bool) (kind slice gen : Nat) : Nat :=
  (if dirty then 2 ^ 30 else 0) + kind * 2 ^ 27 + slice * 2 ^ 21 + gen * 2 ^ 13

/-- The TAG of a slice's lines of a kind, with the slice's BIND_GEN (R387). -/
def Node.tagOf (n : Node) (dirty : Bool) (kind s : Nat) : Nat := mkTag dirty kind s (n.slice s).bindGen

/-- SHARE of a line (R261): a FREE line holds 0. -/
def lineShare (d : BitVec 512) (owner line tag : Nat) : BitVec 16 :=
  if tagKind tag = 0 then 0
  else (crc32c (leBytes 64 d.toNat ++ leBytes 4 owner ++ leBytes 1 line)).setWidth 16

/-- A line with its side band. -/
def mkLine (d : BitVec 512) (owner line tag : Nat) : Line :=
  { data := d, share := lineShare d owner line tag, tag := BitVec.ofNat 32 tag }

/-- Read a line. -/
def Node.line (n : Node) (k : Nat) : Line :=
  match Map.find n.stk.lines k with
  | some l => l
  | none =>
    match Map.find n.stk.fills (k / 256) with
    | some f => mkLine 0 f.owner (k % 256) f.tag
    | none => {}

/-- Write a line. -/
def Node.setLine (n : Node) (k : Nat) (l : Line) : Node :=
  { n with stk := { n.stk with lines := Map.put n.stk.lines k l } }

/-- Set a whole slot to zero with an owner and TAG. -/
def Node.fillSlot (n : Node) (g owner tag : Nat) : Node :=
  let lines := n.stk.lines.filter fun e => e.1 / 256 != g
  let fills := if tag = 0 then Map.erase n.stk.fills g else Map.put n.stk.fills g { owner := owner, tag := tag }
  { n with stk := { n.stk with lines := lines, fills := fills } }

/-- The data of a slot's lines from line `l0`, `count` of them. -/
def Node.slotLines (n : Node) (g l0 count : Nat) : List (BitVec 512) :=
  (List.range count).map fun i => (n.line (g * 256 + l0 + i)).data

/-- Bytes of a slot. -/
def Node.slotBytes (n : Node) (g off len : Nat) : Bytes :=
  if len = 0 then [] else
  let l0 := off / 64
  let l1 := (off + len - 1) / 64
  let all := (n.slotLines g l0 (l1 + 1 - l0)).flatMap fun d => leBytes 64 d.toNat
  sliceB all (off - l0 * 64) len

/-- Some line of the slot from `l0` to `l1` is poisoned. -/
def Node.slotPoisoned (n : Node) (g l0 l1 : Nat) : Bool :=
  (List.range (l1 + 1 - l0)).any fun i => tagPoison (n.line (g * 256 + l0 + i)).tag.toNat

/-- Replace the bytes of a line from `off` by a list. -/
def spliceLine (d : BitVec 512) (off : Nat) (bs : Bytes) : BitVec 512 :=
  let old := leBytes 64 d.toNat
  BitVec.ofNat 512 (leNat (old.take off ++ bs ++ old.drop (off + bs.length)))

/-- Write bytes into a slot from a byte offset, line by line, with the owner and TAG given; `fuel` counts lines. -/
def Node.writeSlotGo (g owner tag : Nat) : Nat → Nat → Bytes → Node → Node
  | 0, _, _, n => n
  | fuel + 1, off, bs, n =>
    if bs = [] then n else
    let o := off % 64
    let now := bs.take (64 - o)
    let k := g * 256 + off / 64
    let d := spliceLine (n.line k).data o now
    Node.writeSlotGo g owner tag fuel (off + now.length) (bs.drop now.length)
      (n.setLine k (mkLine d owner (off / 64) tag))

/-- Write bytes into a slot. -/
def Node.writeSlot (n : Node) (g off : Nat) (bs : Bytes) (owner tag : Nat) : Node :=
  Node.writeSlotGo g owner tag 257 off bs n

/-- Every line of a run of slots set to a kind FREE line (TAG 0). -/
def Node.freeLines (n : Node) (g : Nat) : Node := n.fillSlot g 0 0

/-- Set POISON on a line, its other TAG fields kept (R260). -/
def Node.poisonLine (n : Node) (k : Nat) : Node :=
  let l := n.line k
  n.setLine k { l with tag := l.tag ||| (1 <<< 31) }

/-- The line's SLICE and BIND_GEN are those of the slice (R262): a FREE line fails. -/
def Node.lineInSlice (n : Node) (l : Line) (s : Nat) : Bool :=
  let t := l.tag.toNat
  tagKind t != 0 && tagSlice t == s && tagGen t == (n.slice s).bindGen

/-- The line's SHARE is the one its owner and place give (R261). -/
def lineShareOk (l : Line) (owner line : Nat) : Bool :=
  l.share == lineShare l.data owner line l.tag.toNat

end Sys2Proof.Machine
end

