-- ==== Sys2Proof/Machine/Pages.lean ====
section
/-!
DEFINITION. Slots, quotas, pages, tracks and sequences: what chapters 4, 5 and 11 do to them, as operations that the commands
share.
-/

namespace Sys2Proof.Machine

/-! ### Slots and quotas -/

/-- The key of a unit of Table 17-2: its kind and number. -/
def unitKey (kind : UnitKind) (num : Nat) : Nat := kind.code * 2 ^ 20 + num

/-- What is known of a unit that is out of service. -/
def Node.unitState? (n : Node) (kind : UnitKind) (num : Nat) : Option UnitState := Map.find n.rcv.units (unitKey kind num)

/-- The unit is retired (R446). -/
def Node.retired (n : Node) (kind : UnitKind) (num : Nat) : Bool :=
  match n.unitState? kind num with
  | some u => u.retired
  | none => false

/-- The unit takes work: neither under test nor retired (R445). -/
def Node.unitUp (n : Node) (kind : UnitKind) (num : Nat) : Bool := (n.unitState? kind num).isNone

/-- The channels of a stack, as a 32-bit mask, that a slice may use: bound (R387) and not retired (R279). -/
def Node.sliceMask (n : Node) (s stack : Nat) : Nat :=
  let m := (n.slice s).channels / 2 ^ (stack * 32) % 2 ^ 32
  (List.range 32).foldl (fun m c => if n.retired .channel (stack * 32 + c) then setBit m c false else m) m

/-- The number of set bits among the low `w`. -/
def popcount (m w : Nat) : Nat := ((List.range w).filter fun i => bitOf m i).length

/-- The slots taken in a stack on the channels of a mask. -/
def Node.usedIn (n : Node) (stack mask : Nat) : Nat :=
  (n.seqs.slots.filter fun e => e.1 / 2 ^ 22 == stack && bitOf mask (e.1 % 32)).length

/-- The slice's free slots in a stack: 122,880 for each channel outside the reserved rows (Table 15-1). -/
def Node.freeIn (n : Node) (s stack : Nat) : Nat :=
  let m := n.sliceMask s stack
  popcount m 32 * 122880 - n.usedIn stack m

/-- The slice's free slots over the node. -/
def Node.freeSlots (n : Node) (s : Nat) : Nat := ((List.range 16).map (n.freeIn s)).sum

/-- The lowest slot from `slot` on that lies on a channel of the mask and is not taken. -/
def slotSearch (taken : Map Nat) (stack mask : Nat) : Nat → Nat → Option Nat
  | 0, _ => none
  | fuel + 1, slot =>
    if 3932160 ≤ slot then none
    else if bitOf mask (slot % 32) && (Map.find taken (stack * 2 ^ 22 + slot)).isNone then some slot
    else slotSearch taken stack mask fuel (slot + 1)

/-- The lowest free slot of a slice in a stack (R109), named by stack × 2^22 + SLOT. -/
def Node.lowestSlot (n : Node) (s stack : Nat) : Option Nat :=
  let m := n.sliceMask s stack
  if m = 0 then none
  else (slotSearch n.seqs.slots stack m (32 * (n.usedIn stack m + 2)) 0).map (stack * 2 ^ 22 + ·)

/-- Charge a slot to a slice. -/
def Node.takeSlot (n : Node) (s g : Nat) : Node := { n with seqs := { n.seqs with slots := Map.put n.seqs.slots g s } }

/-- Give a slot back. -/
def Node.dropSlot (n : Node) (g : Nat) : Node := { n with seqs := { n.seqs with slots := Map.erase n.seqs.slots g } }

/-- T1_USED of a slice (R286): every tier-1 slot charged to it. -/
def Node.t1Used (n : Node) (s : Nat) : Nat := (n.seqs.slots.filter fun e => e.2 == s).length

/-- SLOW_USED of a slice (R286). -/
def Node.slowUsed (n : Node) (s : Nat) : Nat := (n.tiers.slow.filter fun e => e.2.used && e.2.slice == s).length

/-- The quota record of a slice. -/
def Node.quota (n : Node) (s : Nat) : Quota := Map.get {} n.tiers.quotas s

/-- Write a quota record. -/
def Node.setQuota (n : Node) (s : Nat) (q : Quota) : Node :=
  { n with tiers := { n.tiers with quotas := Map.set {} n.tiers.quotas s q } }

/-- The slice holds cells in a region. -/
def Node.sliceCells (n : Node) (s r : Nat) : Bool := decide ((n.slice s).blocks / 2 ^ (r * 16) % 2 ^ 16 ≠ 0)

/-- The stack with the most free slots of the slice among the regions in which it holds cells, ties to the lowest (R109, R120). -/
def Node.mostFree (n : Node) (s : Nat) : Option Nat :=
  let best := (List.range 16).foldl (fun b st =>
    if n.sliceCells s st then
      let f := n.freeIn s st
      if b.1 < f then (f, some st) else b
    else b) ((0 : Nat), (none : Option Nat))
  best.2

/-- The stack chosen under SPARE_POLICY (R120). -/
def Node.spareStack (n : Node) (s policy near : Nat) : Option Nat :=
  if policy = 0 ∧ n.freeIn s near ≠ 0 then some near else n.mostFree s

/-- Slow-tier slots exist (R9: SLOW0 or SLOW1 present). -/
def Node.slowPresent (n : Node) : Bool := n.hasUnit 1 || n.hasUnit 2

/-! ### Pages -/

/-- A page descriptor. -/
def Node.page (n : Node) (p : Nat) : Page := Map.get {} n.seqs.pages p

/-- Write a page descriptor; a FREE page is not listed. -/
def Node.setPage (n : Node) (p : Nat) (d : Page) : Node :=
  { n with seqs := { n.seqs with pages := Map.set {} n.seqs.pages p d } }

/-- The lowest number from `k` on that is not in a rising list. -/
def lowestMissing : List Nat → Nat → Nat
  | [], k => k
  | a :: t, k => if a = k then lowestMissing t (k + 1) else k

/-- The page ID a new page takes: the lowest FREE one (DESIGN CHOICE, log entry 14). -/
def Node.freePage (n : Node) : Nat := lowestMissing (Map.keys n.seqs.pages) 0

/-- A new page in a slot given, zero-filled (R106, R120). -/
def Node.newPage (n : Node) (s format g : Nat) (st : PState) : Nat × Node :=
  let p := n.freePage
  let n := n.takeSlot s g
  let n := n.setPage p { state := st, format := format, t1 := some g, slice := s, dirty := true,
                         ref := if st = .tail then 1 else 0 }
  (p, n.fillSlot g p (n.tagOf true kindPage s))

/-- The node's tree nodes that go with a set of them: themselves and every node below (R137). Handles rise from parent to child. -/
def deadNodes (nodes : Map PNode) (first : Nat → PNode → Bool) : List Nat :=
  nodes.foldl (fun dead e =>
    if first e.1 e.2 || (match e.2.parent with | some p => dead.contains p | none => false) then dead ++ [e.1] else dead) []

/-- Remove tree nodes (R137): they leave the tree, and PREFIX_NODE of their pages is cleared. -/
def Node.removeNodes (n : Node) (first : Nat → PNode → Bool) : Node :=
  let dead := deadNodes n.share.nodes first
  if dead = [] then n else
  let pages := n.seqs.pages.map fun e =>
    match e.2.node with
    | some h => if dead.contains h then (e.1, { e.2 with node := none }) else e
    | none => e
  let n := { n with seqs := { n.seqs with pages := pages },
                    share := { n.share with nodes := n.share.nodes.filter fun e => !dead.contains e.1 } }
  n.bumpBy Reg.nodesRemoved dead.length

/-- Remove the node of a page, if it has one, with the nodes below. -/
def Node.removePageNode (n : Node) (p : Nat) : Node :=
  match (n.page p).node with
  | none => n
  | some h => n.removeNodes fun k _ => k == h

/-- Give back a page's slow-tier slot, which keeps its GEN (R297). -/
def Node.dropSlow (n : Node) (slot : Nat) : Node :=
  { n with tiers := { n.tiers with slow := Map.modify n.tiers.slow slot fun e => { e with used := false, data := [] } } }

/-- Put a page into the packer order: ascending seal tick, then page ID (R243, R248). -/
def Node.queuePacker (n : Node) (tick p : Nat) : Node :=
  if n.packOrder.any fun e => e.2 == p then n
  else { n with packOrder := insertBy (fun (a b : Nat × Nat) => decide (a.1 < b.1) || (a.1 == b.1 && decide (a.2 < b.2))) (tick, p) n.packOrder }

/-- Take a page out of the packer order. -/
def Node.unqueuePacker (n : Node) (p : Nat) : Node := { n with packOrder := n.packOrder.filter fun e => e.2 != p }

/-- Stop a packer that works on the page (R246): the page leaves the packer order and the packer's pin is released. -/
def Node.stopPacker (n : Node) (p : Nat) : Node :=
  let had := n.packers.any fun k => k.page == p
  let n := { n with packers := n.packers.filter (fun k => k.page != p) }.unqueuePacker p
  if had then
    let d := n.page p
    let n := n.setPage p { d with pin := d.pin - 1 }
    n.bump Reg.packStops
  else n

/-- The slot bookkeeping of a page that ends: its tier-1 and slow-tier slots go back (R149). -/
def Node.freePageSlots (n : Node) (p : Nat) : Node :=
  let d := n.page p
  let n := match d.t1 with | some g => n.dropSlot g | none => n
  match d.slow with | some k => n.dropSlow k | none => n

/-- A page becomes FREE. -/
def Node.dropPage (n : Node) (p : Nat) : Node := (n.freePageSlots p).setPage p {}

/-- Take a page out of the background prefetch queue. -/
def Node.unqueuePage (n : Node) (p : Nat) : Node :=
  { n with tiers := { n.tiers with background := n.tiers.background.filter (· != p) } }

/-- One page-table entry stops naming a page (R149): at REF_COUNT 0 it becomes RELEASED, with its tree node (R137). -/
def Node.releaseRef (n : Node) (p : Nat) : Node :=
  let d := n.page p
  let r := d.ref - 1
  let n := n.setPage p { d with ref := r }
  if r = 0 then
    let n := ((n.removePageNode p).stopPacker p).unqueuePage p
    let n := { n with comp := { n.comp with preCopied := n.comp.preCopied.filter fun x => x != p } }
    (n.setPage p { n.page p with state := .released, moving := false }).journal 7 0 0 p []
  else n

/-- Set a page's state. -/
def Node.pageState (n : Node) (p : Nat) (st : PState) : Node := n.setPage p { n.page p with state := st }

/-- The rewrites of a page end with it (Table 5-4): copies stop and their slots return, commands leave their queues. -/
def Node.dropRewrites (n : Node) (p : Nat) : Node :=
  let ws := n.seqs.rewrites.filter fun (w : PageRewrite) => w.page == p
  if ws = [] then n else
  let gone := ws.map fun w => match w.copy with | some np => 2 ^ 53 + np | none => 2 ^ 54 + p
  let queues := Map.norm [] n.stk.queues fun _ q => q.filter fun c => !gone.contains c.issuer
  let d := n.page p
  let n := if d.copies = 0 then n else n.setPage p { d with copies := 0, pin := d.pin - 1 }
  let n := { n with seqs := { n.seqs with rewrites := n.seqs.rewrites.filter fun (w : PageRewrite) => w.page != p },
                    stk := { n.stk with queues := queues } }
  (ws.filterMap PageRewrite.copy).foldl Node.dropPage n

/-- A page is POISONED (R103): its node goes (R137), a packer stops (R246), a spill ends, a prefetch gives its slot back (R295), and
the sequences that hold it count it (R97). -/
def Node.poisonPage (n : Node) (p : Nat) : Node :=
  let d := n.page p
  if !(d.state == .tail || d.state == .sealed || d.state == .compressed || d.state == .spilled || d.state == .prefetching) then n else
  let n := ((n.removePageNode p).stopPacker p).dropRewrites p
  let d := n.page p
  let pre := decide (d.state = .prefetching)
  let n := if pre then (match d.t1 with | some g => n.dropSlot g | none => n) else n
  let n := n.setPage p { d with state := .poisoned, moving := false, t1 := if pre then none else d.t1 }
  let n := { n with tiers := { n.tiers with reads := n.tiers.reads.filter (fun r => r.page != p),
                                            spillsNow := n.tiers.spillsNow.filter (fun e => e.1 != p) } }
  let seqs := Map.mapVals n.seqs.seqs fun _ q =>
    if q.tracks.any (fun t => t.pages.contains p) then
      { q with cnt := { q.cnt with poisoned := Nat.min (q.cnt.poisoned + 1) 0xFFFFFFFF } }
    else q
  { n with seqs := { n.seqs with seqs := seqs } }

/-! ### Sequences and tracks -/

/-- The sequence of a node-local number. -/
def Node.seq (n : Node) (k : Nat) : Seq := Map.get {} n.seqs.seqs k

/-- Write a sequence descriptor; a FREE one is not listed. -/
def Node.setSeq (n : Node) (k : Nat) (q : Seq) : Node :=
  { n with seqs := { n.seqs with seqs := Map.set {} n.seqs.seqs k q } }

/-- The node-local number of a SEQUENCE_ID (R90). -/
def seqLocal (id : Nat) : Nat := id % 2 ^ 20

/-- The tenant of a SEQUENCE_ID (R90). -/
def seqTenant (id : Nat) : Nat := id / 2 ^ 20

/-- A track as the model writes it into descriptor images (log entry 78): LAYER, GROUP, TOKENS, and the page IDs of its table. -/
def Track.image (t : Track) : Bytes :=
  leBytes 2 t.layer ++ leBytes 2 t.group ++ leBytes 4 t.tokens ++ leBytes 4 t.pages.length ++ t.pages.flatMap (leBytes 4)

/-- A sequence descriptor with its tracks and page tables, as journal records and MOVE frames carry it (the manual gives no layout; DESIGN CHOICE, log
entry 78). -/
def Seq.image (q : Seq) : Bytes :=
  leBytes 6 q.id ++ leBytes 1 q.slice ++ leBytes 1 ((if q.forked then 1 else 0) + if q.attached then 2 else 0) ++ leBytes 2 q.layerFirst ++
  leBytes 2 q.layerCount ++ leBytes 2 q.groupCount ++ leBytes 1 q.format ++ leBytes 1 q.home ++ leBytes 8 q.spanBase ++ leBytes 4 q.spanLimit ++
  leBytes 4 q.domain ++ leBytes 6 q.parent ++ leBytes 8 q.openTick ++ leBytes 8 q.lastAppend ++ leBytes 2 q.aBytes ++ leBytes 2 q.bBytes ++
  leBytes 4 q.tracks.length ++ q.tracks.flatMap Track.image

/-- The tracks of an image. -/
def tracksOf : Nat → Bytes → List Track
  | 0, _ => []
  | fuel + 1, v =>
    let count := fieldB v 8 4
    let t : Track := { layer := fieldB v 0 2, group := fieldB v 2 2, tokens := fieldB v 4 4,
                       pages := (List.range count).map fun i => fieldB v (12 + 4 * i) 4 }
    t :: tracksOf fuel (v.drop (12 + 4 * count))

/-- The descriptor of an image. -/
def Seq.ofImage (v : Bytes) : Seq :=
  { id := fieldB v 0 6, state := .opened, slice := fieldB v 6 1, forked := bitOf (fieldB v 7 1) 0, attached := bitOf (fieldB v 7 1) 1,
    layerFirst := fieldB v 8 2, layerCount := fieldB v 10 2, groupCount := fieldB v 12 2, format := fieldB v 14 1, home := fieldB v 15 1,
    spanBase := fieldB v 16 8, spanLimit := fieldB v 24 4, domain := fieldB v 28 4, parent := fieldB v 32 6, openTick := fieldB v 38 8,
    lastAppend := fieldB v 46 8, aBytes := fieldB v 54 2, bBytes := fieldB v 56 2, tracks := tracksOf (fieldB v 58 4) (v.drop 62) }

/-- Change one track. -/
def Node.setTrack (n : Node) (k t : Nat) (f : Track → Track) : Node :=
  let q := n.seq k
  n.setSeq k { q with tracks := q.tracks.modify t f }

/-- A track of a sequence. -/
def Seq.track (q : Seq) (t : Nat) : Track := q.tracks.getD t {}

/-- The tail page of a track: its last page-table entry. -/
def Track.tail (t : Track) : Nat := t.pages.getLastD 0

/-- Track index (R91). -/
def Seq.trackIndex (q : Seq) (layer group : Nat) : Nat := (layer - q.layerFirst) * q.groupCount + group

/-- The handles of a page table's chunks, with those that its pages need and it lacks (R99). -/
def chunkHandles (held : List Nat) (pages next : Nat) : List Nat :=
  held ++ (List.range (ceilDiv pages 60 - held.length)).map (next + ·)

/-- Enter pages at the end of a track's page table. -/
def Node.pushPages (n : Node) (k t : Nat) (ps : List Nat) : Node :=
  let tr := (n.seq k).track t
  let cs := chunkHandles tr.chunks (tr.pages.length + ps.length) n.seqs.chunkNext
  let n := { n with seqs := { n.seqs with chunkNext := n.seqs.chunkNext + (cs.length - tr.chunks.length) } }
  n.setTrack k t fun tr => { tr with pages := tr.pages ++ ps, chunks := cs }

/-- The next free node-local number (R90): those never used come first, in ascending order, then those released, oldest first. -/
def Node.nextSeq (n : Node) : Option Nat :=
  let k := lowestMissing ((Map.keys n.seqs.seqs).filter fun x => decide (n.seqs.fresh ≤ x)) n.seqs.fresh
  if k < 1048576 then some k else n.seqs.released.head?

/-- Take the next free number. -/
def Node.takeSeq (n : Node) : Node :=
  match n.nextSeq with
  | none => n
  | some k =>
    if n.seqs.fresh ≤ k ∧ n.seqs.fresh < 1048576 then { n with seqs := { n.seqs with fresh := k + 1 } }
    else { n with seqs := { n.seqs with released := n.seqs.released.filter fun x => x != k } }

/-- A descriptor becomes FREE and its number is queued as released (R110). -/
def Node.dropSeq (n : Node) (k : Nat) : Node :=
  let n := n.setSeq k {}
  { n with seqs := { n.seqs with released := n.seqs.released ++ [k],
                                 rewrites := n.seqs.rewrites.filter (fun w => w.seq != k) } }

/-- Release what a sequence holds (R110): one reference for every page-table entry, every SPARE to FREE, pending refills cancelled,
the descriptor FREE. -/
def Node.releaseSeq (n : Node) (k : Nat) : Node :=
  let q := n.seq k
  let n := n.foldl (q.tracks.flatMap (·.pages)) fun n p => n.releaseRef p
  let n := n.foldl (q.tracks.filterMap (·.spare)) fun n p => n.dropPage p
  let n := n.foldl (q.tracks.filterMap fun t => t.refill.map (·.1)) fun n p => n.dropPage p
  let n := n.foldl (n.seqs.rewrites.filter fun w => w.seq == k) fun n w =>
    match w.copy with
    | some g => n.dropSlot g
    | none => n
  n.dropSeq k

/-! ### The chain hash and publishing (R131 to R142) -/

/-- X(i) of R131. -/
def chainInput (prev : Bytes) (tag base format first count groups : Nat) (toks : List Nat) : Bytes :=
  prev ++ leBytes 8 tag ++ leBytes 5 base ++ leBytes 1 format ++ leBytes 2 first ++ leBytes 2 count ++ leBytes 1 groups
    ++ leBytes 1 0 ++ toks.flatMap (leBytes 4)

/-- H(0), H(1), … for `pages` page indices of a token list (R131). -/
def chainHashes (key : Bytes) (tag base format first count groups : Nat) : Nat → Bytes → List Nat → List Bytes
  | 0, _, _ => []
  | pages + 1, prev, toks =>
    let h := prefixMac key (chainInput prev tag base format first count groups (toks.take 16))
    h :: chainHashes key tag base format first count groups pages h (toks.drop 16)

/-- What a node must equal besides its hash and parent (R136). -/
def PNode.matches (d : PNode) (domain tag base format first count groups a b : Nat) (toks : List Nat) : Bool :=
  d.domain == domain && d.tag == tag && d.spanBase == base && d.format == format && d.layerFirst == first
    && d.layerCount == count && d.groupCount == groups && d.aBytes == a && d.bBytes == b && d.tokens == toks

/-- Publish the next page index of a sequence while it can be published (R142); `fuel` counts indices. -/
def Node.publishGo (now k : Nat) : Nat → Node → Node
  | 0, n => n
  | fuel + 1, n =>
    let q := n.seq k
    match q.publish with
    | none => n
    | some pb =>
      let i := pb.next
      if pb.pages ≤ i then n.setSeq k { q with publish := none }
      else if !q.tracks.all (fun t => decide (i + 1 < t.pages.length)) then n
      else
        let stop := fun (n : Node) => n.setSeq k { n.seq k with publish := none }
        match Map.find n.share.domains q.domain with
        | none => stop n
        | some dom =>
          let pages := q.tracks.map fun t => t.pages.getD i 0
          let toks := (pb.tokens.drop (16 * i)).take 16
          let h := (chainHashes dom.key pb.tag q.spanBase q.format q.layerFirst q.layerCount q.groupCount (i + 1)
            (List.replicate 32 0) pb.tokens).getLastD []
          let prev := q.tracks.map fun t => t.pages.getD (i - 1) 0
          let parent := if i = 0 then some none else
            (match (n.page (prev.headD 0)).node with
             | some hd => match Map.find n.share.nodes hd with
               | some d => if d.live && d.pageSet == prev then some (some hd) else none
               | none => none
             | none => none)
          match parent with
          | none => stop n
          | some par =>
            let same := n.share.nodes.filter fun e => e.2.hash == h
            let live := same.any fun e => e.2.live && e.2.parent == par && e.2.domain == q.domain &&
              e.2.matches q.domain pb.tag q.spanBase q.format q.layerFirst q.layerCount q.groupCount q.aBytes q.bBytes toks
            if live then stop (n.bump Reg.publishDuplicates)
            else if same ≠ [] then stop (n.bump Reg.hashCollisions)
            else if n.reg Reg.nodeMax ≤ n.share.nodes.length then stop n
            else
              let hd := n.share.nodeNext
              let nd : PNode := { hash := h, parent := par, pageSet := pages, domain := q.domain, index := i, live := true,
                                  tick := now, tag := pb.tag, spanBase := q.spanBase, format := q.format,
                                  layerFirst := q.layerFirst, layerCount := q.layerCount, groupCount := q.groupCount,
                                  aBytes := q.aBytes, bBytes := q.bBytes, tokens := toks }
              let n := { n with share := { n.share with nodes := Map.put n.share.nodes hd nd, nodeNext := hd + 1 } }
              let n := n.foldl pages fun n p => n.setPage p { n.page p with node := some hd }
              let n := n.setSeq k { q with publish := some { pb with next := i + 1, nodes := Map.put pb.nodes i hd } }
              Node.publishGo now k fuel (n.bump Reg.published)

/-- Publish what a sequence can publish now. -/
def Node.publish (n : Node) (now k : Nat) : Node :=
  match (n.seq k).publish with
  | none => n
  | some pb => Node.publishGo now k (pb.pages + 1 - pb.next) n

/-! ### Seals (R114) -/

/-- The tail seals: LAST_USE (the tick before the boundary, Table 4-12), SEALS, the packer's queue. -/
def Node.sealPage (n : Node) (now k p : Nat) : Node :=
  let n := n.setPage p { n.page p with state := .sealed, lastUse := now - 1 }
  let q := n.seq k
  let n := n.setSeq k { q with cnt := { q.cnt with seals := Nat.min (q.cnt.seals + 1) 0xFFFFFFFF } }
  (n.queuePacker (now - 1) p).bump Reg.seals

/-- A full tail of a track seals where a spare stands by (R114): the spare becomes TAIL and NO_SPARE is set. A tail that is not full, or
that has no spare behind it, stays. -/
def Node.sealTrack (n : Node) (now k t : Nat) : Node :=
  let tr := (n.seq k).track t
  match tr.spare with
  | none => n
  | some sp =>
    if (n.page tr.tail).tokens < 16 then n else
    let n := n.sealPage now k tr.tail
    let n := n.setPage sp { n.page sp with state := .tail, ref := 1 }
    let n := n.pushPages k t [sp]
    let n := n.setTrack k t fun tr => { tr with spare := none, noSpare := true }
    (n.journal 5 (n.seq k).id t tr.pages.length (leBytes 4 sp)).publish now k

end Sys2Proof.Machine
end

