-- ==== Sys2Proof/Machine/Ending.lean ====
section
/-!
DEFINITION. How an admitted request ends other than by its result: its items stop, what it booked and pinned goes back, and its final
is queued (R82, R88, R113, R233, R449).
-/

namespace Sys2Proof.Machine

/-- The item works on a track of its request: a fork copy on those it lists, an append on all, another on its own. -/
def Item.onTrack (i : Item) (q : Admitted) (t : Nat) : Bool :=
  match i.kind with
  | .forkCopy => i.pages.contains t
  | .append => q.tracks.contains t
  | _ => i.track == t

/-- The item has not finished. -/
def Item.open (i : Item) : Bool := decide (i.state < 3)

/-- The request names this sequence. -/
def Admitted.names (q : Admitted) (k : Nat) : Bool := !q.req.noSeq && seqLocal q.req.seqId == k

/-- READERS of a track (Table 4-3): admitted requests whose work items on it have not finished, and rewrites under way (R150). -/
def Node.readers (n : Node) (k t : Nat) : Nat :=
  (n.adm.admitted.filter fun q => q.names k && decide (q.phase < 2) &&
    (if q.held || q.stateLost then q.tracks.contains t else q.items.any fun i => i.open && i.onTrack q t)).length +
  (n.seqs.rewrites.filter fun w => w.seq == k && w.track == t).length

/-- Pin a page (R144). -/
def Node.pinPage (n : Node) (p : Nat) : Node := n.setPage p { n.page p with pin := (n.page p).pin + 1 }

/-- Release a pin. -/
def Node.unpinPage (n : Node) (p : Nat) : Node := n.setPage p { n.page p with pin := (n.page p).pin - 1 }

/-- Release the pins of an issued item (R144). -/
def Node.unpinItem (n : Node) (i : Item) : Node :=
  if i.state = 1 ∨ i.state = 2 then n.foldl (i.view.map (·.page)) Node.unpinPage else n

/-- Stop a request's items (R88): pins, threads, tile registers and places in the item queues are given back. -/
def Node.stopItems (n : Node) (q : Admitted) : Node :=
  let n := n.foldl q.items Node.unpinItem
  let id := q.req.hdr.requestId.toNat
  let threads := n.cells.threads.filter fun e => !(e.2.running && e.2.session == q.req.sess && e.2.request == id)
  let queues := Map.norm [] n.cells.queues fun _ l => l.filter fun e => !(e.1 == q.req.sess && e.2.1 == id)
  { n with cells := { n.cells with threads := threads, queues := queues } }

/-- BOOKED of a request's tracks falls by its TOKEN_COUNT where its tokens are not written (R113). -/
def Node.unbook (n : Node) (q : Admitted) : Node :=
  if q.req.isWrite && !q.tokenWritten then
    n.foldl q.tracks fun n t => n.setTrack (seqLocal q.req.seqId) t fun tr => { tr with booked := tr.booked - q.tokens }
  else n

/-- The key of a gradient record. -/
def gradKey (k t i : Nat) : Nat := (k * 1024 + t) * 2 ^ 21 + i

/-- The gradient records that a COMPUTE names (R233). -/
def Node.gradsNamed (n : Node) (q : Admitted) : List Nat :=
  if q.req.isBackward 0 && !q.req.noDkv then
    (q.items.flatMap fun i => i.pages.map fun p => gradKey (seqLocal q.req.seqId) i.track p).filter
      fun g => (Map.find n.grads g).isSome
  else []

/-- Set PARTIAL on gradient records, counting those newly set. -/
def Node.setPartial (n : Node) (gs : List Nat) : Node :=
  n.foldl gs fun n g =>
    match Map.find n.grads g with
    | none => n
    | some r =>
      if r.isPartial then n
      else ({ n with grads := Map.put n.grads g { r with isPartial := true } }).bump Reg.gradPartials

/-- The mark by which near-bank commands know their request. -/
def issuerOf (key : Nat) : Nat := key + 1

/-- Near-bank commands of a request are still queued. -/
def Node.fencesOut (n : Node) (key : Nat) : Bool :=
  n.stk.queues.any fun e => e.2.any fun c => c.issuer == issuerOf key

/-- A COMPUTE ends other than with DONE: PARTIAL at once, or after its last fence token (R233). -/
def Node.gradEnd (n : Node) (q : Admitted) : Node :=
  let gs := n.gradsNamed q
  if n.fencesOut q.req.key then
    { n with stk := { n.stk with marks := n.stk.marks ++ gs.map fun g => (issuerOf q.req.key, g) } }
  else n.setPartial gs

/-- A child that is FORKING ends with its fork (R108): references released, new pages FREE, descriptor FREE. -/
def Node.dropChild (n : Node) (c : Nat) : Node :=
  if (n.seq c).state != .forking then n else
  let q := n.seq c
  let n := n.foldl (q.tracks.map Track.tail) fun n p => n.dropPage p
  let n := n.setSeq c { q with tracks := q.tracks.map fun t => { t with pages := t.pages.dropLast } }
  n.releaseSeq c

/-- What a request gives back when it ends without its result. -/
def Node.undo (n : Node) (q : Admitted) : Node :=
  let n := ((n.stopItems q).unbook q).gradEnd q
  let n := n.foldl q.slots fun n g => n.dropSlot g
  if q.req.op = opSeqFork then n.dropChild q.target else n

/-- End an admitted request with a status-only final (R82, R88). DETAIL 0x10 where a token write stands and the spec says so
(Tables 3-10, 3-12; R207). -/
def Node.endRequest (n : Node) (now key status detail : Nat) : Node :=
  match n.admitted? key with
  | none => n
  | some q =>
    if 2 ≤ q.phase then n else
    let d := if q.tokenWritten && (status == stAborted || status == stBudgetTrap) then 0x10 else detail
    (n.undo q).queueFinal now q status d

/-- LATE_NOTICE, then the final (R80). -/
def Node.endWithNotice (n : Node) (now key status detail : Nat) : Node :=
  match n.admitted? key with
  | none => n
  | some q => (n.lateNotice now q detail 0xFFFFFFFF).endRequest now key status detail

/-- End every unfinished request that a predicate names. -/
def Node.endAll (n : Node) (now status detail : Nat) (notice : Bool) (f : Admitted → Bool) : Node :=
  n.foldl ((n.unfinished.filter f).map fun q => q.req.key) fun n k =>
    if notice then n.endWithNotice now k status detail else n.endRequest now k status detail

/-- Take waiting requests out of the pool with a status-only reply that is no refusal of the admission unit. -/
def Node.endWaiting (n : Node) (now status : Nat) (f : Waiting → Bool) : Node :=
  let out := n.adm.pool.filter f
  let n := { n with adm := { n.adm with pool := n.adm.pool.filter fun w => !f w } }
  n.foldl out fun n w => n.queueReply now (n.replyPort w.req) (w.req.reply status 0 0 []) none 0 0

/-- The requests that read a page end with POISON (R124): those with an issued item whose view holds it. -/
def Node.poisonReaders (n : Node) (now p : Nat) : Node :=
  n.endAll now stPoison 0 false fun q => q.items.any fun i => (i.state == 1 || i.state == 2) && i.view.any fun v => v.page == p

end Sys2Proof.Machine
end

