-- ==== Sys2Proof/Machine/Index.lean ====
section
/-!
DEFINITION. Vector search on one index: stored vectors, scores, the snapshot of a generation and a tick, and result blocks (R319 to
R332).
-/

namespace Sys2Proof.Machine

/-- Element bytes of a vector of an index (R319). -/
def VIndex.elemBytes (d : VIndex) : Nat :=
  if d.elem = 1 then 2 * d.dim else if d.elem = 2 then d.dim + d.dim / 32 else d.dim

/-- Slots of the side list and the centroid table (R315). -/
def VIndex.baseSlots (d : VIndex) : Nat := ceilDiv (d.sideMax * d.vrec + d.centroids * d.crec) 16384

/-- A signed INT8 byte times an FP32 scale, exactly. -/
def int8Val (b scale : Nat) : FVal :=
  match f32Val scale with
  | .fin _ m e => if b ≥ 128 then .fin true ((256 - b) * m) e else .fin false (b * m) e
  | v => v

/-- The decoded elements of a stored vector (R321). -/
def VIndex.decode (d : VIndex) (bs : Bytes) (scale : Nat) : List FVal :=
  if d.elem = 5 then (List.range d.dim).map fun i => int8Val (fieldB bs i 1) scale
  else vecElems d.elem bs d.dim

/-- The decoded elements of a vector in a payload. -/
def payloadVec (r : Request) (dim off : Nat) : List FVal :=
  vecElems (if r.queryBf16 then 1 else 2) (r.payload.drop off) dim

/-- A vector divided by its Euclidean norm in FP32 (R320); all zeros stay zero. -/
def normalise (v : List FVal) : List FVal :=
  let n := Config.sqrt (fp32DotInOrder v v) % 2 ^ 32
  if v.all fun x => match x with | .fin _ m _ => m == 0 | _ => false then v
  else v.map fun x => f32Val (f32Div x.toF32 n)

/-- The largest absolute value as FP32 bits. -/
def maxAbs (v : List FVal) : Nat :=
  v.foldl (fun a x => let b := x.toF32 % 2 ^ 31
                      if f32Lt a b then b else a) 0

/-- The nearest integer to a value, ties to even, between −127 and 127, as a byte. -/
def int8Of (v : FVal) : Nat :=
  match v with
  | .fin n m e =>
    let q := if 0 ≤ e then m * 2 ^ e.toNat else
      let s := (-e).toNat
      let d := m / 2 ^ s
      let r := m % 2 ^ s
      let h := 2 ^ (s - 1)
      if r > h ∨ (r = h ∧ d % 2 = 1) then d + 1 else d
    let q := Nat.min q 127
    if n ∧ q ≠ 0 then 256 - q else q
  | _ => 0

/-- The stored form of a vector: element bytes, SCALE, NORM2 (R320). -/
def VIndex.convert (d : VIndex) (v : List FVal) : Bytes × Nat × Nat :=
  let v := if d.metric = 1 then normalise v else v
  let (bs, sc) :=
    if d.elem = 5 then
      let a := maxAbs v
      if a = 0 then (List.replicate d.dim (0 : Byte), 0)
      else
        let sc := f32Div a 0x42FE0000
        (v.map fun x => BitVec.ofNat 8 (int8Of (f32Val (f32Div x.toF32 sc))), sc)
    else (vecStore d.elem v, 0)
  let st := d.decode bs sc
  (bs, sc, if d.metric = 2 then fp32DotInOrder st st else 0)

/-- The score of a stored vector against a query (R321). -/
def VIndex.score (d : VIndex) (q : List FVal) (x : List FVal) (norm2 : Nat) : Nat :=
  let s := fp32DotInOrder q x
  if d.metric = 2 then f32Neg (f32Add (f32Sub (fp32DotInOrder q q) (f32Mul 0x40000000 s)) norm2) else s

/-- The query as scored: normalised for COSINE. -/
def VIndex.query (d : VIndex) (q : List FVal) : List FVal := if d.metric = 1 then normalise q else q

/-- Order of candidates: better score first, then the lower number (R322). -/
def better (a b : Nat × Nat) : Bool := f32Lt b.2 a.2 || (!f32Lt a.2 b.2 && decide (a.1 < b.1))

/-- Centroids in order of score against a decoded vector. -/
def VIndex.coarse (d : VIndex) (q : List FVal) : List Nat :=
  let sc := (List.range d.centroidTab.length).map fun c =>
    let x := d.decode (d.centroidTab.getD c []) 0x3F800000
    (c, d.score q x (if d.metric = 2 then fp32DotInOrder x x else 0))
  (sortBy better sc).map (·.1)

/-- The lists of a generation. -/
def VIndex.listsAt (d : VIndex) (gen : Nat) : List ListVersion :=
  d.lists.filter fun l => decide (l.fromGen ≤ gen) && (match l.toGen with | none => true | some g => decide (gen < g))

/-- The list of a number in a generation. -/
def VIndex.listAt (d : VIndex) (gen c : Nat) : List VRec :=
  match (d.listsAt gen).find? fun l => l.list == c with
  | some l => l.recs
  | none => []

/-- The region of a list (R316). -/
def VIndex.listRegion (d : VIndex) (c : Nat) : Nat :=
  let rs := (List.range 16).filter fun r => bitOf d.regionMask r
  rs.getD (c % rs.length) 0

/-- The side entries a snapshot sees (R327, R328). -/
def VIndex.sideAt (d : VIndex) (gen s : Nat) : List VRec :=
  d.side.filter fun e => decide (e.commit ≤ s) && (e.foldGen == 0 || decide (gen < e.foldGen))

/-- The latest side entry of an ID in a snapshot. -/
def latestOf (side : List VRec) (id : Nat) : Option VRec := (side.filter fun e => e.id == id).getLast?

/-- Visible side INSERTs: the latest entries of their IDs (R327). -/
def visibleSide (side : List VRec) : List VRec :=
  side.filter fun e => e.kind == 1 && latestOf side e.id == some e

/-- The list vectors of a snapshot that no side entry supersedes. -/
def visibleMain (recs side : List VRec) : List VRec := recs.filter fun r => !side.any fun e => e.id == r.id

/-- The version of an ID visible in a snapshot. -/
def VIndex.visibleId (d : VIndex) (gen s id : Nat) : Option VRec :=
  let side := d.sideAt gen s
  match latestOf side id with
  | some e => if e.kind = 1 then some e else none
  | none => ((d.listsAt gen).flatMap (·.recs)).find? fun r => r.id == id

/-- Records a search scans in the lists given, `none` for all: list vectors and side entries. -/
def VIndex.scanned (d : VIndex) (gen s : Nat) (lists : Option (List Nat)) : List VRec × List VRec :=
  let inL := fun c => match lists with | none => true | some l => l.contains c
  (((d.listsAt gen).filter fun l => inL l.list).flatMap (·.recs),
   (d.sideAt gen s).filter fun e => match lists with | none => true | some l => l.contains e.list)

/-- The k best visible, passing vectors (R322, R327): ID, score, list. -/
def VIndex.best (d : VIndex) (gen s k have_ not_ : Nat) (q : List FVal) (lists : Option (List Nat)) : List (Nat × Nat × Nat) :=
  let side := d.sideAt gen s
  let (main, se) := d.scanned gen s lists
  let vis := visibleMain main side ++ (visibleSide side).filter fun e => se.contains e
  let ok := vis.filter fun r => (r.tag &&& have_) == have_ && (r.tag &&& not_) == 0
  let sc := ok.map fun r => (r.id, d.score q (d.decode r.elems r.scale) r.norm2, r.list)
  (sortBy (fun a b => better (a.1, a.2.1) (b.1, b.2.1)) sc).take k

/-- A result block (Tables 12-5, 12-6). -/
def resultBlock (res : List (Nat × Nat × Nat)) (k probed mode s hits : Nat) : Bytes :=
  leBytes 2 res.length ++ leBytes 2 k ++ leBytes 2 probed ++ leBytes 1 mode ++ leBytes 1 0 ++ leBytes 5 s ++ leBytes 1 0 ++
  leBytes 2 hits ++
  (res.flatMap fun e => leBytes 8 e.1 ++ leBytes 4 e.2.1 ++ leBytes 2 e.2.2 ++ leBytes 2 0) ++
  (List.replicate (k - res.length) (leBytes 8 0xFFFFFFFFFFFFFFFF ++ leBytes 4 f32NegInf ++ leBytes 2 0xFFFF ++ leBytes 2 0)).flatten

/-- Side entries held, FOLDED ones included (SIDE_COUNT). -/
def VIndex.sideCount (d : VIndex) : Nat := d.side.length

/-- UNASSIGNED (Table 12-1): side entries with LIST 0xFFFF. -/
def VIndex.unassigned (d : VIndex) : Nat := (d.side.filter fun e => e.list == 0xFFFF).length

/-- Vectors in the lists of the current generation. -/
def VIndex.mainCount (d : VIndex) : Nat := ((d.listsAt d.gen).map fun l => l.recs.length).sum

/-- The list a vector gets: its best centroid, 0xFFFF before centroids load (R326). -/
def VIndex.assign (d : VIndex) (v : List FVal) : Nat :=
  if d.state = 2 then (d.coarse (d.query v)).headD 0xFFFF else 0xFFFF

/-- The entries a FOLD captures at B, with the lists they are given (R328). -/
def VIndex.captured (d : VIndex) (b : Nat) : List VRec :=
  (d.side.filter fun e => decide (e.commit ≤ b) && e.foldGen == 0).map fun e =>
    if e.list ≠ 0xFFFF then e
    else if e.kind = 1 then { e with list := d.assign (d.decode e.elems e.scale) }
    else e

/-- What a FOLD writes at B: for each touched list its new records, then how many records it drops and how many of them are poisoned. -/
def VIndex.foldPlan (d : VIndex) (b : Nat) : List (Nat × List VRec) × Nat × Nat :=
  let cap := d.captured b
  let cur := d.listsAt d.gen
  let touched := cur.filterMap fun l => if l.recs.any fun r => cap.any fun e => e.id == r.id then some l.list else none
  let lists := sortBy (fun a b => decide (a < b)) ((cap.map (·.list) ++ touched).filter (· != 0xFFFF)).eraseDups
  let vis := visibleSide cap
  let parts := lists.map fun c =>
    let old := d.listAt d.gen c
    let keep := (visibleMain old cap).filter fun r => !r.poisoned
    let bad := ((visibleMain old cap).filter fun r => r.poisoned).length
    let add := (vis.filter fun e => e.list == c && !e.poisoned).map fun e => { e with kind := 0, commit := 0, foldGen := 0 }
    (c, keep ++ add, old.length - keep.length, bad)
  (parts.map fun p => (p.1, p.2.1), (parts.map fun p => p.2.2.1).sum, (parts.map fun p => p.2.2.2).sum)

/-- Slots of a list of so many records. -/
def VIndex.listSlots (d : VIndex) (count : Nat) : Nat := ceilDiv (count * d.vrec) 16384

end Sys2Proof.Machine
end

