-- ==== Sys2Proof/Machine/Place.lean ====
section
/-!
DEFINITION. The placement of the second pass (R74 to R78) with everything it books: cells in COMPUTE and REDUCE windows, bytes in
SEND windows or the host ledger, Q6 cells, staging, the admission record and the notice tick. What is booked is read off the
admitted requests, so that a request that ends releases its bookings at once (R88).
-/

namespace Sys2Proof.Machine

/-- What a search asks (R333): k, its coarse items, and per region the scan items of the IVF and of the exact block. -/
structure SearchWork where
  k : Nat := 0
  coarse : List Item := []
  ivf : List (Nat × List Item) := []
  tree : List (Nat × List Item) := []
deriving DecidableEq, Repr

/-- What a request asks of the last: its items, in stages of which each follows the one before, with the tick from which each item may
start; its phase 2 and the earliest tick of that; its reply: `sendBytes` is the message of the final with its header. -/
structure Work where
  stages : List (List (Item × Nat)) := []
  redCycles : Nat := 0
  redReady : Nat := 0
  statusOnly : Bool := false
  sendBytes : Nat := 0
  staging : List (Nat × Nat) := []
  search : Option SearchWork := none
deriving DecidableEq, Repr

/-- The requests whose bookings hold: for windows of the active last, those admitted; for windows of an armed last, the placements of
R56 and the requests that R57 budgeted there. -/
def Node.bookers (n : Node) (armedPlan : Bool) : List Admitted :=
  if armedPlan then
    (n.adm.armed.filter fun a => n.adm.admitted.any fun q => q.req.key == a.req.key && decide (q.phase < 2)) ++
      n.adm.admitted.filter (·.armedPart)
  else n.adm.admitted

/-- A change is ARMED and will bring a new last at this tick (R57). -/
def Node.armedAt (n : Node) : Option Nat :=
  if n.reg Reg.commitState = 3 && n.sched.staged.isSome then some n.sched.arming.armTick else none

/-- The plans to search, in the order of their windows: the active last up to the commit tick, then the armed one (R57). -/
def Node.plans (n : Node) : List (Bool × Plan) :=
  match n.armedAt with
  | none => [(false, n.plan)]
  | some c => [(false, { n.plan with limit := some c }), (true, { last := n.sched.staged.getD {}, base := c })]

/-- Booked cycles of a cell in the window of a region that starts at a tick (R74). -/
def cellBooked (bs : List Admitted) (r start cell : Nat) : Nat :=
  (bs.map fun q => if q.phase < 2 then
      ((q.items.filter fun i => i.region == r && i.winStart == start && i.cell == cell).map (·.cycles)).sum +
      (if q.home = r ∧ q.red.winStart = start ∧ q.red.cell = cell then q.red.cycles else 0)
    else 0).sum

/-- The cells of a region on which a slice's items may run (R387, R445): cells of its blocks, in service. -/
def Node.cellsOf (n : Node) (s r : Nat) : List Nat :=
  (List.range 256).filter fun c =>
    bitOf (n.slice s).blocks (r * 16 + c / 16) && n.unitUp .region r && n.unitUp .block (r * 16 + c / 16)
      && n.unitUp .cell (r * 256 + c)

/-- The cell with the fewest booked cycles, ties to the lowest number. -/
def leastCell (bs : List Admitted) (r start : Nat) (cells : List Nat) : Option (Nat × Nat) :=
  cells.foldl (fun best c =>
    let b := cellBooked bs r start c
    match best with
    | none => some (c, b)
    | some (_, b0) => if b < b0 then some (c, b) else best) none

/-- A window's end as placement sees it: its LENGTH cut by ADMIT_CAP (R541). -/
def Node.capEnd (n : Node) (start len : Nat) : Nat := start + len * n.reg Reg.admitCap / 100

/-- Try to book a number of cycles in one window: cell and completion tick. `refresh` adds the stall term of R74. -/
def Node.tryWindow (n : Node) (bs : List Admitted) (s r cycles : Nat) (refresh : Bool) (w : Nat × Nat × Nat) :
    Option (Nat × Nat × Nat) :=
  match leastCell bs r w.1 (n.cellsOf s r) with
  | none => none
  | some (c, b) =>
    let k := ceilDiv (b + cycles) 1400
    let f := w.1 + k + (if refresh then n.reg Reg.refStall * ceilDiv k (n.reg Reg.refSpan) else 0)
    if f ≤ n.capEnd w.1 w.2.1 then some (c, w.1, f) else none

/-- Search the plans in order for a window. -/
def Node.searchPlans {α : Type} (n : Node) (kind target lo hi : Nat) (f : Bool → Nat × Nat × Nat → Option α) : Option α :=
  n.plans.findSome? fun p => p.2.first kind target lo hi (f p.1)

/-- Place the items one after another (R74): each sees those placed before it. The request under placement is `q`, among the bookers. -/
def Node.placeItems (n : Node) (s hi : Nat) : List (Item × Nat) → Admitted → Option Admitted
  | [], q => some q
  | (i, ready) :: rest, q =>
    let go := n.searchPlans 2 i.region ready hi fun armed w =>
      (n.tryWindow (q :: n.bookers armed) s i.region i.cycles true w).map fun b => (armed, b)
    match go with
    | none => none
    | some (armed, c, st, f) =>
      let i' := { i with cell := c, winStart := st, endTick := f }
      n.placeItems s hi rest { q with items := q.items ++ [i'], armedPart := q.armedPart || armed }

/-- The SEND-window bytes booked on a port for a window start. -/
def sendBooked (bs : List Admitted) (port start : Nat) : Nat :=
  (bs.map fun q => if q.send.port = port ∧ q.send.winStart = start then q.send.bytes else 0).sum

/-- The host ledger's bytes in a tick (R380). -/
def hostBooked (bs : List Admitted) (t : Nat) : Nat :=
  (bs.map fun q => ((q.send.hostTicks.filter fun e => e.1 == t).map (·.2)).sum).sum

/-- Take a reply's bytes from the host ledger tick by tick (R380); `fuel` counts ticks. -/
def hostTake (bs : List Admitted) (cap : Nat) : Nat → Nat → Nat → Option (List (Nat × Nat))
  | 0, _, _ => none
  | fuel + 1, t, left =>
    let room := cap - hostBooked bs t
    let take := Nat.min room left
    let here := if take = 0 then [] else [(t, take)]
    if left ≤ room then some here
    else (hostTake bs cap fuel (t + 1) (left - take)).map (here ++ ·)

/-- Q6 cells of a body reply of `b` message bytes (R348, R374). -/
def q6Cells (b : Nat) : Nat :=
  let full := b / 4096
  let rest := b % 4096
  full * ceilDiv (32 + 4096 + 16) 512 + (if rest = 0 then 0 else ceilDiv (32 + rest + 16) 512)

/-- Q6 cells booked in a tick. -/
def q6Booked (bs : List Admitted) (t : Nat) : Nat :=
  (bs.map fun q => if q.send.doneTick ≤ t ∧ t ≤ q.send.sendTick then q.send.cells else 0).sum

/-- The Q6 partition takes `cells` more in every tick from g to s (R374). -/
def Node.q6Fits (n : Node) (bs : List Admitted) (cells g s : Nat) : Bool :=
  (g :: (bs.map fun q => q.send.doneTick).filter fun t => decide (g < t) && decide (t ≤ s)).all fun t =>
    decide (q6Booked bs t + cells ≤ n.reg Reg.q6Pool)

/-- Frame bytes of a message of `b` bytes on a port (R346). -/
def Node.frameBytes (n : Node) (p b : Nat) : Nat := b + (if n.isNative p then 48 else 96) * ceilDiv b 4096

/-- A tick lies in a SEND window of the port. -/
def Node.inSend (n : Node) (p t : Nat) : Bool :=
  n.plans.any fun pl =>
    decide (pl.2.base ≤ t) && (match pl.2.limit with | some l => decide (t < l) | none => true) &&
      (let o := (t - pl.2.base) % pl.2.last.roundLen
       pl.2.last.windows.any fun w => w.kind == 4 && w.target == 0x100 + p && decide (w.start ≤ o) && decide (o < w.start + w.length))

/-- The latest tick from `lo` to `t` that can take a notice tick of the port (R78). -/
def Node.noticeSearch (n : Node) (p lo : Nat) : Nat → Nat → Option Nat
  | 0, _ => none
  | fuel + 1, t =>
    if t < lo then none
    else
      let held := (n.adm.admitted.filter fun q => q.send.port == p && q.send.notice == some t).length
      let slots := if n.isNative p then n.reg Reg.noticeSlots else n.reg Reg.noticeSlots / 2
      if !n.inSend p t || decide (held < slots) then some t else n.noticeSearch p lo fuel (t - 1)

/-- Place phase 2 of a request whose items are placed (R74): the completion g, and the request. -/
def Node.placeRed (n : Node) (w : Work) (now : Nat) (q : Admitted) : Option (Nat × Admitted) :=
  let regions := (q.items.map (·.region)).eraseDups.length
  let last := q.items.foldl (fun m i => Nat.max m i.endTick) now
  let F := Nat.max (last + if 1 < regions then n.reg Reg.meshTicks else 0) w.redReady
  if w.redCycles = 0 then some (F, { q with red := { endTick := F } })
  else
    (n.searchPlans 3 q.home F q.deadline fun armed win =>
      (n.tryWindow (q :: n.bookers armed) q.slice q.home w.redCycles false win).map fun b => (armed, b)).map fun r =>
        (r.2.2.2, { q with red := { cell := r.2.1, winStart := r.2.2.1, cycles := w.redCycles, endTick := r.2.2.2 },
                           armedPart := q.armedPart || r.1 })

/-- Book the send of a request from the completion g of its phase 2 (R74): whether a part lies in an armed last, and the booking. -/
def Node.bookSend (n : Node) (w : Work) (g : Nat) (q : Admitted) : Option (Bool × SendBooking) :=
  let port := q.send.port
  if w.statusOnly then some (false, { q.send with msg := 0, bytes := 0, cells := 0, hostTicks := [], winStart := 0, sendTick := g, doneTick := g })
  else if port < 48 then
    if !n.inService port then none else
    let B := n.frameBytes port w.sendBytes
    (n.searchPlans 4 (0x100 + port) g q.deadline fun a win =>
      let c := sendBooked (n.bookers a) port win.1
      if c + B ≤ win.2.1 * n.reg Reg.sendBytes
      then some (a, win.1, win.1 + (c + B - 1) / n.reg Reg.sendBytes) else none).map fun r =>
        (r.1, { q.send with msg := w.sendBytes, winStart := r.2.1, bytes := B, sendTick := r.2.2, doneTick := g, cells := q6Cells w.sendBytes })
  else if n.reg Reg.hostSendBytes = 0 then none
  else
    (hostTake (n.bookers false) (n.reg Reg.hostSendBytes) (q.deadline + 1 - g) g (w.sendBytes + 112)).map fun l =>
      (false, { q.send with msg := w.sendBytes, bytes := w.sendBytes + 112, hostTicks := l, sendTick := (l.getLastD (g, 0)).1, doneTick := g })

/-- Place the send of a request (R74) and book its notice tick (R78). The answer says the send tick reached, whether the Q6 partition is short, and the
request if everything fits by D. -/
def Node.placeSend (n : Node) (w : Work) (g : Nat) (q : Admitted) : Option (Nat × Bool × Option Admitted) :=
  match n.bookSend w g q with
  | none => none
  | some (a, sb) =>
    let q := { q with send := sb, armedPart := q.armedPart || a }
    if !n.q6Fits (n.bookers false) sb.cells g sb.sendTick then some (sb.sendTick, true, none)
    else if q.deadline < sb.sendTick + n.reg Reg.deadlineMargin then some (sb.sendTick, false, none)
    else if q.send.port < 48 then
      match n.noticeSearch q.send.port (sb.sendTick + 1) (q.deadline - sb.sendTick) q.deadline with
      | none => some (sb.sendTick, false, none)
      | some t => some (sb.sendTick, false, some { q with send := { sb with notice := some t } })
    else some (sb.sendTick, false, some q)

/-- A merger's booking (R333): the window's cycles on the merger, cell number 256, from tick `g` on. -/
def Node.tryMerger (n : Node) (bs : List Admitted) (r cycles g : Nat) (w : Nat × Nat × Nat) : Option (Nat × Nat) :=
  let f := Nat.max g w.1 + ceilDiv (cellBooked bs r w.1 256 + cycles) 1400
  if f ≤ n.capEnd w.1 w.2.1 then some (w.1, f) else none

/-- Book cycles on a region's merger in the windows that start from `lo` on and end after `g`. -/
def Node.placeMerge (n : Node) (r cycles lo g : Nat) (q : Admitted) : Option (Nat × Admitted) :=
  (n.searchPlans 3 r lo q.deadline fun armed win =>
    if win.1 + win.2.1 ≤ g then none
    else (n.tryMerger (q :: n.bookers armed) r cycles g win).map fun b => (armed, b)).map fun b =>
      let i : Item := { kind := .merge, region := r, cell := 256, winStart := b.2.1, cycles := cycles, endTick := b.2.2, state := 3 }
      (b.2.2, { q with items := q.items ++ [i], armedPart := q.armedPart || b.1 })

/-- Place the scans of one result block (R333): per region its items, then its merge; then the merge of the home region. -/
def Node.placeBlock (n : Node) (k ready : Nat) : List (Nat × List Item) → Nat → Admitted → Option (Nat × Nat × Admitted)
  | [], g, q => some (g, 0, q)
  | (r, its) :: rest, g, q =>
    if its = [] then n.placeBlock k ready rest g q else
    match n.placeItems q.slice q.deadline (its.map fun i => (i, ready)) q with
    | none => none
    | some q' =>
      let f := (q'.items.drop q.items.length).foldl (fun m i => Nat.max m i.endTick) ready
      match n.placeMerge r (n.reg Reg.cRedFix + n.reg Reg.mergeEnt * k * its.length) f f q' with
      | none => none
      | some (gr, q'') =>
        (n.placeBlock k ready rest (Nat.max g gr) q'').map fun a => (a.1, a.2.1 + 1, a.2.2)

/-- Place a whole result block from a ready tick: its completion. -/
def Node.placeScan (n : Node) (k ready : Nat) (rs : List (Nat × List Item)) (q : Admitted) : Option (Nat × Admitted) :=
  match n.placeBlock k ready rs ready q with
  | none => none
  | some (g, regions, q) =>
    let G := g + n.reg Reg.meshTicks
    if regions = 0 then some (g, q)
    else n.placeMerge q.home (n.reg Reg.mergeEnt * k * regions) (G - n.reg Reg.roundLen) G q

/-- Place the stages of items, each ready when the one before it is done. -/
def Node.placeStages (n : Node) : Nat → List (List (Item × Nat)) → Admitted → Option Admitted
  | _, [], q => some q
  | ready, st :: rest, q =>
    match n.placeItems q.slice q.deadline (st.map fun i => (i.1, Nat.max i.2 ready)) q with
    | none => none
    | some q' => n.placeStages (q'.items.foldl (fun m i => Nat.max m i.endTick) ready) rest q'

/-- Staging bytes reserved in a region by the unfinished requests (R179). -/
def Node.stagingUsed (n : Node) (r : Nat) : Nat :=
  (n.adm.admitted.map fun q => if q.phase < 2 then ((q.staging.filter fun e => e.1 == r).map (·.2)).sum else 0).sum

/-- The staging reservations of a request fit (R179). -/
def Node.stagingFits (n : Node) (l : List (Nat × Nat)) : Bool :=
  (List.range 16).all fun r =>
    let add := ((l.filter fun e => e.1 == r).map (·.2)).sum
    add == 0 || decide (n.stagingUsed r + add ≤ n.reg Reg.stagingPool)

/-- Admission-record bytes used in a region (R450). -/
def Node.recordUsed (n : Node) (r : Nat) : Nat :=
  (n.adm.admitted.map fun q => if q.phase < 2 ∧ q.record.1 = r then q.record.2 else 0).sum

/-- The region that takes the admission record (R450). -/
def Node.recordRegion (n : Node) (home bytes : Nat) : Option Nat :=
  ((List.range 16).map fun i => (home + 8 + i) % 16).find? fun r =>
    n.unitUp .region r && decide (n.recordUsed r + bytes ≤ n.reg Reg.admRecordBytes)

/-- What the second pass finds for a request: the request with its bookings, or the send tick that a refusal reports (R77) and which
of the counted reasons failed it. -/
inductive Placed where
  | ok (q : Admitted)
  | fail (info : Nat) (stagingShort q6Short : Bool)
deriving DecidableEq, Repr

/-- Number the items in order (R178) and give each its booking order. -/
def numberItems (order : Nat) (items : List Item) : List Item :=
  items.zipIdx.map fun e => { e.1 with num := e.2, order := order + e.2 }

/-- The compute and reduce steps of R74 for a request; a search follows R333. The completion g, and the request with what is booked. -/
def Node.placeWork (n : Node) (now : Nat) (w : Work) (q : Admitted) : Option (Nat × Admitted) :=
  match w.search with
  | none => (n.placeStages 0 w.stages q).bind fun q => n.placeRed w now q
  | some sw =>
    let co := (n.placeStages 0 [sw.coarse.map fun i => (i, now + 1)] q).map fun q =>
      (q.items.foldl (fun m i => Nat.max m i.endTick) now, q)
    let ivf := if sw.ivf = [] then co else
      co.bind fun c => n.placeScan sw.k (c.1 + n.reg Reg.meshTicks) sw.ivf c.2
    if sw.tree = [] then ivf else
      ivf.bind fun c => (n.placeScan sw.k (now + n.reg Reg.meshTicks) sw.tree c.2).map fun d => (Nat.max c.1 d.1, d.2)

/-- The whole placement of R74 for a request at the boundary `now`. A request whose staging (R179) or admission record (R450) finds no room fails with the
send tick that its windows would have reached (R77). -/
def Node.place (n : Node) (now : Nat) (w : Work) (q : Admitted) : Placed :=
  let short := !n.stagingFits w.staging
  let bytes := 64 + q.req.payload.length
  let rr := n.recordRegion q.home bytes
  match n.placeWork now w { q with items := [], staging := w.staging, record := (rr.getD 0, bytes) } with
  | none => .fail 0xFFFFFFFF short false
  | some (g, q) =>
    match n.placeSend w g q with
    | none => .fail 0xFFFFFFFF short false
    | some (s, q6, some q) =>
      if short || rr.isNone then .fail (s % 2 ^ 32) short q6 else .ok { q with items := numberItems n.adm.orderNext q.items }
    | some (s, q6, none) => .fail (s % 2 ^ 32) short q6

end Sys2Proof.Machine
end

