-- ==== Sys2Proof/Machine/Work.lean ====
section
/-!
DEFINITION. What each opcode asks of the last: its items, cycles, staging, reply, and the slots and reads it reserves (R74, R75, R173,
R178, R179, R211, R229, R235, R292, R299, R333, R334).
-/

namespace Sys2Proof.Machine

/-- A model of its table. -/
def Node.model (n : Node) (m : Nat) : Model := Map.get {} n.models m

/-- A weight descriptor. -/
def Node.weight (n : Node) (d : Nat) : Weight := Map.get {} n.tiers.weights d

/-- Write a weight descriptor; a FREE one that holds nothing is not listed. -/
def Node.setWeight (n : Node) (d : Nat) (w : Weight) : Node :=
  { n with tiers := { n.tiers with weights := Map.set {} n.tiers.weights d w } }

/-- The index of a weight descriptor (R164): kind 1 ABSORB, 2 OUTPUT. -/
def Model.descIndex (m : Model) (layer kind : Nat) : Nat := m.weightDir + 2 * (layer - m.layerFirst) + (kind - 1)

/-- SLOT_COUNT of a weight (Table 6-8). -/
def Weight.slotCount (w : Weight) : Nat := ceilDiv w.bytes 16384

/-- The stored length of a weight matrix (R165). -/
def Model.matrixBytes (m : Model) (kind wformat : Nat) : Nat :=
  if kind = 1 then m.qHeads * m.dLat * vecBytes wformat m.dQk else m.qHeads * m.dV * vecBytes wformat m.dLat

/-- The weights a request needs (R169): ABSORB without PRE_ABSORBED, OUTPUT without NO_OUTPUT_PROJ. -/
def weightsNeeded (r : Request) (m : Model) : List Nat :=
  if !m.latent then [] else
  (if r.preAbsorbed then [] else [m.descIndex r.lay 1]) ++ (if r.noProj then [] else [m.descIndex r.lay 2])

/-- A tenant program slot. -/
def Node.prog (n : Node) (s : Nat) : Prog := Map.get {} n.progs s

/-- A vector index. -/
def Node.vindex (n : Node) (i : Nat) : VIndex := Map.get {} n.indexes i

/-- Write a vector index; a FREE one is not listed. -/
def Node.setIndex (n : Node) (i : Nat) (d : VIndex) : Node := { n with indexes := Map.set {} n.indexes i d }

/-! ### The read ledger (R292) -/

/-- Slots of a slow-tier port: floor(capacity / 16,896), 0 where the port is not in service (R531). -/
def Node.portSlots (n : Node) (p : Nat) : Nat :=
  if n.octet Reg.slowPortState p = 1 then n.reg Reg.slowPortCap / 2 ^ (64 * p) % 2 ^ 64 / 16896 else 0

/-- The port a slow-tier slot lies on (R532). -/
def Node.slowPortOf (n : Node) (slot : Nat) : Nat :=
  let a := n.portSlots 0
  let b := n.portSlots 1
  if slot < 2 * Nat.min a b then slot % 2 else if a < b then 1 else 0

/-- Reads booked in a tick on a port, of pages and of weight tiles. -/
def Node.readsOn (n : Node) (t port : Nat) : Nat :=
  (n.tiers.reads.filter fun r => r.tick == t && (match (n.page r.page).slow with | some k => n.slowPortOf k == port | none => false)).length +
    Map.get 0 n.tiers.weightReads (t * 2 + port)

/-- Reads booked in a tick. -/
def Node.readsIn (n : Node) (t : Nat) : Nat := n.readsOn t 0 + n.readsOn t 1

/-- A read of a slow-tier slot has room in the ledger in a tick: fewer than READ_SLOTS_TICK over the node (R292) and fewer than 3 on the slot's
port (R532). -/
def Node.readFits (n : Node) (slot t : Nat) : Bool :=
  decide (n.readsIn t < n.reg Reg.readSlotsTick) && decide (n.readsOn t (n.slowPortOf slot) < 3)

/-- The first tick of a window from `t` on with room in the ledger. -/
def Node.readRoom (n : Node) (slot : Nat) : Nat → Nat → Option Nat
  | 0, _ => none
  | fuel + 1, t => if n.readFits slot t then some t else n.readRoom slot fuel (t + 1)

/-- The earliest tick after S and no later than D for a read of a slow-tier slot into a region (R292). -/
def Node.readTick (n : Node) (slot region s d : Nat) : Option Nat :=
  n.searchPlans 5 region (s + 1 - n.reg Reg.roundLen) d fun _ w =>
    if bitOf w.2.2 1 then
      let lo := Nat.max (s + 1) w.1
      match n.readRoom slot (w.1 + w.2.1 - lo) lo with
      | some t => if t ≤ d then some t else none
      | none => none
    else none

/-- The stack that takes a page coming from the slow tier (R292). -/
def Node.fetchStack (n : Node) (s near : Nat) : Option Nat := n.spareStack s 0 near

/-- Reserve a destination and book the read of a SPILLED page (R292): the tick, and the node with the slot charged and the read booked. -/
def Node.bookRead (n : Node) (slice near page s d key : Nat) : Option (Nat × Node) :=
  match n.fetchStack slice near with
  | none => none
  | some st =>
    match n.lowestSlot slice st with
    | none => none
    | some g =>
      match n.readTick ((n.page page).slow.getD 0) st s d with
      | none => none
      | some t =>
        let n := n.takeSlot slice g
        let r : PageRead := { page := page, tick := t, dest := g, request := key }
        some (t, { n with tiers := { n.tiers with reads := n.tiers.reads ++ [r],
                                                  background := n.tiers.background.filter (· != page) } })

/-- The tick by which a page under PREFETCHING is in tier 1. -/
def Node.fetchDone (n : Node) (p : Nat) : Nat :=
  match n.tiers.reads.find? fun r => r.page == p with
  | some r => r.tick + n.reg Reg.pfLat
  | none => 0

/-- The tier-1 slot a page lies in or is coming to. -/
def Node.pageSlot (n : Node) (p : Nat) : Nat :=
  match (n.page p).t1 with
  | some g => g
  | none =>
    match n.tiers.reads.find? fun r => r.page == p with
    | some r => r.dest
    | none => 0

/-- The region a page is read in. -/
def Node.pageRegion (n : Node) (p : Nat) : Nat := n.pageSlot p / 2 ^ 22

/-- Book the reads of all SPILLED pages of a list (page and the stack of its track's tail), in order. -/
def Node.bookReads (n : Node) (slice s d key : Nat) : List (Nat × Nat) → Option Node
  | [] => some n
  | (p, near) :: rest =>
    if (n.page p).state = .spilled ∧ !n.tiers.reads.any (fun r => r.page == p) then
      match n.bookRead slice near p s d key with
      | none => none
      | some (_, n') => n'.bookReads slice s d key rest
    else n.bookReads slice s d key rest

/-! ### Attention and BACKWARD items -/

/-- Cut a list into runs of at most `k`. -/
def chunksOf (k : Nat) : Nat → List Nat → List (List Nat)
  | 0, _ => []
  | fuel + 1, l => if l = [] then [] else l.take k :: chunksOf k fuel (l.drop k)

/-- The absolute positions of a request's rows on a track whose first new token takes index `base` (R172). -/
def rowPositions (r : Request) (span base : Nat) : List Nat :=
  let p0 := if r.op = opAttendAppend then span + base else qPosFirst r
  (List.range r.rows).map (p0 + ·)

/-- The page indices of a track that hold a token passing CAUSAL and WINDOW for some row (R173). -/
def wantedPages (r : Request) (rows : List Nat) (span tokens pages : Nat) : List Nat :=
  (List.range pages).filter fun i =>
    (List.range (Nat.min 16 (tokens - 16 * i))).any fun j => rows.any fun pq => passes r pq (span + 16 * i + j)

/-- The tracks a request names, in track order (R153, R112, R221). -/
def Node.tracksOf (n : Node) (r : Request) : List Nat :=
  let q := n.seq (seqLocal r.seqId)
  if r.isAtt || r.isBackward 0 then
    ((n.model r.model).groupsOf r.head0 r.headN).map fun g => q.trackIndex r.lay g
  else if r.op = opAppend then
    ((List.range r.headN).filter fun i => decide (r.head0 + i < q.groupCount)).map fun i => q.trackIndex r.lay (r.head0 + i)
  else if r.isBackward 1 then [q.trackIndex r.lay r.head0]
  else if r.isBackward 2 then List.range q.tracks.length
  else []

/-- Elements of a sequence's token record (R227). -/
def Seq.recElems (q : Seq) : Nat := elemsOf q.format q.aBytes + elemsOf q.format q.bBytes

/-- GRAD_SLOTS of a sequence. -/
def Seq.gradSlots (q : Seq) : Nat := ceilDiv q.recElems 256

/-- Cost fields of a request's phase-1 kernel: per item, per page, per page and row-head (R156, R211). -/
def Node.kernelCost (n : Node) (r : Request) : Nat × Nat × Nat :=
  if r.tenantProg then
    let h := (n.prog (r.arg 36 1)).header
    (fieldB h 16 4, fieldB h 20 4, fieldB h 24 4)
  else
    let m := n.model r.model
    (0, m.pageFix, m.pageRh)

/-- The W of an item of a request (R74, R211, R235): sealed and tail pages. -/
def Node.itemCycles (n : Node) (r : Request) (gradSlots sealed tails : Nat) : Nat :=
  let (ifix, fix, rh) := n.kernelCost r
  let c := fix + rh * (r.rows * r.headN)
  let a := if r.op = opBackward then (if r.noDkv then 2 else 3) * c + (if r.noDkv then 0 else n.reg Reg.cAxpy * gradSlots) else c
  n.reg Reg.cFix + ifix + (a + n.reg Reg.cDec) * sealed + (a + n.reg Reg.cRaw) * tails

/-- The items of an attention or COMPUTE request (R173, R178): by region, then track, then page. `floor` is the earliest ready tick. -/
def Node.attItems (n : Node) (q : Admitted) (floor : Nat) : List (Item × Nat) :=
  let r := q.req
  let k := seqLocal r.seqId
  let sq := n.seq k
  let m := n.model r.model
  let per := (q.tracks.zip q.bases).map fun tb =>
    let tr := sq.track tb.1
    let tokens := if r.op = opAttendAppend then tb.2 else tr.tokens
    let pos := rowPositions r sq.spanBase tb.2
    (tb.1, tr, pos.headD 0, wantedPages r pos sq.spanBase tokens tr.pages.length)
  let mk := fun (reg : Nat) (t : Nat) (tr : Track) (pos : Nat) (ps : List Nat) =>
    let (h0, hn) := m.headsOf r.head0 r.headN tr.group
    let tails := (ps.filter fun i => i + 1 == tr.pages.length).length
    let w := if ps = [] then n.reg Reg.cFix else n.itemCycles r sq.gradSlots (ps.length - tails) tails
    let ready := ps.foldl (fun a i => Nat.max a (n.fetchDone (tr.pages.getD i 0))) floor
    let it : Item := { kind := if r.op = opBackward then .backward else .attn, region := reg, cycles := w, track := t, head0 := h0,
                       heads := hn, pages := ps, pos := pos, budget := w }
    (it, ready)
  let all := (List.range 16).flatMap fun reg => per.flatMap fun e =>
    let (t, tr, pos, ps) := e
    let here := ps.filter fun i => n.pageRegion (tr.pages.getD i 0) == reg
    if ps = [] then (if reg = q.home then [mk reg t tr pos []] else [])
    else (chunksOf (n.reg Reg.itemPages) (here.length + 1) here).map (mk reg t tr pos)
  let idx := all.zipIdx
  idx.map fun e =>
    let later := idx.any fun f => f.1.1.track == e.1.1.track && decide (e.2 < f.2)
    ({ e.1.1 with last := !later }, e.1.2)

/-- The pages an attention or COMPUTE request reads: page ID and the stack of its track's tail, in track and page order. -/
def Node.attPages (n : Node) (q : Admitted) : List (Nat × Nat) :=
  let sq := n.seq (seqLocal q.req.seqId)
  (q.tracks.zip q.bases).flatMap fun tb =>
    let tr := sq.track tb.1
    let tokens := if q.req.op = opAttendAppend then tb.2 else tr.tokens
    (wantedPages q.req (rowPositions q.req sq.spanBase tb.2) sq.spanBase tokens tr.pages.length).map fun i =>
      (tr.pages.getD i 0, n.pageSlot tr.tail / 2 ^ 22)

/-- The gradient records a COMPUTE needs and that do not exist: track, page index and page ID (R229). -/
def Node.gradsMissing (n : Node) (q : Admitted) : List (Nat × Nat × Nat) :=
  if !q.req.isBackward 0 || q.req.noDkv then [] else
  let k := seqLocal q.req.seqId
  let sq := n.seq k
  (q.tracks.zip q.bases).flatMap fun tb =>
    let tr := sq.track tb.1
    ((wantedPages q.req (rowPositions q.req sq.spanBase tb.2) sq.spanBase tr.tokens tr.pages.length).filter fun i =>
      (Map.find n.grads (gradKey k tb.1 i)).isNone).map fun i => (tb.1, i, tr.pages.getD i 0)

/-- The lowest run of `c` consecutive free slots of a slice in a stack (R227). -/
def slotRun (taken : Map Nat) (stack mask c : Nat) : Nat → Nat → Option Nat
  | 0, _ => none
  | fuel + 1, slot =>
    if 3932160 < slot + c then none
    else if (List.range c).all fun i => bitOf mask ((slot + i) % 32) && (Map.find taken (stack * 2 ^ 22 + slot + i)).isNone then some slot
    else slotRun taken stack mask c fuel (slot + 1)

/-- The lowest free run of a slice, by stack × 2^22 + SLOT. -/
def Node.lowestRun (n : Node) (s stack c : Nat) : Option Nat :=
  let m := n.sliceMask s stack
  if m = 0 then none
  else (slotRun n.seqs.slots stack m c (32 * c * (n.usedIn stack m + 2)) 0).map (stack * 2 ^ 22 + ·)

/-- Reserve the gradient pages a COMPUTE lacks: the node with new ZEROING records and their slots zero-filled, or none (R229). -/
def Node.reserveGrads (n : Node) (now k slice slots : Nat) : List (Nat × Nat × Nat) → Option Node
  | [] => some n
  | (t, i, p) :: rest =>
    match n.lowestRun slice (n.pageRegion p) slots with
    | none => none
    | some g =>
      let n := n.foldl (List.range slots) fun n j => (n.takeSlot slice (g + j)).fillSlot (g + j) (0x40000000 + gradKey k t i % 2 ^ 30)
        (n.tagOf false kindGradient slice)
      let r : Grad := { seq := k, track := t, index := i, slot := g, count := slots, state := 1,
                        zeroDue := now + n.reg Reg.gradZeroTicks }
      Node.reserveGrads { n with grads := Map.put n.grads (gradKey k t i) r } now k slice slots rest

/-! ### Weight copies that are not resident (R302) -/

/-- Book the reads of a weight copy from its slow-tier slots in order: `fuel` counts tiles; the last tick booked. -/
def Node.bookTiles (n : Node) (region s d : Nat) : Nat → Nat → Nat → Option (Nat × Node)
  | 0, _, last => some (last, n)
  | fuel + 1, slot, last =>
    match n.readTick slot region s d with
    | none => none
    | some t =>
      let k := t * 2 + n.slowPortOf slot
      Node.bookTiles { n with tiers := { n.tiers with weightReads := Map.set 0 n.tiers.weightReads k (Map.get 0 n.tiers.weightReads k + 1) } }
        region s d fuel (slot + 1) (Nat.max last t)

/-- Take `c` free slots of a slice in a stack in ascending order. -/
def Node.takeLowest (n : Node) (s stack : Nat) : Nat → Option (List Nat × Node)
  | 0 => some ([], n)
  | c + 1 =>
    match n.lowestSlot s stack with
    | none => none
    | some g => ((n.takeSlot s g).takeLowest s stack c).map fun r => (g :: r.1, r.2)

/-- Make the copies of the weights a request needs come back where they are SPILLED (R302): the completion tick of the latest. -/
def Node.bookWeights (n : Node) (slice home s d : Nat) : List Nat → Nat → Option (Nat × Node)
  | [], t => some (t, n)
  | w :: rest, t =>
    let wt := n.weight w
    if wt.res = 2 then
      match n.fetchStack slice home with
      | none => none
      | some st =>
        match n.takeLowest slice st wt.slotCount with
        | none => none
        | some (gs, n1) =>
          match n1.bookTiles st s d wt.slotCount (wt.slow.getD 0) 0 with
          | none => none
          | some (last, n2) =>
            let done := last + n.reg Reg.pfLat
            (n2.setWeight w { wt with res := 3, slots := gs, t1 := gs.head?, prefetchDone := done, arrived := [] }).bookWeights slice home s d rest
              (Nat.max t done)
    else if wt.res = 3 then n.bookWeights slice home s d rest (Nat.max t wt.prefetchDone)
    else n.bookWeights slice home s d rest t

/-! ### The work of a request -/

/-- Reduction cycles (R74). Every opcode has them, a request with no item C_RED_FIX alone (R75; DEDUCED, log entry 133). -/
def Node.redCycles (n : Node) (items heads cout : Nat) : Nat := n.reg Reg.cRedFix + n.reg Reg.cRedItem * items * heads + cout

/-- Message bytes of an attention result (R182) or a dQ body (R236). -/
def Node.resultBytes (n : Node) (r : Request) : Nat :=
  let m := n.model r.model
  let e := if r.oFp32 then 4 else 2
  32 + r.rows * r.headN * (8 + (if r.op = opBackward then m.dQin true else m.dOut r.noProj) * e)

/-- The work of an attention or COMPUTE request whose items are given. -/
def Node.attWork (n : Node) (q : Admitted) (items : List (Item × Nat)) (redReady : Nat) : Work :=
  let r := q.req
  let m := n.model r.model
  let u := r.rows * r.headN
  let cout := if r.op = opBackward then n.reg Reg.bwdOutRh * u else m.outRh * u
  let per := if r.op = opBackward then 4 * m.dQin true else 8 + 4 * m.dAcc
  { stages := [items], redCycles := n.redCycles items.length r.headN cout, redReady := redReady,
    sendBytes := n.resultBytes r,
    staging := (items.map fun i => (i.1.region, per * r.rows * i.1.heads)) ++ [(q.home, n.resultBytes r - 32)] }

/-- Centroid items of an index (R333): each of CENT_ITEM centroids, `count` vectors against each. -/
def Node.centroidItems (n : Node) (d : VIndex) (count : Nat) : List Item :=
  let per := n.reg Reg.centItem
  let cyc := ceilDiv d.crec 128 + n.reg Reg.centFix
  (List.range (ceilDiv d.centroids per)).map fun i =>
    let c := Nat.min per (d.centroids - i * per)
    { kind := .coarse, region := d.home, cycles := n.reg Reg.cFix + cyc * c * count, budget := n.reg Reg.cFix + cyc * c * count }

/-- Scan items of a region over `v` vectors (R333). -/
def Node.scanItems (n : Node) (d : VIndex) (region v : Nat) : List Item :=
  let per := n.reg Reg.listItem
  let cyc := ceilDiv d.vrec 128 + n.reg Reg.vecFix
  (List.range (ceilDiv v per)).map fun i =>
    let c := Nat.min per (v - i * per)
    { kind := .scan, region := region, cycles := n.reg Reg.cFix + cyc * c, budget := n.reg Reg.cFix + cyc * c }

/-- The regions of a search: those of REGION_MASK and the home region, ascending. -/
def VIndex.regions (d : VIndex) : List Nat := (List.range 16).filter fun r => bitOf d.regionMask r || r == d.home

/-- Lengths of a region's lists, longest first. -/
def VIndex.lengths (d : VIndex) (r : Nat) : List Nat :=
  sortBy (fun a b => decide (b < a)) (((d.listsAt d.gen).filter fun l => d.listRegion l.list == r).map fun l => l.recs.length)

/-- What a SEARCH asks (R333). -/
def Node.searchWork (n : Node) (r : Request) (d : VIndex) : SearchWork :=
  let mode := r.arg 32 1
  let probe := r.arg 38 2
  let side := fun reg => if reg = d.home then d.sideCount else 0
  { k := r.arg 36 2,
    coarse := if mode = 1 then [] else n.centroidItems d 1,
    ivf := if mode = 1 then [] else d.regions.map fun reg => (reg, n.scanItems d reg (((d.lengths reg).take probe).sum + side reg)),
    tree := if mode = 0 then [] else d.regions.map fun reg => (reg, n.scanItems d reg ((d.lengths reg).sum + side reg)) }

/-- The work of a vector-search request. -/
def Node.vectorWork (n : Node) (now : Nat) (r : Request) (d : VIndex) : Work :=
  let ready := fun (l : List Item) => l.map fun i => (i, now + 1)
  let one := fun (k : WorkKind) (reg c : Nat) => ({ kind := k, region := reg, cycles := n.reg Reg.cFix + c,
                                                    budget := n.reg Reg.cFix + c } : Item)
  let cnt := r.arg 36 2
  if r.op = opSearch then
    let sw := n.searchWork r d
    let k := r.arg 36 2
    let per := fun (l : List (Nat × List Item)) => l.flatMap fun e => (e.2.map fun _ => (e.1, 16 * k)) ++ [(d.home, 16 * k)]
    let blocks := if r.arg 32 1 = 2 then 2 else 1
    { search := some sw, sendBytes := 32 + blocks * (16 + 16 * k),
      staging := (sw.coarse.map fun i => (i.region, 16 * k)) ++ per sw.ivf ++ per sw.tree }
  else if r.op = opInsert then
    let commit := one .insert d.home (n.reg Reg.insCyc * cnt)
    let co := if d.state = 2 then n.centroidItems d cnt else []
    { stages := [ready co, ready [commit]], redCycles := n.redCycles (co.length + 1) 0 0, sendBytes := 40 }
  else if r.op = opDelete then
    { stages := [ready [one .delete d.home (n.reg Reg.delCyc * cnt)]], redCycles := n.redCycles 1 0 0,
      sendBytes := 40 + ceilDiv cnt 8 }
  else
    let un := d.unassigned
    let co := if un = 0 ∨ d.state ≠ 2 then [] else n.centroidItems d un
    let its := (d.foldPlan now).1.map fun p => { one .fold (d.listRegion p.1) (n.reg Reg.foldCyc * p.2.length) with track := p.1 }
    let its := if its = [] then [one .fold d.home 0] else its
    { stages := [ready co, ready its], redCycles := n.redCycles (co.length + its.length) 0 0, sendBytes := 56 }

/-- The partial page index a SEQ_FORK copies, if any (R107). -/
def forkPage (r : Request) : Option Nat := if r.arg 32 4 % 16 = 0 then none else some (r.arg 32 4 / 16)

/-- Fork-copy items (R108): up to 16 tracks each, in the region of the parent's partial page. -/
def Node.forkItems (n : Node) (now : Nat) (r : Request) (sq : Seq) : List (Item × Nat) :=
  match forkPage r with
  | none => []
  | some pi =>
    (List.range 16).flatMap fun reg =>
      let ts := (List.range sq.tracks.length).filter fun t => n.pageRegion ((sq.track t).pages.getD pi 0) == reg
      (chunksOf 16 (ts.length + 1) ts).map fun l =>
        let c := n.reg Reg.cFix + n.reg Reg.forkCycles * l.length
        ({ kind := .forkCopy, region := reg, cycles := c, pages := l, track := l.headD 0, budget := c }, now + 1)

/-- The work of a request on its admission record, every page taken where it lies (R74, R75); the node holds the reads booked. -/
def Node.workOf (n : Node) (now : Nat) (q : Admitted) (weightReady : Nat) : Work :=
  let r := q.req
  let sq := n.seq (seqLocal r.seqId)
  let one := fun (k : WorkKind) (reg c t : Nat) (ps : List Nat) =>
    [({ kind := k, region := reg, cycles := n.reg Reg.cFix + c, budget := n.reg Reg.cFix + c, track := t, pages := ps } : Item)]
  let ready := fun (l : List Item) => l.map fun i => (i, now + 1)
  if r.isAtt || r.isBackward 0 then
    let m := n.model r.model
    let need := weightsNeeded r m
    let held := need.foldl (fun a d => if (n.weight d).state = 3 then Nat.max a ((n.weight d).holdTick + n.reg Reg.weightHold + 1) else a) 0
    let grad := if r.isBackward 0 && !r.noDkv then now + n.reg Reg.gradZeroTicks else 0
    let absorbReady := if m.latent && !r.preAbsorbed then weightReady else 0
    let floor := Nat.max (Nat.max (now + 1) held) (Nat.max grad absorbReady)
    n.attWork q (n.attItems q floor) weightReady
  else if r.op = opSeqOpen then
    { redCycles := n.redCycles 0 r.headN 0, sendBytes := 32 + 16 + (if r.shareDomain = 0 then 0 else 16) }
  else if r.op = opSeqFork then
    let its := n.forkItems now r sq
    { stages := [its], redCycles := n.redCycles its.length r.headN 0, sendBytes := 48 }
  else if r.op = opSeqClose then { redCycles := n.redCycles 0 r.headN 0, statusOnly := true }
  else if r.op = opAppend then
    let t := q.tracks.headD 0
    { stages := [ready (one .append (n.pageRegion (sq.track t).tail) 0 t [])], redCycles := n.redCycles 1 r.headN 0, sendBytes := 40 }
  else if r.isBackward 1 then
    let t := q.tracks.headD 0
    let ps := (List.range (r.arg 40 2)).map (r.arg 36 4 + ·)
    let reg := match ps.findSome? fun i => Map.find n.grads (gradKey (seqLocal r.seqId) t i) with
      | some g => g.slot / 2 ^ 22
      | none => q.home
    { stages := [ready (one .fetch reg (n.reg Reg.fetchSlot * (r.arg 40 2 * sq.gradSlots)) t ps)],
      redCycles := n.redCycles 1 r.headN 0, sendBytes := 32 + r.arg 40 2 * 64 * sq.recElems }
  else if r.isBackward 2 then
    let slots := ((n.grads.filter fun e => e.2.seq == seqLocal r.seqId).map fun e => e.2.count).sum
    { stages := [ready (one .release q.home (n.reg Reg.fetchSlot * slots) 0 [])], redCycles := n.redCycles 1 r.headN 0, statusOnly := true }
  else if r.op = opWeightLoad then
    let first := r.arg 36 4 == 0
    let data := r.payload.length - (if first then 72 else 0)
    let off := r.arg 36 4
    let touched := if data = 0 then 0 else (off + data - 1) / 16384 + 1 - off / 16384
    { stages := [ready (one .weight q.home (n.reg Reg.wlSlotCycles * touched) 0 [])], redCycles := n.redCycles 1 r.headN 0, statusOnly := true }
  else n.vectorWork now r (n.vindex (r.arg 34 2))

end Sys2Proof.Machine
end

