-- ==== Sys2Proof/Machine/Admission.lean ====
section
/-!
DEFINITION. Admission (chapter 3): arrivals, the examination of an ADMIT tick in its two passes, what each admission does at its
boundary, and aborts.
-/

namespace Sys2Proof.Machine

/-! ### The first pass (Table 3-5) -/

/-- Check 1 of Table 3-5 for a SEQ_OPEN (R105, R133). -/
def openArgsOk (r : Request) : Bool :=
  decide (1 ≤ r.arg 34 2) && decide (r.arg 34 2 ≤ 256) && decide (1 ≤ r.arg 36 1) && decide (r.arg 36 1 ≤ 16) &&
  decide (r.arg 34 2 * r.arg 36 1 ≤ 1024) && decide (16 ≤ r.arg 44 4) && decide (r.arg 44 4 ≤ 16777216) &&
  formatOk (r.arg 37 1) && r.openPayloadOk

/-- Check 1 for a WEIGHT_LOAD (R298, R299), as far as it needs no descriptor. -/
def weightArgsOk (r : Request) : Bool :=
  let first := r.arg 36 4 == 0
  let data := r.payload.length - (if first then 72 else 0)
  r.head0 == 0 && r.headN == 0 && (r.arg 32 1 == 1 || r.arg 32 1 == 2) && decide (1 ≤ r.arg 33 1) && decide (r.arg 33 1 ≤ 4) &&
  (!first || decide (72 ≤ r.payload.length)) && decide (r.arg 36 4 + data ≤ r.arg 40 4) &&
  (r.arg 36 4 + data == r.arg 40 4 || data % 64 == 0)

/-- Check 1 for a vector-search request (Table 12-3), as far as it needs no index. -/
def vectorArgsOk (r : Request) : Bool :=
  let c := r.arg 36 2
  let p := r.arg 38 2
  let mode := r.arg 32 1
  r.lay == 0 && r.head0 == 0 && r.headN == 0 && !r.oFp32 && !r.tenantProg &&
  (if r.op = opSearch then decide (mode ≤ 2) && decide (1 ≤ c) && decide (c ≤ 1024) &&
     (if mode = 1 then p == 0 else decide (1 ≤ p) && decide (p ≤ 512))
   else (if r.op = opInsert then decide (1 ≤ c) && decide (c ≤ 256)
         else if r.op = opDelete then decide (1 ≤ c) && decide (c ≤ 4096) else c == 0) && p == 0)

/-- Check 1 of Table 3-5: what can be said of a request without reading the node's tables. -/
def Node.check1 (n : Node) (w : Waiting) : Bool :=
  let r := w.req
  !w.badForm && r.known && r.hdrReserved && r.argsReserved &&
  decide (r.hdr.payloadLen.toNat ≤ 262144) && r.hdr.payloadLen.toNat == r.payload.length &&
  (!(r.op == opSeqFork || r.op == opSeqClose || r.op == opFold || r.isBackward 1 || r.isBackward 2) || r.payload.isEmpty) &&
  decide (w.deadline ≤ w.arrival + n.reg Reg.deadlineMax) &&
  (!r.noSeq || seqLocal r.seqId == 0) && (!r.tenantProg || r.isAtt) &&
  (!(r.op == opBackward) || decide (r.arg 32 1 ≤ 2)) &&
  (!r.isWrite || (decide (1 ≤ r.tokenCount) && decide (r.tokenCount ≤ 16))) &&
  (!(r.isAtt || r.isBackward 0) || (r.maskOk && payloadHeadOk r)) &&
  (!(r.op == opAttendAppend) || r.rows == r.tokenCount) &&
  (!r.isBackward 1 || r.headN == 1) &&
  (!(r.op == opSeqOpen) || openArgsOk r) && (!(r.op == opWeightLoad) || weightArgsOk r) && (!r.isVector || vectorArgsOk r)

/-- An optional unit that the request needs is absent (R8). -/
def Node.unitAbsent (n : Node) (r : Request) : Bool :=
  (r.isVector && !n.hasUnit 0) || (r.op == opBackward && !n.hasUnit 3) || (r.tenantProg && !n.hasUnit 4)

/-- The weight descriptor a WEIGHT_LOAD names. -/
def Node.loadDesc (n : Node) (r : Request) : Nat := (n.model r.model).descIndex r.lay (r.arg 32 1)

/-- The model of an attention or COMPUTE request passes check 3 (Table 6-7, R214). -/
def Node.modelOk (n : Node) (r : Request) (tenant : Nat) : Bool :=
  let m := n.model r.model
  let dir := (n.weight (m.descIndex r.lay 1)).wformat
  decide (r.model ≤ 255) && m.state == 1 && m.tenant == tenant && decide (m.layerFirst ≤ r.lay) &&
  decide (r.lay < m.layerFirst + m.layerCount) && decide (r.head0 + r.headN ≤ m.qHeads) && (m.latent || r.qflags == 0) &&
  decide (absorbCycles r m dir ≤ n.reg Reg.absorbCyclesMax) && decide (r.rows * m.dAcc ≤ n.reg Reg.rowAccMax) &&
  (!r.tenantProg ||
    (let p := n.prog (r.arg 36 1)
     decide (r.arg 36 1 < 32) && (p.state == 1 || p.state == 2) && p.tenant == tenant && r.arg 38 8 == fieldB p.digest 0 8 &&
     bitOf (fieldB p.header 3 1) m.layout && fieldB p.header 14 2 == m.dAcc))

/-- The opcode's own part of check 3 (R105, R128, R162, R214, R299, R324). -/
def Node.check3 (n : Node) (r : Request) (tenant slice : Nat) : Bool :=
  if r.isAtt || r.isBackward 0 then n.modelOk r tenant
  else if r.op = opSeqOpen then
    let m := n.model (r.arg 43 1)
    let dom := r.shareDomain
    m.state == 1 && m.tenant == tenant && m.format == r.arg 37 1 && m.groups == r.arg 36 1 &&
    decide (m.layerFirst ≤ r.arg 32 2) && decide (r.arg 32 2 + r.arg 34 2 ≤ m.layerFirst + m.layerCount) &&
    (dom == 0 || (match Map.find n.share.domains dom with
      | some d => d.tenant == tenant && d.slice == slice
      | none => false))
  else if r.op = opWeightLoad then
    let m := n.model r.model
    let d := n.weight (n.loadDesc r)
    decide (r.model ≤ 255) && m.state == 1 && m.tenant == tenant && m.latent && decide (m.layerFirst ≤ r.lay) &&
    decide (r.lay < m.layerFirst + m.layerCount) && r.arg 40 4 == m.matrixBytes (r.arg 32 1) (r.arg 33 1) &&
    (r.arg 36 4 != 0 || d.state == 0 || d.state == 4)
  else if r.isVector then
    let d := n.vindex (r.arg 34 2)
    decide (r.arg 34 2 ≤ 255) && d.tenant == tenant && (d.state == 1 || d.state == 2) &&
    (!(r.op == opSearch && r.arg 32 1 != 1) || (d.state == 2 && !d.centroidBad))
  else true

/-- A vector of a payload holds a NaN or infinite element. -/
def vecBad (r : Request) (dim off : Nat) : Bool := (payloadVec r dim off).any FVal.nonFinite

/-- The parts of check 1 that need a model, descriptor or index (R161, R219, R299, R323, R324). -/
def Node.check1Late (n : Node) (r : Request) : Bool :=
  if r.isAtt || r.isBackward 0 then
    let m := n.model r.model
    let ab := if r.tenantProg then fieldB (n.prog (r.arg 36 1)).header 12 2 else 0
    r.payload.length == payloadExpected r m ab &&
    (!(r.op == opAttendAppend) || tokenTagsOk r.payload (queryEnd r m) r.tokenCount
      (4 + (m.groupsOf r.head0 r.headN).length * (m.aBytes + m.bBytes)))
  else if r.op = opWeightLoad then r.arg 36 4 == 0 || r.arg 36 4 == (n.weight (n.loadDesc r)).loaded
  else if r.isVector then
    let d := n.vindex (r.arg 34 2)
    let step := 16 + vecPayload r d.dim
    r.payload.length == vectorPayload r d.dim &&
    (!(r.op == opSearch && r.arg 32 1 != 1) || decide (r.arg 38 2 ≤ d.centroids)) &&
    (!(r.op == opSearch) || !vecBad r d.dim 16) &&
    (!(r.op == opInsert) || (List.range (r.arg 36 2)).all fun i =>
      !vecBad r d.dim (i * step + 16) && fieldB r.payload (i * step) 8 != 0xFFFFFFFFFFFFFFFF) &&
    (!(r.op == opDelete) || (List.range (r.arg 36 2)).all fun i => fieldB r.payload (i * 8) 8 != 0xFFFFFFFFFFFFFFFF)
  else true

/-- ROLE of a slice in a composition map (Table 15-6). -/
def CompMap.sliceRole (m : CompMap) (s : Nat) : Nat := fieldB m.raw (1168 + 4 * s) 1

/-- Check 7 (R398, R402): none where the epoch passes. -/
def Node.epochStatus (n : Node) (r : Request) (slice : Nat) : Option Nat :=
  let cur := n.reg Reg.epoch
  let e := r.hdr.epoch.toNat
  let d := (e + 65536 - cur) % 65536
  let writes := r.isWrite || r.op == opSeqOpen || r.op == opSeqFork || r.op == opSeqClose || r.op == opBackward
  let movingOut := match n.comp.current with | some m => m.sliceRole slice == 2 | none => false
  if d = 0 then none
  else if d ≤ 32767 then some stNotAdmitted
  else if n.reg Reg.epochState = 1 ∧ e = n.reg Reg.prevEpoch then (if writes && movingOut then some stEpochRetired else none)
  else some stEpochRetired

/-- A model is usable on a sequence (R154), and the positions stay below 2^32 for POS_MODE 2 (Table 6-7 check 9). -/
def Node.usable (n : Node) (r : Request) (q : Seq) : Bool :=
  let m := n.model r.model
  let ts := n.tracksOf r
  let tops := ts.map fun t => (q.track t).tokens + (q.track t).booked
  let top := tops.foldl Nat.max 0
  q.format == m.format && q.groupCount == m.groups && q.aBytes == m.aBytes && q.bBytes == m.bBytes &&
  decide (q.layerFirst ≤ r.lay) && decide (r.lay < q.layerFirst + q.layerCount) &&
  (m.posMode != 2 || (decide (q.spanBase + top + r.tokenCount ≤ 2 ^ 32) &&
    (r.op == opAttendAppend || decide (qPosFirst r + r.rows ≤ 2 ^ 32))))

/-- A sequence that is still coming in (R403, R462): one known to move, or, until the move's bound, one not known in a slice that moves in. -/
def Node.movingIn (n : Node) (now slice id : Nat) : Bool :=
  n.comp.moving.contains (seqLocal id) ||
  ((n.seq (seqLocal id)).state == .free && decide (now < n.comp.moveDue) &&
    match n.comp.current with | some m => m.sliceRole slice == 3 | none => false)

/-- The opcode's own part of check 9 (R112, R108, R154, R221): the DETAIL of a FORMAT refusal, none where it passes. -/
def Node.check9 (n : Node) (r : Request) (q : Seq) : Option Nat :=
  if r.isAtt || r.isBackward 0 then (if n.usable r q then none else some 0x29)
  else if r.op = opAppend then
    let ts := n.tracksOf r
    if !(decide (q.layerFirst ≤ r.lay) && decide (r.lay < q.layerFirst + q.layerCount)) || ts.isEmpty then some 0x29
    else
      let step := 4 + ts.length * (q.aBytes + q.bBytes)
      if r.payload.length ≠ r.tokenCount * step ∨ !tokenTagsOk r.payload 0 r.tokenCount step then some 0x21 else none
  else if r.op = opSeqFork then
    if q.tracks.all fun t => decide (r.arg 32 4 ≤ t.tokens) then none else some 0x29
  else if r.isBackward 1 then
    if !(decide (q.layerFirst ≤ r.lay) && decide (r.lay < q.layerFirst + q.layerCount) && decide (r.head0 < q.groupCount)) then some 0x29
    else if (q.track (q.trackIndex r.lay r.head0)).pages.length < r.arg 36 4 + r.arg 40 2 then some 0x29
    else if 262144 < r.arg 40 2 * 64 * q.recElems then some 0x21 else none
  else none

/-- What the examination says of a request. -/
inductive Verdict where
  | pass
  | wait (counter : Option Nat)
  | refuse (status detail info : Nat)
deriving DecidableEq, Repr

/-- INFO of a refusal before placement (R77). -/
def infoOf (status : Nat) : Nat := if status = stNotAdmitted then 0xFFFFFFFF else 0

/-- A refusal by a check of Table 3-5. -/
def failAt (status order : Nat) : Verdict := .refuse status (0x20 + order) (infoOf status)

/-- REQUEST_ID is not that of another open request of the session (check 3): one that arrived earlier, or an admitted one. -/
def Node.fresh (n : Node) (w : Waiting) : Bool :=
  !((n.adm.pool.takeWhile (· != w)).any fun v => v.req.key == w.req.key) && (n.admitted? w.req.key).isNone

/-- Checks 1 to 9 of Table 3-5, in order (R71). -/
def Node.first (n : Node) (now : Nat) (w : Waiting) : Verdict :=
  let r := w.req
  let s := n.session r.sess
  if !n.check1 w then failAt stFormat 1
  else if n.unitAbsent r then failAt stUnitAbsent 2
  else if s.state = 0 ∨ seqTenant r.seqId ≠ s.tenant ∨ !n.fresh w ∨ !n.check3 r s.tenant s.slice then failAt stFormat 3
  else if !n.check1Late r then failAt stFormat 1
  else if s.state = 2 ∨ (n.slice s.slice).state ≠ .bound then failAt stTenantGone 4
  else if !(n.st == stOperational || (n.st == stHold && n.comp.outCause == 2)) || n.power.draining || n.reg Reg.groupState == 1
    then failAt stGroupHold 5
  else if !n.inRounds then failAt stTimeSplit 6
  else match n.epochStatus r s.slice with
  | some st => failAt st 7
  | none =>
    if w.deadline ≤ now then failAt stNotAdmitted 8
    else if r.noSeq then .pass
    else
      let k := seqLocal r.seqId
      let q := n.seq k
      if n.movingIn now s.slice r.seqId then .wait none
      else if q.state ≠ .opened ∨ q.id ≠ r.seqId then failAt stSeqLost 9
      else match n.check9 r q with
        | some d => .refuse stFormat d 0
        | none => .pass

/-- The request as the second pass takes it: its slice, home region, tracks and what they hold. -/
def Node.draft (n : Node) (now : Nat) (w : Waiting) : Admitted :=
  let r := w.req
  let s := n.session r.sess
  let q := n.seq (seqLocal r.seqId)
  let ts := n.tracksOf r
  { req := r, arrival := w.arrival, deadline := w.deadline, admitTick := now,
    slice := if r.noSeq then s.slice else q.slice,
    home := if r.isVector then (n.vindex (r.arg 34 2)).home else q.home,
    send := { port := s.replyPort }, tracks := ts, bases := ts.map fun t => (q.track t).tokens,
    tokens := r.tokenCount, tokenBase := q.spanBase + ((q.track (ts.headD 0)).tokens + (q.track (ts.headD 0)).booked),
    needs := if r.isAtt || r.isBackward 0 then weightsNeeded r (n.model r.model) else [],
    target := if r.op = opWeightLoad then n.loadDesc r else if r.isVector then r.arg 34 2 else if r.isAtt then r.arg 36 1 else 0 }

/-! ### Opening against a domain (R136 to R139) -/

/-- The walk of R138: matched page sets in index order, and MATCH_END. -/
def Node.walkGo (n : Node) (dom : Nat) (r : Request) (m : Model) (toks : List Nat) :
    List Bytes → Nat → Option Nat → List (List Nat) × Nat
  | [], _, _ => ([], 0)
  | h :: rest, i, par =>
    let same := n.share.nodes.filter fun e => e.2.hash == h && e.2.domain == dom
    let hit := same.find? fun e => e.2.live && e.2.parent == par &&
      e.2.matches dom (fieldB r.payload 8 8) (r.arg 38 5) (r.arg 37 1) (r.arg 32 2) (r.arg 34 2) (r.arg 36 1) m.aBytes m.bBytes
        ((toks.drop (16 * i)).take 16)
    match hit with
    | none => ([], if same = [] then 1 else 2)
    | some e =>
      if e.2.pageSet.any fun p => (n.page p).ref == 65535 then ([], 3)
      else
        let t := n.walkGo dom r m toks rest (i + 1) (some e.1)
        (e.2.pageSet :: t.1, t.2)

/-- The match of a SEQ_OPEN: the page sets, and MATCH_END (Table 5-3). -/
def Node.walk (n : Node) (r : Request) : List (List Nat) × Nat :=
  let dom := r.shareDomain
  if !r.attach then ([], 4) else
  match Map.find n.share.domains dom with
  | none => ([], 1)
  | some d =>
    let toks := r.prefixList
    let hs := chainHashes d.key (fieldB r.payload 8 8) (r.arg 38 5) (r.arg 37 1) (r.arg 32 2) (r.arg 34 2) (r.arg 36 1) r.prefixPages
      (List.replicate 32 0) toks
    n.walkGo dom r (n.model (r.arg 43 1)) toks hs 0 none

/-- Page-table entries attached in this examination tick so far (R139). -/
def Node.attachedIn (n : Node) (now : Nat) : Nat := if n.seqs.attachTick = now then n.seqs.attachedNow else 0

/-! ### Waits, spare and quota -/

/-- New tier-1 slots a request takes (check 11 of Table 3-5). -/
def Node.newSlots (n : Node) (now : Nat) (q : Admitted) : Nat :=
  let r := q.req
  let sq := n.seq (seqLocal r.seqId)
  if r.op = opSeqOpen then 2 * (r.arg 34 2 * r.arg 36 1)
  else if r.op = opSeqFork then 2 * sq.tracks.length
  else if r.isBackward 0 then (n.gradsMissing q).length * sq.gradSlots
  else if r.op = opWeightLoad then
    (if r.arg 36 4 = 0 then ceilDiv (r.arg 40 4) 16384 - (n.weight q.target).slots.length else 0)
  else if r.op = opFold then
    let d := n.vindex q.target
    ((d.foldPlan now).1.map fun p => d.listSlots p.2.length).sum
  else 0

/-- Check 10 (R118) for one track. -/
def Node.spareOk (n : Node) (q : Seq) (tokens t : Nat) : Bool :=
  let tr := q.track t
  let tail := n.page tr.tail
  tr.spare.isSome && decide (tr.booked + tokens ≤ (16 - tail.tokens) + 16) &&
  decide (tr.tokens + tr.booked + tokens ≤ q.spanLimit) && tail.state != .poisoned

/-- A BACKWARD waits for an earlier one on its tracks (R231). -/
def Node.gradBusy (n : Node) (q : Admitted) : Bool :=
  n.adm.admitted.any fun a => a.req.op == opBackward && a.names (seqLocal q.req.seqId) && a.tracks.any (q.tracks.contains ·) &&
    (decide (a.phase < 2) || n.fencesOut a.req.key)

/-- Waits (R163, R231, R329, R139), then checks 10 and 11. -/
def Node.late (n : Node) (now : Nat) (q : Admitted) : Verdict :=
  let r := q.req
  let sq := n.seq (seqLocal r.seqId)
  let qt := n.quota q.slice
  if (r.isAtt || r.isBackward 0) && q.tracks.any (fun t => decide (0 < (sq.track t).booked)) then .wait (some Reg.bookedWaits)
  else if r.op == opBackward && n.gradBusy q then .wait (some Reg.gradWaits)
  else if r.op == opFold && n.adm.admitted.any (fun a => a.req.op == opFold && a.target == q.target && decide (a.phase < 2)) then .wait none
  else if r.op == opSeqOpen && r.attach &&
    decide (n.reg Reg.attachTickMax < n.attachedIn now + r.arg 34 2 * r.arg 36 1 * (n.walk r).1.length) then .wait none
  else if r.isWrite && !q.tracks.all (n.spareOk sq q.tokens) then failAt stNoPage 10
  else
    let new := n.newSlots now q
    if new ≠ 0 ∧ qt.t1Slots < n.t1Used q.slice + new then failAt stQuota 11 else .pass

/-! ### What an admission does -/

/-- Enter an admitted request, counted, with the sequence it names in the round's set (R94). -/
def Node.enter (n : Node) (now : Nat) (q : Admitted) : Node :=
  let rnd := n.roundAt now
  let names := if n.adm.roundOf = rnd then n.adm.roundSeqs else []
  let names := if q.req.noSeq then names else insertNat (seqLocal q.req.seqId) names
  let n := { n with adm := { n.adm with admitted := n.adm.admitted ++ [q], roundSeqs := names, roundOf := rnd,
                                        orderNext := n.adm.orderNext + q.items.length } }
  let n := if q.req.op = opBackward then n.bump Reg.bwdAdmitted else n
  let lead := q.deadline - now
  let n := if q.req.hdr.epoch.toNat = n.reg Reg.epoch then { n with comp := { n.comp with maxLead := Nat.max n.comp.maxLead lead } }
           else { n with comp := { n.comp with prevLead := Nat.max n.comp.prevLead lead } }
  n.bump Reg.admitted

/-- The request would name one sequence too many in the round (R94). -/
def Node.roundFull (n : Node) (now : Nat) (q : Admitted) : Bool :=
  let names := if n.adm.roundOf = n.roundAt now then n.adm.roundSeqs else []
  !q.req.noSeq && !names.contains (seqLocal q.req.seqId) && decide (n.reg Reg.roundSeqMax ≤ names.length)

/-- Cancel the spill of a page that an admitted request reads (R122). -/
def Node.cancelSpill (n : Node) (p : Nat) : Node :=
  let d := n.page p
  if !d.moving then n else
  let n := match d.slow with | some k => n.dropSlow k | none => n
  let n := n.setPage p { d with moving := false, slow := none }
  let n := { n with tiers := { n.tiers with spillsNow := n.tiers.spillsNow.filter fun e => e.1 != p } }
  n.bump Reg.spillCancels

/-- The pages of an admission: spills cancelled, SPILLED pages PREFETCHING towards the slot reserved (R122, R292). -/
def Node.takePages (n : Node) (ps : List Nat) : Node :=
  n.foldl ps fun n p =>
    let n := n.cancelSpill p
    let d := n.page p
    if d.state = .spilled then n.setPage p { d with state := .prefetching, t1 := some (n.pageSlot p) } else n

/-- Put a page into the background prefetch queue (R293). -/
def Node.queueBackground (n : Node) (p : Nat) : Node :=
  if (n.page p).state ≠ .spilled ∨ n.tiers.background.contains p then n
  else if n.reg Reg.pfQueueMax ≤ n.tiers.background.length then n.bump Reg.pfDropped
  else { n with tiers := { n.tiers with background := n.tiers.background ++ [p] } }

/-- Allocate the TAIL and the SPARE of the tracks still to do, staying in a stack while it has a free slot (R109). -/
def Node.openPages (n : Node) (s format : Nat) (stack : Option Nat) : Nat → Option (List (Nat × Nat) × Node)
  | 0 => some ([], n)
  | c + 1 =>
    let pick := fun (n : Node) (st : Option Nat) =>
      let st := match st with
        | some x => if n.freeIn s x = 0 then n.mostFree s else some x
        | none => n.mostFree s
      match st with
      | none => none
      | some x => (n.lowestSlot s x).map fun g => (x, g)
    match pick n stack with
    | none => none
    | some (x, g) =>
      let (tail, n) := n.newPage s format g .tail
      match pick n (some x) with
      | none => none
      | some (y, h) =>
        let (sp, n) := n.newPage s format h .spare
        (n.openPages s format (some y) c).map fun r => ((tail, sp) :: r.1, r.2)

/-- The body of a SEQ_OPEN or SEQ_FORK reply (Table 4-11). -/
def openBody (id home base : Nat) : Bytes := leBytes 6 id ++ leBytes 1 home ++ [0] ++ leBytes 5 base ++ [0, 0, 0]

/-- A SEQ_OPEN at its admission (R106, R138, R141): the new sequence's number, or none where it cannot be opened. -/
def Node.openSeq (n : Node) (now : Nat) (q : Admitted) : Option (Nat × Node) :=
  let r := q.req
  let tracks := r.arg 34 2 * r.arg 36 1
  let pub := r.shareDomain != 0 && r.publishes
  let buffers := (n.seqs.seqs.filter fun e => e.2.publish.isSome).length
  match n.nextSeq with
  | none => none
  | some k =>
    if n.freeSlots q.slice < 2 * tracks ∨ (pub && decide (n.reg Reg.publishSeqMax ≤ buffers)) then none
    else
      match n.takeSeq.openPages q.slice (r.arg 37 1) none tracks with
      | none => none
      | some (ps, n) =>
        let m := n.model (r.arg 43 1)
        let (sets, _) := if r.shareDomain = 0 then ([], 4) else n.walk r
        let M := sets.length
        let dir := n.seqs.dirNext
        let n := { n with seqs := { n.seqs with dirNext := dir + tracks } }
        let groups := r.arg 36 1
        let home := n.pageSlot (ps.headD (0, 0)).1 / 2 ^ 22
        let trs := ps.zipIdx.map fun e =>
          ({ layer := r.arg 32 2 + e.2 / groups, group := e.2 % groups, tokens := 16 * M, spare := some e.1.2 } : Track)
        let pb : Option Publish :=
          if pub && decide (M < r.prefixPages) then
            some { tokens := r.prefixList, tag := fieldB r.payload 8 8, pages := r.prefixPages, next := M }
          else none
        let sq : Seq := { id := seqTenant r.seqId * 2 ^ 20 + k, state := .opened, slice := q.slice, home := home, attached := decide (0 < M),
                          layerFirst := r.arg 32 2, layerCount := r.arg 34 2, groupCount := groups, format := r.arg 37 1,
                          spanBase := r.arg 38 5, spanLimit := r.arg 44 4, domain := r.shareDomain, dir := dir, openTick := now,
                          aBytes := m.aBytes, bBytes := m.bBytes, tracks := trs, publish := pb, session := r.sess }
        let n := n.setSeq k sq
        let n := n.foldl ((ps.map (·.1)).zipIdx) fun n e =>
          n.pushPages k e.2 (sets.map (fun st => st.getD e.2 0) ++ [e.1])
        let n := n.foldl sets.flatten fun n p => n.setPage p { n.page p with ref := (n.page p).ref + 1 }
        let cnt := M * tracks
        let dom := r.shareDomain
        let share := if cnt = 0 then n.share else
          { n.share with domains := Map.modify n.share.domains dom fun d => { d with attaches := d.attaches + cnt } }
        let n := { n with share := share,
                          seqs := { n.seqs with attachTick := now, attachedNow := n.attachedIn now + cnt } }
        let n := if r.shareDomain ≠ 0 && r.attach then (n.bump Reg.lookups).bumpBy Reg.pagesAttached cnt else n
        some (k, n.journal 2 sq.id 0 r.sess (n.seq k).image)

/-- Allocate the child's TAIL and SPARE of the tracks still to do (R109). -/
def Node.forkPages (n : Node) (s format pi : Nat) : List Track → Option (List (Nat × Nat) × Node)
  | [] => some ([], n)
  | t :: rest =>
    let near := n.pageRegion (t.pages.getD pi 0)
    match n.spareStack s 0 near with
    | none => none
    | some x =>
      match n.lowestSlot s x with
      | none => none
      | some g =>
        let (tail, n) := n.newPage s format g .tail
        match n.spareStack s (n.reg Reg.sparePolicy) x with
        | none => none
        | some y =>
          match n.lowestSlot s y with
          | none => none
          | some h =>
            let (sp, n) := n.newPage s format h .spare
            (n.forkPages s format pi rest).map fun r => ((tail, sp) :: r.1, r.2)

/-- A SEQ_FORK at its admission (R107, R108): the child's number, or none where it cannot be made. -/
def Node.forkSeq (n : Node) (now : Nat) (q : Admitted) : Option (Nat × Node) :=
  let r := q.req
  let pk := seqLocal r.seqId
  let par := n.seq pk
  let ft := r.arg 32 4
  let whole := ft / 16
  match n.nextSeq with
  | none => none
  | some k =>
    if n.freeSlots q.slice < 2 * par.tracks.length ∨
       par.tracks.any (fun t => (t.pages.take whole).any fun p => (n.page p).ref == 65535) then none
    else
      match n.takeSeq.forkPages q.slice par.format whole par.tracks with
      | none => none
      | some (ps, n) =>
        let dir := n.seqs.dirNext
        let n := { n with seqs := { n.seqs with dirNext := dir + par.tracks.length } }
        let trs := (par.tracks.zip ps).map fun e =>
          ({ layer := e.1.layer, group := e.1.group, tokens := ft, spare := some e.2.2 } : Track)
        let sq : Seq := { id := seqTenant r.seqId * 2 ^ 20 + k, state := .forking, slice := par.slice,
                          home := n.pageSlot (ps.headD (0, 0)).1 / 2 ^ 22, forked := true, layerFirst := par.layerFirst,
                          layerCount := par.layerCount, groupCount := par.groupCount, format := par.format,
                          spanBase := par.spanBase, spanLimit := par.spanLimit, domain := par.domain, parent := par.id, dir := dir,
                          openTick := now, aBytes := par.aBytes, bBytes := par.bBytes, tracks := trs, session := r.sess }
        let n := n.setSeq k sq
        let n := n.foldl ((par.tracks.zip ps).zipIdx) fun n e =>
          let shared := e.1.1.pages.take whole
          let n := n.foldl shared fun n p => n.setPage p { n.page p with ref := (n.page p).ref + 1 }
          n.pushPages k e.2 (shared ++ [e.1.2.1])
        some (k, n.journal 3 sq.id 0 r.sess (n.seq k).image)

/-- A FORKING child becomes OPEN once its copy is whole (R108). -/
def Node.openChild (n : Node) (c : Nat) : Node := n.setSeq c { n.seq c with state := .opened }

/-- Refuse a request that examination has decided (R71, R76): the sequence and the node count NO_PAGE and EPOCH_RETIRED. -/
def Node.decline (n : Node) (now : Nat) (r : Request) (status detail info : Nat) : Node :=
  let n := if status = stNoPage then
      let k := seqLocal r.seqId
      let q := n.seq k
      (n.setSeq k { q with cnt := { q.cnt with noPage := Nat.min (q.cnt.noPage + 1) 0xFFFFFFFF } }).bump Reg.noPageRefusals
    else n
  let n := if status = stEpochRetired then n.bump Reg.epochRetiredCount else n
  n.refuse now r status detail info

/-- A request whose placement failed is refused (R76, R77), with the counters of R179 and R374. -/
def Node.declinePlaced (n : Node) (now : Nat) (r : Request) (pending : Bool) (info : Nat) (staging q6 : Bool) : Node :=
  let n := if staging then n.bump Reg.stagingShort else n
  let n := if q6 then n.bump Reg.q6PoolShort else n
  n.decline now r (if pending then stPrefetchPending else stNotAdmitted) 0x30 info

/-- The node as it would be with every page of the request in tier 1 (R76). -/
def Node.residentView (n : Node) (slice : Nat) (ps : List (Nat × Nat)) : Node :=
  let n := { n with tiers := { n.tiers with reads := n.tiers.reads.filter fun r => !ps.any fun e => e.1 == r.page } }
  n.foldl ps fun n e =>
    let d := n.page e.1
    if d.t1.isSome then n
    else n.setPage e.1 { d with t1 := some (((n.fetchStack slice e.2).getD e.2) * 2 ^ 22) }

/-- The second pass for an attention or COMPUTE request (R74, R76, R169, R292, R309). -/
def Node.admitAtt (n : Node) (now : Nat) (q : Admitted) : Node :=
  let r := q.req
  let states := q.needs.map fun d => (n.weight d).state
  if states.any (fun s => s == 0 || s == 1) then n.decline now r stNotAdmitted 0x30 0xFFFFFFFF
  else if states.contains 4 then n.decline now r stWeightLost 0x30 0
  else if r.tenantProg && (n.prog (r.arg 36 1)).state == 1 then n.decline now r stNotAdmitted 0x30 0xFFFFFFFF
  else
    let ps := n.attPages q
    let slow := ps.filter fun e => (n.page e.1).state == .spilled || (n.page e.1).state == .prefetching
    let miss := n.gradsMissing q
    let sq := n.seq (seqLocal r.seqId)
    let prep := (n.bookReads q.slice now q.deadline r.key ps).bind fun n1 =>
      (n1.bookWeights q.slice q.home now q.deadline q.needs 0).bind fun e =>
        (e.2.reserveGrads now (seqLocal r.seqId) q.slice sq.gradSlots miss).map fun n2 => (e.1, n2)
    let placed : Option (Node × Placed) := prep.map fun e => (e.2, e.2.place now (e.2.workOf now q e.1) q)
    match placed with
    | some (n2, .ok q') =>
      let n2 := n2.takePages (ps.map (·.1))
      let held := states.contains 3
      let q' := if held then { q' with held := true, items := [] } else q'
      let n2 := if r.isWrite then n2.foldl q.tracks fun n t =>
          n.setTrack (seqLocal r.seqId) t fun tr => { tr with booked := tr.booked + q.tokens } else n2
      let n2 := if r.isAtt then
          let sq := n2.seq (seqLocal r.seqId)
          n2.setSeq (seqLocal r.seqId) { sq with cnt := { sq.cnt with attends := sq.cnt.attends + 1 } } else n2
      n2.enter now q'
    | other =>
      let (info, st, q6) := match other with
        | some (_, .fail i a b) => (i, a, b)
        | _ => (0xFFFFFFFF, false, false)
      let fits := slow ≠ [] &&
        (let nr := n.residentView q.slice ps
         match nr.place now (nr.workOf now q 0) q with
         | .ok _ => true
         | .fail _ _ _ => false)
      let n := if fits then n.foldl (slow.map (·.1)) Node.queueBackground else n
      n.declinePlaced now r fits info st q6

/-- Admit a request that reserves nothing further, or refuse it (R74 to R76). -/
def Node.admitPlain (n : Node) (now : Nat) (q : Admitted) : Node × Bool :=
  match n.place now (n.workOf now q 0) q with
  | .ok q' => (n.enter now q', true)
  | .fail i a b => (n.declinePlaced now q.req false i a b, false)

/-- The second pass for SEQ_OPEN (R106, R109, R140): OPEN at once; its body waits for the reduce step of R75. -/
def Node.admitOpen (n : Node) (now : Nat) (q : Admitted) : Node :=
  let r := q.req
  match n.openSeq now q with
  | none => n.decline now r stNotAdmitted 0x30 0xFFFFFFFF
  | some (k, n1) =>
    let sq := n1.seq k
    let q := { q with home := sq.home, target := k }
    match n.place now (n.workOf now q 0) q with
    | .fail i a b => n.declinePlaced now r false i a b
    | .ok q' =>
      let (sets, fin) := if r.shareDomain = 0 then ([], 4) else n.walk r
      let ext := if r.shareDomain = 0 then [] else
        leBytes 4 (16 * sets.length) ++ leBytes 4 r.prefixPages ++ leBytes 1 fin ++ leBytes 1 (if sq.publish.isSome then 1 else 0) ++
          leBytes 6 0
      let n1 := if fin = 2 then n1.bump Reg.hashCollisions else n1
      n1.enter now { q' with body := openBody sq.id sq.home sq.spanBase ++ ext }

/-- The second pass for SEQ_FORK (R107 to R109). -/
def Node.admitFork (n : Node) (now : Nat) (q : Admitted) : Node :=
  let r := q.req
  match n.forkSeq now q with
  | none => n.decline now r stNotAdmitted 0x30 0xFFFFFFFF
  | some (k, n1) =>
    let q := { q with target := k, home := (n1.seq k).home }
    match n.place now (n.workOf now q 0) q with
    | .fail i a b => n.declinePlaced now r false i a b
    | .ok q' => n1.enter now q'

/-- The second pass for SEQ_CLOSE (R110): CLOSING at once; DONE follows the reduce step of R75. -/
def Node.admitClose (n : Node) (now : Nat) (q : Admitted) : Node :=
  let k := seqLocal q.req.seqId
  let (n, ok) := n.admitPlain now q
  if ok then (n.setSeq k { n.seq k with state := .closing, publish := none }).journal 4 (n.seq k).id 0 q.req.sess [] else n

/-- The second pass for APPEND: BOOKED rises by TOKEN_COUNT on its tracks (R113). -/
def Node.admitAppend (n : Node) (now : Nat) (q : Admitted) : Node :=
  let (n, ok) := n.admitPlain now q
  if ok then n.foldl q.tracks fun n t =>
    n.setTrack (seqLocal q.req.seqId) t fun tr => { tr with booked := tr.booked + q.tokens } else n

/-- Free every gradient record of a sequence, with its slots (R232). -/
def Node.freeGrads (n : Node) (k : Nat) : Node :=
  let gone := n.grads.filter fun e => e.2.seq == k
  let n := { n with grads := n.grads.filter fun e => e.2.seq != k }
  n.foldl gone fun n e => n.foldl (List.range e.2.count) fun n i => n.dropSlot (e.2.slot + i)

/-- The second pass for FETCH and RELEASE; a RELEASE frees the records at this boundary (R232). -/
def Node.admitGrad (n : Node) (now : Nat) (q : Admitted) : Node :=
  let (n, ok) := n.admitPlain now q
  if ok && q.req.isBackward 2 then n.freeGrads (seqLocal q.req.seqId) else n

/-- The second pass for WEIGHT_LOAD (R299, R300): a first part reserves the copy's slots and the descriptor enters LOADING. -/
def Node.admitWeight (n : Node) (now : Nat) (q : Admitted) : Node :=
  let r := q.req
  let d := q.target
  let old := n.weight d
  if r.arg 36 4 ≠ 0 then
    (n.admitPlain now { q with home := (old.t1.getD 0) / 2 ^ 22 }).1
  else
    let count := ceilDiv (r.arg 40 4) 16384
    let tiles := (n.tiers.weights.map fun e => if e.1 = d then 0 else e.2.slotCount).sum
    let n0 := n
    let n := n.foldl old.slots fun n g => n.dropSlot g
    if n.reg Reg.weightTilesMax < tiles + count then n0.decline now r stNotAdmitted 0x30 0xFFFFFFFF
    else
      match n.mostFree q.slice with
      | none => n0.decline now r stNotAdmitted 0x30 0xFFFFFFFF
      | some st =>
        match n.takeLowest q.slice st count with
        | none => n0.decline now r stNotAdmitted 0x30 0xFFFFFFFF
        | some (gs, n1) =>
          let q := { q with home := st }
          match n.place now (n.workOf now q 0) q with
          | .fail i a b => n0.declinePlaced now r false i a b
          | .ok q' =>
            let p := r.payload
            let w : Weight := { model := r.model, layer := r.lay, kind := r.arg 32 1, state := 1, wformat := r.arg 33 1, bytes := r.arg 40 4,
                                homeNode := r.arg 44 2, replicas := (List.range 4).map fun i => fieldB p (64 + 2 * i) 2,
                                digest := p.take 64, res := 1, slice := q.slice, t1 := gs.head?, slots := gs }
            (n1.setWeight d w).enter now q'

/-- Side entries that admitted INSERTs and DELETEs of an index will still add. -/
def Node.pendingSide (n : Node) (i : Nat) : Nat :=
  (n.adm.admitted.map fun a =>
    if (a.req.op = opInsert ∨ a.req.op = opDelete) ∧ a.target = i ∧ a.phase < 2 ∧ !a.tokenWritten then a.req.arg 36 2 else 0).sum

/-- Take slots for list versions, each list in its region (R315, R329). -/
def Node.takeListSlots (n : Node) (slice : Nat) (d : VIndex) : List (Nat × List VRec) → Option (List Nat × Node)
  | [] => some ([], n)
  | (c, recs) :: rest =>
    match n.takeLowest slice (d.listRegion c) (d.listSlots recs.length) with
    | none => none
    | some (gs, n) => (n.takeListSlots slice d rest).map fun r => (gs ++ r.1, r.2)

/-- The second pass for the vector-search opcodes (R325, R329, R333, R334). -/
def Node.admitVector (n : Node) (now : Nat) (q : Admitted) : Node :=
  let r := q.req
  let d := n.vindex q.target
  let refuse := n.decline now r stNotAdmitted 0x30 0xFFFFFFFF
  if (r.op = opInsert ∨ r.op = opDelete) ∧ d.sideMax < d.sideCount + n.pendingSide q.target + r.arg 36 2 then refuse
  else if r.op = opSearch ∧ r.arg 32 1 ≠ 1 ∧ 0 < d.unassigned then refuse
  else if r.op = opFold then
    match n.takeListSlots q.slice d (d.foldPlan now).1 with
    | none => refuse
    | some (gs, n1) =>
      match n.place now (n.workOf now q 0) q with
      | .fail i a b => n.declinePlaced now r false i a b
      | .ok q' => n1.enter now { q' with slots := gs }
  else (n.admitPlain now { q with tokenBase := d.gen }).1

/-- A request stays waiting; the tick that examined it does not take it again (R70). -/
def Node.keepWaiting (n : Node) (now : Nat) (w : Waiting) (c : Option Nat) : Node :=
  let n := match c with | some k => n.bump k | none => n
  { n with adm := { n.adm with pool := n.adm.pool.map fun v => if v = w then { v with examined := some now } else v } }

/-- The second pass for one request that the first passed (R73): waits and checks 10 and 11 stand as they are after the admissions before
it in the tick. -/
def Node.second (n : Node) (now : Nat) (w : Waiting) : Node :=
  let q := n.draft now w
  let r := w.req
  match n.late now q with
  | .wait c => n.keepWaiting now w c
  | .refuse st d i =>
    ({ n with adm := { n.adm with pool := n.adm.pool.erase w } }).decline now r st d i
  | .pass =>
    let n := { n with adm := { n.adm with pool := n.adm.pool.erase w } }
    if n.roundFull now q ∨ (n.time.holdover && decide (n.time.holdoverStart + n.time.limit < q.deadline)) then
      n.decline now r stNotAdmitted 0x30 0xFFFFFFFF
    else if r.isAtt || r.isBackward 0 then n.admitAtt now q
    else if r.op = opSeqOpen then n.admitOpen now q
    else if r.op = opSeqFork then n.admitFork now q
    else if r.op = opSeqClose then n.admitClose now q
    else if r.op = opAppend then n.admitAppend now q
    else if r.op = opBackward then n.admitGrad now q
    else if r.op = opWeightLoad then n.admitWeight now q
    else n.admitVector now q

/-! ### Examination -/

/-- The length bucket of a request (R72). -/
def Node.bucket (n : Node) (r : Request) : Nat :=
  if r.isAtt || r.isBackward 0 then
    let q := n.seq (seqLocal r.seqId)
    let t := ((n.tracksOf r).map fun i => (q.track i).tokens).foldl Nat.max 0
    if t < 1024 then 0 else Nat.min 7 (Nat.log2 t - 9)
  else 0

/-- The hash chain of a SEQ_OPEN that names a domain is not complete (R132). -/
def Node.hashing (w : Waiting) : Bool := w.req.op == opSeqOpen && !w.req.payload.isEmpty && decide (w.hashed < w.req.prefixPages)

/-- The buckets that some ADMIT window of the active last sets. -/
def Node.anyBucket (n : Node) : Nat :=
  n.sched.active.windows.foldl (fun m w => if w.kind = 1 then m ||| w.param else m) 0

/-- Look at the waiting requests in order: those to examine now, at most `left` of them, with their buckets; true where the bucket is set in
no ADMIT window (R70). -/
def Node.takeExam (n : Node) (now mask any : Nat) : Nat → List Waiting → List (Waiting × Nat × Bool)
  | _, [] => []
  | left, w :: rest =>
    if left = 0 then [] else
    let b := n.bucket w.req
    if Node.hashing w || w.examined == some now then n.takeExam now mask any left rest
    else if !bitOf any b then (w, b, true) :: n.takeExam now mask any (left - 1) rest
    else if !bitOf mask b then n.takeExam now mask any left rest
    else (w, b, false) :: n.takeExam now mask any (left - 1) rest

/-- Requests examined so far in this tick. -/
def Node.examinedIn (n : Node) (now : Nat) : Nat := if n.adm.examTick = now then n.adm.examined else 0

/-- One ADMIT tick (R70 to R78): the first pass in order of arrival, then the second in descending bucket order. A trip in the same batch
refuses every admission (Table 2-4). -/
def Node.admitTick (n : Node) (now : Nat) : Node :=
  match n.windowAt now 1 0xFFFF with
  | none => n
  | some (_, win) =>
    let done := n.examinedIn now
    let exam := n.takeExam now win.param n.anyBucket (n.reg Reg.examineRate - done) n.adm.pool
    let n := { n with adm := { n.adm with examTick := now, examined := done + exam.length } }
    let trip := n.st == stSafe && n.reg Reg.stateTick == now
    let drop := fun (n : Node) (w : Waiting) => { n with adm := { n.adm with pool := n.adm.pool.erase w } }
    let r := exam.foldl (fun (a : Node × List (Waiting × Nat)) e =>
      let (w, b, none_) := e
      if trip then ((drop a.1 w).decline now w.req stNotAdmitted 0 0xFFFFFFFF, a.2)
      else if none_ then ((drop a.1 w).decline now w.req stNotAdmitted 0x32 0xFFFFFFFF, a.2)
      else match a.1.first now w with
        | .pass => (a.1, a.2 ++ [(w, b)])
        | .wait c => (a.1.keepWaiting now w c, a.2)
        | .refuse st d i => ((drop a.1 w).decline now w.req st d i, a.2)) (n, [])
    let order := sortBy (fun (x y : Waiting × Nat) => decide (y.2 < x.2)) r.2
    order.foldl (fun n e => n.second now e.1) r.1

/-! ### Arrivals and aborts -/

/-- The order of the waiting pool (R45, R70): arrival tick, source, and for a link port REQUEST_ID. -/
def poolBefore (a b : Waiting) : Bool :=
  decide (a.arrival < b.arrival) || (a.arrival == b.arrival &&
    (decide (a.req.source < b.req.source) || (a.req.source == b.req.source && decide (a.req.source < 48) &&
      decide (a.req.hdr.requestId.toNat < b.req.hdr.requestId.toNat))))

/-- The checks an ABORT passes (R66): status and DETAIL of the one that fails. -/
def Node.abortCheck (n : Node) (r : Request) : Option (Nat × Nat) :=
  let s := n.session r.sess
  if !(r.hdr.res25 == 0 && r.hdr.res48 == 0 && r.argsReserved && decide (r.hdr.flags.toNat < 4) && r.hdr.payloadLen == 0 &&
    r.payload.isEmpty) then some (stFormat, 0x21)
  else if s.state = 0 ∨ seqTenant r.seqId ≠ s.tenant then some (stFormat, 0x23)
  else if s.state = 2 ∨ (n.slice s.slice).state ≠ .bound then some (stTenantGone, 0x24)
  else none

/-- Reply to an ABORT itself. -/
def Node.abortReply (n : Node) (now : Nat) (r : Request) (status : Nat) : Node :=
  n.queueReply now (n.replyPort r) (r.reply status 0 0 []) none 0 0

/-- An ABORT acts at the boundary that applies its batch (R66, R87, R88). -/
def Node.abort (n : Node) (now : Nat) (r : Request) : Node :=
  match n.abortCheck r with
  | some (st, d) => n.refuse now r st d 0
  | none =>
    let key := reqKey r.sess (r.arg 32 4)
    if n.adm.pool.any (fun w => w.req.key == key) then
      (n.endWaiting now stAborted fun w => w.req.key == key).abortReply now r stDone
    else
      match n.admitted? key with
      | none => n.abortReply now r stAlreadyDone
      | some q =>
        if 2 ≤ q.phase then n.abortReply now r stAlreadyDone
        else (n.endRequest now key stAborted 0).abortReply now r stDone

/-- A request arrives (R69): into the pool, or refused where it is full; an ABORT acts at once. -/
def Node.arrive (n : Node) (now : Nat) (r : Request) (bad : Bool := false) : Node :=
  let a := now - 1
  let s := n.session r.sess
  let n := if s.state = 0 then n else n.setSession r.sess { s with lastActivity := a }
  if r.op = opAbort then n.abort now r
  else if n.reg Reg.poolSize ≤ n.adm.pool.length then n.refuse now r stNotAdmitted 0x31 0xFFFFFFFF
  else
    let w : Waiting := { req := r, arrival := a, deadline := r.deadlineTick a, badForm := bad }
    { n with adm := { n.adm with pool := insertBy poolBefore w n.adm.pool } }

end Sys2Proof.Machine
end

