-- ==== Sys2Proof/Machine/Requests.lean ====
section
/-!
DEFINITION. The meanings of the request opcodes and of examination: each opcode is a request that arrives, and in an ADMIT tick the pool is
examined (R69, R70); with HASH_CHAIN, FORK_COPY_DONE and SEQUENCE_FREE.
-/

namespace Sys2Proof

/-- The request with the opcode its row names. -/
def Request.withOp (r : Request) (op : Nat) : Request := { r with hdr := { r.hdr with opcode := BitVec.ofNat 8 op } }

/-- The request with the opcode and the mode byte (OPARG byte 32) its row names. -/
def Request.withMode (r : Request) (op mode : Nat) : Request :=
  { r with hdr := { r.hdr with opcode := BitVec.ofNat 8 op,
                               oparg := BitVec.ofNat 128 (r.hdr.oparg.toNat / 256 * 256 + mode) } }

end Sys2Proof

namespace Sys2Proof.Machine

/-- The state with a new node. -/
def State.on (s : State) (n : Node) : Host.Outcome State Fault Refusal := .next { s with node := n }

/-- The command is a request that enters the pool. -/
def isRequest : Instr → Bool
  | .seqOpen _ | .seqFork _ | .seqClose _ | .append _ | .attend _ | .attendAppend _ | .backwardCompute _ | .backwardFetch _ | .backwardRelease _
  | .weightLoad _ | .searchIvf _ | .searchTree _ | .searchProbe _ | .insert _ | .delete _ | .fold _ => true
  | _ => false

/-- A request of an opcode comes (R63, R69): it arrives, and the last of a run of requests has the pool examined, as far as the tick lies in an ADMIT
window, so that all of a batch are in the pool before it is examined (DEDUCED, log entry 130). -/
def State.request (s : State) (r : Request) : Host.Outcome State Fault Refusal :=
  let n := s.node.arrive s.clock.tick r
  s.on (if s.pending.head?.any isRequest then n else n.admitTick s.clock.tick)

/-- ADMIT_TICK (R70). -/
def execAdmitTick (s : State) : Host.Outcome State Fault Refusal := s.on (s.node.admitTick s.clock.tick)

/-- SEQ_OPEN (R106). -/
def execSeqOpen (r : Request) (s : State) : Host.Outcome State Fault Refusal := s.request (r.withOp opSeqOpen)

/-- SEQ_FORK (R107). -/
def execSeqFork (r : Request) (s : State) : Host.Outcome State Fault Refusal := s.request (r.withOp opSeqFork)

/-- SEQ_CLOSE (R110). -/
def execSeqClose (r : Request) (s : State) : Host.Outcome State Fault Refusal := s.request (r.withOp opSeqClose)

/-- APPEND (R112). -/
def execAppend (r : Request) (s : State) : Host.Outcome State Fault Refusal := s.request (r.withOp opAppend)

/-- ATTEND (R173). -/
def execAttend (r : Request) (s : State) : Host.Outcome State Fault Refusal := s.request (r.withOp opAttend)

/-- ATTEND_APPEND (R173, R112). -/
def execAttendAppend (r : Request) (s : State) : Host.Outcome State Fault Refusal := s.request (r.withOp opAttendAppend)

/-- BACKWARD in COMPUTE mode (R217). -/
def execBackwardCompute (r : Request) (s : State) : Host.Outcome State Fault Refusal := s.request (r.withMode opBackward 0)

/-- BACKWARD in FETCH mode (R221). -/
def execBackwardFetch (r : Request) (s : State) : Host.Outcome State Fault Refusal := s.request (r.withMode opBackward 1)

/-- BACKWARD in RELEASE mode (R232). -/
def execBackwardRelease (r : Request) (s : State) : Host.Outcome State Fault Refusal := s.request (r.withMode opBackward 2)

/-- WEIGHT_LOAD (R298). -/
def execWeightLoad (r : Request) (s : State) : Host.Outcome State Fault Refusal := s.request (r.withOp opWeightLoad)

/-- SEARCH in IVF mode (R330). -/
def execSearchIvf (r : Request) (s : State) : Host.Outcome State Fault Refusal := s.request (r.withMode opSearch 0)

/-- SEARCH in TREE mode (R331). -/
def execSearchTree (r : Request) (s : State) : Host.Outcome State Fault Refusal := s.request (r.withMode opSearch 1)

/-- SEARCH in PROBE mode (R331). -/
def execSearchProbe (r : Request) (s : State) : Host.Outcome State Fault Refusal := s.request (r.withMode opSearch 2)

/-- INSERT (R326). -/
def execInsert (r : Request) (s : State) : Host.Outcome State Fault Refusal := s.request (r.withOp opInsert)

/-- DELETE (R326). -/
def execDelete (r : Request) (s : State) : Host.Outcome State Fault Refusal := s.request (r.withOp opDelete)

/-- FOLD (R328). -/
def execFold (r : Request) (s : State) : Host.Outcome State Fault Refusal := s.request (r.withOp opFold)

/-- ABORT (R87): it does not enter the pool. -/
def execAbort (r : Request) (s : State) : Host.Outcome State Fault Refusal :=
  s.on (s.node.arrive s.clock.tick (r.withOp opAbort))

/-- One tick of the hash engine (R132): HASH_RATE pages of each waiting SEQ_OPEN that names a domain, from the tick after arrival. -/
def Node.hashTick (n : Node) (now : Nat) : Node :=
  let pool := n.adm.pool.map fun w =>
    if Node.hashing w then
      { w with hashed := Nat.max w.hashed (Nat.min w.req.prefixPages (n.reg Reg.hashRate * (now - (w.arrival + 1)))) }
    else w
  { n with adm := { n.adm with pool := pool } }

/-- HASH_CHAIN (R132). -/
def execHashChain (s : State) : Host.Outcome State Fault Refusal := s.on (s.node.hashTick s.clock.tick)

/-- The last copy of a fork is written (R108): the child becomes OPEN. -/
def Node.forkDone (n : Node) (c : Nat) : Node :=
  match n.adm.admitted.find? fun q => q.req.op == opSeqFork && q.target == c && decide (q.phase < 2) with
  | none => n
  | some q => if (n.seq c).state != .forking || q.items.any Item.open then n else n.openChild c

/-- FORK_COPY_DONE (R108). -/
def execForkCopyDone (child : BitVec 20) (s : State) : Host.Outcome State Fault Refusal :=
  s.on (s.node.forkDone child.toNat)

/-- A CLOSING sequence with no reader left releases what it holds (R110, R232). -/
def Node.sequenceFree (n : Node) (k : Nat) : Node :=
  let q := n.seq k
  if q.state != .closing || (List.range q.tracks.length).any (fun t => decide (0 < n.readers k t)) then n
  else (n.freeGrads k).releaseSeq k

/-- SEQUENCE_FREE (R110). -/
def execSequenceFree (seq : BitVec 20) (s : State) : Host.Outcome State Fault Refusal := s.on (s.node.sequenceFree seq.toNat)

end Sys2Proof.Machine
end

