-- ==== Sys2Proof/Machine/Append.lean ====
section
/-!
DEFINITION. Token writes, seals and refills (chapter 4): the placing of a request's tokens in its tracks, the rotation of keys by the node
(R171), the seal one boundary later (Table 4-12), refills (R120), and the reclaim of pages (R149).
-/

namespace Sys2Proof.Machine

/-! ### The token block -/

/-- Where the token block of a request begins in its payload (Table 6-6). -/
def Node.tokenBlock (n : Node) (r : Request) : Nat := if r.op = opAppend then 0 else queryEnd r (n.model r.model)

/-- Tag word and token record of token `j` for the `i`-th group written (Table 6-6). -/
def Node.tokenRecord (n : Node) (q : Admitted) (i j : Nat) : Nat × Bytes :=
  let sq := n.seq (seqLocal q.req.seqId)
  let rec' := sq.aBytes + sq.bBytes
  let off := n.tokenBlock q.req + j * (4 + q.tracks.length * rec')
  (fieldB q.req.payload off 4 % 2 ^ 16, sliceB q.req.payload (off + 4 + i * rec') rec')

/-! ### Rotation (R171) -/

/-- FP32 cosine and sine for pair `i` of D elements at a position. -/
def cosSin (pos : Int) (base i d : Nat) : Nat × Nat :=
  (Config.cosTheta pos base i d % 2 ^ 32, Config.sinTheta pos base i d % 2 ^ 32)

/-- Rotate `d` FP32 elements from index `off` of a vector (R171). -/
def rotate (pairing base d : Nat) (pos : Int) (off : Nat) (v : List Nat) : List Nat :=
  (List.range (d / 2)).foldl (fun v i =>
    let a := off + (if pairing = 0 then 2 * i else i)
    let b := off + (if pairing = 0 then 2 * i + 1 else i + d / 2)
    let (c, s) := cosSin pos base i d
    let xa := v.getD a 0
    let xb := v.getD b 0
    (v.set a (f32Sub (f32Mul xa c) (f32Mul xb s))).set b (f32Add (f32Mul xa s) (f32Mul xb c))) v

/-- The rotary part of a token record rotated at a position or by a position delta, written back in the cache format (R171, R265). -/
def Model.rotateRecord (m : Model) (elem aBytes : Nat) (pos : Int) (record : Bytes) : Bytes :=
  let turn := fun (bs : Bytes) (count : Nat) (offs : List Nat) =>
    let v := (vecElems elem bs count).map FVal.toF32
    let v := offs.foldl (fun v o => rotate m.pairing m.ropeBase m.dRope pos o v) v
    vecStore elem (v.map f32Val)
  if m.latent then record.take aBytes ++ turn (record.drop aBytes) m.dRope [0]
  else turn (record.take aBytes) (m.groupKv * m.dQk) ((List.range m.groupKv).map (· * m.dQk)) ++ record.drop aBytes

/-- The record as it is written: rotated for an ATTEND_APPEND of a ROTARY_NODE model. -/
def Node.storedRecord (n : Node) (q : Admitted) (i j : Nat) : Nat × Bytes :=
  let (tag, rc) := n.tokenRecord q i j
  let m := n.model q.req.model
  let sq := n.seq (seqLocal q.req.seqId)
  if q.req.op = opAttendAppend ∧ m.posMode = 2 then
    (tag, m.rotateRecord (elemOf m.format) sq.aBytes ((sq.spanBase + q.bases.getD i 0 + j : Nat) : Int) rc)
  else (tag, rc)

/-! ### The write -/

/-- Write bytes into a page's slot on behalf of its owner; a poisoned line stays poisoned (R266). -/
def Node.pageBytes (n : Node) (p off : Nat) (bs : Bytes) : Node :=
  let d := n.page p
  match d.t1 with
  | none => n
  | some g =>
    let l0 := off / 64
    let l1 := (off + bs.length - 1) / 64
    let bad := ((List.range (l1 + 1 - l0)).map (l0 + ·)).filter fun l => tagPoison (n.line (g * 256 + l)).tag.toNat
    let n := n.writeSlot g off bs p (n.tagOf true kindPage d.slice)
    n.foldl bad fun n l => n.poisonLine (g * 256 + l)

/-- Write one token as the next of a page (Table 6-4). -/
def Node.putToken (n : Node) (p a b tag : Nat) (rc : Bytes) : Node :=
  let d := n.page p
  let t := d.tokens
  let n := n.pageBytes p (t * a) (rc.take a)
  let n := n.pageBytes p (16 * a + t * b) (rc.drop a)
  let n := n.pageBytes p (16320 + 4 * t) (leBytes 4 tag)
  n.setPage p { n.page p with tokens := t + 1, dirty := true }

/-- Write one token into a track: into the tail, or into the spare where the tail is full (Table 4-12). -/
def Node.trackToken (n : Node) (k t tag : Nat) (rc : Bytes) : Node :=
  let q := n.seq k
  let tr := q.track t
  let p := if (n.page tr.tail).tokens < 16 then tr.tail else tr.spare.getD tr.tail
  (n.putToken p q.aBytes q.bBytes tag rc).journal 1 q.id t tr.tokens (leBytes 4 tag ++ rc)

/-- The token write of a request, applied at boundary I + 2 (Table 4-12, R113): every track takes its tokens, TOKENS rises and BOOKED
falls, and a tail that is full seals at the next boundary. -/
def Node.writeTokens (n : Node) (now : Nat) (q : Admitted) : Node :=
  let k := seqLocal q.req.seqId
  let c := q.tokens
  let first := (n.seq k).spanBase + ((n.seq k).track (q.tracks.headD 0)).tokens
  let n := n.foldl q.tracks.zipIdx fun n e =>
    let n := n.foldl (List.range c) fun n j =>
      let (tag, rc) := n.storedRecord q e.2 j
      let n := n.trackToken k e.1 tag rc
      n.setTrack k e.1 fun tr => { tr with tokens := tr.tokens + 1 }
    let full := decide (16 ≤ (n.page ((n.seq k).track e.1).tail).tokens)
    n.setTrack k e.1 fun tr => { tr with booked := tr.booked - c, sealDue := if full && tr.spare.isSome then some (now + 1) else tr.sealDue }
  let sq := n.seq k
  let n := n.setSeq k { sq with lastAppend := now - 1, cnt := { sq.cnt with appends := (sq.cnt.appends + c) % 2 ^ 64 } }
  n.setAdmitted q.req.key fun q => { q with tokenWritten := true, tokenBase := first }

/-- The items that must have been issued before the tokens are written: the append item, or the last item of every track of an ATTEND_APPEND
(R112, R173). A request that is held or that lost its state writes from its admission record (R305, R451). -/
def Admitted.writeReady (q : Admitted) : Bool :=
  q.req.isWrite && !q.tokenWritten && decide (q.phase < 2) &&
  (q.held || q.stateLost ||
   (q.items != [] && (q.items.filter fun i => i.last || i.kind == .append).all fun i => decide (0 < i.state)))

/-- Seals that are due, and refills that are complete: the new spare is present, NO_SPARE is cleared, and a full tail seals at once (R114). -/
def Node.settleTrack (n : Node) (now k t : Nat) : Node :=
  let tr := (n.seq k).track t
  let n := match tr.sealDue with
    | some d => if d ≤ now then (n.sealTrack now k t).setTrack k t fun tr => { tr with sealDue := none } else n
    | none => n
  match tr.refill with
  | some (p, d) =>
    if d ≤ now then
      let n := n.setTrack k t fun tr => { tr with spare := some p, noSpare := false, refill := none }
      n.sealTrack now k t
    else n
  | none => n

/-- Every seal and refill that is due at a boundary, in order of SEQUENCE_ID and track. -/
def Node.settleTracks (n : Node) (now : Nat) : Node :=
  let due := n.seqs.seqs.flatMap fun e => (e.2.tracks.zipIdx.filter fun t =>
    (match t.1.sealDue with | some d => decide (d ≤ now) | none => false) ||
    (match t.1.refill with | some (_, d) => decide (d ≤ now) | none => false)).map fun t => (e.1, t.2)
  n.foldl due fun n e => n.settleTrack now e.1 e.2

/-- APPEND_WRITE (R114). -/
def execAppendWrite (q : ReqRef) (s : State) : Host.Outcome State Fault Refusal :=
  let n := s.node.settleTracks s.clock.tick
  match n.admitted? q.key with
  | none => s.on n
  | some a => s.on (if a.writeReady && !n.stopped then n.writeTokens s.clock.tick a else n)

/-! ### Refills (R120) -/

/-- Tracks that need a refill, in order of SEQUENCE_ID and track index. -/
def Node.refillOrder (n : Node) : List (Nat × Nat) :=
  let qs := sortBy (fun (a b : Nat × Seq) => decide (a.2.id < b.2.id)) (n.seqs.seqs.filter fun e => e.2.state == .opened)
  qs.flatMap fun e => (e.2.tracks.zipIdx.filter fun t => t.1.noSpare && t.1.refill.isNone).map fun t => (e.1, t.2)

/-- One attempt (R120): a slot charged to the slice and zero-filled, present after REFILL_BOUND; or the slice's refill has failed (R289). -/
def Node.refillOne (n : Node) (now k t : Nat) : Node :=
  let q := n.seq k
  let tr := q.track t
  let s := q.slice
  let fail := n.setQuota s { n.quota s with refillFailed := true }
  if (n.quota s).t1Slots ≤ n.t1Used s then fail
  else
    match (n.spareStack s (n.reg Reg.sparePolicy) (n.pageRegion tr.tail)).bind (n.lowestSlot s) with
    | none => fail
    | some g =>
      let (p, n) := n.newPage s q.format g .spare
      n.setTrack k t fun tr => { tr with refill := some (p, now + n.reg Reg.refillBound) }

/-- The refill attempts of a tick. -/
def Node.refills (n : Node) (now : Nat) : Node :=
  let n := n.settleTracks now
  let n := { n with tiers := { n.tiers with quotas := Map.norm {} n.tiers.quotas fun _ q => { q with refillFailed := false } } }
  n.foldl n.refillOrder fun n e => n.refillOne now e.1 e.2

/-- REFILL_ATTEMPT (R120). -/
def execRefillAttempt (s : State) : Host.Outcome State Fault Refusal := s.on (s.node.refills s.clock.tick)

/-! ### Reclaim (R149) -/

/-- A RELEASED page that nothing names or pins becomes FREE; its slots leave the quotas (R149). A read still under way to its slot runs to
its end first (Table 11-5). -/
def Node.reclaim (n : Node) (p : Nat) : Node :=
  let d := n.page p
  if d.state != .released || d.ref != 0 || d.pin != 0 || n.tiers.reads.any (fun r => r.page == p && r.started) then n
  else
    let n := { n with tiers := { n.tiers with reads := n.tiers.reads.filter fun r => r.page != p,
                                              spillsNow := n.tiers.spillsNow.filter fun e => e.1 != p } }
    (n.dropPage p).bump Reg.reclaimed

/-- PAGE_RECLAIM (R149). -/
def execPageReclaim (page : BitVec 32) (s : State) : Host.Outcome State Fault Refusal := s.on (s.node.reclaim page.toNat)

end Sys2Proof.Machine
end

