-- ==== Sys2Proof/Machine/Check.lean ====
section
/-!
DEFINITION. Check codes: CRC-16-CCITT of flits and repair records (R339, R478), the Ethernet FCS (R351), and the Reed-Solomon code RS(128,120) of a
native flit (R339).
-/

namespace Sys2Proof.Machine

/-- One byte of CRC-16-CCITT: polynomial 0x1021, most significant bit first (R339). -/
def crc16Step (c : Nat) (b : Byte) : Nat :=
  (List.range 8).foldl (fun c _ => if bitOf c 15 then (c * 2 % 65536) ^^^ 0x1021 else c * 2 % 65536) (c ^^^ (b.toNat * 256))

/-- CRC-16-CCITT with initial value 0xFFFF, no reflection and no final XOR (R339). -/
def crc16 (bs : Bytes) : Nat := bs.foldl crc16Step 0xFFFF

/-- One byte of the reflected CRC-32 of IEEE 802.3. -/
def fcsStep (c : Nat) (b : Byte) : Nat :=
  (List.range 8).foldl (fun c _ => if bitOf c 0 then (c / 2) ^^^ 0xEDB88320 else c / 2) (c ^^^ b.toNat)

/-- The frame check sequence of IEEE 802.3. -/
def fcs (bs : Bytes) : Nat := bs.foldl fcsStep 0xFFFFFFFF ^^^ 0xFFFFFFFF

/-! ### GF(2^8) with x^8 + x^4 + x^3 + x^2 + 1, α = 2 (R339) -/

/-- Times α. -/
def gfTwice (a : Nat) : Nat := if bitOf a 7 then (a * 2 % 256) ^^^ 0x1D else a * 2

/-- The product of two field elements. -/
def gfMul (a b : Nat) : Nat :=
  ((List.range 8).foldl (fun (s : Nat × Nat) i => (if bitOf b i then s.1 ^^^ s.2 else s.1, gfTwice s.2)) (0, a)).1

/-- A power of a field element. -/
def gfPow (a : Nat) : Nat → Nat
  | 0 => 1
  | k + 1 => gfMul a (gfPow a k)

/-- The inverse: a^254. -/
def gfInv (a : Nat) : Nat :=
  let a2 := gfMul a a
  let a4 := gfMul a2 a2
  let a8 := gfMul a4 a4
  let a16 := gfMul a8 a8
  let a32 := gfMul a16 a16
  let a64 := gfMul a32 a32
  let a128 := gfMul a64 a64
  gfMul a2 (gfMul a4 (gfMul a8 (gfMul a16 (gfMul a32 (gfMul a64 a128)))))

/-- The value at `x` of a polynomial whose coefficients ascend. -/
def gfEval (p : List Nat) (x : Nat) : Nat := p.foldr (fun c acc => c ^^^ gfMul acc x) 0

/-- The value at `x` of a polynomial whose coefficients descend. -/
def gfHorner (p : List Nat) (x : Nat) : Nat := p.foldl (fun acc c => gfMul acc x ^^^ c) 0

/-- Sum of two polynomials, coefficients ascending. -/
def gfAdd : List Nat → List Nat → List Nat
  | [], q => q
  | p, [] => p
  | a :: p, b :: q => (a ^^^ b) :: gfAdd p q

/-- Product of two polynomials, coefficients ascending. -/
def gfPoly (p q : List Nat) : List Nat := p.foldr (fun c acc => gfAdd (q.map (gfMul c)) (0 :: acc)) []

/-- The generator (x − α^0) … (x − α^7), coefficients descending. -/
def rsGen : List Nat := ((List.range 8).foldl (fun g i => gfPoly g [gfPow 2 i, 1]) [1]).reverse

/-- The 8 check symbols of 120 data symbols: the remainder of data · x^8 by the generator (R339). -/
def rsCheck (data : List Nat) : List Nat :=
  data.foldl (fun (r : List Nat) d =>
    let f := r.headD 0 ^^^ d
    ((r.drop 1 ++ [0]).zip (rsGen.drop 1)).map fun (e : Nat × Nat) => e.1 ^^^ gfMul f e.2) (List.replicate 8 0)

/-- The eight syndromes of a codeword, symbols in descending order of x. -/
def rsSyndromes (c : List Nat) : List Nat := (List.range 8).map fun j => gfHorner c (gfPow 2 j)

/-- State of the search for the error locator: locator, the former locator, its discrepancy, the distance to it, errors found. -/
structure RsLocate where
  lam : List Nat := [1]
  prev : List Nat := [1]
  b : Nat := 1
  m : Nat := 1
  errs : Nat := 0
deriving DecidableEq, Repr

/-- The error locator of the syndromes (Berlekamp and Massey). -/
def rsLocator (s : List Nat) : RsLocate :=
  (List.range 8).foldl (fun (t : RsLocate) k =>
    let d := (List.range (t.errs + 1)).foldl (fun a i => a ^^^ gfMul (t.lam.getD i 0) (s.getD (k - i) 0)) 0
    if d = 0 then { t with m := t.m + 1 }
    else
      let lam := gfAdd t.lam (List.replicate t.m 0 ++ t.prev.map (gfMul (gfMul d (gfInv t.b))))
      if 2 * t.errs ≤ k then { lam := lam, prev := t.lam, b := d, m := 1, errs := k + 1 - t.errs }
      else { t with lam := lam, m := t.m + 1 }) {}

/-- The codeword with up to four byte symbols corrected, and how many were; none where more are in error (R339). -/
def rsCorrect (c : List Nat) : Option (List Nat × Nat) :=
  let s := rsSyndromes c
  if s.all (· == 0) then some (c, 0)
  else
    let t := rsLocator s
    let roots := (List.range 128).filter fun k => gfEval t.lam (gfPow (gfInv 2) k) == 0
    if 4 < t.errs ∨ roots.length ≠ t.errs then none
    else
      let omega := (gfPoly s t.lam).take 8
      let dlam := (t.lam.drop 1).zipIdx.map fun e => if e.2 % 2 = 0 then e.1 else 0
      let fix := roots.foldl (fun (c : List Nat) k =>
        let xi := gfPow (gfInv 2) k
        let e := gfMul (gfPow 2 k) (gfMul (gfEval omega xi) (gfInv (gfEval dlam xi)))
        c.set (127 - k) (c.getD (127 - k) 0 ^^^ e)) c
      if (rsSyndromes fix).all (· == 0) then some (fix, t.errs) else none

/-- The even-numbered or the odd-numbered bytes of a list. -/
def halfOf (odd : Nat) (bs : Bytes) : List Nat := (bs.zipIdx.filter fun e => e.2 % 2 == odd).map fun e => e.1.toNat

/-- Two lists dealt in turn into bytes. -/
def weave : List Nat → List Nat → Bytes
  | a :: p, b :: q => BitVec.ofNat 8 a :: BitVec.ofNat 8 b :: weave p q
  | _, _ => []

/-- The header and data of a flit of 256 bytes after correction, and the symbols corrected; none for a flit error (R339). -/
def flitDecode (flit : Bytes) : Option (Bytes × Nat) :=
  if flit.length ≠ 256 then none else
  match rsCorrect (halfOf 0 flit), rsCorrect (halfOf 1 flit) with
  | some (a, i), some (b, j) =>
    let f := weave a b
    if crc16 (sliceB f 2 6 ++ sliceB f 8 232) = fieldB f 0 2 then some (sliceB f 0 240, i + j) else none
  | _, _ => none

/-- A flit of 256 bytes from its header bits 63:16 and its 232 data bytes (R339). -/
def flitEncode (head : Nat) (data : Bytes) : Bytes :=
  let body := leBytes 6 head ++ padTo232 data
  let f := leBytes 2 (crc16 body) ++ body
  f ++ weave (rsCheck (halfOf 0 f)) (rsCheck (halfOf 1 f))
where
  /-- Data bytes, filled with zeros. -/
  padTo232 (data : Bytes) : Bytes := sliceB data 0 232

end Sys2Proof.Machine
end

