-- ==== Sys2Proof/Machine/Access.lean ====
section
/-!
DEFINITION. How a write reaches the object dictionary (R489 to R496, R500 to R505): who may write, the status of an item, entries that are
plain values (immediate, next-round, staged), responses to the ring or function 0, and the cache that applies each command once.
-/

namespace Sys2Proof

/-- The station of a ring source. -/
def Source.station : Source → Nat
  | .ringA st => st.toNat
  | .ringB st => st.toNat
  | .f0 => 0
  | .jtag => 0

/-- The ring of a source: 0 A, 1 B. -/
def Source.ring : Source → Option Nat
  | .ringA _ => some 0
  | .ringB _ => some 1
  | .f0 => none
  | .jtag => none

/-- A number for a source of block writes (R495): a ring station by ring and SRC, or function 0. -/
def Source.number : Source → Nat
  | .ringA st => st.toNat
  | .ringB st => 65536 + st.toNat
  | .f0 => 131072
  | .jtag => 131073

/-- The source number of Table 2-3. -/
def Source.order : Source → Nat
  | .ringA _ => 50
  | .ringB _ => 51
  | .f0 => 64
  | .jtag => 52

/-- It comes through the awl: with the AWL flag, or over JTAG. -/
def Via.throughAwl (via : Via) : Bool := via.awl || via.src == .jtag

end Sys2Proof

namespace Sys2Proof.Machine

/-- The state with a new node. -/
def State.put (s : State) (n : Node) : State := { s with node := n }

/-! ### Status codes (Table 19-5) -/

abbrev svOk : Nat := 0
abbrev svNoObject : Nat := 1
abbrev svNoSub : Nat := 2
abbrev svAccess : Nat := 3
abbrev svLength : Nat := 4
abbrev svRange : Nat := 5
abbrev svStagingClosed : Nat := 6
abbrev svNotAuthenticated : Nat := 7
abbrev svUnitAbsent : Nat := 8
abbrev svBusy : Nat := 9
abbrev svSequence : Nat := 10
abbrev svNodeState : Nat := 11
abbrev svTooLong : Nat := 12
abbrev svTimeout : Nat := 13

/-- The source is authenticated (R489, R504): a valid tag on a ring, function 0 unlocked, or JTAG. -/
def Node.authentic (n : Node) (via : Via) : Bool :=
  match via.src with
  | .f0 => n.host.unlocked
  | .jtag => true
  | _ => via.auth

/-- Indices a READ may name without authentication (R489). -/
def openRead (index sub : Nat) : Bool :=
  (decide (0x1000 ≤ index) && decide (index ≤ 0x10FF)) || index == 0x1200 || index == 0x1201 ||
  (index == 0x3400 && (sub == 5 || sub == 6 || sub == 8)) || (index == 0x1204 && sub == 4)

/-- Entries a BLOCK_WRITE may name without authentication (R489). -/
def openWrite (index sub : Nat) : Bool := index == 0x1204 && (sub == 1 || sub == 2)

/-- The object is in use: its region and port exist (R508, R509, R511). -/
def Node.hasIndex (n : Node) (index : Nat) : Bool :=
  (Dict.object index).isSome &&
    (if 0x4000 ≤ index ∧ index < 0x5000 then decide ((index - 0x4000) / 256 < n.reg Reg.regions)
     else if 0x5000 ≤ index ∧ index < 0x5C00 then decide ((index - 0x5000) / 64 < n.reg Reg.linkPorts) else true)

/-- Slow-tier entries of Table 11-10. -/
def slowEntry (index sub : Nat) : Bool :=
  (index == 0x2700 && [1, 2, 3, 4, 5, 9].contains sub) || (index == 0x2701 && decide (1 ≤ sub) && decide (sub ≤ 7))

/-- The entry belongs to a unit that is absent (R9, R237, R312). -/
def Node.entryAbsent (n : Node) (index sub : Nat) : Bool :=
  (slowEntry index sub && !n.slowPresent) ||
  (decide (0x2310 ≤ index) && decide (index ≤ 0x231F) && !n.hasUnit 3) ||
  (decide (0x2800 ≤ index) && decide (index ≤ 0x28FF) && !n.hasUnit 0)

/-- The entry belongs to a retired region or port (R510). -/
def Node.entryRetired (n : Node) (index : Nat) : Bool :=
  if 0x4000 ≤ index ∧ index < 0x5000 then n.retired .region ((index - 0x4000) / 256)
  else if 0x5000 ≤ index ∧ index < 0x5C00 then n.retired .port ((index - 0x5000) / 64) else false

/-- A value lies in its entry's stated range (R494 status RANGE). Window bases are multiples of 2^30 (R513);
queue weights are 1 to 255 (Table 14-9). -/
def Entry.inRange (e : Entry) (index v : Nat) : Bool :=
  decide (e.lo ≤ v) && decide (v ≤ e.hi) && (index != 0x1008 || v % 2 ^ 30 == 0) && (e.ty != .bool || decide (v ≤ 1)) &&
  (!(decide (0x5000 ≤ index) && decide (index < 0x5C00) && index % 64 == 3 && e.sub == 1) || (List.range 6).all fun i => v / 256 ^ i % 256 != 0)

/-- The status of a write of `value` to an entry (R494). The order among several is a DESIGN CHOICE (log entry 70). `block` says that it came
by block transfer. -/
def Node.writeStatus (n : Node) (via : Via) (block : Bool) (index sub : Nat) (value : Bytes) : Nat :=
  if !n.authentic via && !(block && openWrite index sub) then svNotAuthenticated
  else if !n.hasIndex index then svNoObject
  else if sub = 0 then svAccess
  else
    match Dict.entry index sub with
    | none => if 0x80 ≤ sub ∧ ((Dict.entry index (sub - 0x80)).any fun e => e.access == .rws) then svAccess else svNoSub
    | some e =>
      if n.entryAbsent index sub then svUnitAbsent
      else if e.access = .ro ∨ e.access = .const ∨ n.entryRetired index then svAccess
      else if (n.st = stFault ∨ n.st = stSafe) ∧ !via.awl ∧ via.src ≠ .jtag then svNodeState
      else if e.ty = .domain then
        if !block then svTooLong
        else if e.access = .rws ∧ (n.reg Reg.commitState = 2 ∨ n.reg Reg.commitState = 3) then svStagingClosed else svOk
      else if value.length ≠ e.ty.bytes then svLength
      else if !e.inRange index (leNat value) then svRange
      else if e.access = .rws ∧ (n.reg Reg.commitState = 2 ∨ n.reg Reg.commitState = 3) then svStagingClosed
      else svOk

/-- COMMIT_STATE goes to STAGED with a staged write (R54). -/
def Node.toStaged (n : Node) : Node :=
  if n.reg Reg.commitState = 0 ∨ n.reg Reg.commitState = 4 then n.setReg Reg.commitState 1 else n

/-- Write an entry that is a plain value, by its access and effect (R53, R61, R501). -/
def Node.storeValue (n : Node) (index sub : Nat) (e : Entry) (v : Nat) : Node :=
  let k := dkey index sub
  match e.access with
  | .rws => ({ n with staged := Map.put n.staged k v }).toStaged
  | .w1c => n.setReg k (n.reg k &&& (256 ^ e.ty.bytes - 1 - v))
  | .rw => if e.eff = .nextRound then { n with nextRound := Map.put n.nextRound k v } else n.setReg k v
  | _ => n

/-! ### Responses -/

/-- Queue a response on the ring it came by, or put it into function 0's response buffer (R488, R493, R523). A response carries the VTYPE of its
request with RESPONSE set. -/
def Node.respond (n : Node) (via : Via) (vtype : Nat) (payload : Bytes) : Node :=
  match via.src with
  | .jtag => n
  | .f0 =>
    let head := leBytes 1 vtype ++ leBytes 1 (if via.awl then 10 else 2) ++ leBytes 2 0 ++ leBytes 4 via.seq.toNat ++
      leBytes 4 payload.length ++ leBytes 4 0
    let h := n.host
    let msix := if (0, 0) ∈ h.msix then h.msix else h.msix ++ [(0, 0)]
    { n with host := { h with response := head ++ payload, rspSeq := via.seq.toNat, cmdOpen := false, msix := msix } }
  | src =>
    let key := n.ringKeyLive && vtype != 1
    n.ringSend { ring := src.ring.getD 0, vtype := vtype, flags := 2 + (if key then 1 else 0) + (if via.awl then 8 else 0), dst := src.station,
                 seq := via.seq.toNat, payload := payload, auth := key }

/-- What the cache says of a command (R491). -/
inductive Seen where
  | fresh
  | again (response : Bytes)
  | below
deriving DecidableEq, Repr

/-- Look a command up in the cache by source station and SEQ (R491). -/
def Node.seen (n : Node) (src : Source) (seq now : Nat) : Seen :=
  match src.ring with
  | none => .fresh
  | some _ =>
    let mine := n.mgmt.cache.filter fun e => e.1 == src.station
    match mine.find? fun e => e.2.1 == seq && decide (now ≤ e.2.2.1 + n.reg Reg.dedupTicks) with
    | some e => .again e.2.2.2
    | none => if mine.length = 64 ∧ mine.all (fun e => decide (seq < e.2.1)) then .below else .fresh

/-- Keep a response: the latest 64 SEQ values of a source (R491). -/
def Node.remember (n : Node) (src : Source) (seq now : Nat) (payload : Bytes) : Node :=
  match src.ring with
  | none => n
  | some _ =>
    let mine := n.mgmt.cache.filter fun e => e.1 == src.station && e.2.1 != seq
    let rest := n.mgmt.cache.filter fun e => e.1 != src.station
    let keep := (sortBy (fun (a b : Nat × Nat × Nat × Bytes) => decide (a.2.1 < b.2.1)) (mine ++ [(src.station, seq, now, payload)]))
    { n with mgmt := { n.mgmt with cache := rest ++ keep.drop (keep.length - 64) } }

/-- A command can come from the source: its ring is not LOST, the host link is up, or the node is powered (R485, R486, R529, R537). -/
def Node.reachable (n : Node) (src : Source) : Bool :=
  match src with
  | .f0 => n.host.linkUp && n.st != 0
  | .jtag => n.st != 0
  | src => n.ringState (src.ring.getD 0) != 2

/-- The awl is used (Table 16-7): an authenticated command with AWL, or any over JTAG. -/
def Node.noteAwl (n : Node) (via : Via) : Node :=
  if n.authentic via && via.throughAwl then
    { n with sec := { n.sec with awlUsed := true, jtagUsed := n.sec.jtagUsed || via.src == .jtag } }
  else n

/-- Serve a command once: its response is queued and kept; a copy is answered from the cache (R491). `go` answers `none` where the manual lets
no response leave. -/
def State.serve (s : State) (via : Via) (vtype : Nat) (go : State → State × Option Bytes) : State :=
  let now := s.clock.tick
  if !s.node.reachable via.src then s else
  match s.node.seen via.src via.seq.toNat now with
  | .again p => s.put ((s.node.bump Reg.duplicates).respond via vtype p)
  | .below => s
  | .fresh =>
    let (t, r) := go (s.put (s.node.noteAwl via))
    match r with
    | some p => t.put ((t.node.remember via.src via.seq.toNat now p).respond via vtype p)
    | none => t

/-- A refused item is counted where it lacks authentication (R489). -/
def Node.countRefused (n : Node) (st : Nat) : Node := if st = svNotAuthenticated then n.bump Reg.framesRefused else n

/-- A write of one entry, by WRITE or by a whole block write: its status, its effect where that is OK, and the response. -/
def State.write (s : State) (via : Via) (index sub : Nat) (value : Bytes) (f : State → State) : State :=
  let block := (Dict.entry index sub).any fun e => e.ty == .domain || decide (1424 < e.ty.bytes)
  s.serve via (if block then 0x13 else 0x11) fun s =>
    let st := s.node.writeStatus via block index sub value
    ((if st = svOk then f s else s.put (s.node.countRefused st)), some [BitVec.ofNat 8 st, 0, 0, 0])

/-- The meaning of a row that is a write of one entry whose effect is on the node. -/
def State.command (s : State) (via : Via) (index sub : Nat) (value : Bytes) (f : Node → Node) : Host.Outcome State Fault Refusal :=
  .next (s.write via index sub value fun s => s.put (f s.node))

/-- A command's result entry takes the lowest result code among those that hold (R494), 0 where none does. -/
def firstCode : List (Bool × Nat) → Nat
  | [] => 0
  | (b, c) :: rest => if b then c else firstCode rest

end Sys2Proof.Machine
end

