-- ==== Sys2Proof/Machine/SliceTest.lean ====
section
/-!
DEFINITION. The test slices of Table 18-1: what unit a slice covers, its result record, and slices that stop (R468, R474, R481).
-/

namespace Sys2Proof.Machine

/-- The unit kind of a UNIT_KIND byte (Table 17-2). -/
def unitKindOf (k : Nat) : Option UnitKind :=
  match k with
  | 1 => some .thread | 2 => some .cell | 3 => some .block | 4 => some .channel | 5 => some .region | 6 => some .port | 7 => some .chip
  | _ => none

/-- A test result record (Table 18-2). -/
def resultRecord (kind cls : Nat) (unit : UnitKind) (verdict num bit addr sig tick : Nat) : Bytes :=
  leBytes 1 kind ++ leBytes 1 cls ++ leBytes 1 unit.code ++ leBytes 1 verdict ++ leBytes 2 num ++ leBytes 2 bit ++ leBytes 4 addr ++
  leBytes 4 sig ++ leBytes 5 tick ++ List.replicate 11 0

/-- Slices per coverage cycle and target of a class (Table 18-1). -/
def classSlices (cls : Nat) : Nat :=
  if cls = 1 then 256 else if cls = 2 then 128 else if cls = 3 then 8 else if cls = 4 then 4 else if cls = 5 then 4096
  else if cls = 6 then 16 else if cls = 7 then 8 else if cls = 8 then 24 else 0

/-- Classes and targets are kept under this number; target 16 is the chip. -/
def classKey (cls target : Nat) : Nat := cls * 17 + target

/-- The unit of Table 17-2 that a slice's result names. The unit by class is a DESIGN CHOICE (log entry 73): a scratch address falls in the
window of its thread (Table 18-7), block memory belongs to cells and staging to blocks (Table 17-2). The address of a patrol counts the
bytes of the slots patrolled. -/
def sliceUnit (cls target place addr : Nat) : UnitKind × Nat :=
  if cls = 1 then
    if addr = 0xFFFFFFFF then (.cell, target * 256 + place) else (.thread, (target * 256 + place) * 16 + Nat.min 15 (addr / 8192))
  else if cls = 2 then (.cell, target * 256 + place / 8 * 16 + place % 8 * 2)
  else if cls = 3 then (.block, target * 16 + place * 2)
  else if cls = 4 then (.block, target * 16 + place)
  else if cls = 5 then (.channel, target * 32 + (if addr = 0xFFFFFFFF then 0 else addr / 16384 % 32))
  else if cls = 6 then (.chip, 1)
  else if cls = 7 then (.chip, 3)
  else if place < 16 then (.region, place) else (.chip, 4)

/-- The slice covers a unit of Table 17-2. -/
def RunSlice.covers (x : RunSlice) (kind : UnitKind) (num : Nat) : Bool :=
  let t := x.target
  match kind with
  | .thread => x.cls == 1 && num / 16 == t * 256 + x.place
  | .cell => (x.cls == 1 && num == t * 256 + x.place) || (x.cls == 2 && num / 2 == t * 128 + x.place)
  | .block => (x.cls == 1 && num == t * 16 + x.place / 16) || (x.cls == 2 && num == t * 16 + x.place / 8) ||
      ((x.cls == 3 || x.cls == 4) && sliceUnit x.cls t x.place 0 == (.block, num))
  | .channel => x.cls == 5 && num / 32 == t
  | .region => (decide (x.cls ≤ 5) && num == t) || (x.cls == 8 && x.place == num)
  | .port => false
  | .chip => decide (6 ≤ x.cls) && sliceUnit x.cls t x.place 0 == (.chip, num)

/-- KIND of a periodic slice's record: 3 where a request of R479 put it there. -/
def RunSlice.kind (x : RunSlice) : Nat := if x.onDemand then 3 else 1

/-- A slice stops with VERDICT 2 and is run again (R468, R481). -/
def Node.stopSlice (n : Node) (now : Nat) (x : RunSlice) : Node :=
  let u := sliceUnit x.cls x.target x.place 0xFFFFFFFF
  let r := resultRecord x.kind x.cls u.1 2 u.2 0xFFFF 0xFFFFFFFF 0 (now - 1)
  let demand := if x.onDemand then n.test.demand ++ [u] else n.test.demand
  let n := { n with test := { n.test with running := n.test.running.filter (· != x), demand := demand } }
  (n.setReg Reg.lastResult (leNat r)).bump Reg.slicesRepeated

/-- The running slices of a kind stop. -/
def Node.stopSlices (n : Node) (now : Nat) (f : RunSlice → Bool) : Node :=
  n.foldl (n.test.running.filter f) fun n x => n.stopSlice now x

end Sys2Proof.Machine
end

