-- ==== Sys2Proof/Machine/Schedule.lean ====
section
/-!
DEFINITION. Lasts and staged changes (chapter 2): loading a last image, arming a change region by region, disarming, discarding, and what the
refusal of an armed change does to the requests that counted on it.
-/

namespace Sys2Proof.Machine

/-! ### Last images (R49 to R51, R368) -/

/-- A window record (Table 2-6). -/
def windowOf (v : Nat) : Window :=
  { start := bitsOf v 48 16, length := bitsOf v 32 16, kind := bitsOf v 28 4, param := bitsOf v 16 8, target := bitsOf v 0 16 }

/-- Gate lists of an image from a byte on (Tables 14-2, 14-3): none where they break the tables. -/
def gateLists (bs : Bytes) : Nat → Nat → Nat → Option (List GateList)
  | 0, _, off => if off = bs.length then some [] else none
  | fuel + 1, num, off =>
    let count := fieldB bs (off + 2) 2
    let len := 8 + 4 * count
    let entries := (List.range count).map fun i => fieldB bs (off + 8 + 4 * i) 4
    if bs.length < off + len ∨ fieldB bs off 1 ≠ num ∨ fieldB bs (off + 1) 1 ≠ 0 ∨ count = 0 ∨ 256 < count ∨
       entries.any (fun e => bitsOf e 16 16 == 0 || bitsOf e 6 10 != 0) ∨
       fieldB bs (off + 4) 4 ≠ (entries.map fun e => bitsOf e 16 16).sum then none
    else (gateLists bs fuel (num + 1) (off + len)).map ({ number := num, raw := sliceB bs off len } :: ·)

/-- A window keeps to Tables 2-6 and 2-7 (check 1 of R51). -/
def windowOk (mask v : Nat) : Bool :=
  let w := windowOf v
  let region := decide (w.target < 16)
  let port := decide (0x100 ≤ w.target) && decide (w.target ≤ 0x12F)
  let chip := w.target == 0xFFFF
  decide (1 ≤ w.length) && bitsOf v 24 4 == 0 && (region || port || chip) && (!region || bitOf mask w.target) &&
  (if w.kind = 0 then w.param == 0 else if w.kind = 1 then chip else if w.kind = 2 ∨ w.kind = 3 then region && w.param == 0
   else if w.kind = 4 then port else if w.kind = 5 then (region || port) && decide (w.param < 16) else if w.kind = 6 then region || chip else false)

/-- The windows are sorted by TARGET, then START. -/
def windowsSorted : List Window → Bool
  | [] => true
  | [_] => true
  | a :: b :: t => (decide (a.target < b.target) || (a.target == b.target && decide (a.start ≤ b.start))) && windowsSorted (b :: t)

/-- Two windows of one target may overlap: MAINT with COMPUTE or REDUCE of a region (check 4 of R51). -/
def mayOverlap (a b : Window) : Bool :=
  decide (a.target < 16) && ((a.kind == 5 && (b.kind == 2 || b.kind == 3)) || (b.kind == 5 && (a.kind == 2 || a.kind == 3)))

/-- Some two windows overlap that may not. -/
def windowsClash : List Window → Bool
  | [] => false
  | a :: t => t.any (fun b => a.target == b.target && decide (b.start < a.start + a.length) && decide (a.start < b.start + b.length) &&
      !mayOverlap a b) || windowsClash t

/-- Read a last image: the last, or the lowest-numbered check of R51 that fails. -/
def Last.parse (bs : Bytes) : Except Nat Last :=
  let count := fieldB bs 10 2
  let lists := fieldB bs 12 2
  let mask := fieldB bs 8 2
  let len := fieldB bs 6 2
  let recs := (List.range count).map fun i => fieldB bs (64 + 8 * i) 8
  let ws := recs.map windowOf
  match gateLists bs lists 0 (64 + 8 * count) with
  | none => .error 1
  | some gates =>
    if bs.length < 64 ∨ fieldB bs 0 4 = 0 ∨ fieldB bs 4 2 ≠ 2 ∨ len < 250 ∨ count = 0 ∨ 16384 < count ∨ 48 < lists ∨ fieldB bs 14 18 ≠ 0 ∨
       recs.any (fun v => !windowOk mask v) ∨ !windowsSorted ws then .error 1
    else if (sha3_512 (bs.drop 64)).take 32 ≠ sliceB bs 32 32 then .error 2
    else if ws.any (fun w => decide (len < w.start + w.length)) then .error 3
    else if windowsClash ws then .error 4
    else if ws.any (fun w => w.kind == 6 && decide (40 < w.length)) then .error 5
    else if (ws.filter fun w => w.kind == 1).length = 0 ∨ 8 < (ws.filter fun w => w.kind == 1).length then .error 6
    else if (List.range 16).any (fun r => bitOf mask r &&
        !(ws.any (fun w => w.kind == 2 && w.target == r) && ws.any fun w => w.kind == 3 && w.target == r)) then .error 7
    else if ws.any (fun w => w.kind == 4 && decide (lists ≤ w.param)) then .error 8
    else .ok { raw := bs, id := fieldB bs 0 4, roundLen := len, regionMask := mask, windows := ws, gates := gates }

/-- Load an image (R51): staged, or refused with what was staged dropped. -/
def Node.lastLoad (n : Node) (image : Bytes) : Node :=
  match Last.parse image with
  | .ok l => ({ n with sched := { n.sched with staged := some l } }.setReg Reg.lastLoadStatus 0).toStaged
  | .error c => { n with sched := { n.sched with staged := none } }.setReg Reg.lastLoadStatus c

/-- LAST_LOAD (R51). -/
def execLastLoad (via : Via) (image : Bytes) (s : State) : Host.Outcome State Fault Refusal :=
  s.command via 0x1110 5 image fun n => n.lastLoad image

/-! ### Arming (R55, R56) -/

/-- The arm deadline (R56). -/
def Node.armDeadlineTick (n : Node) : Nat := n.sched.arming.armTick - n.reg Reg.disarmGuard

/-- The value an RWS entry will have after the commit. -/
def Node.willBe (n : Node) (k : Nat) : Nat := Map.get (n.reg k) n.staged k

/-- The reasons of a change for which every region fails: reserves (R379), SELFTEST coverage (R472), composition (R397, R400, R404), welt partners
(R454). -/
def Node.reserveCells (n : Node) : Nat :=
  48 * (6 * n.willBe Reg.inReserve + 2 * n.willBe Reg.inReserveTv + n.willBe Reg.q7Reserve + 3 * n.willBe Reg.qbReserve) + n.reg Reg.q6Pool

/-- A last meets R472. -/
def Node.coverageOk (n : Node) (l : Last) : Bool :=
  (l.windows.all fun w => w.kind != 6 ||
    (if 1 ≤ w.param ∧ w.param ≤ 5 then decide (w.target < 16) else decide (6 ≤ w.param) && decide (w.param ≤ 8) && w.target == 0xFFFF)) &&
  (List.range 8).all fun i =>
    let c := i + 1
    let targets := if c ≤ 5 then (List.range 16).filter (fun r => !n.retired .region r) else [0xFFFF]
    targets.all fun t =>
      let w := (l.windows.filter fun w => w.kind == 6 && w.param == c && w.target == t).length
      decide (2 * classSlices c ≤ w * (600000000 / l.roundLen))

/-- Read a composition map (Table 15-6). -/
def CompMap.parse (bs : Bytes) : CompMap :=
  { raw := bs, epoch := fieldB bs 0 2, group := fieldB bs 2 2, role := fieldB bs 4 1, memberCount := fieldB bs 5 1, weltA := fieldB bs 6 2,
    weltB := fieldB bs 8 2, spare := fieldB bs 10 2, members := (List.range 64).map fun i => fieldB bs (16 + 2 * i) 2 }

/-- A composition map keeps to Table 15-6. -/
def CompMap.ok (m : CompMap) : Bool :=
  let node := fun (x : Nat) => decide (x < 1024) || x == 0xFFFF
  m.raw.length == 1424 && decide (m.role ≤ 2) && fieldB m.raw 12 4 == 0 &&
  (if m.role = 0 then m.memberCount == 0 else decide (8 ≤ m.memberCount) && decide (m.memberCount ≤ 64)) &&
  node m.weltA && node m.weltB && node m.spare && m.members.all node &&
  ((List.range 1024).all fun i => decide (fieldB m.raw (144 + i) 1 < 48) || fieldB m.raw (144 + i) 1 == 0xFF) &&
  (List.range 64).all fun s => decide (fieldB m.raw (1168 + 4 * s) 1 ≤ 3) && fieldB m.raw (1169 + 4 * s) 1 == 0 && node (fieldB m.raw (1170 + 4 * s) 2)

/-- Firmware major and minor a node last reported, in a round header or a HELLO. -/
def Node.peerFirmware (n : Node) (node : Nat) : Option Nat :=
  match Map.find n.comp.headers node with
  | some h => some (fieldB h.raw 32 2)
  | none =>
    match n.links.ports.find? fun e => n.portReg e.1 Reg.peer == node && e.2.peerFw != 0 with
    | some e => some e.2.peerFw
    | none => none

/-- The pages of a slice that a pre-copy names: COMPRESSED pages of its sequences (R401). -/
def Node.movePages (n : Node) (s : Nat) : List Nat :=
  (n.seqs.pages.filter fun e => e.2.slice == s && e.2.state == .compressed).map (·.1)

/-- The composition reasons of Table 15-7 that a staged map meets at its commit tick. -/
def Node.mapReasons (n : Node) (m : CompMap) (c : Nat) : List Nat :=
  (if n.comp.previous.isSome ∧ (n.reg Reg.drainTick = 0 ∨ c < n.reg Reg.drainTick) then [0x08] else []) ++
  (if ((m.members ++ [m.weltA, m.weltB, m.spare]).filter fun x => decide (x < 1024) && x != n.straps).any
      fun x => match n.peerFirmware x with | some f => f != n.reg Reg.fwVersion | none => false then [0x09] else []) ++
  (if (List.range 64).any (fun s => fieldB m.raw (1168 + 4 * s) 1 == 2 && (n.movePages s).any fun p => !n.comp.preCopied.contains p) ∨
      ([m.weltA, m.weltB].any fun w => decide (w < 1024) &&
        !(n.comp.current.any fun cur => cur.weltA == w || cur.weltB == w) &&
        n.seqs.pages.any fun e => (e.2.state == .sealed || e.2.state == .compressed) && !e.2.replicated) then [0x0A] else []) ++
  (if m.epoch ≠ (n.reg Reg.epoch + 1) % 65536 ∨ !m.ok then [0x0B] else []) ++
  (if (List.range 64).any (fun s => fieldB m.raw (1168 + 4 * s) 1 == 3 && (n.slice s).state != .bound) then [0x03] else [])

/-- The ports in service that reach a node directly, its peer confirmed by HELLO (R454). -/
def Node.directPorts (n : Node) (node : Nat) : List Nat :=
  (List.range 48).filter fun p => n.inService p && n.portReg p Reg.peer == node

/-- The reasons of R454 under the configuration that the change brings. -/
def Node.weltReasons (n : Node) : List Nat :=
  match (n.comp.stagedMap.or n.comp.current) with
  | none => []
  | some m =>
    let partners := [(m.weltA, 0), (m.weltB, 1)].filter fun e => decide (e.1 < 1024)
    let l := n.sched.staged.getD n.sched.active
    let rmap := n.willBe Reg.replicaMap
    (if partners.any (fun e => (n.directPorts e.1).isEmpty) then [0x0C] else []) ++
    (if partners.any (fun e =>
        (List.range 64).any (fun s => (n.slice s).state == .bound && rmap / 256 ^ (2 * s + e.2) % 256 == 0xFF) ||
        !(n.directPorts e.1).any fun p => l.windows.any fun w => w.kind == 5 && w.target == 0x100 + p && bitOf w.param 3) then [0x0D] else [])

/-- The reasons for which every affected region fails. -/
def Node.changeReasons (n : Node) : List Nat :=
  (if 180224 < n.reserveCells then [0x03] else []) ++
  (match n.comp.stagedMap with | some m => n.mapReasons m n.sched.arming.armTick | none => []) ++ n.weltReasons ++
  (match n.sched.staged with | some l => if n.coverageOk l then [] else [0x0E] | none => [])

/-- Unfinished requests in the order of R73: bucket descending, then admission order. -/
def Node.placeOrder (n : Node) (l : List Admitted) : List Admitted :=
  sortBy (fun (a b : Admitted) => decide (n.bucket b.req < n.bucket a.req)) l

/-- The work that stays to be placed of a request: its phase 2 and its send as they are booked. -/
def Admitted.rest (q : Admitted) (ready : Nat) : Work :=
  { redCycles := q.red.cycles, redReady := ready, statusOnly := q.send.msg == 0, sendBytes := q.send.msg }

/-- Page IDs that an item of a request reads from its track. -/
def Node.itemPageIds (n : Node) (q : Admitted) (i : Item) : List Nat :=
  if i.kind = .attn ∨ i.kind = .backward then
    i.pages.map fun p => ((n.seq (seqLocal q.req.seqId)).track i.track).pages.getD p 0
  else []

/-- Place the parts of a request that are booked from `c` on in the plan of `n`, from the tick `lo` on: the request with those parts placed, or
the region that fails (R56, R58). Parts before `c` stand. -/
def Node.placeRest (n : Node) (c lo : Nat) (q : Admitted) : Except Nat Admitted :=
  let moves := q.items.filter fun i => i.state == 0 && decide (c ≤ i.winStart)
  let stay := q.items.filter fun i => !(i.state == 0 && decide (c ≤ i.winStart))
  let ready := fun (i : Item) => (i, (n.itemPageIds q i).foldl (fun a p => Nat.max a (n.fetchDone p)) lo)
  match moves.find? (fun i => (n.placeItems q.slice q.deadline [ready i] { q with items := [] }).isNone),
        n.placeItems q.slice q.deadline (moves.map ready) { q with items := stay } with
  | some i, _ => .error i.region
  | none, none => .error ((moves.headD {}).region)
  | none, some q1 =>
    let q1 := { q1 with items := sortBy (fun (a b : Item) => decide (a.num < b.num)) q1.items }
    let red := if q.red.cycles ≠ 0 ∧ q.red.winStart < c then some (q.red.endTick, q1) else n.placeRed (q.rest lo) lo q1
    match red with
    | none => .error q.home
    | some (g, q2) =>
      if q.send.msg = 0 ∨ q.send.winStart < c then .ok q2
      else
        match n.bookSend (q.rest lo) g q2 with
        | none => .error q.home
        | some (_, sb) =>
          if !n.q6Fits (n.bookers false) sb.cells g sb.sendTick ∨ q.deadline < sb.sendTick + n.reg Reg.deadlineMargin then .error q.home
          else .ok { q2 with send := sb }

/-- The node as the windows of an armed last see it: that last active from `c`, and the given placements booked in it. -/
def Node.under (n : Node) (l : Last) (c : Nat) (booked : List Admitted) : Node :=
  ({ n with sched := { n.sched with active := l, staged := none }, adm := { n.adm with admitted := booked, armed := [] } }.setReg
    Reg.roundBase c).setReg Reg.commitState 0

/-- Check admitted work against a new last (R56): the placements found, and the regions that fail. -/
def Node.armPlacements (n : Node) (l : Last) (c : Nat) : List Admitted × List Nat :=
  (n.placeOrder n.unfinished).foldl (fun acc q =>
    match (n.under l c acc.1).placeRest c c q with
    | .ok q' => (acc.1 ++ [{ q' with items := q'.items.filter fun i => decide (c ≤ i.winStart) }], acc.2)
    | .error r => (acc.1, acc.2 ++ [r])) ([], [])

/-- The placements of the change under way. -/
def Node.placements (n : Node) : List Admitted × List Nat :=
  match n.sched.staged with
  | none => ([], [])
  | some l => n.armPlacements l n.sched.arming.armTick

/-- Write ARM_RESULT from the failures (R56): the lowest reason, and the regions that failed for it where it names any. -/
def Node.setArmResult (n : Node) (fails : List (Nat × Nat)) : Node :=
  let low := (fails.map (·.1)).foldl Nat.min 0xFF
  let regions := if low = 3 ∨ low = 4 ∨ low = 5 then
      (List.range 16).foldl (fun m r => if fails.contains (low, r) then m + 2 ^ r else m) 0 else 0
  n.setReg Reg.armResult (low * 65536 + regions)

/-- Place again a request that was budgeted in an armed last that does not come (R58), or end it with COMMIT_REFUSED. -/
def Node.replaceArmed (n : Node) (now c : Nat) (q : Admitted) : Node :=
  let others := { n with adm := { n.adm with admitted := n.adm.admitted.filter fun a => a.req.key != q.req.key } }
  match others.placeRest c (now + 1) { q with armedPart := false } with
  | .ok q' => n.setAdmitted q.req.key fun _ => { q' with armedPart := false }
  | .error _ => n.endWithNotice now q.req.key stCommitRefused 8

/-- The change becomes REFUSED (R56, R58, R410). -/
def Node.refuseChange (n : Node) (now : Nat) (fails : List (Nat × Nat)) : Node :=
  let was := n.reg Reg.commitState
  let c := n.sched.arming.armTick
  let n := (n.setReg Reg.commitState 4).setArmResult fails
  let n := { n with sched := { n.sched with arming := { n.sched.arming with failures := fails, refusedAt := some now } },
                    adm := { n.adm with armed := [] } }
  let n := n.commitEvent
  if was ≠ 3 then n
  else
    let mine := n.placeOrder (n.unfinished.filter (·.armedPart))
    n.foldl mine fun n q => n.replaceArmed now c q

/-- ARM (R54, R55). -/
def Node.armChange (n : Node) (now : Nat) : Node :=
  let st := n.reg Reg.commitState
  if st = 2 ∨ st = 3 then n
  else
    let c := n.reg Reg.commitTick
    let fails := (if !n.isRound c then [(1, 0)] else []) ++ (if c < now + n.reg Reg.armLead then [(2, 0)] else [])
    if fails ≠ [] then n.refuseChange now fails
    else
      { n with sched := { n.sched with arming := { armTick := c, affected := 0xFFFF } } }.setReg Reg.commitState 2 |>.setReg Reg.armResult 0

/-- DISARM (R58). -/
def Node.disarmChange (n : Node) (now : Nat) : Node :=
  let st := n.reg Reg.commitState
  if (st = 2 ∨ st = 3) ∧ now ≤ n.armDeadlineTick then n.refuseChange now [(6, 0)] else n

/-- DISCARD (R54). -/
def Node.discardChange (n : Node) : Node :=
  let st := n.reg Reg.commitState
  if st = 1 ∨ st = 4 then
    { n with staged := [], sched := { n.sched with staged := none }, comp := { n.comp with stagedMap := none, preCopied := [] },
             tiers := { n.tiers with stagedQuota := none } }.setReg Reg.commitState 0
  else n

/-- A write of COMMIT_CTRL (R54). -/
def Node.commitCtrl (n : Node) (now v : Nat) : Node :=
  if v = 1 then n.armChange now else if v = 2 then n.disarmChange now else if v = 3 then n.discardChange else n

/-- ARM (R55). -/
def execArm (via : Via) (s : State) : Host.Outcome State Fault Refusal := s.command via 0x1120 2 [1] fun n => n.armChange s.clock.tick

/-- DISARM (R58). -/
def execDisarm (via : Via) (s : State) : Host.Outcome State Fault Refusal := s.command via 0x1120 2 [2] fun n => n.disarmChange s.clock.tick

/-- DISCARD (R54). -/
def execDiscard (via : Via) (s : State) : Host.Outcome State Fault Refusal := s.command via 0x1120 2 [3] fun n => n.discardChange

/-- A region's report (R56): its failures, or its arming; the last affected region makes the change ARMED. -/
def Node.regionReport (n : Node) (now r : Nat) (holds : Bool) : Node :=
  let a := n.sched.arming
  let st := n.reg Reg.commitState
  let first := st == 2
  let joins := st == 4 && a.refusedAt == some now && !a.failures.isEmpty
  if !(first || joins) || bitOf a.reported r || !bitOf a.affected r || decide (n.armDeadlineTick < now) then n
  else
    let (found, bad) := n.placements
    let fails := (if holds then [] else [(3, r)]) ++ (if bad.contains r then [(4, r)] else []) ++ n.changeReasons.map fun c => (c, r)
    let n := { n with sched := { n.sched with arming := { a with reported := setBit a.reported r true } } }
    if fails ≠ [] then
      if first then n.refuseChange now fails
      else { n with sched := { n.sched with arming := { n.sched.arming with failures := a.failures ++ fails } } }.setArmResult (a.failures ++ fails)
    else if first ∧ setBit a.reported r true = a.affected then
      ({ n with adm := { n.adm with armed := found } }.setReg Reg.commitState 3).commitEvent
    else n

/-- REGION_ARM_REPORT (R56). -/
def execRegionArmReport (r : Fin 16) (holds : Bool) (s : State) : Host.Outcome State Fault Refusal :=
  s.on (s.node.regionReport s.clock.tick r.val holds)

/-- ARM_DEADLINE (R56): regions that have not armed fail the change. -/
def execArmDeadline (s : State) : Host.Outcome State Fault Refusal :=
  let n := s.node
  if n.reg Reg.commitState = 2 ∧ n.armDeadlineTick ≤ s.clock.tick then
    let missing := (List.range 16).filter fun r => bitOf n.sched.arming.affected r && !bitOf n.sched.arming.reported r
    s.on (n.refuseChange s.clock.tick (missing.map fun r => (5, r)))
  else s.on n

end Sys2Proof.Machine
end

