-- ==== Sys2Proof/Machine/Codec.lean ====
section
/-!
DEFINITION. Page compression (chapter 9): the tile-order image, the stored block forms, the decoder with the checks of Table 9-4, and
the packer's choice of a form.
-/

namespace Sys2Proof.Machine

/-- K, the elements of a tile row, of an element format (R201). -/
def tileK (elem : Nat) : Nat := if elem = 1 then 32 else if elem = 4 then 128 else 64

/-- Where the bytes of the tile-order image lie in the slot (R238): runs of (slot byte, length) in image order, the zero fill and the tag
area left out. -/
def tileRuns (elem aBytes bBytes : Nat) : List (Nat × Nat) :=
  let part := fun base bytes =>
    let n := elemsOf elem bytes
    let k := tileK elem
    (List.range (ceilDiv n k)).flatMap fun g =>
      let lo := vecBytes elem (g * k)
      let hi := vecBytes elem (Nat.min ((g + 1) * k) n)
      (List.range 16).map fun t => (base + t * bytes + lo, hi - lo)
  part 0 aBytes ++ part (16 * aBytes) bBytes

/-- The tile-order image of a slot (R238). -/
def tileImage (elem aBytes bBytes : Nat) (slot : Bytes) : Bytes :=
  let body := (tileRuns elem aBytes bBytes).flatMap fun r => sliceB slot r.1 r.2
  sliceB body 0 16320 ++ sliceB slot 16320 64

/-- Replace bytes of a list from an offset. -/
def spliceB (bs : Bytes) (off : Nat) (new : Bytes) : Bytes := bs.take off ++ new ++ bs.drop (off + new.length)

/-- The slot that a tile-order image comes from: the permutation of R238 undone. -/
def untile (elem aBytes bBytes : Nat) (img : Bytes) : Bytes :=
  let zero : Bytes := List.replicate 16320 0
  let r := (tileRuns elem aBytes bBytes).foldl
    (fun (acc : Bytes × Nat) r => (spliceB acc.1 r.1 (sliceB img acc.2 r.2), acc.2 + r.2)) (zero, 0)
  r.1 ++ sliceB img 16320 64

/-- Why a block or facet cannot be decoded: the DETAIL of Table 9-4 and the facet, 0xFF for the block. -/
structure CodecFail where
  detail : Nat
  facet : Nat := 0xFF
deriving DecidableEq, Repr

/-- Repeat an 8-byte pattern. -/
def repeatB : Nat → Bytes → Bytes
  | 0, _ => []
  | n + 1, p => p ++ repeatB n p

/-- Copy `n` bytes one at a time from `d` bytes before the end of the output (Table 9-3). -/
def copyBack (d : Nat) : Nat → Bytes → Bytes
  | 0, out => out
  | n + 1, out => copyBack d n (out ++ [out.getD (out.length - d) 0])

/-- One token of a facet stream (Tables 9-2, 9-3): the checks 0x53, 0x54 and 0x55 of a token, lowest first, and what it expands to. -/
def facetToken (s out : Bytes) : Except Nat (Bytes × Bytes) :=
  let b := fieldB s 0 1
  let kind := bitsOf b 6 2
  let n := 8 * (bitsOf b 0 6 + 1)
  let rest := s.drop 1
  let more := if kind = 0 then n else if kind = 1 then 0 else if kind = 2 then 8 else 1
  if 256 < out.length + n then .error 0x53
  else if rest.length < more then .error 0x54
  else if kind = 0 then .ok (rest.drop n, out ++ rest.take n)
  else if kind = 1 then .ok (rest, out ++ List.replicate n 0)
  else if kind = 2 then .ok (rest.drop 8, out ++ repeatB (n / 8) (rest.take 8))
  else
    let d := fieldB rest 0 1
    if d = 0 ∨ 31 < d ∨ out.length < 8 * d then .error 0x55
    else .ok (rest.drop 1, copyBack (8 * d) n out)

/-- Expand a facet stream (R242): at most 32 tokens. -/
def facetGo : Nat → Bytes → Bytes → Except Nat Bytes
  | 0, s, out => if out.length < 256 then .error 0x54 else if s ≠ [] then .error 0x53 else .ok out
  | fuel + 1, s, out =>
    if out.length = 256 then (if s ≠ [] then .error 0x53 else .ok out)
    else if s = [] then .error 0x54
    else
      match facetToken s out with
      | .error d => .error d
      | .ok (s', out') => facetGo fuel s' out'

/-- Expand facet `f` of a PACKED block (R240, R242), with check 0x56. -/
def facet (blk : Bytes) (f : Nat) : Except CodecFail Bytes :=
  let len := fieldB blk (4 * f) 2
  let chk := fieldB blk (4 * f + 2) 2
  let off := 64 + ((List.range f).map fun i => fieldB blk (4 * i) 2).sum
  if len = 0 then
    if chk ≠ 0 then .error { detail := 0x56, facet := f } else .ok (List.replicate 256 0)
  else
    match facetGo 32 (sliceB blk off len) [] with
    | .error d => .error { detail := d, facet := f }
    | .ok out => if (crc32c out).toNat % 2 ^ 16 = chk then .ok out else .error { detail := 0x56, facet := f }

/-- The checks of a PACKED block's table and trailer (Table 9-4: 0x51, 0x52). -/
def packedHead (blk : Bytes) (gran : Nat) : Option Nat :=
  let e := gran * 64
  let sum := ((List.range 16).map fun i => fieldB blk (4 * i) 2).sum
  if fieldB blk (e - 16) 1 ≠ 1 ∨ fieldB blk (e - 15) 1 ≠ gran ∨ fieldB blk (e - 12) 2 ≠ 4096 ∨ fieldB blk (e - 10) 2 ≠ 0 ∨
     fieldB blk (e - 4) 4 ≠ 0 ∨ fieldB blk (e - 8) 4 ≠ (crc32c (sliceB blk 0 64)).toNat then some 0x51
  else if fieldB blk (e - 14) 2 ≠ sum ∨ gran ≠ ceilDiv (64 + sum + 16) 64 then some 0x52
  else none

/-- Expand facets in order. -/
def facets (blk : Bytes) : List Nat → Except CodecFail Bytes
  | [] => .ok []
  | f :: rest =>
    match facet blk f with
    | .error e => .error e
    | .ok a => match facets blk rest with
      | .error e => .error e
      | .ok b => .ok (a ++ b)

/-- Expand a stored block (R239, R251): its 4,096 tile-order bytes, or the check that fails. -/
def blockExpand (len : Nat) (place : Bytes) : Except CodecFail Bytes :=
  if len = 0 ∨ 64 < len then .error { detail := 0x50 }
  else if len = 1 then
    if (place.take 64).all (· == 0) then .ok (List.replicate 4096 0) else .error { detail := 0x57 }
  else if len = 64 then .ok (sliceB place 0 4096)
  else
    match packedHead place len with
    | some d => .error { detail := d }
    | none => facets place (List.range 16)

/-- A PACKED block from its sixteen facets and their streams (R240). -/
def packBlock (img : Bytes) (streams : List Bytes) : Bytes :=
  let fs := List.range 16
  let str := fun f => let b := sliceB img (256 * f) 256
                      if b.all (· == 0) then [] else streams.getD f []
  let tab := fs.flatMap fun f =>
    let s := str f
    leBytes 2 s.length ++ leBytes 2 (if s = [] then 0 else (crc32c (sliceB img (256 * f) 256)).toNat % 2 ^ 16)
  let body := fs.flatMap str
  let gran := ceilDiv (64 + body.length + 16) 64
  let e := gran * 64
  sliceB (tab ++ body) 0 (e - 16) ++ leBytes 1 1 ++ leBytes 1 gran ++ leBytes 2 body.length ++ leBytes 2 4096 ++ leBytes 2 0 ++
    leBytes 4 (crc32c tab).toNat ++ leBytes 4 0

/-- How a packer stored a block: its form's BLOCK_LEN, the stored bytes, and whether the verify of R245 failed. -/
structure Packed where
  len : Nat
  bytes : Bytes
  fallback : Bool := false
deriving DecidableEq, Repr

/-- The packer's choice for one block (R245, `0x2500:03`). -/
def choosePack (mode : Nat) (img : Bytes) : Packed :=
  if img.all (· == 0) then { len := 1, bytes := List.replicate 64 0 }
  else if mode = 0 then { len := 64, bytes := img }
  else
    let b := packBlock img (Config.packStreams mode img)
    let gran := b.length / 64
    if 63 < gran then { len := 64, bytes := img }
    else
      match blockExpand gran b with
      | .ok out => if out = img then { len := gran, bytes := b } else { len := 64, bytes := img, fallback := true }
      | .error _ => { len := 64, bytes := img, fallback := true }

end Sys2Proof.Machine
end

