-- ==== Sys2Proof/Machine/Hold.lean ====
section
/-!
DEFINITION. Requests that stop and are placed again: weight holds and the refetch of tiles (R305 to R308), state losses and their re-runs
(R449 to R451), and units that go under test (R443, R445).
-/

namespace Sys2Proof.Machine

/-! ### Routes and internal frames -/

/-- The port that the current map names for a node (ROUTE of Table 15-6). -/
def Node.route (n : Node) (node : Nat) : Option Nat :=
  match n.comp.current with
  | none => none
  | some m => let p := fieldB m.raw (144 + node) 1
              if node < 1024 ∧ p < 48 then some p else none

/-- Queue a frame's message for a node (R343): its type, queue, the slice whose key it takes (R354) and its bytes; nothing is sent where no port is
named. -/
def Node.sendNode (n : Node) (now ftype queue node slice : Nat) (bytes : Bytes) : Node :=
  match n.route node with
  | none => n
  | some p => n.enqueue p queue { ftype := ftype, dst := node, bytes := bytes, queuedAt := now, slice := slice }

/-! ### Placing again -/

/-- Stop a request's work and release what it booked, keeping the request admitted (R88, R305, R449). -/
def Node.suspend (n : Node) (key : Nat) (f : Admitted → Admitted) : Node :=
  match n.admitted? key with
  | none => n
  | some q =>
    if 2 ≤ q.phase then n else
    (n.stopItems q).setAdmitted key fun q =>
      f { q with items := [], red := {}, staging := [], phase := 0, body := if q.req.op = opSeqOpen then q.body else [],
                 send := { q.send with winStart := 0, bytes := 0, cells := 0, hostTicks := [] } }

/-- Place an admitted request again with S = now (R307, R450); none where it does not fit. -/
def Node.replace (n : Node) (now key : Nat) : Option Node :=
  match n.admitted? key with
  | none => none
  | some q =>
    let all := n.adm.admitted
    let n0 := { n with adm := { n.adm with admitted := all.filter fun a => a.req.key != key } }
    let ps := if q.req.isAtt || q.req.isBackward 0 then n0.attPages q else []
    let q0 := { q with held := false, stateLost := false, heldBy := none, items := [], lateSent := q.lateSent }
    ((n0.bookReads q.slice now q.deadline key ps).bind fun n1 =>
      n1.bookWeights q.slice q.home now q.deadline q.needs 0).bind fun e =>
        match e.2.place now (e.2.workOf now q0 e.1) q0 with
        | .fail _ _ _ => none
        | .ok q' =>
          let n2 := e.2.takePages (ps.map (·.1))
          some { n2 with adm := { n2.adm with admitted := all.map fun a => if a.req.key = key then q' else a,
                                              orderNext := n2.adm.orderNext + q'.items.length } }

/-! ### Units under test (R443, R445) -/

/-- LEVEL of an error of a unit kind (Table 17-2). -/
def UnitKind.level : UnitKind → Nat
  | .thread => 1 | .cell => 2 | .block => 3 | .channel => 3 | .region => 4 | .port => 4 | .chip => 4

/-- An error of a unit: entered in the log, a periodic slice on it stops (R481), and the unit goes out of service until its targeted test has a result; a second error joins the
test under way. -/
def Node.unitError (n : Node) (now : Nat) (kind : UnitKind) (num : Nat) (req : Nat × Nat) : Node :=
  let n := n.logError { tick := now, level := kind.level, kind := kind, unit := num, session := req.1, requestId := req.2 }
  let n := n.stopSlices now fun x => x.covers kind num
  match n.unitState? kind num with
  | some _ => n
  | none => { n with rcv := { n.rcv with units := Map.put n.rcv.units (unitKey kind num) { since := now } } }

/-- No request is affected. -/
abbrev noRequest : Nat × Nat := (0xFFFF, 0xFFFFFFFF)

/-! ### State losses (R449 to R451) -/

/-- The state of a request is lost with a unit: its items stop, its partials are discarded, and it waits for the unit's test. -/
def Node.stateLoss (n : Node) (key : Nat) (kind : UnitKind) (num : Nat) : Node :=
  match n.admitted? key with
  | none => n
  | some q =>
    if 2 ≤ q.phase then n
    else (n.bump Reg.stateLosses).suspend key fun q => { q with stateLost := true, heldBy := some (unitKey kind num) }

/-- The notice and the final STATE_LOST, after a token write that still has to be made (R450, R451). -/
def Node.stateLostEnd (n : Node) (now key : Nat) : Node :=
  match n.admitted? key with
  | none => n
  | some q =>
    let n := if q.writeReady then n.writeTokens now q else n
    n.endWithNotice now key stStateLost 5

/-- The test of a unit has a result: the requests that wait for it are placed again, or end (R450). -/
def Node.rerun (n : Node) (now unit : Nat) : Node :=
  n.foldl ((n.unfinished.filter fun q => q.stateLost && q.heldBy == some unit).map fun q => q.req.key) fun n key =>
    match n.replace now key with
    | some n' => n'.bump Reg.reruns
    | none => n.stateLostEnd now key

/-- D − DEADLINE_MARGIN has come for a request (R308, R450). -/
def Node.marginPassed (n : Node) (now : Nat) (q : Admitted) : Bool := decide (q.deadline ≤ now + n.reg Reg.deadlineMargin)

/-- STATE_LOST_MARGIN (R450). -/
def execStateLostMargin (q : ReqRef) (s : State) : Host.Outcome State Fault Refusal :=
  let n := s.node
  match n.admitted? q.key with
  | none => s.on n
  | some a => s.on (if a.stateLost && decide (a.phase < 2) && n.marginPassed s.clock.tick a then n.stateLostEnd s.clock.tick q.key else n)

/-! ### Weight faults (R305 to R308) -/

/-- The sources of a tile in order (R306): SOURCE code of Table 11-7 and node. -/
def Weight.sources (w : Weight) (self : Nat) : List (Nat × Nat) :=
  ((w.replicas.zipIdx.filter fun e => e.1 != 0xFFFF && e.1 != self).map fun e => (e.2, e.1)) ++
  (if w.homeNode ≠ self then [(4, w.homeNode)] else [])

/-- The bytes of a TILE request and response (the manual gives no layout; DESIGN CHOICE, log entry 60): model, layer, kind, tile, digest or
tile bytes. -/
def tileMessage (w : Weight) (tile : Nat) (rest : Bytes) : Bytes :=
  leBytes 2 w.model ++ leBytes 2 w.layer ++ leBytes 1 w.kind ++ leBytes 2 tile ++ rest

/-- The descriptor becomes LOST (R308): every request still held receives the notice and WEIGHT_LOST. -/
def Node.weightLost (n : Node) (now d : Nat) : Node :=
  let w := n.weight d
  let n := (n.setWeight d { w with state := 4, source := 0xFF, poisoned := [], holdTick := 0 }).bump Reg.weightLosses
  n.endAll now stWeightLost 4 true fun q => q.held && q.needs.contains d

/-- Ask the source at place `i` for a tile, or lose the weight where no source is left (R306, R308). -/
def Node.askTile (n : Node) (now d tile i : Nat) : Node :=
  let w := n.weight d
  match (w.sources n.straps)[i]? with
  | none => n.weightLost now d
  | some (code, node) =>
    let ps := w.poisoned.map fun e => if e.1 = tile then (tile, i, now) else e
    (n.setWeight d { w with poisoned := ps, source := code }).sendNode now 4 5 node w.slice (tileMessage w tile w.digest)

/-- A weight fault (R305): the tile is poisoned, the descriptor is HELD, and the requests that need the matrix are held. -/
def Node.weightFault (n : Node) (now d tile : Nat) : Node :=
  let w := n.weight d
  if (w.state ≠ 2 ∧ w.state ≠ 3) ∨ w.poisoned.any (fun e => e.1 == tile) then n else
  let first := w.state == 2
  let n := n.setWeight d { w with state := 3, holdTick := if first then now else w.holdTick, poisoned := w.poisoned ++ [(tile, 0, now)] }
  let n := if first then n.bump Reg.weightHolds else n
  let n := n.foldl ((n.unfinished.filter fun q => q.needs.contains d && !q.held).map fun q => q.req.key) fun n key =>
    n.suspend key fun q => { q with held := true }
  n.askTile now d tile 0

/-- The last poisoned tile is back (R307): READY, and the held requests are placed again in the order of R73, or end. -/
def Node.weightReady (n : Node) (now d : Nat) : Node :=
  let w := n.weight d
  let n := n.setWeight d { w with state := 2, source := 0xFF, holdTick := 0, poisoned := [] }
  let mine := n.unfinished.filter fun q => q.held && !q.stateLost && q.needs.contains d &&
    q.needs.all fun e => (n.weight e).state == 2
  let order := sortBy (fun (a b : Admitted) => decide (n.bucket b.req < n.bucket a.req) ||
    (n.bucket b.req == n.bucket a.req && decide (a.arrival < b.arrival))) mine
  n.foldl (order.map fun q => q.req.key) fun n key =>
    match n.replace now key with
    | some n' => n'
    | none => n.endWithNotice now key stWeightLost 4

/-- REFETCH_TIMEOUT (R306): the source is passed over. -/
def execRefetchTimeout (desc tile : BitVec 16) (s : State) : Host.Outcome State Fault Refusal :=
  let n := s.node
  match (n.weight desc.toNat).poisoned.find? fun e => e.1 == tile.toNat with
  | none => s.on n
  | some (t, i, asked) =>
    s.on (if (n.weight desc.toNat).state = 3 ∧ asked + n.reg Reg.refetchTimeout ≤ s.clock.tick
          then n.askTile s.clock.tick desc.toNat t (i + 1) else n)

/-- WEIGHT_HOLD_EXPIRY (R308): the descriptor becomes LOST. -/
def execWeightHoldExpiry (desc : BitVec 16) (s : State) : Host.Outcome State Fault Refusal :=
  let n := s.node
  let w := n.weight desc.toNat
  s.on (if w.state = 3 ∧ w.holdTick + n.reg Reg.weightHold ≤ s.clock.tick then n.weightLost s.clock.tick desc.toNat else n)

/-- HELD_DEADLINE_MARGIN (R308): a held request's D − DEADLINE_MARGIN has come. -/
def execHeldDeadlineMargin (q : ReqRef) (s : State) : Host.Outcome State Fault Refusal :=
  let n := s.node
  match n.admitted? q.key with
  | none => s.on n
  | some a =>
    s.on (if a.held && decide (a.phase < 2) && n.marginPassed s.clock.tick a
          then n.endWithNotice s.clock.tick q.key stWeightLost 4 else n)

/-! ### Tiles between nodes (R306) -/

/-- Data bytes of a tile of a weight. -/
def Weight.tileBytes (w : Weight) (tile : Nat) : Nat := Nat.min 16384 (w.bytes - tile * 16384)

/-- The mark of a near-bank command that writes a refetched tile back. -/
def weightIssuer (d tile : Nat) : Nat := 2 ^ 52 + d * 2 ^ 20 + tile

/-- Put a command into the queue of its channel (R263). -/
def Node.pushCommand (n : Node) (stack channel : Nat) (c : NbCommand) : Node :=
  let k := stack * 32 + channel
  let q := Map.get [] n.stk.queues k
  { n with stk := { n.stk with queues := Map.set [] n.stk.queues k (q ++ [{ c with id := n.stk.cmdNext }]), cmdNext := n.stk.cmdNext + 1 } }

/-- A tile of a source arrives: it passes its tile digest and is written back by near-bank COPY, or its source is passed over (R306). -/
def Node.tileArrives (n : Node) (now d tile : Nat) (bytes : Bytes) : Node :=
  let w := n.weight d
  match w.poisoned.find? fun e => e.1 == tile with
  | none => n
  | some (_, i, _) =>
    if w.state ≠ 3 then n
    else if sha3_512 bytes ≠ w.tileDigests.getD tile [] ∨ bytes.length ≠ w.tileBytes tile then n.askTile now d tile (i + 1)
    else
      let g := w.slots.getD tile 0
      let lines := (List.range 256).map fun l => BitVec.ofNat 512 (leNat (sliceB bytes (64 * l) 64))
      let args : NbArgs := { stack := Fin.ofNat 16 (g / 2 ^ 22), sfmt := 0, dfmt := 0, arg := 0, dst := BitVec.ofNat 32 (g % 2 ^ 22 * 256),
                             src := 0xFFFFFFFF, lines := 256, scalar := 0, owner := BitVec.ofNat 32 d,
                             tag := BitVec.ofNat 32 (n.tagOf false kindWeight w.slice), model := 0, fenceId := 0, stream := lines }
      n.pushCommand (g / 2 ^ 22) (g % 32) { op := 3, args := args, workClass := true, issuer := weightIssuer d tile }

/-- TILE_RESPONSE (R306). -/
def execTileResponse (desc tile : BitVec 16) (bytes : Bytes) (s : State) : Host.Outcome State Fault Refusal :=
  s.on (s.node.tileArrives s.clock.tick desc.toNat tile.toNat bytes)

/-- Answer a peer's request for a tile where the descriptor is READY and its DIGEST is equal (R306). -/
def Node.serveTile (n : Node) (now src model layer kind tile : Nat) (digest : Bytes) : Node :=
  match n.tiers.weights.find? fun e => e.2.model == model && e.2.layer == layer && e.2.kind == kind && e.2.state == 2 && e.2.digest == digest with
  | none => n
  | some (_, w) =>
    if w.slotCount ≤ tile ∨ w.res ≠ 1 then n
    else n.sendNode now 4 5 src w.slice (tileMessage w tile (n.slotBytes (w.slots.getD tile 0) 0 (w.tileBytes tile)))

/-- TILE_REQUEST_SERVE (R306). -/
def execTileRequestServe (src model layer : BitVec 16) (kind : BitVec 8) (tile : BitVec 16) (digest : Bytes) (s : State) :
    Host.Outcome State Fault Refusal :=
  s.on (s.node.serveTile s.clock.tick src.toNat model.toNat layer.toNat kind.toNat tile.toNat digest)

end Sys2Proof.Machine
end

