-- ==== Sys2Proof/Machine/LineFault.lean ====
section
/-!
DEFINITION. What an error of a stack line does (R259 to R262, R443, R452): counters, LAST_ERROR, the line rewritten as poisoned, and the
outcome for the page, weight, index or gradient page that owns it; and codec faults (R252).
-/

namespace Sys2Proof.Machine

/-- Bank, row and column of a stack line address (Table 10-3). -/
def lineBank (a : Nat) : Nat := a % 16
def lineRow (a : Nat) : Nat := a / 256 / 64
def lineColumn (a : Nat) : Nat := a / 256 / 32 % 2 * 16 + a % 256 / 16
/-- Channel of a line key, over the node: stack × 32 + channel. -/
def lineChannel (k : Nat) : Nat := k / 2 ^ 30 * 32 + k / 256 % 32

/-- LAST_ERROR (R280): kind 1 corrected, 2 uncorrectable, 3 misdirected, 4 domain. -/
def Node.setLastError (n : Node) (now k kind : Nat) : Node :=
  let a := k % 2 ^ 30
  n.setReg Reg.lastError (leNat (leBytes 1 (k / 2 ^ 30) ++ leBytes 1 (a / 256 % 32) ++ leBytes 1 (lineBank a) ++ leBytes 1 kind ++
    leBytes 2 (lineRow a) ++ leBytes 1 (lineColumn a) ++ leBytes 1 0xFF ++ leBytes 5 (now - 1) ++ leBytes 3 0))

/-- A corrected line (R259). -/
def Node.lineCorrected (n : Node) (now k : Nat) : Node :=
  let n := (n.bump Reg.ceCount).setLastError now k 1
  let st := k / 2 ^ 30
  { n with stk := { n.stk with ce := Map.set 0 n.stk.ce st (Map.get 0 n.stk.ce st + 1) } }

/-- What owns a tier-1 slot. -/
inductive SlotOwner where
  | page (p : Nat)
  | weight (d tile : Nat)
  | index (i : Nat)
  | replica (source page : Nat)
  | grad (g : Nat)
  | nothing
deriving DecidableEq, Repr

/-- The owner of a tier-1 slot. -/
def Node.slotOwner (n : Node) (g : Nat) : SlotOwner :=
  match n.seqs.pages.find? fun e => e.2.t1 == some g with
  | some (p, _) => .page p
  | none =>
    match n.tiers.weights.find? fun e => e.2.slots.contains g with
    | some (d, w) => .weight d (w.slots.findIdx (· == g))
    | none =>
      match n.grads.find? fun e => decide (e.2.slot ≤ g) && decide (g < e.2.slot + e.2.count) with
      | some (k, _) => .grad k
      | none =>
        match n.indexes.find? fun e => e.2.slots.contains g || e.2.lists.any (fun l => l.slots.contains g) with
        | some (i, _) => .index i
        | none =>
          match n.rcv.replicas.find? fun r => r.slot == g with
          | some r => .replica r.source r.page
          | none => .nothing

/-- A page is POISONED, with the requests that read it and the restoration that starts (R103, R124, R453). -/
def Node.pageFault (n : Node) (now p : Nat) (spare : Nat → Bool) : Node :=
  let d := n.page p
  if d.state = .poisoned ∨ d.state = .free ∨ d.state = .released then n else
  let n := n.endAll now stPoison 0 false fun q => !spare q.req.key &&
    q.items.any fun i => (i.state == 1 || i.state == 2) && i.view.any fun v => v.page == p
  let n := n.poisonPage p
  let partners := match n.comp.current with
    | some m => [m.weltA, m.weltB].filter (· != 0xFFFF)
    | none => []
  let n := { n with rcv := { n.rcv with restores := n.rcv.restores ++ [(p, now + n.reg Reg.pageRestoreTicks)] } }
  match partners with
  | w :: _ => n.sendNode now 6 3 w d.slice (leBytes 1 1 ++ leBytes 4 p)
  | [] => n

/-- A gradient page is POISONED: the requests that name it end with POISON (R234). -/
def Node.gradFault (n : Node) (now g : Nat) : Node :=
  match Map.find n.grads g with
  | none => n
  | some r =>
    let n := { n with grads := Map.put n.grads g { r with state := 3 } }
    n.endAll now stPoison 0 false fun q => (q.req.isBackward 0 && (n.gradsNamed q).contains g) ||
      (q.req.isBackward 1 && q.names r.seq && q.tracks.contains r.track && q.items.any fun i => i.pages.contains r.index)

/-- The records of a run that a line of its `j`-th slot overlaps become poisoned. -/
def poisonRecs (vrec j line : Nat) (recs : List VRec) : List VRec :=
  let lo := (j * 16384 + line * 64) / vrec
  let hi := (j * 16384 + line * 64 + 63) / vrec
  recs.zipIdx.map fun e => if lo ≤ e.2 ∧ e.2 ≤ hi then { e.1 with poisoned := true } else e.1

/-- A line of an index slot is lost (Table 12-8): the records in it, or the centroid table, which lies behind the side list (DESIGN CHOICE, log
entry 63). -/
def VIndex.lineBad (d : VIndex) (g line : Nat) : VIndex :=
  let lists := d.lists.map fun l =>
    if l.slots.contains g then { l with recs := poisonRecs d.vrec (l.slots.findIdx (· == g)) line l.recs } else l
  let j := d.slots.findIdx (· == g)
  if !d.slots.contains g then { d with lists := lists }
  else if j * 16384 + line * 64 < d.sideMax * d.vrec then { d with lists := lists, side := poisonRecs d.vrec j line d.side }
  else { d with lists := lists, centroidBad := true }

/-- A replica held here is dropped, and its source is asked to resend it (Table 17-3; the message's layout is log entry 78). -/
def Node.dropReplica (n : Node) (now source page : Nat) : Node :=
  match n.rcv.replicas.find? fun r => r.source == source && r.page == page with
  | none => n
  | some r =>
    let n := (n.dropSlot r.slot).freeLines r.slot
    let n := { n with rcv := { n.rcv with replicas := n.rcv.replicas.filter fun x => !(x.source == source && x.page == page) } }
    n.sendNode now 5 4 source r.slice (leBytes 1 6 ++ leBytes 4 page)

/-- The outcome of an uncorrectable line for what owns it (Table 17-3). -/
def Node.ownerFault (n : Node) (now k : Nat) : Node :=
  match n.slotOwner (k / 256) with
  | .page p => n.pageFault now p fun _ => false
  | .weight d t => n.weightFault now d t
  | .grad g => n.gradFault now g
  | .index i => n.setIndex i ((n.vindex i).lineBad (k / 256) (k % 256))
  | .replica s p => n.dropReplica now s p
  | .nothing => n

/-- An uncorrectable or misdirected line (R260, R261): rewritten with POISON set, counted, its channel under test, its owner handled. -/
def Node.lineUncorrectable (n : Node) (now k kind : Nat) (req : Nat × Nat) : Node :=
  let n := (n.bump (if kind = 3 then Reg.misdirected else Reg.ueCount)).setLastError now k kind
  let st := k / 2 ^ 30
  let n := { n with stk := { n.stk with ue := Map.set 0 n.stk.ue st (Map.get 0 n.stk.ue st + 1) } }
  ((n.poisonLine k).unitError now .channel (lineChannel k) req).ownerFault now k

/-- A domain fault (R262): counted; the line is not rewritten. -/
def Node.domainFault (n : Node) (now k : Nat) : Node := (n.bump Reg.domainFaults).setLastError now k 4

/-- A codec fault on a block of a page (R252): its lines are poisoned, the page is POISONED, the requests that found it end with CODEC_FAULT
and the other readers with POISON. -/
def Node.codecFault (n : Node) (now p block facet detail : Nat) (keys : List Nat) : Node :=
  let d := n.page p
  let len := d.blockLen.getD block 0
  let g := d.t1.getD 0
  let n := n.foldl ((List.range (Nat.min len 64)).map fun i => g * 256 + block * 64 + i) fun n k => n.poisonLine k
  let n := n.setReg Reg.lastFault (leNat (leBytes 4 p ++ leBytes 1 block ++ leBytes 1 facet ++ leBytes 1 detail ++ [0] ++
    leBytes 5 (now - 1) ++ leBytes 3 0))
  let n := n.bump Reg.codecFaults
  let n := n.foldl keys fun n k => n.endRequest now k stCodecFault detail
  n.pageFault now p fun _ => false

end Sys2Proof.Machine
end

