-- ==== Sys2Proof/Machine/Attend.lean ====
section
/-!
DEFINITION. The arithmetic of attention (chapter 6) and of its backward pass (chapter 8): what an item computes from its view, and what phase 2
makes of the partials. An accumulation whose order the manual leaves open is `fp32Dot` of Float.lean.
-/

namespace Sys2Proof.Machine

/-! ### Reading pages and weights -/

/-- The stored blocks of a page are compressed. -/
def Page.packed (d : Page) : Bool := d.blockLen.any (· != 0)

/-- Expand blocks in order; the block that fails is named. -/
def Node.expandBlocks (n : Node) (g : Nat) (d : Page) : List Nat → Except (Nat × CodecFail) Bytes
  | [] => .ok []
  | b :: rest =>
    match blockExpand (d.blockLen.getD b 0) (n.slotBytes g (b * 4096) 4096) with
    | .error e => .error (b, e)
    | .ok x => match n.expandBlocks g d rest with
      | .error e => .error e
      | .ok y => .ok (x ++ y)

/-- The slot image of a page in tier 1 (Table 6-4): its raw slot, or its blocks expanded and laid out again (R238, R251). -/
def Node.pageImage (n : Node) (p elem a b : Nat) : Except (Nat × CodecFail) Bytes :=
  let d := n.page p
  let g := d.t1.getD 0
  if d.packed then
    match n.expandBlocks g d [0, 1, 2, 3] with
    | .error e => .error e
    | .ok img => .ok (untile elem a b img)
  else .ok (n.slotBytes g 0 16384)

/-- Bytes of a weight copy (R165). -/
def Node.weightData (n : Node) (w : Weight) (off len : Nat) : Bytes :=
  let t0 := off / 16384
  let t1 := (off + len - 1) / 16384
  if len = 0 then []
  else if t0 = t1 then n.slotBytes (w.slots.getD t0 0) (off % 16384) len
  else
    let a := 16384 - off % 16384
    n.slotBytes (w.slots.getD t0 0) (off % 16384) a ++ n.slotBytes (w.slots.getD t1 0) 0 (len - a)

/-- Vector `i` of a weight matrix, of `count` elements (R165). -/
def Node.weightVec (n : Node) (w : Weight) (count i : Nat) : List FVal :=
  let b := vecBytes w.wformat count
  vecElems w.wformat (n.weightData w (i * b) b) count

/-! ### Keys -/

/-- One key of a track as an item sees it: its position, its tag word, the decoded parts A and B of its token record, its page index and
place in the page (a payload token has none). -/
structure KeyTok where
  pos : Nat
  tag : Nat
  a : List FVal
  b : List FVal
  index : Nat := 0
  place : Nat := 0
  stored : Bool := true
deriving DecidableEq, Repr

/-- Elements of part A and part B of a model's token record. -/
def Model.aElems (m : Model) : Nat := if m.latent then m.dLat else m.groupKv * m.dQk
def Model.bElems (m : Model) : Nat := if m.latent then m.dRope else m.groupKv * m.dV

/-- A key from its token record. -/
def Model.keyOf (m : Model) (pos tag : Nat) (rc : Bytes) : KeyTok :=
  let e := elemOf m.format
  { pos := pos, tag := tag, a := vecElems e (rc.take m.aBytes) m.aElems, b := vecElems e (rc.drop m.aBytes) m.bElems }

/-- The keys of a page image: its first `count` tokens. -/
def Model.pageKeys (m : Model) (span index count : Nat) (img : Bytes) : List KeyTok :=
  (List.range count).map fun t =>
    let rc := sliceB img (t * m.aBytes) m.aBytes ++ sliceB img (16 * m.aBytes + t * m.bBytes) m.bBytes
    { m.keyOf (span + 16 * index + t) (fieldB img (16320 + 4 * t) 2) rc with index := index, place := t }

/-- The keys of a list of view pages, or the page, block and check that fails. -/
def Node.viewKeys (n : Node) (m : Model) (span : Nat) : List ViewPage → Except (Nat × Nat × CodecFail) (List KeyTok)
  | [] => .ok []
  | v :: rest =>
    match n.pageImage v.page (elemOf m.format) m.aBytes m.bBytes with
    | .error (b, e) => .error (v.page, b, e)
    | .ok img =>
      match n.viewKeys m span rest with
      | .error e => .error e
      | .ok ks => .ok (m.pageKeys span v.index v.tokens img ++ ks)

/-- The request's own tokens, taken by the last item of a track of an ATTEND_APPEND (R173). -/
def Node.payloadKeys (n : Node) (q : Admitted) (it : Item) : List KeyTok :=
  if q.req.op = opAttendAppend ∧ it.last then
    let m := n.model q.req.model
    let i := q.tracks.findIdx (· == it.track)
    (List.range q.tokens).map fun j =>
      let (tag, rc) := n.storedRecord q i j
      { m.keyOf ((n.seq (seqLocal q.req.seqId)).spanBase + q.bases.getD i 0 + j) tag rc with stored := false }
  else []

/-! ### Queries -/

/-- The query of a row and head as it was sent (Table 6-6). -/
def Node.queryRaw (n : Node) (r : Request) (row head : Nat) : List FVal :=
  let m := n.model r.model
  let d := m.dQin r.preAbsorbed
  let b := queryBytes r.queryBf16 d
  let off := 16 + (row * r.headN + (head - r.head0)) * b
  vecElems (if r.queryBf16 then 1 else 2) (sliceB r.payload off b) d

/-- Stage 2 of Table 6-9: the rotary part rotated at a position, rounded to BF16. -/
def Model.rotateQuery (m : Model) (pos : Int) (v : List FVal) : List FVal :=
  if m.posMode ≠ 2 then v
  else
    let off := if m.latent then v.length - m.dRope else 0
    (rotate m.pairing m.ropeBase m.dRope pos off (v.map FVal.toF32)).map fun x => f32Val (f32ToBf16 x)

/-- Stages 1 to 3: the query that enters the dot product. -/
def Node.query (n : Node) (r : Request) (row head pos : Nat) : List FVal :=
  let m := n.model r.model
  let v := m.rotateQuery (pos : Int) (n.queryRaw r row head)
  if m.latent && !r.preAbsorbed then
    let w := n.weight (m.descIndex r.lay 1)
    let nope := v.take m.dQk
    ((List.range m.dLat).map fun c => f32Val (f32ToBf16 (fp32Dot 0 nope (n.weightVec w m.dQk (head * m.dLat + c))))) ++ v.drop m.dQk
  else v

/-- The vector a query meets in stage 4, and the value, of a head (R166). -/
def Model.keyVec (m : Model) (k : KeyTok) (head : Nat) : List FVal :=
  if m.latent then k.a ++ k.b else (k.a.drop ((m.kvOf head % m.groupKv) * m.dQk)).take m.dQk
def Model.valueVec (m : Model) (k : KeyTok) (head : Nat) : List FVal :=
  if m.latent then k.a else (k.b.drop ((m.kvOf head % m.groupKv) * m.dV)).take m.dV

/-- A score after stage 6 and after stage 8 of Table 6-9. -/
def Model.score (m : Model) (q : List FVal) (k : KeyTok) (head pq : Nat) : Nat × Nat :=
  let x := f32Mul (fp32Dot 0 q (m.keyVec k head)) m.scale
  let x := if f32Lt 0 m.softcap then f32Mul m.softcap (Config.tanh (f32Div x m.softcap) % 2 ^ 32) else x
  let y := if m.posMode = 3 then
      let dist := if pq < k.pos then k.pos - pq else pq - k.pos
      f32Sub x (f32Mul (Config.slope m.slopeExp head m.qHeads % 2 ^ 32) (f32OfNat dist))
    else x
  (x, f32Mul y 0x3FB8AA3B)

/-- The key is visible to a row at position `pq` (R172). -/
def visible (r : Request) (pq : Nat) (k : KeyTok) : Bool := passes r pq k.pos && tagPasses r k.tag

/-- A finite FP32 number. -/
def f32Finite (b : Nat) : Bool := !(f32Val b).nonFinite

/-! ### The forward item (R174 to R176) -/

/-- The FP32 sum of FP32 values onto a first one, in an open order. -/
def fp32Total (first : Nat) (l : List Nat) : Nat := fp32Dot first (l.map f32Val) (l.map fun _ => FVal.fin false 1 0)

/-- m, l and o of an entry. -/
abbrev Entry3 := Nat × Nat × List Nat

/-- Cut a list into tiles of 32 keys. -/
def tilesOf {α : Type} : Nat → List α → List (List α)
  | 0, _ => []
  | fuel + 1, l => if l.isEmpty then [] else l.take 32 :: tilesOf fuel (l.drop 32)

/-- One tile of keys with their scores and visibility (R174). -/
def tileStep (dAcc : Nat) (e : Entry3) (tile : List (Nat × List FVal)) : Entry3 :=
  let (m, l, o) := e
  let t := tile.foldl (fun a x => f32Max a x.1) m
  if t = f32NegInf then e
  else
    let c := f32Exp2 (f32Sub m t)
    let ps := tile.map fun x => f32Exp2 (f32Sub x.1 t)
    let pb := ps.map fun p => f32Val (f32ToBf16 p)
    (t, fp32Total (f32Mul l c) ps,
     (List.range dAcc).map fun i => fp32Dot (f32Mul (o.getD i 0) c) pb (tile.map fun x => x.2.getD i (.fin false 0 0)))

/-- The partial of a row and head over an item's keys, and how many are visible (R174 to R176). -/
def Node.entryOf (n : Node) (r : Request) (keys : List KeyTok) (row head pq : Nat) : Partial × Nat :=
  let m := n.model r.model
  let raw := n.queryRaw r row head
  let q := n.query r row head pq
  let vis := keys.filter (visible r pq)
  let nan : Partial := { row := row, head := head, m := qnan, l := qnan, o := List.replicate m.dAcc qnan }
  if raw.any FVal.nonFinite || q.any FVal.nonFinite ||
     vis.any (fun k => (m.keyVec k head).any FVal.nonFinite || (m.valueVec k head).any FVal.nonFinite) then (nan, vis.length)
  else
    let scored := keys.map fun k => if visible r pq k then some ((m.score q k head pq).2, m.valueVec k head) else none
    if scored.any fun x => match x with | some (s, _) => !f32Finite s | none => false then (nan, vis.length)
    else
      let e := (tilesOf (keys.length + 1) scored).foldl (fun e t => tileStep m.dAcc e (t.filterMap id))
        ((f32NegInf, 0, List.replicate m.dAcc 0) : Entry3)
      ({ row := row, head := head, m := e.1, l := e.2.1, o := e.2.2 }, vis.length)

/-- The row-heads of an item, row by row. -/
def Item.rowHeads (it : Item) (r : Request) : List (Nat × Nat) :=
  (List.range r.rows).flatMap fun row => (List.range it.heads).map fun h => (row, it.head0 + h)

/-- The partials of an item over its keys, and the keys scored. -/
def Node.itemPartials (n : Node) (r : Request) (it : Item) (keys : List KeyTok) : List Partial × Nat :=
  (it.rowHeads r).foldl (fun acc e =>
    let (p, c) := n.entryOf r keys e.1 e.2 (it.pos + e.1)
    (acc.1 ++ [p], acc.2 + c)) ([], 0)

/-! ### Phase 2 (R180, R182) -/

/-- Combine a partial into an entry. -/
def mergeStep (e : Entry3) (p : Partial) : Entry3 :=
  let (M, L, O) := e
  if M = qnan ∨ p.m = qnan then (qnan, qnan, O.map fun _ => qnan)
  else
    let t := f32Max M p.m
    if t = f32NegInf then e
    else
      let a := f32Exp2 (f32Sub M t)
      let b := f32Exp2 (f32Sub p.m t)
      (t, f32Add (f32Mul L a) (f32Mul p.l b), (O.zip p.o).map fun x => f32Add (f32Mul x.1 a) (f32Mul x.2 b))

/-- The partials of a row and head, in item order. -/
def Admitted.partialsOf (q : Admitted) (row head : Nat) : List Partial :=
  q.items.flatMap fun it => it.partials.filter fun p => p.row == row && p.head == head

/-- The output projection (R167). -/
def Node.project (n : Node) (r : Request) (head : Nat) (o : List Nat) : List Nat :=
  let m := n.model r.model
  let w := n.weight (m.descIndex r.lay 2)
  let b := o.map fun x => f32Val (f32ToBf16 x)
  (List.range m.dV).map fun v => fp32Dot 0 b (n.weightVec w m.dLat (head * m.dV + v))

/-- The entry of a row and head (Table 6-11). -/
def Node.finalEntry (n : Node) (q : Admitted) (row head : Nat) : Entry3 :=
  let m := n.model q.req.model
  let e := (q.partialsOf row head).foldl mergeStep ((f32NegInf, 0, List.replicate m.dAcc 0) : Entry3)
  if e.1 = qnan then (qnan, qnan, List.replicate (m.dOut q.req.noProj) qnan)
  else if m.latent && !q.req.noProj then (e.1, e.2.1, n.project q.req head e.2.2)
  else e

/-- Elements of a body in BF16 or FP32. -/
def outElems (fp32 : Bool) (o : List Nat) : Bytes := o.flatMap fun x => if fp32 then leBytes 4 x else leBytes 2 (bf16Of x)

/-- Bytes of an entry. -/
def entryBytes (fp32 : Bool) (e : Entry3) : Bytes := leBytes 4 e.1 ++ leBytes 4 e.2.1 ++ outElems fp32 e.2.2

/-- The row-heads of a request, row by row. -/
def rowHeads (r : Request) : List (Nat × Nat) :=
  (List.range r.rows).flatMap fun row => (List.range r.headN).map fun h => (row, r.head0 + h)

/-- The body of a partial-result record (R182), with the entries without a key and the NaN entries counted (R175, R176). -/
def Node.attBody (n : Node) (q : Admitted) : Bytes × Nat × Nat :=
  (rowHeads q.req).foldl (fun acc e =>
    let f := n.finalEntry q e.1 e.2
    (acc.1 ++ entryBytes q.req.oFp32 f, acc.2.1 + (if f.1 = f32NegInf then 1 else 0), acc.2.2 + (if f.1 = qnan then 1 else 0)))
    ([], 0, 0)

/-! ### The backward item (R222 to R225, R230) -/

/-- dO of a row-head, and its LSE and DELTA (Table 8-3). -/
def Node.gradIn (n : Node) (r : Request) (row head : Nat) : List FVal × Nat × Nat :=
  let m := n.model r.model
  let i := row * r.headN + (head - r.head0)
  let g := queryEnd r m
  let st := g + r.rows * r.headN * (2 * m.dAcc) + 8 * i
  (vecElems 1 (sliceB r.payload (g + i * (2 * m.dAcc)) (2 * m.dAcc)) m.dAcc, fieldB r.payload st 4, fieldB r.payload (st + 4) 4)

/-- A row-head meets a non-finite number (R225), over keys of its track. -/
def Node.gradBad (n : Node) (r : Request) (keys : List KeyTok) (row head pq : Nat) : Bool :=
  let m := n.model r.model
  let (dO, lse, delta) := n.gradIn r row head
  !f32Finite lse || !f32Finite delta || dO.any FVal.nonFinite || (n.queryRaw r row head).any FVal.nonFinite ||
  (keys.filter (visible r pq)).any fun k => (m.keyVec k head).any FVal.nonFinite || (m.valueVec k head).any FVal.nonFinite

/-- What a key gives a row-head (R222): P, dS. -/
def Node.gradTerm (n : Node) (r : Request) (q : List FVal) (k : KeyTok) (row head pq : Nat) : Nat × Nat :=
  let m := n.model r.model
  let (dO, lse, delta) := n.gradIn r row head
  let (x, s) := m.score q k head pq
  let p := f32Exp2 (f32Sub s lse)
  let dP := fp32Dot 0 dO (m.valueVec k head)
  let g := if f32Lt 0 m.softcap then let y := f32Div x m.softcap
                                     f32Sub 0x3F800000 (f32Mul y y)
           else 0x3F800000
  (p, f32Mul (f32Mul (f32Mul p (f32Sub dP delta)) g) m.scale)

/-- The dQ partial of a row-head over an item's keys: the visible keys stand in `m`, a 1 in `l` marks a non-finite row-head. -/
def Node.dqOf (n : Node) (r : Request) (keys : List KeyTok) (bad : Bool) (row head pq : Nat) : Partial :=
  let m := n.model r.model
  let q := n.query r row head pq
  let vis := keys.filter (visible r pq)
  let ds := vis.map fun k => f32Val (n.gradTerm r q k row head pq).2
  let dq := if bad then List.replicate (m.dQin true) qnan
    else (List.range (m.dQin true)).map fun c => fp32Dot 0 ds (vis.map fun k => (m.keyVec k head).getD c (.fin false 0 0))
  { row := row, head := head, m := vis.length, l := if bad then 1 else 0, o := dq }

/-- The gradient of one stored token from an item's good row-heads, in record element order (R222, R227): FP32 bits. -/
def Node.tokenGrad (n : Node) (r : Request) (it : Item) (good : List (Nat × Nat)) (k : KeyTok) : List Nat :=
  let m := n.model r.model
  let mine := fun (kv : Option Nat) => good.filter fun e => visible r (it.pos + e.1) k && (match kv with | none => true | some j => m.kvOf e.2 % m.groupKv == j)
  let terms := fun (es : List (Nat × Nat)) => es.map fun e => (e, n.gradTerm r (n.query r e.1 e.2 (it.pos + e.1)) k e.1 e.2 (it.pos + e.1))
  let dK := fun (ts : List ((Nat × Nat) × Nat × Nat)) (len : Nat) => (List.range len).map fun c =>
    fp32Dot 0 (ts.map fun t => f32Val t.2.2) (ts.map fun t => (n.query r t.1.1 t.1.2 (it.pos + t.1.1)).getD c (.fin false 0 0))
  let dV := fun (ts : List ((Nat × Nat) × Nat × Nat)) (len : Nat) => (List.range len).map fun c =>
    fp32Dot 0 (ts.map fun t => f32Val (f32ToBf16 t.2.1)) (ts.map fun t => (n.gradIn r t.1.1 t.1.2).1.getD c (.fin false 0 0))
  if m.latent then
    let ts := terms (mine none)
    let k' := dK ts (m.dLat + m.dRope)
    let v := dV ts m.dLat
    ((k'.take m.dLat).zip v).map (fun x => f32Add x.1 x.2) ++ k'.drop m.dLat
  else
    let heads := List.range m.groupKv
    (heads.flatMap fun j => dK (terms (mine (some j))) m.dQk) ++ heads.flatMap fun j => dV (terms (mine (some j))) m.dV

/-- Add FP32 values into a gradient page's slots from a byte offset (R230): d = d + 1.0 × s, one rounding each. -/
def Node.addGrad (n : Node) (g0 off : Nat) (vs : List Nat) (owner tag : Nat) : Node :=
  n.foldl vs.zipIdx fun n e =>
    let at_ := off + 4 * e.2
    let g := g0 + at_ / 16384
    let o := at_ % 16384
    let old := fieldB (n.slotBytes g o 4) 0 4
    n.writeSlot g o (leBytes 4 (f32Fma 0x3F800000 e.1 old)) owner tag

/-- The body of a COMPUTE reply (R236), with the non-finite row-heads counted; dQ is turned back under R223. -/
def Node.bwdBody (n : Node) (q : Admitted) : Bytes × Nat :=
  let r := q.req
  let m := n.model r.model
  let len := m.dQin true
  (rowHeads r).foldl (fun acc e =>
    let ps := q.partialsOf e.1 e.2
    let bad := ps.any fun p => p.l == 1
    let keys := (ps.map (·.m)).sum
    let sum := ps.foldl (fun a p => (a.zip p.o).map fun x => f32Add x.1 x.2) (List.replicate len 0)
    let off := if m.latent then len - m.dRope else 0
    let dq := if bad then List.replicate len qnan
      else if m.posMode = 2 then rotate m.pairing m.ropeBase m.dRope (-((qPosFirst r + e.1 : Nat) : Int)) off sum else sum
    (acc.1 ++ leBytes 4 keys ++ leBytes 4 0 ++ (if bad then dq.flatMap fun x => if r.oFp32 then leBytes 4 x else leBytes 2 0x7FC0
      else outElems r.oFp32 dq), acc.2 + if bad then 1 else 0)) ([], 0)

end Sys2Proof.Machine
end

