-- ==== Sys2Proof/Machine/Items.lean ====
section
/-!
DEFINITION. Work items on the cells (chapters 6, 7, 8, 12): their issue at a COMPUTE window, start on a thread, completion with its effects,
and phase 2.
-/

namespace Sys2Proof.Machine

/-! ### Cells and threads -/

/-- Number of a cell over the node. -/
def cellNum (r c : Nat) : Nat := r * 256 + c

end Sys2Proof.Machine

namespace Sys2Proof

open Sys2Proof.Machine

/-- Number of a thread over the node: region × 4,096 + cell × 16 + thread (Table 17-1). -/
def ThreadId.key (t : ThreadId) : Nat := t.region.val * 4096 + t.cell.val * 16 + t.thread.val

/-- Number of a thread's cell over the node. -/
def ThreadId.cellKey (t : ThreadId) : Nat := t.region.val * 256 + t.cell.val

end Sys2Proof

namespace Sys2Proof.Machine

/-- The state of a thread; a thread that runs nothing is not listed. -/
def Node.thread (n : Node) (k : Nat) : Thread := Map.get {} n.cells.threads k

/-- Write a thread's state. -/
def Node.setThread (n : Node) (k : Nat) (t : Thread) : Node :=
  { n with cells := { n.cells with threads := Map.set {} n.cells.threads k t } }

/-- Free a thread with its tile registers, which read 0 again (R186, R187). -/
def Node.freeThread (n : Node) (k : Nat) : Node :=
  let c := k / 16
  let mine := (n.thread k).tiles.map fun r => c * 16 + r
  { n with cells := { n.cells with threads := Map.erase n.cells.threads k, tiles := n.cells.tiles.filter fun e => !mine.contains e.1 } }

/-- TILES of the program an item runs (Tables 7-10, 7-11); kinds that Table 7-10 does not name take one (DESIGN CHOICE, log entry 62). -/
def Node.tilesFor (n : Node) (q : Admitted) (it : Item) : Nat :=
  match it.kind with
  | .attn => if q.req.tenantProg then fieldB (n.prog q.target).header 2 1 else 3
  | .backward | .fetch | .release => 4
  | .coarse | .scan => 2
  | _ => 1

/-- The items of a request that are the program's own (a tenant item runs a tenant program, R211). -/
def Item.program (it : Item) (q : Admitted) : Option Nat :=
  if it.kind = .attn ∧ q.req.tenantProg then some q.target else none

/-- Change an item of an admitted request. -/
def Node.setItem (n : Node) (key num : Nat) (f : Item → Item) : Node :=
  n.setAdmitted key fun q => { q with items := q.items.map fun i => if i.num = num then f i else i }

/-! ### Issue (R188, R115, R144) -/

/-- The view an item fixes at its issue boundary (R115): pages of its track with the tokens they hold; an ATTEND_APPEND leaves its own tokens
out (R115, R451); a fork copy lists the parent's partial pages by track. -/
def Node.viewOf (n : Node) (q : Admitted) (it : Item) : List ViewPage :=
  let sq := n.seq (seqLocal q.req.seqId)
  match it.kind with
  | .attn | .backward =>
    let tr := sq.track it.track
    let base := q.bases.getD (q.tracks.findIdx (· == it.track)) 0
    it.pages.map fun i =>
      let p := tr.pages.getD i 0
      let t := (n.page p).tokens
      { page := p, index := i, tokens := if q.req.op = opAttendAppend then Nat.min t (base - 16 * i) else t,
        state := (n.page p).state.code }
  | .forkCopy =>
    let pi := q.req.arg 32 4 / 16
    it.pages.map fun t =>
      let p := (sq.track t).pages.getD pi 0
      { page := p, index := t, tokens := q.req.arg 32 4 % 16, state := (n.page p).state.code }
  | _ => []

/-- Gradient records that a COMPUTE item adds into, or a FETCH reads. -/
def Node.itemGrads (n : Node) (q : Admitted) (it : Item) : List Nat :=
  if it.kind = .fetch ∨ (it.kind = .backward ∧ !q.req.noDkv) then
    (it.pages.map fun i => gradKey (seqLocal q.req.seqId) it.track i).filter fun g => (Map.find n.grads g).isSome
  else []

/-- The body of a FETCH (R229), and how many of its pages are PARTIAL (R233). -/
def Node.fetchBody (n : Node) (q : Admitted) (it : Item) : Bytes × Nat :=
  let k := seqLocal q.req.seqId
  let len := 64 * (n.seq k).recElems
  it.pages.foldl (fun acc i =>
    match Map.find n.grads (gradKey k it.track i) with
    | none => (acc.1 ++ List.replicate len 0, acc.2)
    | some g =>
      let all := (List.range g.count).flatMap fun j => n.slotBytes (g.slot + j) 0 16384
      (acc.1 ++ all.take len, acc.2 + if g.isPartial then 1 else 0)) ([], 0)

/-- Issue one item: its view is fixed and pinned and it queues on its cell; a poisoned or quarantined page ends its request (R124, R234). -/
def Node.issueItem (n : Node) (now key num : Nat) : Node :=
  match n.admitted? key with
  | none => n
  | some q =>
    match q.items.find? fun i => i.num == num with
    | none => n
    | some it =>
      let view := n.viewOf q it
      if view.any (fun v => (n.page v.page).state == .poisoned || (n.page v.page).state == .quarantined) ||
         (n.itemGrads q it).any (fun g => match Map.find n.grads g with | some r => r.state == 3 | none => false)
      then n.endRequest now key stPoison 0
      else
        let n := n.foldl view fun n v => n.setPage v.page { n.page v.page with pin := (n.page v.page).pin + 1, lastUse := now }
        let n := n.setItem key num fun i => { i with state := 1, view := view }
        let n := if it.kind = .fetch then
            let (b, c) := n.fetchBody q it
            n.setAdmitted key fun q => { q with body := b, tokenBase := c } else n
        let c := cellNum it.region it.cell
        let e := (q.req.sess, q.req.hdr.requestId.toNat, num)
        let n := { n with cells := { n.cells with queues := Map.set [] n.cells.queues c (Map.get [] n.cells.queues c ++ [e]) } }
        n.bump (regionKey it.region Reg.itemsIssued)

/-- A COMPUTE window of a region opens: every item booked in it is issued, in booking order (R188). -/
def Node.computeOpen (n : Node) (now r : Nat) : Node :=
  if !n.inRounds || (n.windowOpens now 2 r).isNone then n
  else
    let due := n.unfinished.flatMap fun q => (q.items.filter fun i => i.state == 0 && i.region == r && i.winStart == now).map fun i =>
      (i.order, q.req.key, i.num)
    n.foldl (sortBy (fun (a b : Nat × Nat × Nat) => decide (a.1 < b.1)) due) fun n e => n.issueItem now e.2.1 e.2.2

/-- COMPUTE_WINDOW_OPEN (R188). -/
def execComputeWindowOpen (r : Fin 16) (s : State) : Host.Outcome State Fault Refusal := 
  s.on (if s.node.stopped then s.node else s.node.computeOpen s.clock.tick r.val)

/-! ### Start (R186 to R188) -/

/-- Base of a cell's scratch in space 3, and of a thread's window in it (Tables 7-1, 7-2). -/
def scratchBase (r c : Nat) : Nat := r * 2 ^ 27 + c * 2 ^ 17
def windowBase (r c t : Nat) : Nat := scratchBase r c + t * 8192

/-- Memory with a range reading zero. -/
def clearMem (m : List Host.Cell) (base len : Nat) : List Host.Cell := m.filter fun c => c.1 < base ∨ base + len ≤ c.1

/-- The lowest free thread of a cell. -/
def Node.freeThreadOf (n : Node) (r c : Nat) : Option Nat :=
  (List.range 16).find? fun t => !(n.thread (cellNum r c * 16 + t)).running && n.unitUp .thread (cellNum r c * 16 + t)

/-- The free tile registers of a cell, ascending. -/
def Node.freeTiles (n : Node) (r c : Nat) : List Nat :=
  let used := (List.range 16).flatMap fun t => (n.thread (cellNum r c * 16 + t)).tiles
  (List.range 16).filter fun i => !used.contains i

/-- The first item of a cell's queue starts where a thread and its tile registers are free: the thread's number, and the node. -/
def Node.itemStart (n : Node) (r c : Nat) : Option (Nat × Node) :=
  match Map.get [] n.cells.queues (cellNum r c) with
  | [] => none
  | (se, id, num) :: rest =>
    let key := reqKey se id
    match n.admitted? key with
    | none => none
    | some q =>
      match q.items.find? (fun i => i.num == num), n.freeThreadOf r c with
      | some it, some t =>
        let tiles := n.freeTiles r c
        let need := n.tilesFor q it
        if tiles.length < need ∨ !n.unitUp .cell (cellNum r c) then none
        else
          let prog := it.program q
          let th : Thread := { running := true, session := se, request := id, item := num, program := prog, tiles := tiles.take need,
                               pc := match prog with | some p => fieldB (n.prog p).header 8 4 | none => 0 }
          let n := { n with cells := { n.cells with queues := Map.set [] n.cells.queues (cellNum r c) rest } }
          let n := n.setThread (cellNum r c * 16 + t) th
          let n := n.setItem key num fun i => { i with state := 2, thread := t }
          some (t, n.bump Reg.itemsStarted)
      | _, _ => none

/-- ITEM_START (R188): the thread's state and scratch window read as zero. -/
def execItemStart (r : Fin 16) (cell : Fin 256) (s : State) : Host.Outcome State Fault Refusal :=
  match s.node.itemStart r.val cell.val with
  | none => s.on s.node
  | some (t, n) => .next { s with node := n, mem := clearMem s.mem (windowBase r.val cell.val t) 8192 }

/-! ### What the built-in programs do at completion -/

/-- A line that a page's read needs is poisoned. -/
def Node.pagePoisoned (n : Node) (p : Nat) : Bool :=
  let d := n.page p
  match d.t1 with
  | none => false
  | some g =>
    if d.packed then
      (List.range 4).any fun b => let l := d.blockLen.getD b 0
                                  decide (0 < l) && n.slotPoisoned g (b * 64) (b * 64 + Nat.min l 64 - 1)
    else n.slotPoisoned g 0 255

/-- Keys of an item's view for a request, or the fault that reading it raises. -/
inductive ViewRead where
  | keys (l : List KeyTok)
  | codec (p b : Nat) (e : CodecFail)
  | poison (p : Nat)
deriving DecidableEq, Repr

/-- Read an item's view. -/
def Node.readView (n : Node) (q : Admitted) (view : List ViewPage) : ViewRead :=
  match view.find? fun v => n.pagePoisoned v.page with
  | some v => .poison v.page
  | none =>
    match n.viewKeys (n.model q.req.model) (n.seq (seqLocal q.req.seqId)).spanBase view with
    | .error (p, b, e) => .codec p b e
    | .ok ks => .keys ks

/-- A view that cannot be read: CODEC_FAULT for the request that found it, POISON for the others (R252, R124). -/
def Node.viewFault (n : Node) (now key : Nat) (v : ViewRead) : Node :=
  match v with
  | .keys _ => n
  | .codec p b e => n.codecFault now p b e.facet e.detail [key]
  | .poison p => ((n.bump Reg.poisonReads).pageFault now p fun _ => false).endRequest now key stPoison 0

/-- ATT_KV and ATT_LAT: the partials of an item (R174, R178). -/
def Node.doneAttn (n : Node) (q : Admitted) (it : Item) (keys : List KeyTok) : Node :=
  let (ps, c) := n.itemPartials q.req it (keys ++ n.payloadKeys q it)
  ((n.setItem q.req.key it.num fun i => { i with partials := ps }).bump Reg.itemsRun).bumpBy Reg.keysScored c

/-- Keys of every item of a track, as far as they can be read: what R225 looks at. -/
def Node.trackKeys (n : Node) (q : Admitted) (track : Nat) : List KeyTok :=
  (q.items.filter fun i => i.track == track).flatMap fun i =>
    let view := if i.state = 0 then n.viewOf q i else i.view
    match n.readView q view with
    | .keys ks => ks
    | _ => []

/-- BWD on an item (R222 to R230): its dQ partials, and its additions into gradient pages. -/
def Node.doneBackward (n : Node) (now : Nat) (q : Admitted) (it : Item) (keys : List KeyTok) : Node :=
  let r := q.req
  let k := seqLocal r.seqId
  let all := n.trackKeys q it.track
  let rh := it.rowHeads r
  let isBad := fun (e : Nat × Nat) => n.gradBad r all e.1 e.2 (it.pos + e.1)
  let good := rh.filter fun e => !isBad e
  let ps := rh.map fun e => n.dqOf r keys (isBad e) e.1 e.2 (it.pos + e.1)
  let n0 := n
  let n := n.setItem r.key it.num fun i => { i with partials := ps }
  if r.noDkv then n
  else
    let len := (n.seq k).recElems
    let n := n.foldl it.pages fun n i =>
      let gk := gradKey k it.track i
      match Map.find n.grads gk with
      | none => n
      | some g =>
        if q.added.contains gk then n
        else
          let own := 0x40000000 + gk % 2 ^ 30
          let n := n.foldl (keys.filter fun t => t.stored && t.index == i) fun n t =>
            n.addGrad g.slot (t.place * (4 * len)) (n0.tokenGrad r it good t) own (n.tagOf false kindGradient q.slice)
          let n := { n with grads := Map.put n.grads gk { g with lastAdd := now - 1, adds := (g.adds + 1) % 2 ^ 32 } }
          (n.bumpBy Reg.commands g.count).setAdmitted r.key fun q => { q with added := q.added ++ [gk] }
    if good.length = rh.length then n
    else n.setPartial ((n.gradsNamed q).filter fun g => g / 2 ^ 21 % 1024 == it.track)

/-- FORK_COPY: the first FORK_TOKENS mod 16 tokens of the parent's partial pages go to the child's tails (R107, R108). -/
def Node.doneFork (n : Node) (now : Nat) (q : Admitted) (it : Item) : Node :=
  let par := n.seq (seqLocal q.req.seqId)
  n.foldl it.view fun n v =>
    if (n.admitted? q.req.key).all fun q => decide (2 ≤ q.phase) then n
    else if (n.page v.page).state == .poisoned || (n.page v.page).state == .quarantined || n.pagePoisoned v.page then
      n.endRequest now q.req.key stPoison 0
    else
      match n.pageImage v.page (elemOf par.format) par.aBytes par.bBytes with
      | .error (b, e) => n.codecFault now v.page b e.facet e.detail [q.req.key]
      | .ok img =>
        let tail := ((n.seq q.target).track v.index).tail
        let n := n.setPage tail { n.page tail with tokens := 0 }
        n.foldl (List.range v.tokens) fun n t =>
          n.putToken tail par.aBytes par.bBytes (fieldB img (16320 + 4 * t) 2)
            (sliceB img (t * par.aBytes) par.aBytes ++ sliceB img (16 * par.aBytes + t * par.bBytes) par.bBytes)

/-- A FETCH with CLEAR zero-fills the LIVE pages it returned (R232). -/
def Node.doneFetch (n : Node) (q : Admitted) (it : Item) : Node :=
  if q.req.arg 33 1 % 2 = 0 then n
  else n.foldl (n.itemGrads q it) fun n gk =>
    match Map.find n.grads gk with
    | none => n
    | some g =>
      if g.state ≠ 2 then n
      else
        let n := n.foldl (List.range g.count) fun n j => n.fillSlot (g.slot + j) (0x40000000 + gk % 2 ^ 30) (n.tagOf false kindGradient q.slice)
        { n with grads := Map.put n.grads gk { g with adds := 0, isPartial := false } }

/-- Write matrix bytes into a weight copy from a byte offset; `fuel` counts tiles. -/
def Node.writeWeight (n : Node) (d : Nat) (w : Weight) : Nat → Nat → Bytes → Node
  | 0, _, _ => n
  | fuel + 1, off, bs =>
    if bs = [] then n
    else
      let o := off % 16384
      let now := bs.take (16384 - o)
      (n.writeSlot (w.slots.getD (off / 16384) 0) o now d (n.tagOf false kindWeight w.slice)).writeWeight d w fuel (off + now.length)
        (bs.drop now.length)

/-- A part of a WEIGHT_LOAD is written (R299). -/
def Node.doneWeight (n : Node) (q : Admitted) : Node :=
  let r := q.req
  let d := q.target
  let w := n.weight d
  let off := r.arg 36 4
  let data := if off = 0 then r.payload.drop 72 else r.payload
  let n := n.writeWeight d w 20 off data
  let last := off + data.length == r.arg 40 4
  n.setWeight d { w with loaded := off + data.length, lastPart := if last then some (r.sess, r.hdr.requestId.toNat) else none }

/-- The entries of an INSERT commit (R320, R326). -/
def Node.commitInsert (n : Node) (now : Nat) (q : Admitted) : Node :=
  let r := q.req
  let d := n.vindex q.target
  let cnt := r.arg 36 2
  let step := 16 + vecPayload r d.dim
  let new := (List.range cnt).map fun i =>
    let v := payloadVec r d.dim (i * step + 16)
    let (bs, sc, n2) := d.convert v
    ({ id := fieldB r.payload (i * step) 8, tag := fieldB r.payload (i * step + 8) 8, scale := sc, norm2 := n2,
       list := d.assign (d.decode bs sc), kind := 1, commit := now, elems := bs } : VRec)
  ((n.setIndex q.target { d with side := d.side ++ new }).bumpBy Reg.inserted cnt).setAdmitted r.key fun q =>
    { q with tokenWritten := true, body := leBytes 5 now ++ leBytes 3 0 }

/-- The entries of a DELETE commit (R326), with the PRESENT bits. -/
def Node.commitDelete (n : Node) (now : Nat) (q : Admitted) : Node :=
  let r := q.req
  let d := n.vindex q.target
  let cnt := r.arg 36 2
  let ids := (List.range cnt).map fun i => fieldB r.payload (8 * i) 8
  let vis := ids.map fun x => d.visibleId d.gen now x
  let new := (ids.zip vis).map fun e =>
    ({ id := e.1, tag := 0, scale := 0, norm2 := 0, list := match e.2 with | some v => v.list | none => 0xFFFF,
       kind := 2, commit := now, elems := [] } : VRec)
  let bits := vis.foldr (fun v acc => (if v.isSome then 1 else 0) + 2 * acc) 0
  ((n.setIndex q.target { d with side := d.side ++ new }).bumpBy Reg.deleted cnt).setAdmitted r.key fun q =>
    { q with tokenWritten := true, body := leBytes 5 now ++ leBytes 3 0 ++ leBytes (ceilDiv cnt 8) bits }

/-- Give out slots to list versions in order. -/
def giveSlots (d : VIndex) : List (Nat × List VRec) → List Nat → List ListVersion
  | [], _ => []
  | (c, recs) :: rest, gs =>
    let k := d.listSlots recs.length
    { list := c, fromGen := d.gen + 1, toGen := none, recs := recs, slots := gs.take k } :: giveSlots d rest (gs.drop k)

/-- The swap of a FOLD (R328). -/
def Node.foldSwap (n : Node) (now : Nat) (q : Admitted) : Node :=
  let d := n.vindex q.target
  let (lists, dropped, bad) := d.foldPlan q.admitTick
  let cap := d.captured q.admitTick
  let new := giveSlots d lists q.slots
  let old := d.lists.map fun l => if l.toGen = none ∧ lists.any (fun p => p.1 == l.list) then { l with toGen := some (d.gen + 1) } else l
  let side := d.side.map fun e =>
    if e.commit ≤ q.admitTick ∧ e.foldGen = 0 then
      let e' := (cap.find? fun c => c.id == e.id && c.commit == e.commit && c.kind == e.kind && c.elems == e.elems).getD e
      { e' with foldGen := d.gen + 1 }
    else e
  let d' := { d with lists := old ++ new, side := side, gen := d.gen + 1, foldTick := now, treeGen := none }
  let body := leBytes 4 (d.gen + 1) ++ leBytes 4 cap.length ++ leBytes 4 dropped ++ leBytes 4 0 ++ leBytes 5 now ++ leBytes 3 0
  ((n.setIndex q.target d').bump Reg.folds |>.bumpBy Reg.poisonDropped bad).setAdmitted q.req.key fun q =>
    { q with tokenWritten := true, slots := [], body := body }

/-! ### Completion (R197) -/

/-- What an item's work does to the node at its completion. -/
def Node.itemEffect (n : Node) (now : Nat) (q : Admitted) (it : Item) : Node :=
  match it.kind with
  | .attn =>
    if (it.program q).isSome then n.bump Reg.itemsRun
    else match n.readView q it.view with
      | .keys ks => n.doneAttn q it ks
      | f => n.viewFault now q.req.key f
  | .backward =>
    match n.readView q it.view with
    | .keys ks => n.doneBackward now q it ks
    | f => n.viewFault now q.req.key f
  | .forkCopy => n.doneFork now q it
  | .fetch => n.doneFetch q it
  | .weight => n.doneWeight q
  | .insert => if q.tokenWritten then n else n.commitInsert now q
  | .delete => if q.tokenWritten then n else n.commitDelete now q
  | _ => n

/-- The thread's item may complete: its fences have finished (R197), and a tenant program has reached END. -/
def Thread.ready (t : Thread) : Bool := t.running && t.tokensOut.isEmpty && t.remoteOut == 0 && (t.program.isNone || t.ended)

/-- An item's completion is applied: its effect, its pins, its thread; the last item of a FOLD swaps the lists (R328). -/
def Node.itemComplete (n : Node) (now th : Nat) : Node :=
  let t := n.thread th
  if !t.ready then n
  else
    let key := reqKey t.session t.request
    match n.admitted? key with
    | none => n.freeThread th
    | some q =>
      match q.items.find? fun i => i.num == t.item with
      | none => n.freeThread th
      | some it =>
        let n := n.itemEffect now q it
        match n.admitted? key with
        | none => n
        | some q' =>
          if 2 ≤ q'.phase ∨ q'.held ∨ q'.stateLost then n
          else
            let n := (n.unpinItem it).freeThread th
            let n := n.setItem key it.num fun i => { i with state := 3 }
            match n.admitted? key with
            | none => n
            | some q'' =>
              if q''.req.op = opFold ∧ !q''.tokenWritten ∧ !q''.items.any Item.open then n.foldSwap now q'' else n

/-- ITEM_COMPLETION (R197): with the thread's state its scratch window reads 0 again (R186). -/
def execItemCompletion (t : ThreadId) (s : State) : Host.Outcome State Fault Refusal :=
  let n := s.node.itemComplete s.clock.tick t.key
  .next { s with node := n, mem := if (s.node.thread t.key).running && !(n.thread t.key).running
                                   then clearMem s.mem (windowBase t.region.val t.cell.val t.thread.val) 8192 else s.mem }

/-! ### Traps and overruns (R207, R208) -/

/-- End a tenant item's request by a trap or a program fault (R207, R213); its program counts a trap. -/
def Node.trap (n : Node) (now th status detail : Nat) : Node :=
  let t := n.thread th
  match t.program with
  | none => n
  | some p =>
    let pr := n.prog p
    let n := if status = stBudgetTrap then { n with progs := Map.put n.progs p { pr with traps := Nat.min (pr.traps + 1) 0xFFFFFFFF } } else n
    let n := n.bump (if status = stBudgetTrap then Reg.budgetTraps else Reg.progFaults)
    (n.endRequest now (reqKey t.session t.request) status detail).freeThread th

/-- BUDGET_TRAP (R207). -/
def execBudgetTrap (t : ThreadId) (s : State) : Host.Outcome State Fault Refusal :=
  let n := s.node
  let th := n.thread t.key
  s.on (if th.running && th.program.isSome && !th.ended then n.trap s.clock.tick t.key stBudgetTrap 0 else n)

/-- BUILTIN_OVERRUN (R208): an error of the cell's thread, which destroys the state of the item's request (R449). -/
def execBuiltinOverrun (t : ThreadId) (s : State) : Host.Outcome State Fault Refusal :=
  let n := s.node
  let th := n.thread t.key
  if th.running && th.program.isNone then
    let n := (n.bump32 Reg.builtinOverruns).unitError s.clock.tick .thread t.key (th.session, th.request)
    s.on (n.stateLoss (reqKey th.session th.request) .thread t.key)
  else s.on n

/-- ARBITER_TIMEOUT (Table 17-2): an error of the cell, found by its block. -/
def execArbiterTimeout (r : Fin 16) (cell : Fin 256) (s : State) : Host.Outcome State Fault Refusal :=
  s.on (s.node.unitError s.clock.tick .cell (cellNum r.val cell.val) noRequest)

/-! ### Phase 2 (R180) -/

/-- Phase 2 of a request starts in its booked window, once every item is done and every token it writes is written. -/
def Node.phase2Start (n : Node) (now key : Nat) : Node :=
  match n.admitted? key with
  | none => n
  | some q =>
    if q.phase ≠ 0 ∨ q.items.any Item.open ∨ q.held ∨ q.stateLost ∨ now < q.red.winStart ∨
       (q.req.isWrite ∧ !q.tokenWritten) ∨ !n.inRounds then n
    else n.setAdmitted key fun q => { q with phase := 1 }

/-- PHASE2_START (R180). -/
def execPhase2Start (q : ReqRef) (s : State) : Host.Outcome State Fault Refusal := 
  s.on (if s.node.stopped then s.node else s.node.phase2Start s.clock.tick q.key)

/-- The reply of a SEARCH (R330 to R332) from its snapshot. -/
def Node.searchDone (n : Node) (now : Nat) (q : Admitted) : Node :=
  let r := q.req
  let d := n.vindex q.target
  let mode := r.arg 32 1
  let k := r.arg 36 2
  let S := q.admitTick
  let gen := q.tokenBase
  let raw := payloadVec r d.dim 16
  let v := d.query raw
  let lists := if mode = 1 then [] else (d.coarse v).take (r.arg 38 2)
  let sel := fun (l : Option (List Nat)) => let (a, b) := d.scanned gen S l
                                            a ++ b
  let read := (if mode = 1 then [] else sel (some lists)) ++ (if mode = 0 then [] else sel none)
  if (mode ≠ 1 && d.centroidBad) || read.any (fun x => x.poisoned) then n.endRequest now r.key stPoison 0
  else
    let tags := (fieldB r.payload 0 8, fieldB r.payload 8 8)
    let ivf := d.best gen S k tags.1 tags.2 v (some lists)
    let exact := d.best gen S k tags.1 tags.2 v none
    let hits := if mode = 2 then (ivf.filter fun e => exact.any fun x => x.1 == e.1).length else 0
    let b0 := resultBlock ivf k lists.length 0 S hits
    let b1 := resultBlock exact k 0 1 S hits
    let body := if mode = 0 then b0 else if mode = 1 then b1 else b0 ++ b1
    let short := decide ((if mode = 0 then ivf else exact).length < k)
    let n := (n.bump Reg.searches).bumpBy Reg.vectorsScanned read.length
    let n := if short then n.bump Reg.shortResults else n
    let n := if mode = 2 then n.bump Reg.probes else n
    n.queueResult now r.key (if short then stShort else stDone) 0 body

/-- The result of a request at the end of phase 2, by opcode. -/
def Node.phase2Done (n : Node) (now : Nat) (q : Admitted) : Node :=
  let r := q.req
  let key := r.key
  if r.isAtt then
    let (b, e, nf) := n.attBody q
    ((n.bumpBy Reg.entriesEmpty e).bumpBy Reg.entriesNonfinite nf).queueResult now key stDone 0 b
  else if r.isBackward 0 then
    let (b, bad) := n.bwdBody q
    (n.bumpBy Reg.bwdNonfinite bad).queueResult now key stDone 0 b
  else if r.isBackward 1 then n.queueResult now key stDone q.tokenBase q.body
  else if r.isBackward 2 then n.queueResult now key stDone 0 []
  else if r.op = opAppend then n.queueResult now key stDone 0 (leBytes 5 q.tokenBase ++ leBytes 1 q.tokens ++ leBytes 2 0)
  else if r.op = opSeqFork then
    let c := n.seq q.target
    if c.state = .opened then (n.bump Reg.forks).queueResult now key stDone 0 (openBody c.id c.home c.spanBase) else n
  else if r.op = opWeightLoad then
    (if (n.weight q.target).lastPart = some (r.sess, r.hdr.requestId.toNat) then n else n.queueResult now key stDone 0 [])
  else if r.op = opSearch then n.searchDone now q
  else n.queueResult now key stDone 0 q.body

/-- PHASE2_COMPLETE (R180): the reply is queued. -/
def execPhase2Complete (q : ReqRef) (s : State) : Host.Outcome State Fault Refusal :=
  match s.node.admitted? q.key with
  | none => s.on s.node
  | some a => s.on (if a.phase = 1 ∧ !s.node.stopped then s.node.phase2Done s.clock.tick a else s.node)

/-- The digest of a loaded matrix is compared (R300): READY and DONE, or FREE and FORMAT with DETAIL 0x60. -/
def Node.digestCheck (n : Node) (now d : Nat) : Node :=
  let w := n.weight d
  match w.lastPart with
  | none => n
  | some (se, id) =>
    let key := reqKey se id
    let done := match n.admitted? key with | some q => !q.items.any Item.open | none => true
    if w.state ≠ 1 ∨ w.loaded ≠ w.bytes ∨ !done then n
    else
      let tiles := (List.range w.slotCount).map fun t => n.slotBytes (w.slots.getD t 0) 0 (w.tileBytes t)
      if sha3_512 tiles.flatten = w.digest then
        (n.setWeight d { w with state := 2, loadTick := now, tileDigests := tiles.map sha3_512, lastPart := none }).queueResult now key stDone 0 []
      else
        let n := n.foldl w.slots fun n g => n.dropSlot g
        let n := n.setWeight d {}
        match n.admitted? key with
        | some q => if 2 ≤ q.phase then n else n.queueFinal now q stFormat 0x60
        | none => n

/-- WEIGHT_DIGEST_CHECK (R300). -/
def execWeightDigestCheck (desc : BitVec 16) (s : State) : Host.Outcome State Fault Refusal :=
  s.on (s.node.digestCheck s.clock.tick desc.toNat)

end Sys2Proof.Machine
end

