-- ==== Sys2Proof/Machine/NearBank.lean ====
section
/-!
DEFINITION. Near-bank commands (chapter 10): what each operation does to a line or slot, strokes, fence tokens and what a returned token brings
about; page rewrites (R145 to R148, R248); refresh bursts.
-/

namespace Sys2Proof.Machine

/-- OP codes of Table 10-6. -/
abbrev nbOpZero : Nat := 1
abbrev nbOpFill : Nat := 2
abbrev nbOpCopy : Nat := 3
abbrev nbOpAdd : Nat := 4
abbrev nbOpMul : Nat := 5
abbrev nbOpAxpy : Nat := 6
abbrev nbOpAct : Nat := 7
abbrev nbOpConvert : Nat := 8
abbrev nbOpRotate : Nat := 9

/-- SRC values that name no line. -/
abbrev srcStream : Nat := 0xFFFFFFFF
abbrev srcScalar : Nat := 0xFFFFFFFE

/-! ### Checks at the queue (R264) -/

/-- The formats, ARG, source and line count of a command are those of Table 10-6 for its OP. -/
def nbAllowed (op : Nat) (a : NbArgs) : Bool :=
  let sf := a.sfmt.toNat
  let df := a.dfmt.toNat
  let arg := a.arg.toNat
  let src := a.src.toNat
  let bytes := sf == 0 && df == 0
  let fp := decide (sf ≤ 1) && sf == df
  let line := decide (src < 2 ^ 30)
  decide (1 ≤ a.lines.toNat) && decide (a.lines.toNat ≤ 1048576) &&
  (if op = nbOpZero then bytes && decide (arg ≤ 2) && (arg != 1 || (a.dst.toNat % 256 == 0 && a.lines.toNat == 256))
   else if op = nbOpFill then bytes && arg == 0
   else if op = nbOpCopy then bytes && arg == 0 && (line || src == srcStream)
   else if op = nbOpAdd ∨ op = nbOpAxpy then fp && arg == 0 && (line || src == srcStream)
   else if op = nbOpMul then fp && arg == 0 && (line || src == srcStream || src == srcScalar)
   else if op = nbOpAct then fp && decide (arg ≤ 5) && line
   else if op = nbOpConvert then decide (sf ≤ 4) && decide (df ≤ 4) && arg == 0 && line && a.dst.toNat % 256 == 0 &&
     src % 256 == 0 && a.lines.toNat % 256 == 0
   else op == nbOpRotate && arg == 0 && a.dst.toNat % 256 == 0 && a.lines.toNat % 256 == 0)

/-! ### Elements of a line -/

/-- Apply a function to the elements of one or two lines: FP32, or BF16 widened and rounded back (R265). -/
def mapLine (bf16 : Bool) (d s : BitVec 512) (f : Nat → Nat → Nat) : BitVec 512 :=
  let w := if bf16 then 16 else 32
  let el := fun (x : BitVec 512) i => let b := bitsOf x.toNat (i * w) w
                                      if bf16 then f32OfBf16 b else b
  let out := (List.range (512 / w)).map fun i => let r := f (el d i) (el s i) % 2 ^ 32
                                                 if bf16 then bf16Of r else r
  BitVec.ofNat 512 (out.foldr (fun b acc => b + 2 ^ w * acc) 0)

/-- An activation function (Table 10-6): ReLU exactly, the others within their bounds. -/
def nbAct (arg x scalar : Nat) : Nat :=
  if arg = 0 then (if f32Lt x 0 then 0 else x) else Config.act arg x scalar % 2 ^ 32

/-- A line of the same word sixteen times. -/
def fillLine (w : Nat) : BitVec 512 := BitVec.ofNat 512 ((List.range 16).foldl (fun acc _ => acc * 2 ^ 32 + w % 2 ^ 32) 0)

/-- The operand of a command's line from memory or the stream. -/
inductive NbSource where
  | data (d : BitVec 512) (bad : Bool)
  | domain (k : Nat)
deriving DecidableEq, Repr

/-- Read a source line under R267: a domain fault stops the command, an uncorrectable or poisoned line poisons what it makes. -/
def Node.nbSource (n : Node) (a : NbArgs) (k : Nat) : NbSource :=
  let l := n.line k
  let t := a.tag.toNat
  let sys := tagKind t == kindSystem
  if !sys && !(tagKind l.tag.toNat != 0 && tagSlice l.tag.toNat == tagSlice t && tagGen l.tag.toNat == tagGen t) then .domain k
  else .data l.data (tagPoison l.tag.toNat || !lineShareOk l a.owner.toNat (k % 256))

/-- The TAG a command writes (R266). -/
def nbTag (a : NbArgs) (poison : Bool) : Nat :=
  let t := a.tag.toNat % 2 ^ 30
  t + (if tagKind t = kindPage then 2 ^ 30 else 0) + (if poison then 2 ^ 31 else 0)

/-- What one line of an element operation gives: the new data and whether it is poisoned, or the domain fault. -/
def Node.nbLine (n : Node) (op : Nat) (a : NbArgs) (i : Nat) : Except Nat (BitVec 512 × Bool) :=
  let base := a.stack.val * 2 ^ 30
  let dk := base + (a.dst.toNat + i) % 2 ^ 30
  let bf := a.sfmt.toNat == 1
  let sc := a.scalar.toNat
  let src := fun (_ : Unit) =>
    if a.src.toNat = srcStream then NbSource.data (a.stream.getD i 0) false
    else n.nbSource a (base + (a.src.toNat + i) % 2 ^ 30)
  let old := fun (_ : Unit) => n.nbSource a dk
  let two := fun (f : Nat → Nat → Nat) =>
    match old (), src () with
    | .domain k, _ => .error k
    | _, .domain k => .error k
    | .data d bd, .data s bs => if bd then .ok (d, true) else if bs then .ok (s, true) else .ok (mapLine bf d s f, false)
  if op = nbOpZero then .ok (0, false)
  else if op = nbOpFill then .ok (fillLine sc, false)
  else if op = nbOpCopy then
    match src () with
    | .domain k => .error k
    | .data s b => .ok (s, b)
  else if op = nbOpAdd then two f32Add
  else if op = nbOpAxpy then two fun d s => f32Fma sc s d
  else if op = nbOpMul then
    (if a.src.toNat = srcScalar then
      match old () with
      | .domain k => .error k
      | .data d b => if b then .ok (d, true) else .ok (mapLine bf d 0 (fun x _ => f32Mul x sc), false)
     else two f32Mul)
  else
    match src () with
    | .domain k => .error k
    | .data s b => if b then .ok (s, true) else .ok (mapLine bf s 0 (fun x _ => nbAct a.arg.toNat x sc), false)

/-! ### Whole-slot operations (R265) -/

/-- The record lengths of a page in a slot: those of a sequence that names its owner page. -/
def Node.recordOf (n : Node) (owner : Nat) : Option (Nat × Nat) :=
  (n.seqs.seqs.find? fun e => e.2.tracks.any fun t => t.pages.contains owner).map fun e => (e.2.aBytes, e.2.bBytes)

/-- A part of a record in another format: each element times SCALAR, written under R171. -/
def convertPart (sf df scalar : Nat) (bs : Bytes) : Bytes :=
  let c := if sf = 0 then bs.length / 4 else elemsOf sf bs.length
  vecStore df ((vecElems sf bs c).map fun v => f32Val (f32Mul v.toF32 scalar))

/-- Change every token record of a slot image; the tag area is copied. -/
def mapRecords (a b a' b' : Nat) (f g : Bytes → Bytes) (img : Bytes) : Bytes :=
  let as := (List.range 16).flatMap fun t => padTo a' (f (sliceB img (t * a) a))
  let bs := (List.range 16).flatMap fun t => padTo b' (g (sliceB img (16 * a + t * b) b))
  sliceB (as ++ bs) 0 16320 ++ sliceB img 16320 64

/-- CONVERT of a slot image; where no sequence names the owner its record layout is open, and so are the bytes. -/
def Node.convertSlot (n : Node) (sf df scalar owner : Nat) (img : Bytes) : Bytes :=
  match n.recordOf owner with
  | some (a, b) =>
    let ca := if sf = 0 then a / 4 else elemsOf sf a
    let cb := if sf = 0 then b / 4 else elemsOf sf b
    mapRecords a b (vecBytes df ca) (vecBytes df cb) (convertPart sf df scalar) (convertPart sf df scalar) img
  | none => leBytes 16320 (Config.open 1 (leNat img)) ++ sliceB img 16320 64

/-- A signed 32-bit number. -/
def i32 (v : Nat) : Int := if v < 2 ^ 31 then (v : Int) else (v : Int) - 2 ^ 32

/-- ROTATE_PAIR of a slot image under a model (R265). -/
def Node.rotateSlot (n : Node) (model scalar : Nat) (img : Bytes) : Bytes :=
  let m := n.model model
  let e := elemOf m.format
  let turn := fun rc => m.rotateRecord e m.aBytes (i32 scalar) rc
  let recs := (List.range 16).map fun t => turn (sliceB img (t * m.aBytes) m.aBytes ++ sliceB img (16 * m.aBytes + t * m.bBytes) m.bBytes)
  sliceB ((recs.flatMap fun r => r.take m.aBytes) ++ recs.flatMap fun r => r.drop m.aBytes) 0 16320 ++ sliceB img 16320 64

/-- One slot of CONVERT or ROTATE_PAIR: slot `j` of the command, whole (R265, R266). -/
def Node.nbSlot (n : Node) (op : Nat) (a : NbArgs) (j : Nat) : Except Nat Node :=
  let base := a.stack.val * 2 ^ 30
  let dg := (base + (a.dst.toNat + 256 * j) % 2 ^ 30) / 256
  let sg := if op = nbOpRotate then dg else (base + (a.src.toNat + 256 * j) % 2 ^ 30) / 256
  let srcs := (List.range 256).map fun l => n.nbSource a (sg * 256 + l)
  match srcs.findSome? fun s => match s with | .domain k => some k | .data _ _ => none with
  | some k => .error k
  | none =>
    let bad := srcs.any fun s => match s with | .data _ b => b | .domain _ => false
    let img := n.slotBytes sg 0 16384
    let out := if bad then img
      else if op = nbOpRotate then n.rotateSlot a.model.toNat a.scalar.toNat img
      else n.convertSlot a.sfmt.toNat a.dfmt.toNat a.scalar.toNat a.owner.toNat img
    .ok (n.writeSlot dg 0 out a.owner.toNat (nbTag a bad))

/-! ### Running a command -/

/-- The lines written so far, whether one was poisoned, and the domain fault that stopped the command. -/
structure NbRun where
  node : Node
  done : Nat := 0
  poisoned : Bool := false
  stopped : Option Nat := none
deriving DecidableEq, Repr

/-- Apply the lines of a list in order; a domain fault stops at its line. -/
def nbLines (op : Nat) (a : NbArgs) : List Nat → NbRun → NbRun
  | [], r => r
  | i :: rest, r =>
    match r.stopped with
    | some _ => r
    | none =>
      match r.node.nbLine op a i with
      | .error k => { r with stopped := some k }
      | .ok (d, bad) =>
        let k := a.stack.val * 2 ^ 30 + (a.dst.toNat + i) % 2 ^ 30
        nbLines op a rest { node := r.node.setLine k (mkLine d a.owner.toNat (k % 256) (nbTag a bad)), done := r.done + 1,
                            poisoned := r.poisoned || bad }

/-- Apply whole slots in order. -/
def nbSlots (op : Nat) (a : NbArgs) : List Nat → NbRun → NbRun
  | [], r => r
  | j :: rest, r =>
    match r.stopped with
    | some _ => r
    | none =>
      match r.node.nbSlot op a j with
      | .error k => { r with stopped := some k }
      | .ok n => nbSlots op a rest { r with node := n, done := r.done + 256 }

/-- Channel-mode ZERO: every line of DST's channel outside the reserved rows becomes a FREE line of zeros. -/
def Node.zeroChannel (n : Node) (stack channel : Nat) : Node :=
  let gone := fun (g : Nat) => g / 2 ^ 22 == stack && g % 32 == channel && decide (g % 2 ^ 22 < 3932160)
  { n with stk := { n.stk with lines := n.stk.lines.filter (fun e => !gone (e.1 / 256)), fills := n.stk.fills.filter (fun e => !gone e.1) } }

/-- Run the lines of a command that a list names, on the node. -/
def Node.nbRun (n : Node) (op : Nat) (a : NbArgs) (lines : List Nat) : NbRun :=
  if op = nbOpZero ∧ a.arg = 2 then
    { node := n.zeroChannel a.stack.val (a.dst.toNat / 256 % 32), done := lines.length }
  else if op = nbOpZero ∧ a.arg = 1 then
    let g := (a.stack.val * 2 ^ 30 + a.dst.toNat % 2 ^ 30) / 256
    { node := n.fillSlot g a.owner.toNat (nbTag a false), done := 256 }
  else if op = nbOpConvert ∨ op = nbOpRotate then
    nbSlots op a ((lines.filter fun i => i % 256 == 0).map (· / 256)) { node := n }
  else nbLines op a lines { node := n }

/-- STATUS of a fence token (Table 10-8). -/
def NbRun.status (r : NbRun) : Nat := if r.stopped.isSome then 3 else if r.poisoned then 1 else 0

/-- A token returns: it is counted, and kept with the tokens of its tick. -/
def Node.token (n : Node) (now : Nat) (c : NbCommand) (status done : Nat) : Node :=
  let t : FenceToken := { fenceId := c.args.fenceId.toNat, status := status, linesDone := done, tick := now }
  ({ n with stk := { n.stk with tokens := (n.stk.tokens.filter fun (x : FenceToken) => x.tick == now) ++ [t] } }).bump Reg.commands

/-- A whole command of the row's operation is run and its token returns; one that the queue refuses writes nothing (R264, R270). -/
def Node.nbWhole (n : Node) (now op : Nat) (a : NbArgs) : Node :=
  if n.stopped then n else
  let c : NbCommand := { op := op, args := a, id := n.stk.cmdNext }
  let n := { n with stk := { n.stk with cmdNext := n.stk.cmdNext + 1 } }
  if !nbAllowed op a then n.token now c 4 0
  else
    let r := n.nbRun op a (List.range a.lines.toNat)
    let n := match r.stopped with | some k => r.node.domainFault now k | none => r.node
    n.token now c r.status r.done

/-- NB_ZERO. -/
def execNbZero (c : NbArgs) (s : State) : Host.Outcome State Fault Refusal :=
  s.on (s.node.nbWhole s.clock.tick nbOpZero { c with arg := 0 })
/-- NB_ZERO in slot mode. -/
def execNbZeroSlot (c : NbArgs) (s : State) : Host.Outcome State Fault Refusal :=
  s.on (s.node.nbWhole s.clock.tick nbOpZero { c with arg := 1 })
/-- NB_ZERO in channel mode (R277). -/
def execNbZeroChannel (c : NbArgs) (s : State) : Host.Outcome State Fault Refusal :=
  s.on (s.node.nbWhole s.clock.tick nbOpZero { c with arg := 2 })
/-- NB_FILL. -/
def execNbFill (c : NbArgs) (s : State) : Host.Outcome State Fault Refusal := s.on (s.node.nbWhole s.clock.tick nbOpFill c)
/-- NB_COPY. -/
def execNbCopy (c : NbArgs) (s : State) : Host.Outcome State Fault Refusal := s.on (s.node.nbWhole s.clock.tick nbOpCopy c)
/-- NB_ADD. -/
def execNbAdd (c : NbArgs) (s : State) : Host.Outcome State Fault Refusal := s.on (s.node.nbWhole s.clock.tick nbOpAdd c)
/-- NB_MUL. -/
def execNbMul (c : NbArgs) (s : State) : Host.Outcome State Fault Refusal := s.on (s.node.nbWhole s.clock.tick nbOpMul c)
/-- NB_AXPY. -/
def execNbAxpy (c : NbArgs) (s : State) : Host.Outcome State Fault Refusal := s.on (s.node.nbWhole s.clock.tick nbOpAxpy c)
/-- NB_ACT with ReLU. -/
def execNbActRelu (c : NbArgs) (s : State) : Host.Outcome State Fault Refusal := s.on (s.node.nbWhole s.clock.tick nbOpAct { c with arg := 0 })
/-- NB_ACT with SiLU. -/
def execNbActSilu (c : NbArgs) (s : State) : Host.Outcome State Fault Refusal := s.on (s.node.nbWhole s.clock.tick nbOpAct { c with arg := 1 })
/-- NB_ACT with GELU-tanh. -/
def execNbActGeluTanh (c : NbArgs) (s : State) : Host.Outcome State Fault Refusal :=
  s.on (s.node.nbWhole s.clock.tick nbOpAct { c with arg := 2 })
/-- NB_ACT with sigmoid. -/
def execNbActSigmoid (c : NbArgs) (s : State) : Host.Outcome State Fault Refusal :=
  s.on (s.node.nbWhole s.clock.tick nbOpAct { c with arg := 3 })
/-- NB_ACT with exp2. -/
def execNbActExp2 (c : NbArgs) (s : State) : Host.Outcome State Fault Refusal := s.on (s.node.nbWhole s.clock.tick nbOpAct { c with arg := 4 })
/-- NB_ACT with tanh softcap. -/
def execNbActSoftcap (c : NbArgs) (s : State) : Host.Outcome State Fault Refusal :=
  s.on (s.node.nbWhole s.clock.tick nbOpAct { c with arg := 5 })
/-- NB_CONVERT. -/
def execNbConvert (c : NbArgs) (s : State) : Host.Outcome State Fault Refusal := s.on (s.node.nbWhole s.clock.tick nbOpConvert c)
/-- NB_ROTATE_PAIR. -/
def execNbRotatePair (c : NbArgs) (s : State) : Host.Outcome State Fault Refusal := s.on (s.node.nbWhole s.clock.tick nbOpRotate c)

/-! ### Commands in the queues (R263, R268, R269) -/

/-- Engine marks of commands: a refetched tile (Hold.lean), a page copy, a page rewrite, a row repair. -/
def copyIssuer (newPage : Nat) : Nat := 2 ^ 53 + newPage
def rewriteIssuer (page : Nat) : Nat := 2 ^ 54 + page

/-- The channels a command's destination lines touch. -/
def nbChannels (a : NbArgs) : List Nat :=
  let s0 := a.dst.toNat / 256
  let s1 := (a.dst.toNat + a.lines.toNat - 1) / 256
  (List.range 32).filter fun c => (List.range (Nat.min 32 (s1 + 1 - s0))).any fun j => (s0 + j) % 32 == c

/-- The lines of a command that lie in a channel. -/
def nbLinesIn (a : NbArgs) (channel : Nat) : List Nat :=
  (List.range a.lines.toNat).filter fun i => (a.dst.toNat + i) / 256 % 32 == channel

/-- Issue a command to the queues of its channels (R263): its number, and the node. A refused one returns a token at once (R264). -/
def Node.issueCommand (n : Node) (now op : Nat) (a : NbArgs) (workClass : Bool) (issuer : Nat) : Option Nat × Node :=
  let id := n.stk.cmdNext
  let n := { n with stk := { n.stk with cmdNext := id + 1 } }
  let c : NbCommand := { op := op, args := a, workClass := workClass, issuer := issuer, id := id }
  if !nbAllowed op a then (none, n.token now c 4 0)
  else
    (some id, n.foldl (nbChannels a) fun n ch =>
      let k := a.stack.val * 32 + ch
      { n with stk := { n.stk with queues := Map.set [] n.stk.queues k (Map.get [] n.stk.queues k ++ [c]) } })

/-- The command whose stroke runs next on a channel: the first of class W, else the first of class M (R269). -/
def nextCommand (q : List NbCommand) : Option NbCommand :=
  match q.find? fun c => c.workClass with
  | some c => some c
  | none => q.head?

/-! ### Page rewrites (R145 to R148, R248) -/

/-- Store a page's slot image back: RAW blocks in tile order where the page is COMPRESSED (R248), else the raw slot. -/
def Node.storeImage (n : Node) (p a b : Nat) (img : Bytes) : Node :=
  let d := n.page p
  match d.t1 with
  | none => n
  | some g =>
    let tag := n.tagOf true kindPage d.slice
    if d.packed then (n.writeSlot g 0 (tileImage (elemOf d.format) a b img) p tag).setPage p { d with blockLen := [64, 64, 64, 64], dirty := true }
    else (n.writeSlot g 0 img p tag).setPage p { d with dirty := true }

/-- The rewrite acts on its page: ROTATE_PAIR by a position delta, or CONVERT in the page's own format with a scale. The page enters the packer
order again where it is COMPRESSED (R248). -/
def Node.applyRewrite (n : Node) (now : Nat) (w : PageRewrite) (p : Nat) : Node :=
  let q := n.seq w.seq
  let e := elemOf q.format
  match n.pageImage p e q.aBytes q.bBytes with
  | .error _ => n
  | .ok img =>
    let m : Model := match n.models.find? fun x => x.2.format == q.format && x.2.aBytes == q.aBytes && x.2.bBytes == q.bBytes with
      | some x => x.2
      | none => {}
    let out := if w.op = nbOpRotate then
        (let recs := (List.range 16).map fun t => m.rotateRecord e q.aBytes (i32 w.scalar)
            (sliceB img (t * q.aBytes) q.aBytes ++ sliceB img (16 * q.aBytes + t * q.bBytes) q.bBytes)
         sliceB ((recs.flatMap fun r => r.take q.aBytes) ++ recs.flatMap fun r => r.drop q.aBytes) 0 16320 ++ sliceB img 16320 64)
      else mapRecords q.aBytes q.bBytes q.aBytes q.bBytes (convertPart e e w.scalar) (convertPart e e w.scalar) img
    let n := n.storeImage p q.aBytes q.bBytes out
    let n := n.setPage p { n.page p with replicated := false }
    let n := { n with comp := { n.comp with preCopied := n.comp.preCopied.filter fun x => x != p } }
    if (n.page p).packed then n.queuePacker (now - 1) p else n

/-- The near-bank command of a rewrite on a page. -/
def Node.rewriteCommand (n : Node) (now : Nat) (w : PageRewrite) (p : Nat) : Node :=
  let d := n.page p
  let g := d.t1.getD 0
  let dst := BitVec.ofNat 32 (g % 2 ^ 22 * 256)
  let a : NbArgs := { stack := Fin.ofNat 16 (g / 2 ^ 22), sfmt := 0, dfmt := 0, arg := 0, dst := dst, src := dst, lines := 256,
                      scalar := BitVec.ofNat 32 w.scalar, owner := BitVec.ofNat 32 p, tag := BitVec.ofNat 32 (n.tagOf false kindPage d.slice),
                      model := 0, fenceId := 0, stream := [] }
  (n.issueCommand now (if w.op = nbOpRotate then nbOpRotate else nbOpConvert) a true (rewriteIssuer p)).2

/-- A rewrite starts (R145, R146): in place where REF_COUNT is 1, else on a copy. It waits while the page is pinned or cannot be copied. -/
def Node.rewriteStart (n : Node) (now : Nat) (r : Rewrite) : Node :=
  let k := r.seq.toNat
  let q := n.seq k
  let p := (q.track r.track).pages.getD r.page 0xFFFFFFFF
  let d := n.page p
  let busy := n.seqs.rewrites.any fun w => w.seq == k && w.track == r.track && w.index == r.page
  if q.state ≠ .opened ∨ (q.track r.track).pages.length ≤ r.page ∨ !(d.state == .sealed || d.state == .compressed) ∨ busy then n
  else if d.ref = 1 then
    if d.pin ≠ 0 then n
    else
      let n := n.removePageNode p
      let n := n.unqueuePacker p
      let w : PageRewrite := { seq := k, track := r.track, index := r.page, page := p, copy := none, op := r.op.toNat, scalar := r.scalar.toNat }
      let n := { n with seqs := { n.seqs with rewrites := n.seqs.rewrites ++ [w] } }
      n.rewriteCommand now w p
  else
    let s := q.slice
    let g0 := d.t1.getD 0
    if (n.quota s).t1Slots ≤ n.t1Used s then n
    else
      match (n.spareStack s 0 (g0 / 2 ^ 22)).bind (n.lowestSlot s) with
      | none => n
      | some g =>
        let n := n.takeSlot s g
        let n := if d.copies = 0 then n.setPage p { d with copies := 1, pin := d.pin + 1 } else n.setPage p { d with copies := d.copies + 1 }
        let np := n.freePage
        let n := n.setPage np { state := .spare, slice := d.slice, format := d.format, t1 := some g }
        let w : PageRewrite := { seq := k, track := r.track, index := r.page, page := p, copy := some np, op := r.op.toNat,
                                 scalar := r.scalar.toNat }
        let a : NbArgs := { stack := Fin.ofNat 16 (g / 2 ^ 22), sfmt := 0, dfmt := 0, arg := 0, dst := BitVec.ofNat 32 (g % 2 ^ 22 * 256),
                            src := 0xFFFFFFFF, lines := 256, scalar := 0, owner := BitVec.ofNat 32 np,
                            tag := BitVec.ofNat 32 (n.tagOf false kindPage s), model := 0, fenceId := 0, stream := n.slotLines g0 0 256 }
        let n := { n with seqs := { n.seqs with rewrites := n.seqs.rewrites ++ [w] } }
        (n.issueCommand now nbOpCopy a true (copyIssuer np)).2

/-- PAGE_REWRITE_START (R145). -/
def execPageRewriteStart (w : Rewrite) (s : State) : Host.Outcome State Fault Refusal := s.on (s.node.rewriteStart s.clock.tick w)

/-- A copy's fence token is back (R146): the new page takes the sequence's page-table entry, and the rewrite goes on with it. -/
def Node.copyDone (n : Node) (now np : Nat) : Node :=
  match n.seqs.rewrites.find? fun w => w.copy == some np with
  | none => n
  | some w =>
    let d := n.page w.page
    let n := n.setPage np { d with t1 := (n.page np).t1, slow := none, ref := 1, pin := 0, node := none, copies := 0,
                                   dirty := true, replicated := false, moving := false }
    let n := n.setTrack w.seq w.track fun t => { t with pages := t.pages.set w.index np }
    let n := if d.copies = 1 then n.setPage w.page { d with copies := 0, pin := d.pin - 1 } else n.setPage w.page { d with copies := d.copies - 1 }
    let n := n.releaseRef w.page
    let q := n.seq w.seq
    let n := n.setSeq w.seq { q with cnt := { q.cnt with cowCopies := Nat.min (q.cnt.cowCopies + 1) 0xFFFFFFFF } }
    let n := (n.bump Reg.cowCopies).journal 5 q.id w.track w.index (leBytes 4 np)
    let w' := { w with page := np, copy := none }
    let n := { n with seqs := { n.seqs with rewrites := n.seqs.rewrites.map fun (x : PageRewrite) => if x.copy = some np then w' else x } }
    n.rewriteCommand now w' np

/-- A rewrite's fence token is back: the page is rewritten, and the rewrite ends. -/
def Node.rewriteDone (n : Node) (now p : Nat) : Node :=
  match n.seqs.rewrites.find? fun w => w.page == p && w.copy == none with
  | none => n
  | some w =>
    let n := n.applyRewrite now w p
    { n with seqs := { n.seqs with rewrites := n.seqs.rewrites.filter fun (x : PageRewrite) => !(x.page == p && x.copy == none) } }

/-! ### Fence tokens (R270) -/

/-- A refetched tile is in its slot (R306, R307). -/
def Node.tileDone (n : Node) (now d tile : Nat) : Node :=
  let w := n.weight d
  if w.state ≠ 3 then n
  else
    let rest := w.poisoned.filter fun e => e.1 != tile
    let n := (n.setWeight d { w with poisoned := rest }).bump Reg.weightRefetches
    if rest = [] then n.weightReady now d else n

/-- What the return of a command's token brings about: a thread goes on, an engine ends its work, PARTIAL is set on the records that wait for the
last token of a request (R233). -/
def Node.tokenEffects (n : Node) (now : Nat) (c : NbCommand) : Node :=
  let threads := Map.mapVals n.cells.threads fun _ t => { t with tokensOut := t.tokensOut.filter (· != c.id) }
  let n := { n with cells := { n.cells with threads := threads } }
  let n :=
    if 2 ^ 54 ≤ c.issuer then n.rewriteDone now (c.issuer - 2 ^ 54)
    else if 2 ^ 53 ≤ c.issuer then n.copyDone now (c.issuer - 2 ^ 53)
    else if 2 ^ 52 ≤ c.issuer then n.tileDone now ((c.issuer - 2 ^ 52) / 2 ^ 20) ((c.issuer - 2 ^ 52) % 2 ^ 20)
    else n
  let left := n.stk.queues.any fun e => e.2.any fun x => x.issuer == c.issuer
  let due := n.stk.marks.filter fun (m : Nat × Nat) => m.1 == c.issuer
  if left || due.isEmpty then n
  else ({ n with stk := { n.stk with marks := n.stk.marks.filter fun (m : Nat × Nat) => m.1 != c.issuer } }).setPartial (due.map fun (m : Nat × Nat) => m.2)

/-- Lines that the parts of a command in all channels have written. -/
def Node.linesDone (n : Node) (id : Nat) : Nat :=
  (n.stk.queues.map fun e => ((e.2.filter fun c => c.id == id).map (·.done)).sum).sum

/-- Take every part of a command out of the queues. -/
def Node.dropCommand (n : Node) (id : Nat) : Node :=
  { n with stk := { n.stk with queues := Map.norm [] n.stk.queues fun _ q => q.filter fun c => c.id != id } }

/-- A stroke of a channel ends (R268): up to 64 lines of its next command are written, and after the last line its token returns. The commands of
a rewrite write when they end. -/
def Node.stroke (n : Node) (now stack channel : Nat) : Node :=
  let k := stack * 32 + channel
  match nextCommand (Map.get [] n.stk.queues k) with
  | none => n
  | some c =>
    let mine := nbLinesIn c.args channel
    let slotOp := c.op == nbOpConvert || c.op == nbOpRotate || (c.op == nbOpZero && c.args.arg != 0)
    let part := if slotOp then mine.drop c.done else (mine.drop c.done).take 64
    let r := if 2 ^ 54 ≤ c.issuer then ({ node := n, done := part.length } : NbRun) else n.nbRun c.op c.args part
    let bad := c.poisoned || r.poisoned
    let done := c.done + r.done
    let upd := fun (kk : Nat) (q : List NbCommand) =>
      q.map fun x => if x.id = c.id then { x with poisoned := x.poisoned || bad, done := if kk = k then done else x.done } else x
    let put := fun (n : Node) => { n with stk := { n.stk with queues := Map.norm [] n.stk.queues upd } }
    match r.stopped with
    | some f =>
      let n := put (r.node.domainFault now f)
      let total := n.linesDone c.id
      ((n.dropCommand c.id).token now c 3 total).tokenEffects now c
    | none =>
      let n := put r.node
      let total := n.linesDone c.id
      if total < c.args.lines.toNat then n
      else ((n.dropCommand c.id).token now c (if bad then 1 else 0) total).tokenEffects now c

/-- STROKE_END (R268). -/
def execStrokeEnd (stack : Fin 16) (channel : Fin 32) (s : State) : Host.Outcome State Fault Refusal :=
  s.on (if s.node.stopped then s.node else s.node.stroke s.clock.tick stack.val channel.val)

/-- Stop every queued command with STATUS 2 (R276: a trip). -/
def Node.stopCommands (n : Node) (now : Nat) : Node :=
  let ids := ((n.stk.queues.flatMap fun e => e.2).foldl (fun (acc : List NbCommand) c => if acc.any (fun x => x.id == c.id) then acc else acc ++ [c]) [])
  n.foldl ids fun n c => ((n.dropCommand c.id).token now c 2 (n.linesDone c.id))

/-- A refresh burst of a stack at a boundary of its schedule (R274). -/
def Node.refresh (n : Node) (now stack : Nat) : Node :=
  let due := decide (2 * stack ≤ now) && (now - 2 * stack) % 36 == 0
  if !due || Map.get 0 n.stk.lastBurst stack == now + 1 then n
  else ({ n with stk := { n.stk with lastBurst := Map.set 0 n.stk.lastBurst stack (now + 1) } }).bump Reg.bursts

/-- REFRESH_BURST (R274). -/
def execRefreshBurst (stack : Fin 16) (s : State) : Host.Outcome State Fault Refusal := s.on (s.node.refresh s.clock.tick stack.val)

end Sys2Proof.Machine
end

