-- ==== Sys2Proof/Machine/Tiers.lean ====
section
/-!
DEFINITION. Packers (chapter 9), spill, prefetch and the slow tier (chapter 11).
-/

namespace Sys2Proof.Machine

/-! ### Packers (R243 to R246, R248) -/

/-- Start a packer of a region on a page: it takes its copy of the page and its pin (R116, R144). -/
def Node.startPacker (n : Node) (now r p : Nat) : Node :=
  let d := n.page p
  match n.recordOf p with
  | none => n
  | some (a, b) =>
    match n.pageImage p (elemOf d.format) a b with
    | .error _ => n
    | .ok img =>
      let n := n.unqueuePacker p
      let n := n.setPage p { d with pin := d.pin + 1 }
      { n with packers := n.packers ++ [{ page := p, region := r, start := now, raw := img }] }

/-- The pages of the packer order that a region's packers may start on: in its stack, SEALED or repacked, not pinned (R243). -/
def Node.packable (n : Node) (r : Nat) : List Nat :=
  (n.packOrder.map fun (e : Nat × Nat) => e.2).filter fun p =>
    let d := n.page p
    (d.state == .sealed || d.state == .compressed) && d.pin == 0 && !d.moving && (match d.t1 with | some g => g / 2 ^ 22 == r | none => false)

/-- Free packers of a region. -/
def Node.freePackers (n : Node) (r : Nat) : Nat := n.reg Reg.packers - (n.packers.filter fun k => k.region == r).length

/-- PACKER_START (R243). -/
def execPackerStart (r : Fin 16) (s : State) : Host.Outcome State Fault Refusal :=
  let n := s.node
  s.on (if n.stopped then n else n.foldl ((n.packable r.val).take (n.freePackers r.val)) fun n p => n.startPacker s.clock.tick r.val p)

/-- Write one packed block and count it (R245). -/
def Node.writeBlock (n : Node) (p g i : Nat) (k : Packed) : Node :=
  let n := n.writeSlot g (4096 * i) k.bytes p (n.tagOf true kindPage (n.page p).slice)
  let n := n.bump (if k.len = 1 then Reg.blocksZero else if k.len = 64 then Reg.blocksRaw else Reg.blocksPacked)
  (if k.fallback then n.bump Reg.verifyFallbacks else n).bumpBy Reg.granulesWritten k.len

/-- A packer's writes are complete (R246): BLOCK_LEN is set, the page becomes COMPRESSED, the pin is released. -/
def Node.packed (n : Node) (p : Nat) : Node :=
  let d := n.page p
  match n.packers.find? (fun k => k.page == p), d.t1, n.recordOf p with
  | some k, some g, some (a, b) =>
    if !(d.state == .sealed || d.state == .compressed) then n
    else
      let img := tileImage (elemOf d.format) a b k.raw
      let blocks := (List.range 4).map fun i => choosePack (n.reg Reg.packMode) (sliceB img (4096 * i) 4096)
      let n := n.foldl blocks.zipIdx fun n e => n.writeBlock p g e.2 e.1
      let n := { n with packers := n.packers.filter fun k => k.page != p }
      (n.setPage p { d with state := .compressed, blockLen := blocks.map (·.len), pin := d.pin - 1, dirty := true }).bump
        Reg.pagesPacked
  | _, _, _ => n

/-- PAGE_COMPRESSED (R246). -/
def execPageCompressed (page : BitVec 32) (s : State) : Host.Outcome State Fault Refusal :=
  s.on (if !s.node.stopped && s.node.packers.any (fun k => k.page == page.toNat && decide (k.start < s.clock.tick)) then s.node.packed page.toNat else s.node)

/-! ### Spilling (R289 to R291) -/

/-- Every memory channel of the slice is full. -/
def Node.channelsFull (n : Node) (s : Nat) : Bool := n.freeSlots s == 0

/-- A background prefetch of the slice waits for a destination (R293). -/
def Node.prefetchWaits (n : Node) (s : Nat) : Bool :=
  n.tiers.background.any fun p => (n.page p).slice == s && (n.fetchStack s 0).isNone

/-- SPILLING of every bound slice (R289). -/
def Node.spillingUpdate (n : Node) : Node :=
  if !n.slowPresent then n else
  n.foldl ((List.range 64).filter fun s => (n.slice s).state == .bound) fun n s =>
    let q := n.quota s
    let used := n.t1Used s
    let waits := n.prefetchWaits s
    let on := decide (q.high * q.t1Slots ≤ used * 100) || q.refillFailed || waits || n.channelsFull s
    let off := decide (used * 100 ≤ q.low * q.t1Slots) && !q.refillFailed && !waits
    if q.spilling then (if off then n.setQuota s { q with spilling := false } else n)
    else if on then n.setQuota s { q with spilling := true } else n

/-- No track that names the page has readers (R121). -/
def Node.unread (n : Node) (p : Nat) : Bool :=
  n.seqs.seqs.all fun e => e.2.tracks.zipIdx.all fun t => !t.1.pages.contains p || n.readers e.1 t.2 == 0

/-- What may spill: a page or a weight copy, with its LAST_USE. -/
structure SpillCand where
  isPage : Bool
  num : Nat
  lastUse : Nat
deriving DecidableEq, Repr

/-- The candidates of a region, oldest first (R290): pages under R121 and working weight copies under R302. -/
def Node.spillCands (n : Node) (r : Nat) : List SpillCand :=
  let pages := n.seqs.pages.filter fun e =>
    e.2.state == .compressed && e.2.pin == 0 && !e.2.moving && (match e.2.t1 with | some g => g / 2 ^ 22 == r | none => false) &&
    (n.quota e.2.slice).spilling && decide (n.slowUsed e.2.slice < (n.quota e.2.slice).slowSlots ∨ (!e.2.dirty ∧ e.2.slow.isSome)) && n.unread e.1
  let weights := n.tiers.weights.filter fun e =>
    e.2.state == 2 && e.2.res == 1 && !e.2.moving && e.2.homeNode != n.straps && (match e.2.t1 with | some g => g / 2 ^ 22 == r | none => false) &&
    (n.quota e.2.slice).spilling && decide (n.slowUsed e.2.slice < (n.quota e.2.slice).slowSlots) && !n.unfinished.any fun q => q.needs.contains e.1
  sortBy (fun (a b : SpillCand) => decide (a.lastUse < b.lastUse))
    ((pages.map fun e => ({ isPage := true, num := e.1, lastUse := e.2.lastUse } : SpillCand)) ++
     (weights.map fun e => ({ isPage := false, num := e.1, lastUse := e.2.lastUse } : SpillCand)))

/-- The lowest free run of `c` slow-tier slots (DESIGN CHOICE, log entry 14). -/
def slowRun (slow : Map SlowSlot) (count c : Nat) : Nat → Nat → Option Nat
  | 0, _ => none
  | fuel + 1, k =>
    if count < k + c then none
    else if (List.range c).all fun i => !((Map.find slow (k + i)).any fun e => e.used) then some k else slowRun slow count c fuel (k + 1)

/-- Allocate slow-tier slots. -/
def Node.slowFree (n : Node) (c : Nat) : Option Nat :=
  slowRun n.tiers.slow (n.reg Reg.slowSlotCount) c ((n.tiers.slow.length + 1) * (c + 1)) 0

/-- Tiles of a spill entry. -/
def Node.spillTiles (n : Node) (key : Nat) : Nat := if 2 ^ 40 ≤ key then (n.weight (key - 2 ^ 40)).slotCount else 1

/-- Spill writes started in a tick. -/
def Node.writesIn (n : Node) (t : Nat) : Nat := ((n.tiers.spillsNow.filter fun e => e.2.2 == t).map fun e => n.spillTiles e.1).sum

/-- Spill writes of a tick on a port (R532). -/
def Node.writesOn (n : Node) (t port : Nat) : Nat :=
  (n.tiers.spillsNow.filter fun e => e.2.2 == t && n.slowPortOf e.2.1 == port).length

/-- Write stored lines into a slow-tier slot: its generation goes on (R297). -/
def Node.writeSlow (n : Node) (k slice : Nat) (data : List (BitVec 512)) : Node :=
  let e := Map.get {} n.tiers.slow k
  let g := (e.gen + 1) % 2 ^ 32
  let v : SlowSlot := { gen := g, used := true, data := data, slice := slice, bindGen := (n.slice slice).bindGen }
  { n with tiers := { n.tiers with slow := Map.put n.tiers.slow k v } }

/-- Count a spill in the sequences that hold a page (Table 4-1). -/
def Node.countSeqs (n : Node) (p : Nat) (f : SeqCounts → SeqCounts) : Node :=
  let seqs := Map.mapVals n.seqs.seqs fun _ q => if q.tracks.any (fun t => t.pages.contains p) then { q with cnt := f q.cnt } else q
  { n with seqs := { n.seqs with seqs := seqs } }

/-- A page becomes SPILLED and its tier-1 slot goes back (R122). -/
def Node.spilled (n : Node) (p : Nat) (clean : Bool) : Node :=
  let d := n.page p
  let n := match d.t1 with | some g => n.dropSlot g | none => n
  let n := n.setPage p { d with state := .spilled, t1 := none, moving := false, dirty := false }
  let n := n.countSeqs p fun c => { c with spills := Nat.min (c.spills + 1) 0xFFFFFFFF }
  let n := n.unqueuePacker p
  (if clean then n.bump Reg.spillsClean else n).bump Reg.spills

/-- Drop the slow-tier copies of a slice's resident clean pages where its slow-tier slots are all used (R291). -/
def Node.dropCopies (n : Node) (s : Nat) : Node :=
  if n.slowUsed s < (n.quota s).slowSlots then n
  else
    let ps := n.seqs.pages.filter fun e => e.2.slice == s && e.2.state == .compressed && !e.2.dirty && e.2.slow.isSome && !e.2.moving
    n.foldl (ps.map (·.1)) fun n p =>
      let d := n.page p
      (((match d.slow with | some k => n.dropSlow k | none => n).setPage p { d with slow := none, dirty := true })).bump Reg.slowCopiesDropped

/-- Start one spill where the tick has room (R290). -/
def Node.spillOne (n : Node) (now : Nat) (c : SpillCand) : Node :=
  let room := decide (n.writesIn now < n.reg Reg.writeSlotsTick)
  if c.isPage then
    let d := n.page c.num
    if !d.dirty && d.slow.isSome then n.spilled c.num true
    else
      match (if d.slow.isSome then d.slow else n.slowFree 1), d.t1 with
      | some k, some g =>
        if !room || decide (3 ≤ n.writesOn now (n.slowPortOf k)) then n
        else
          let n := n.writeSlow k d.slice (n.slotLines g 0 256)
          let n := n.setPage c.num { d with moving := true, slow := some k }
          let n := { n with tiers := { n.tiers with spillsNow := n.tiers.spillsNow ++ [(c.num, k, now)] } }
          n.dropCopies d.slice
      | _, _ => n
  else
    let w := n.weight c.num
    match (if w.slow.isSome then w.slow else n.slowFree w.slotCount) with
    | none => n
    | some k =>
      if !room then n
      else
        let n := n.foldl w.slots.zipIdx fun n e => n.writeSlow (k + e.2) w.slice (n.slotLines e.1 0 256)
        let n := n.setWeight c.num { w with moving := true, slow := some k }
        { n with tiers := { n.tiers with spillsNow := n.tiers.spillsNow ++ [(2 ^ 40 + c.num, k, now)] } }

/-- Spills start in the regions whose MAINT window with the spill bit covers the tick (R290). -/
def Node.spillStart (n : Node) (now : Nat) : Node :=
  if !n.inRounds || !n.slowPresent then n
  else n.foldl ((List.range 16).filter fun r => n.maintAt now r 0) fun n r => n.foldl (n.spillCands r) fun n c => n.spillOne now c

/-- SPILL_START (R290). -/
def execSpillStart (s : State) : Host.Outcome State Fault Refusal := 
  s.on (if s.node.stopped then s.node else s.node.spillStart s.clock.tick)

/-- The slow-tier write of a spill is acknowledged (R122). -/
def Node.spillDone (n : Node) (now slot : Nat) : Node :=
  match n.tiers.spillsNow.find? fun e => e.2.1 == slot && decide (e.2.2 < now) with
  | none => n
  | some (key, _, _) =>
    let n := { n with tiers := { n.tiers with spillsNow := n.tiers.spillsNow.filter fun e => e.1 != key } }
    if 2 ^ 40 ≤ key then
      let d := key - 2 ^ 40
      let w := n.weight d
      if !w.moving then n
      else if n.unfinished.any fun q => q.needs.contains d then
        (n.foldl ((List.range w.slotCount).map fun i => slot + i) Node.dropSlow).setWeight d { w with moving := false, slow := none }
      else
        let n := n.foldl w.slots fun n g => n.dropSlot g
        (n.setWeight d { w with moving := false, res := 2, slots := [], t1 := none }).bump Reg.spills
    else if (n.page key).moving then (n.spilled key false).dropCopies (n.page key).slice else n

/-- SPILL_COMPLETE (R122). -/
def execSpillComplete (slot : BitVec 32) (s : State) : Host.Outcome State Fault Refusal := s.on (s.node.spillDone s.clock.tick slot.toNat)

/-! ### Prefetch (R292 to R294) -/

/-- Start the head of the background queue where the tick has room (R293); `fuel` counts the queue. -/
def Node.backgroundGo (now : Nat) : Nat → Node → Node
  | 0, n => n
  | fuel + 1, n =>
    match n.tiers.background with
    | [] => n
    | p :: rest =>
      let d := n.page p
      if d.state ≠ .spilled then Node.backgroundGo now fuel { n with tiers := { n.tiers with background := rest } }
      else
        match n.fetchStack d.slice 0 with
        | none => n
        | some st =>
          match n.lowestSlot d.slice st with
          | none => n
          | some g =>
            if !n.maintAt now st 1 || !n.readFits (d.slow.getD 0) now then n
            else
              let r : PageRead := { page := p, tick := now, started := true, background := true, dest := g }
              let n := n.takeSlot d.slice g
              let n := n.setPage p { d with state := .prefetching, t1 := some g }
              Node.backgroundGo now fuel { n with tiers := { n.tiers with background := rest, reads := n.tiers.reads ++ [r] } }

/-- The reads of a tick start: those booked in it, then background reads in what is left. -/
def Node.prefetchReads (n : Node) (now : Nat) : Node :=
  if !n.inRounds then n
  else
    let n := { n with tiers := { n.tiers with reads := n.tiers.reads.map fun r => if r.tick = now then { r with started := true } else r } }
    Node.backgroundGo now n.tiers.background.length n

/-- PREFETCH_READ (R292). -/
def execPrefetchRead (s : State) : Host.Outcome State Fault Refusal := 
  s.on (if s.node.stopped then s.node else s.node.prefetchReads s.clock.tick)

/-- The units of a stored page: 256-byte units that hold its granules (R291). -/
def Page.units (d : Page) : List Nat :=
  (List.range 4).flatMap fun b => (List.range (ceilDiv (d.blockLen.getD b 0 * 64) 256)).map fun u => b * 16 + u

/-- A prefetched page's last byte is written (R123): it becomes COMPRESSED, clean. A page RELEASED meanwhile gives its slot back (Table 11-5). -/
def Node.prefetchDone (n : Node) (p : Nat) : Node :=
  match n.tiers.reads.find? fun r => r.page == p && r.started with
  | none => n
  | some r =>
    let d := n.page p
    if !(d.units.all fun u => r.arrived.contains u) then n
    else
      let n := { n with tiers := { n.tiers with reads := n.tiers.reads.filter fun r => r.page != p } }
      if d.state = .prefetching then
        let n := n.setPage p { d with state := .compressed, dirty := false }
        let n := n.countSeqs p fun c => { c with prefetches := Nat.min (c.prefetches + 1) 0xFFFFFFFF }
        n.bump (if r.background then Reg.prefetchesBg else Reg.prefetches)
      else (n.dropSlot r.dest).setPage p { d with t1 := none }

/-- PREFETCH_COMPLETE (R123). -/
def execPrefetchComplete (page : BitVec 32) (s : State) : Host.Outcome State Fault Refusal := s.on (s.node.prefetchDone page.toNat)

/-- A read of the slow tier fails (R297, R533): a page becomes POISONED, a weight tile is a weight fault. -/
def Node.slowFault (n : Node) (now slot : Nat) : Node :=
  let n := n.bump Reg.slowReadFaults
  match n.tiers.reads.find? fun r => (n.page r.page).slow == some slot with
  | some r => n.pageFault now r.page fun _ => false
  | none =>
    match n.tiers.weights.find? fun e => e.2.res == 3 && (match e.2.slow with | some k => decide (k ≤ slot) && decide (slot < k + e.2.slotCount) | none => false) with
    | some (d, w) => (n.setWeight d { w with res := 1 }).weightFault now d (slot - w.slow.getD 0)
    | none => n

/-- A unit of a slow-tier slot is read, checked and written to its destination (R297). -/
def Node.slowUnit (n : Node) (slot unit : Nat) (data : Bytes) : Node :=
  match n.tiers.reads.find? fun r => (n.page r.page).slow == some slot && r.started with
  | some r =>
    let n := n.writeSlot r.dest (256 * unit) (sliceB data 0 256) r.page (n.tagOf false kindPage (n.page r.page).slice)
    { n with tiers := { n.tiers with reads := n.tiers.reads.map fun x => if x.page = r.page then { x with arrived := x.arrived ++ [unit] } else x } }
  | none =>
    match n.tiers.weights.find? fun e => e.2.res == 3 && (match e.2.slow with | some k => decide (k ≤ slot) && decide (slot < k + e.2.slotCount) | none => false) with
    | none => n
    | some (d, w) =>
      let tile := slot - w.slow.getD 0
      let n := n.writeSlot (w.slots.getD tile 0) (256 * unit) (sliceB data 0 256) d (n.tagOf false kindWeight w.slice)
      let got := w.arrived ++ [tile * 64 + unit]
      let all := (List.range (ceilDiv w.bytes 256)).all fun u => got.contains u
      (if all then n.bump Reg.prefetches else n).setWeight d { w with arrived := if all then [] else got, res := if all then 1 else 3 }

/-- SLOW_READ_COMPLETION (R297): `ok` says that the unit's MAC is right, `poison` that the completion is poisoned. -/
def execSlowReadCompletion (slot : BitVec 32) (unit : BitVec 16) (data : Bytes) (ok poison : Bool) (s : State) :
    Host.Outcome State Fault Refusal :=
  let n := if poison then s.node.bump Reg.cxlPoison else s.node
  s.on (if poison || !ok then n.slowFault s.clock.tick slot.toNat
        else if 64 ≤ unit.toNat then n else n.slowUnit slot.toNat unit.toNat data)

/-- SLOW_READ_TIMEOUT (R533): the last completion has not come within PF_LAT ticks of the read's issue. -/
def execSlowReadTimeout (slot : BitVec 32) (s : State) : Host.Outcome State Fault Refusal :=
  let n := s.node
  let page := n.tiers.reads.any fun r => (n.page r.page).slow == some slot.toNat && r.started && decide (r.tick + n.reg Reg.pfLat ≤ s.clock.tick)
  let weight := n.tiers.weights.any fun e => e.2.res == 3 && decide (e.2.prefetchDone ≤ s.clock.tick) &&
    (match e.2.slow with | some k => decide (k ≤ slot.toNat) && decide (slot.toNat < k + e.2.slotCount) | none => false)
  s.on (if page || weight then (n.bump Reg.cxlTimeouts).slowFault s.clock.tick slot.toNat else n)

end Sys2Proof.Machine
end

