-- ==== Sys2Proof/Machine/Commands.lean ====
section
/-!
DEFINITION. The command objects of the chapters on prefixes, attention, programs, tiers and vector search: share domains (R126 to R130), models
(R152 to R156, R185), tenant programs (R212), quotas (R285) and vector indexes (R313 to R318, R329, R331).
-/

namespace Sys2Proof.Machine

/-- A command value with the operation its row names in byte 0. -/
def forceOp (op : Nat) (value : Bytes) : Bytes := BitVec.ofNat 8 op :: value.drop 1

/-- The tenant is bound to the slice. -/
def Node.bound (n : Node) (slice tenant : Nat) : Bool := (n.slice slice).state == .bound && (n.slice slice).tenant == tenant

/-- The tenant is bound to some slice. -/
def Node.tenantBound (n : Node) (tenant : Nat) : Bool := n.comp.slices.any fun e => e.2.state == .bound && e.2.tenant == tenant

/-! ### Share domains -/

/-- A key slot. -/
def Node.keySlot (n : Node) (k : Nat) : KeySlot := Map.get {} n.sec.keys k

/-- Write a key slot. -/
def Node.setKey (n : Node) (k : Nat) (v : KeySlot) : Node := { n with sec := { n.sec with keys := Map.set {} n.sec.keys k v } }

/-- The lowest FREE key slot: which slot a drawn key takes is a DESIGN CHOICE (log entry 74). -/
def Node.freeKeySlot (n : Node) : Option Nat :=
  (List.range (n.reg Reg.keySlots)).find? fun k => (n.keySlot k).state == 0

/-- Key material is zeroized and the slot is RETIRED (R420). -/
def Node.retireKey (n : Node) (k : Nat) : Node :=
  let v := n.keySlot k
  if v.state = 1 then (n.setKey k { v with state := 2, key := [], retireAt := none }).bump Reg.keysRetired else n

/-- A share domain is created with a random key (R126, R127). -/
def Node.domainCreate (n : Node) (now : Nat) (v : Bytes) : Node :=
  let d := fieldB v 4 4
  let t := fieldB v 8 4 % 2 ^ 28
  let s := fieldB v 12 1
  let code := firstCode
    [((Map.find n.share.domains d).isSome, 1), (decide (n.reg Reg.domainMax ≤ n.share.domains.length) || n.freeKeySlot.isNone, 2), (d == 0, 3), (!n.bound s t, 4)]
  let n := n.setReg Reg.domainResult code
  if code ≠ 0 then n
  else
    let (k, n) := n.draw 32
    let slot := n.freeKeySlot.getD 0
    let n := n.setKey slot { state := 1, ktype := 3, tenant := t, slice := s, key := k, liveTick := now }
    let rec_ : Domain := { tenant := t, slice := s, keySlot := slot, key := k, created := now }
    { n with share := { n.share with domains := Map.put n.share.domains d rec_ } }

/-- A share domain ends (R130): key, nodes and publishing. -/
def Node.dropDomain (n : Node) (d : Nat) : Node :=
  let n := n.retireKey (Map.get {} n.share.domains d).keySlot
  let n := { n with share := { n.share with domains := Map.erase n.share.domains d } }
  let n := n.removeNodes fun _ x => x.domain == d
  let seqs := n.seqs.seqs.map fun (e : Nat × Seq) => if e.2.domain = d then (e.1, { e.2 with publish := none }) else e
  { n with seqs := { n.seqs with seqs := seqs } }

/-- DOMAIN_CMD with OP 2 (R130). -/
def Node.domainDestroy (n : Node) (v : Bytes) : Node :=
  let d := fieldB v 4 4
  let n := n.setReg Reg.domainResult (if (Map.find n.share.domains d).isSome then 0 else 3)
  if (Map.find n.share.domains d).isSome then n.dropDomain d else n

/-- A write of DOMAIN_CMD (Table 5-7); an OP it does not list changes nothing. -/
def Node.domainCmd (n : Node) (now : Nat) (v : Bytes) : Node :=
  if fieldB v 0 1 = 1 then n.domainCreate now v else if fieldB v 0 1 = 2 then n.domainDestroy v else n

/-- DOMAIN_CREATE (R126). -/
def execDomainCreate (via : Via) (value : Bytes) (s : State) : Host.Outcome State Fault Refusal :=
  s.command via 0x2204 1 (forceOp 1 value) fun n => n.domainCmd s.clock.tick (forceOp 1 value)

/-- DOMAIN_DESTROY (R130). -/
def execDomainDestroy (via : Via) (value : Bytes) (s : State) : Host.Outcome State Fault Refusal :=
  s.command via 0x2204 1 (forceOp 2 value) fun n => n.domainCmd s.clock.tick (forceOp 2 value)

/-! ### Models -/

/-- The model record that a value spells (Table 6-1). -/
def Model.ofBytes (v : Bytes) : Model :=
  { state := fieldB v 2 1, layout := fieldB v 3 1, tenant := fieldB v 4 4, layerFirst := fieldB v 8 2, layerCount := fieldB v 10 2,
    qHeads := fieldB v 12 2, kvHeads := fieldB v 14 2, groupKv := fieldB v 16 1, format := fieldB v 17 1, posMode := fieldB v 18 1,
    pairing := fieldB v 19 1, dQk := fieldB v 20 2, dRope := fieldB v 22 2, dLat := fieldB v 24 2, dV := fieldB v 26 2,
    ropeBase := fieldB v 28 4, scale := fieldB v 32 4, softcap := fieldB v 36 4, slopeExp := fieldB v 40 4, pageFix := fieldB v 44 4,
    pageRh := fieldB v 48 4, outRh := fieldB v 52 4, weightDir := fieldB v 56 4 }

/-- A multiple of `k` in a range. -/
def stepIn (k lo hi v : Nat) : Bool := v % k == 0 && decide (lo ≤ v) && decide (v ≤ hi)

/-- FP32 bits that are finite and above a bound given in FP32 bits. -/
def f32Above (lo v : Nat) : Bool := f32Finite v && f32Lt lo v

/-- Element code that the output weight of a model will have: not known when the model is defined (R156; DESIGN CHOICE, log entry 71: a free
value). -/
def outElem (v : Bytes) : Nat := Config.open 71 (leNat v) % 4 + 1

/-- R155 and R156. -/
def modelValid (floor : Nat) (v : Bytes) : Bool :=
  let m := Model.ofBytes v
  let lat := m.layout == 2
  decide (fieldB v 0 2 ≤ 255) && m.state == 0 && m.weightDir == 0xFFFFFFFF && decide (m.tenant < 2 ^ 28) && fieldB v 60 4 == 0 &&
  decide (m.layout ≤ 2) && decide (0 < m.kvHeads) && m.qHeads % m.kvHeads == 0 &&
  decide (0 < m.groupKv) && m.kvHeads % m.groupKv == 0 && decide (m.kvHeads / m.groupKv ≤ 16) &&
  (m.layout != 0 || m.kvHeads == m.qHeads) && (!lat || (m.kvHeads == 1 && m.groupKv == 1)) &&
  formatOk m.format && (decide (0x11 ≤ m.format) == lat) &&
  decide (1 ≤ m.layerCount) && decide (m.layerCount ≤ 256) && decide (1 ≤ m.qHeads) && decide (m.qHeads ≤ 256) &&
  decide (m.layerFirst + m.layerCount ≤ 65536) && decide (m.posMode ≤ 3) && decide (m.pairing ≤ 1) &&
  stepIn 32 32 512 m.dQk && stepIn 32 32 512 m.dV &&
  (if lat then stepIn 32 128 960 m.dLat && stepIn 32 0 128 m.dRope else stepIn 2 0 m.dQk m.dRope && m.dLat == 0) &&
  decide (m.aBytes + m.bBytes ≤ 1020) &&
  f32Above 0 m.scale && (f32Eq m.softcap 0 || f32Above 0 m.softcap) && (m.posMode != 2 || f32Above 0x3F800000 m.ropeBase) &&
  decide (floor ≤ m.pageFix) && decide (ceilDiv (16 * (m.dS + m.dAcc)) (macRate (elemOf m.format)) + 48 ≤ m.pageRh) &&
  (!lat || decide (ceilDiv (m.dLat * m.dV) (macRate (outElem v)) + 16 ≤ m.outRh))

/-- The runs of weight descriptors that models hold, as first and count. -/
def Node.weightRuns (n : Node) : List (Nat × Nat) :=
  (n.models.filter fun e => e.2.weightDir != 0xFFFFFFFF).map fun e => (e.2.weightDir, 2 * e.2.layerCount)

/-- The first of `c` consecutive free weight descriptors (R185). -/
def Node.freeRun (n : Node) (c : Nat) : Option Nat :=
  let runs := n.weightRuns
  let starts := sortBy (fun a b => decide (a < b)) (0 :: runs.map fun r => r.1 + r.2)
  starts.find? fun a => decide (a + c ≤ n.reg Reg.weightDescMax) && runs.all fun r => decide (a + c ≤ r.1) || decide (r.1 + r.2 ≤ a)

/-- A write of MODEL_DEF (R185). -/
def Node.modelDef (n : Node) (v : Bytes) : Node :=
  let k := fieldB v 0 2
  let m := Model.ofBytes v
  let run := if m.layout = 2 then n.freeRun (2 * m.layerCount) else some 0xFFFFFFFF
  let code := firstCode
    [((n.model k).state != 0, 1), (run.isNone, 2), (!modelValid (n.reg Reg.pageFixFloor) v, 4), (!n.tenantBound m.tenant, 5)]
  let n := n.setReg Reg.modelResult code
  if code ≠ 0 then n
  else { n with models := Map.put n.models k { m with state := 1, weightDir := run.getD 0xFFFFFFFF } }

/-- MODEL_DEF (R152, R155, R156). -/
def execModelDef (via : Via) (value : Bytes) (s : State) : Host.Outcome State Fault Refusal :=
  s.command via 0x2304 1 value fun n => n.modelDef value

/-- A write of MODEL_RETIRE (R185). -/
def Node.modelRetire (n : Node) (now k : Nat) : Node :=
  let m := n.model k
  if 255 < k ∨ m.state = 0 then n.setReg Reg.modelResult 3
  else if m.state = 2 then n.setReg Reg.modelResult 0
  else { n.setReg Reg.modelResult 0 with models := Map.put n.models k { m with state := 2, freeFrom := now + 1 } }

/-- MODEL_RETIRE (R185). -/
def execModelRetire (via : Via) (v : BitVec 16) (s : State) : Host.Outcome State Fault Refusal :=
  s.command via 0x2304 2 (leBytes 2 v.toNat) fun n => n.modelRetire s.clock.tick v.toNat

end Sys2Proof.Machine

namespace Sys2Proof

open Sys2Proof.Machine

/-- The request names the model. -/
def Request.namesModel (r : Request) (k : Nat) : Bool := (r.isAtt || r.isBackward 0 || r.op == opWeightLoad) && r.model == k

end Sys2Proof

namespace Sys2Proof.Machine

/-- A weight descriptor becomes FREE: its slots of both tiers and its digests are released (R304). -/
def Node.freeWeight (n : Node) (d : Nat) : Node :=
  let w := n.weight d
  let n := n.foldl w.slots Node.dropSlot
  let n := match w.slow with
    | some k => n.foldl (List.range w.slotCount) fun n i => n.dropSlow (k + i)
    | none => n
  let spills := n.tiers.spillsNow.filter fun (e : Nat × Nat × Nat) => e.1 != 2 ^ 40 + d
  ({ n with tiers := { n.tiers with spillsNow := spills } }).setWeight d {}

/-- A RETIRING model that no admitted request names becomes FREE, with its weights (R185, R304). -/
def Node.modelFree (n : Node) (now k : Nat) : Node :=
  let m := n.model k
  if m.state ≠ 2 ∨ now < m.freeFrom ∨ n.unfinished.any (fun q => q.req.namesModel k) then n
  else
    let n := if m.weightDir = 0xFFFFFFFF then n
      else n.foldl (List.range (2 * m.layerCount)) fun n i => n.freeWeight (m.weightDir + i)
    { n with models := Map.erase n.models k }

/-- MODEL_FREE (R185). -/
def execModelFree (model : BitVec 8) (s : State) : Host.Outcome State Fault Refusal := s.on (s.node.modelFree s.clock.tick model.toNat)

/-! ### Tenant programs -/

/-- The header of Table 7-11, and the length of what follows. -/
def progHeaderOk (h code : Bytes) : Bool :=
  fieldB h 0 2 == 1 && stepIn 1 1 4 (fieldB h 2 1) && stepIn 8 8 16384 (fieldB h 4 4) && decide (fieldB h 8 4 < fieldB h 4 4) &&
  fieldB h 8 4 % 8 == 0 && stepIn 16 0 4096 (fieldB h 12 2) && code.length == fieldB h 4 4

/-- The CLASS of each instruction word (Table 7-6). -/
def codeClasses (code : Bytes) : List Nat := (List.range (code.length / 8)).map fun i => fieldB code (8 * i + 7) 1 / 16

/-- The code holds a Reserved CLASS, an NBC, or a branch outside the code. The manual gives no OP codes, so a word of class CONTROL or ITEM is
judged by a free value (log entry 72). -/
def codeBad (code : Bytes) : Bool :=
  let cs := codeClasses code
  cs.any (fun c => decide (8 ≤ c)) || (cs.any (fun c => c == 0 || c == 7) && Config.open 72 (leNat code) % 2 == 1)

/-- A write of PROG_LOAD (R212). -/
def Node.progLoad (n : Node) (now : Nat) (v : Bytes) : Node :=
  let slot := fieldB v 0 1
  let t := fieldB v 4 4 % 2 ^ 28
  let img := v.drop 16
  let h := sliceB img 0 64
  let code := img.drop 64
  let used := (n.progs.map fun e => e.2.code.length).sum
  let code' := firstCode
    [(decide (slot < 32) && (n.prog slot).state != 0, 1), (decide (n.reg Reg.progArea < used + code.length), 2), (!progHeaderOk h code, 3),
     (codeBad code, 4), (!n.tenantBound t, 5), (!n.hasUnit 4, 6), (decide (32 ≤ slot), 7)]
  let n := n.setReg Reg.progResult code'
  if code' ≠ 0 then n
  else
    let p : Prog := { state := 1, tenant := t, loadTick := now, header := h, code := code, digest := sha3_512 img, readyAfter := now + 50 }
    { n with progs := Map.put n.progs slot p }

/-- PROG_LOAD (R212). -/
def execProgLoad (via : Via) (image : Bytes) (s : State) : Host.Outcome State Fault Refusal :=
  s.command via 0x2404 1 image fun n => n.progLoad s.clock.tick image

/-- A LOADING slot becomes READY at the next round boundary after the copy (R212). -/
def Node.progReady (n : Node) (now slot : Nat) : Node :=
  let p := n.prog slot
  if p.state = 1 ∧ n.isRound now ∧ p.readyAfter ≤ now then { n with progs := Map.put n.progs slot { p with state := 2 } } else n

/-- PROG_READY (R212). -/
def execProgReady (slot : BitVec 8) (s : State) : Host.Outcome State Fault Refusal := s.on (s.node.progReady s.clock.tick slot.toNat)

/-- A write of PROG_UNLOAD (R212); a slot that is FREE or above 31 is unknown. -/
def Node.progUnload (n : Node) (now slot : Nat) : Node :=
  let p := n.prog slot
  if 32 ≤ slot ∨ p.state = 0 then n.setReg Reg.progResult 7
  else if p.state = 3 then n.setReg Reg.progResult 0
  else { n.setReg Reg.progResult 0 with progs := Map.put n.progs slot { p with state := 3, readyAfter := now + 1 } }

/-- PROG_UNLOAD (R212). -/
def execProgUnload (via : Via) (v : BitVec 8) (s : State) : Host.Outcome State Fault Refusal :=
  s.command via 0x2404 2 [v] fun n => n.progUnload s.clock.tick v.toNat

/-- A RETIRING slot that no admitted request names becomes FREE (R212). -/
def Node.progFree (n : Node) (now slot : Nat) : Node :=
  let p := n.prog slot
  if p.state ≠ 3 ∨ now < p.readyAfter ∨ n.unfinished.any (fun q => q.req.isAtt && q.req.tenantProg && q.target == slot) then n
  else { n with progs := Map.erase n.progs slot }

/-- PROG_SLOT_FREE (R212). -/
def execProgSlotFree (slot : BitVec 8) (s : State) : Host.Outcome State Fault Refusal := s.on (s.node.progFree s.clock.tick slot.toNat)

/-! ### Quotas -/

/-- A write of QUOTA_SET (R285): staged until the commit tick. -/
def Node.quotaSet (n : Node) (v : Bytes) : Node :=
  let s := fieldB v 0 1
  let code := firstCode
    [(decide (64 ≤ s) || (n.slice s).state != .bound, 1), (decide (fieldB v 1 1 ≤ fieldB v 2 1) || decide (100 < fieldB v 1 1), 2)]
  let n := n.setReg Reg.quotaResult code
  if code ≠ 0 then n else { n.toStaged with tiers := { n.tiers with stagedQuota := some v } }

/-- QUOTA_SET (R285). -/
def execQuotaSet (via : Via) (value : Bytes) (s : State) : Host.Outcome State Fault Refusal :=
  s.command via 0x2704 1 value fun n => n.quotaSet value

/-- A committed QUOTA_SET (R285, R287): bytes 0 to 15 of the record. Without a slow tier SLOW_SLOTS reads 0 (R288). -/
def Node.applyQuota (n : Node) (v : Bytes) : Node :=
  let s := fieldB v 0 1
  let q := n.quota s
  n.setQuota s { q with high := fieldB v 1 1, low := fieldB v 2 1, t0Kib := fieldB v 4 4, t1Slots := fieldB v 8 4,
                        slowSlots := if n.slowPresent then fieldB v 12 4 else 0 }

/-! ### Vector indexes -/

/-- The index that a value of INDEX_DEF spells (Table 12-1). -/
def VIndex.ofBytes (v : Bytes) : VIndex :=
  { state := 1, metric := fieldB v 3 1, tenant := fieldB v 4 4 % 2 ^ 28, slice := fieldB v 8 1, elem := fieldB v 9 1, dim := fieldB v 10 2,
    centroids := fieldB v 12 4, sideMax := fieldB v 16 4, vecMax := fieldB v 20 4, regionMask := fieldB v 24 2, home := fieldB v 26 1,
    digest := List.replicate 64 0 }

/-- The fields of an INDEX_DEF lie in Table 12-1. -/
def indexFieldsOk (v : Bytes) : Bool :=
  let d := VIndex.ofBytes v
  decide (fieldB v 0 2 ≤ 255) && fieldB v 2 1 == 0 && decide (d.metric ≤ 2) && decide (d.slice ≤ 63) &&
  (d.elem == 1 || d.elem == 2 || d.elem == 5) && stepIn 32 32 4096 d.dim && stepIn 1 1 65536 d.centroids &&
  stepIn 1 1024 1048576 d.sideMax && stepIn 1 1 268435456 d.vecMax && decide (d.regionMask ≠ 0) && decide (d.home ≤ 15) && fieldB v 28 4 == 0

/-- The slice has cells and memory channels in a region. -/
def Node.regionServes (n : Node) (s r : Nat) : Bool := n.sliceCells s r && n.sliceMask s r != 0

/-- A write of INDEX_DEF (R314, R315). -/
def Node.indexDef (n : Node) (v : Bytes) : Node :=
  let k := fieldB v 0 2
  let d := VIndex.ofBytes v
  let c := d.baseSlots
  let take := if indexFieldsOk v && decide (n.t1Used d.slice + c ≤ (n.quota d.slice).t1Slots) then n.takeLowest d.slice d.home c else none
  let code := firstCode
    [((n.vindex k).state != 0, 1), (!indexFieldsOk v, 2), (!n.bound d.slice d.tenant, 3),
     (((List.range 16).any fun r => (bitOf d.regionMask r || r == d.home) && !n.regionServes d.slice r), 4), (take.isNone, 5)]
  match take with
  | some (slots, n') => if code = 0 then (n'.setReg Reg.indexResult 0).setIndex k { d with slots := slots } else n.setReg Reg.indexResult code
  | none => n.setReg Reg.indexResult code

/-- INDEX_DEF (R313). -/
def execIndexDef (via : Via) (value : Bytes) (s : State) : Host.Outcome State Fault Refusal :=
  s.command via 0x2804 1 value fun n => n.indexDef value

/-- A write of CENTROID_LOAD (R317): the index becomes READY at the next boundary. -/
def Node.centroidLoad (n : Node) (now : Nat) (v : Bytes) : Node :=
  let k := fieldB v 0 2
  let d := n.vindex k
  let body := v.drop 8
  let code := firstCode
    [(d.state != 0 && (d.state != 1 || !d.centroidTab.isEmpty || body.length != d.centroids * d.crec), 6), (decide (255 < k) || d.state == 0, 7)]
  let n := n.setReg Reg.indexResult code
  if code ≠ 0 then n
  else n.setIndex k { d with centroidTab := (List.range d.centroids).map fun i => sliceB body (i * d.crec) d.crec, loadDue := some (now + 1) }

/-- CENTROID_LOAD (R317). -/
def execCentroidLoad (via : Via) (image : Bytes) (s : State) : Host.Outcome State Fault Refusal :=
  s.command via 0x2804 3 image fun n => n.centroidLoad s.clock.tick image

/-- Bytes 0 to 27 of an index record. -/
def VIndex.defBytes (d : VIndex) (k : Nat) : Bytes :=
  leBytes 2 k ++ leBytes 1 d.state ++ leBytes 1 d.metric ++ leBytes 4 d.tenant ++ leBytes 1 d.slice ++ leBytes 1 d.elem ++ leBytes 2 d.dim ++
  leBytes 4 d.centroids ++ leBytes 4 d.sideMax ++ leBytes 4 d.vecMax ++ leBytes 2 d.regionMask ++ leBytes 1 d.home ++ leBytes 1 0

/-- The centroid writes are fenced: DEF_DIGEST is set and the index is READY (R317). The digest is taken over the record as it was defined
(STATE 0). -/
def Node.indexesReady (n : Node) (now : Nat) : Node :=
  let ix := n.indexes.map fun (e : Nat × VIndex) =>
    match e.2.loadDue with
    | none => e
    | some t =>
      if now < t ∨ e.2.state ≠ 1 then e
      else
        let base := ({ e.2 with state := 0 }).defBytes e.1
        (e.1, { e.2 with state := 2, loadDue := none, digest := sha3_512 (base ++ e.2.centroidTab.flatten) })
  { n with indexes := ix }

/-- An index becomes RETIRING (R318). -/
def Node.retireIndex (n : Node) (now k : Nat) : Node :=
  let d := n.vindex k
  if d.state = 0 ∨ d.state = 3 then n else n.setIndex k { d with state := 3, freeFrom := now + 1 }

/-- A write of INDEX_CMD (R318); an OP other than 1 changes nothing. -/
def Node.indexCmd (n : Node) (now : Nat) (v : Bytes) : Node :=
  let k := fieldB v 2 2
  if fieldB v 0 1 ≠ 1 then n
  else if (n.vindex k).state = 0 then n.setReg Reg.indexResult 7
  else (n.setReg Reg.indexResult 0).retireIndex now k

/-- INDEX_RETIRE (R318). -/
def execIndexRetire (via : Via) (value : Bytes) (s : State) : Host.Outcome State Fault Refusal :=
  s.command via 0x2804 2 (forceOp 1 value) fun n => n.indexCmd s.clock.tick (forceOp 1 value)

/-- A RETIRING index that no admitted request names becomes FREE, and its slots are released (R318). -/
def Node.indexFree (n : Node) (now k : Nat) : Node :=
  let d := n.vindex k
  if d.state ≠ 3 ∨ now < d.freeFrom ∨ n.unfinished.any (fun q => q.req.isVector && q.target == k) then n
  else
    let n := n.foldl (d.slots ++ d.lists.flatMap fun l => l.slots) Node.dropSlot
    { n with indexes := Map.erase n.indexes k }

/-- INDEX_FREE (R318). -/
def execIndexFree (index : BitVec 8) (s : State) : Host.Outcome State Fault Refusal := s.on (s.node.indexFree s.clock.tick index.toNat)

/-- Superseded list versions and FOLDED side entries are reclaimed where no search pins an older generation (R329). -/
def Node.generationReclaim (n : Node) (k : Nat) : Node :=
  let d := n.vindex k
  let pins := (n.unfinished.filter fun q => q.req.op == opSearch && q.target == k).map fun q => q.tokenBase
  let gone := fun (g : Nat) => pins.all fun p => decide (g ≤ p)
  let dead := d.lists.filter fun l => match l.toGen with | some g => gone g | none => false
  let n := n.foldl (dead.flatMap fun l => l.slots) Node.dropSlot
  let keep := d.lists.filter fun l => match l.toGen with | some g => !gone g | none => true
  let side := d.side.filter fun e => !(e.foldGen != 0 && gone e.foldGen)
  if d.state = 0 then n else n.setIndex k { d with lists := keep, side := side }

/-- GENERATION_RECLAIM (R329). -/
def execGenerationReclaim (index : BitVec 8) (s : State) : Host.Outcome State Fault Refusal := s.on (s.node.generationReclaim index.toNat)

/-- The ball tree over the lists of the current generation is built; it changes no result (R331). -/
def Node.ballTreeBuild (n : Node) (k : Nat) : Node :=
  let d := n.vindex k
  if d.state = 0 then n else n.setIndex k { d with treeGen := some d.gen }

/-- BALL_TREE_BUILD (R331). -/
def execBallTreeBuild (index : BitVec 8) (s : State) : Host.Outcome State Fault Refusal := s.on (s.node.ballTreeBuild index.toNat)

end Sys2Proof.Machine
end

