-- ==== Sys2Proof/Machine/Units.lean ====
section
/-!
DEFINITION. Units with errors (R443 to R447): the targeted test and its result, soft repair (R477, R278), retirement and its escalation to FAULT
(R446, R448), and the work that errors and retirements catch (R447, R449).
-/

namespace Sys2Proof.Machine

/-! ### FAULT (R448) -/

/-- The node enters FAULT (R448, R487): the event FAULT_ENTERED, then the state. Link ports send nothing in FAULT (R366 does not apply there). -/
def Node.enterFault (n : Node) (now cause : Nat) : Node :=
  if n.st = stFault then n
  else
    let n := n.stopSlices now fun _ => true
    let r := (n.rcv.log.getLast?).map ErrRec.unitBytes
    (n.event 0x0011 (leBytes 1 stFault ++ r.getD (List.replicate 4 0))).setState now stFault cause

/-! ### Work on a unit -/

/-- The cells (region × 256 + cell) of a unit of the kinds that run items. -/
def inUnit (kind : UnitKind) (num region cell : Nat) : Bool :=
  match kind with
  | .thread => region * 256 + cell == num / 16
  | .cell => region * 256 + cell == num
  | .block => region * 16 + cell / 16 == num
  | .region => region == num
  | _ => false

/-- The item has state in the unit: a thread that runs it there, or a booking of the unit's cells. -/
def Node.itemOn (n : Node) (key : Nat) (kind : UnitKind) (num : Nat) (i : Item) : Bool :=
  match kind with
  | .thread =>
    let t := n.thread num
    t.running && reqKey t.session t.request == key && t.item == i.num
  | _ => inUnit kind num i.region i.cell

/-- The requests that lose state with a unit (R449): an unfinished issued item in it, or partials staged in its region. -/
def Node.losers (n : Node) (kind : UnitKind) (num : Nat) : List Nat :=
  (n.unfinished.filter fun q => !q.stateLost &&
    (q.items.any (fun i => (i.state == 1 || i.state == 2) && n.itemOn q.req.key kind num i) ||
     (kind == .region && q.staging.any (fun e => e.1 == num) && q.items.any fun i => decide (2 ≤ i.state)))).map fun q => q.req.key

/-- An uncorrectable error of a unit with the state it destroys (R443, R449). -/
def Node.unitFault (n : Node) (now : Nat) (kind : UnitKind) (num : Nat) : Node :=
  if n.retired kind num then n else
  let keys := n.losers kind num
  let req := match keys with
    | k :: _ => (k / 2 ^ 32, k % 2 ^ 32)
    | [] => noRequest
  (n.unitError now kind num req).foldl keys fun n k => n.stateLoss k kind num

/-- Work of a retired unit is placed again (R447): what runs on it has lost its state, what is only booked on it has not. -/
def Node.moveWork (n : Node) (now : Nat) (kind : UnitKind) (num : Nat) : Node :=
  let n := n.foldl (n.losers kind num) fun n k => n.stateLoss k kind num
  let booked := (n.unfinished.filter fun q => !q.stateLost && !q.held &&
    (q.items.any (fun i => i.state == 0 && inUnit kind num i.region i.cell) ||
     (q.phase == 0 && q.red.cycles != 0 && inUnit kind num q.home q.red.cell))).map fun q => q.req.key
  let n := n.foldl booked fun n k => n.suspend k fun q => { q with stateLost := true, heldBy := some (unitKey kind num) }
  n.rerun now (unitKey kind num)

/-! ### Retirement (R446) -/

/-- The unit of the level above: none above a region, a channel or a port but the chip. -/
def parentOf : UnitKind → Nat → Option (UnitKind × Nat)
  | .thread, k => some (.cell, k / 16)
  | .cell, k => some (.block, k / 16)
  | .block, k => some (.region, k / 16)
  | .region, _ => some (.chip, 0)
  | _, _ => none

/-- Where the level above enters a fault that escalates (R17, R446). -/
def aboveOf : UnitKind → Nat → UnitKind × Nat
  | .thread, k => (.cell, k / 16)
  | .cell, k => (.block, k / 16)
  | .block, k => (.region, k / 16)
  | .channel, k => (.region, k / 32)
  | _, _ => (.chip, 0)

/-- Set OUTCOME, ADDRESS and BIT in the latest record of a unit whose test runs. -/
def setOutcome (kind : UnitKind) (num outcome addr bit : Nat) : List ErrRec → List ErrRec
  | [] => []
  | r :: rest =>
    if r.kind = kind ∧ r.unit = num ∧ r.outcome = 0 then { r with outcome := outcome, address := addr, bit := bit } :: setOutcome kind num outcome addr bit rest
    else r :: setOutcome kind num outcome addr bit rest

/-- The result of a test in the log. -/
def Node.outcome (n : Node) (kind : UnitKind) (num outcome addr bit : Nat) : Node :=
  { n with rcv := { n.rcv with log := setOutcome kind num outcome addr bit n.rcv.log } }

/-- The entries that show a retired unit (Tables 17-8, 20-2). -/
def Node.showRetired (n : Node) (kind : UnitKind) (num : Nat) : Node :=
  let count := fun (n : Node) (i : Nat) => n.setReg Reg.retired
    (leNat (leBytes (2 * i) (n.reg Reg.retired) ++ leBytes 2 (n.reg Reg.retired / 2 ^ (16 * i) % 2 ^ 16 + 1) ++ leBytes (6 - 2 * i) (n.reg Reg.retired / 2 ^ (16 * (i + 1)))))
  let mask := fun (n : Node) (k b : Nat) => n.setReg k (setBit (n.reg k) b true)
  match kind with
  | .thread => count n 0
  | .cell => mask (count n 1) (regionKey (num / 256) Reg.cellsRetired) (num % 256)
  | .block => mask (count n 2) (regionKey (num / 16) Reg.blocksRetired) (num % 16)
  | .region => (count n 3).setReg (regionKey num Reg.regionState) 1
  | .channel => mask n (regionKey (num / 32) Reg.channelsRetired) (num % 32)
  | _ => n

/-- Retire a unit, and the level above it when it has retired RETIRE_LIMIT of its units (R446). The fuel is the number of levels. -/
def Node.retireUnit (now : Nat) : Nat → UnitKind → Nat → Node → Node
  | 0, _, _, n => n
  | fuel + 1, kind, num, n =>
    if kind = .chip then n.enterFault now 4
    else if n.retired kind num then n
    else
      let r : ErrRec := { tick := now, level := kind.level, kind := kind, unit := num }
      let n := { n with rcv := { n.rcv with units := Map.put n.rcv.units (unitKey kind num) { since := now, retired := true } } }
      let n := (n.showRetired kind num).event 0x0012 r.unitBytes
      let (k, u) := aboveOf kind num
      let n := n.logError { tick := now, level := k.level, kind := k, unit := u, outcome := 4 }
      let n := n.moveWork now kind num
      match parentOf kind num with
      | none => n
      | some (pk, pn) =>
        let c := Map.get 0 n.rcv.retiredIn (unitKey pk pn) + 1
        let n := { n with rcv := { n.rcv with retiredIn := Map.set 0 n.rcv.retiredIn (unitKey pk pn) c } }
        if n.reg Reg.retireLimit ≤ c then Node.retireUnit now fuel pk pn n else n

/-! ### Soft repair (R477) -/

/-- A repairable row: the MEMORY, REGION, PLACE_A, PLACE_B and ROW of Table 18-5, and the spare rows of its memory. -/
structure RepairRow where
  memory : Nat
  region : Nat
  placeA : Nat
  placeB : Nat
  row : Nat
  spares : Nat
deriving DecidableEq, Repr

/-- The row that a failing address names in a unit's memory (Tables 17-2, 18-4). The place of a channel's ADDRESS in bank and row is a DESIGN
CHOICE (log entry 75): banks one after the other. -/
def repairRow (kind : UnitKind) (num addr : Nat) : Option RepairRow :=
  if addr = 0xFFFFFFFF then none else
  match kind with
  | .thread => some { memory := 1, region := num / 4096, placeA := num / 16 % 256, placeB := 0, row := addr / 64, spares := 8 }
  | .cell => some { memory := 2, region := num / 256, placeA := num % 256 / 16, placeB := 0, row := addr / 256, spares := 32 }
  | .block => some { memory := 3, region := num / 16, placeA := 0, placeB := 0, row := addr / 512, spares := 64 }
  | .channel => some { memory := 4, region := num / 32, placeA := num % 32, placeB := addr / 2 ^ 27, row := addr / 2048 % 65536, spares := 32 }
  | _ => none

/-- The number under which a memory's used spare rows are counted. -/
def RepairRow.key (r : RepairRow) : Nat := ((r.memory * 16 + r.region) * 256 + r.placeA) * 16 + r.placeB

/-- The fields of a repair record before SPARE and TICK. -/
def RepairRow.fields (r : RepairRow) (spare : Nat) : List Nat := [r.memory, r.region, r.placeA, r.placeB, r.row, spare]

/-- Map a row to the next spare row of its memory, or nothing where none is left (R477). A stack row waits for its copy (R278). -/
def Node.repair (n : Node) (now : Nat) (r : RepairRow) : Option Node :=
  let used := Map.get 0 n.test.spares r.key
  if r.spares ≤ used then none
  else
    let n := { n with test := { n.test with spares := Map.set 0 n.test.spares r.key (used + 1) } }
    if r.memory = 4 then
      some { n with stk := { n.stk with repairs := n.stk.repairs ++ [[r.region, r.placeA, r.placeB, used, r.row]] } }
    else
      some ({ n with test := { n.test with pendingRepairs := n.test.pendingRepairs ++ [(r.fields used, now)] } }.bump32 Reg.repairs)

/-! ### The test's result (R445) -/

/-- A unit returns to service. -/
def Node.unitBack (n : Node) (kind : UnitKind) (num : Nat) : Node :=
  { n with rcv := { n.rcv with units := Map.erase n.rcv.units (unitKey kind num) } }

/-- The targeted test passes: the error was transient (R445). A test on demand of a unit that showed no error leaves no record (R479). -/
def Node.unitPasses (n : Node) (now : Nat) (kind : UnitKind) (num : Nat) : Node :=
  if (n.unitState? kind num).any fun u => u.onDemand then (n.unitBack kind num).setReg Reg.testResult 0
  else (((n.unitBack kind num).outcome kind num 1 0xFFFFFFFF 0xFFFF).bump Reg.transients).rerun now (unitKey kind num)

/-- The targeted test fails: the row is repaired, or the unit is retired (R445, R477, Table 17-2). -/
def Node.unitFails (n : Node) (now : Nat) (kind : UnitKind) (num addr bit : Nat) : Node :=
  let n := n.bump Reg.lasting
  let n := if (n.unitState? kind num).any fun u => u.onDemand then
      (n.logError { tick := now, level := kind.level, kind := kind, unit := num }).setReg Reg.testResult 0 else n
  match (repairRow kind num addr).bind fun r => n.repair now r with
  | some n => ((n.unitBack kind num).outcome kind num 2 addr bit).rerun now (unitKey kind num)
  | none =>
    let n := n.outcome kind num (if kind = .chip then 4 else 3) addr bit
    (Node.retireUnit now 5 kind num (n.unitBack kind num)).rerun now (unitKey kind num)

/-- TARGETED_TEST_START (R445). -/
def execTargetedTestStart (kind : BitVec 8) (unit : BitVec 32) (s : State) : Host.Outcome State Fault Refusal :=
  let n := s.node
  match unitKindOf kind.toNat with
  | none => s.on n
  | some k =>
    match n.unitState? k unit.toNat with
    | none => s.on n
    | some u =>
      if u.retired ∨ u.started then s.on n
      else s.on ({ n with rcv := { n.rcv with units := Map.put n.rcv.units (unitKey k unit.toNat) { u with started := true } } }.bump Reg.targetedRun)

/-- The row copy of a stack row ends and the row map is switched (R278): in a MAINT window whose scrub bit is set. -/
def Node.rowRepair (n : Node) (now stack channel bank row : Nat) : Node :=
  match n.stk.repairs.find? fun (r : List Nat) => r.take 3 == [stack, channel, bank] && r.getD 4 0 == row with
  | none => n
  | some r =>
    if !n.maintAt now stack 2 then n
    else
      let fields := (RepairRow.fields { memory := 4, region := stack, placeA := channel, placeB := bank, row := row, spares := 32 } (r.getD 3 0))
      let n := { n with stk := { n.stk with repairs := n.stk.repairs.filter fun (x : List Nat) => x != r, rowMap := n.stk.rowMap ++ [r] } }
      let n := { n with test := { n.test with pendingRepairs := n.test.pendingRepairs ++ [(fields, now)] } }
      (n.bump32 Reg.rowsRepaired).bump32 Reg.repairs

/-- ROW_REPAIR (R278). -/
def execRowRepair (stack : Fin 16) (channel : Fin 32) (bank : BitVec 8) (row : BitVec 16) (s : State) : Host.Outcome State Fault Refusal :=
  s.on (s.node.rowRepair s.clock.tick stack.val channel.val bank.toNat row.toNat)

/-- A repair record (Table 18-5). -/
def repairRecord (fields : List Nat) (tick : Nat) : Bytes :=
  let b := leBytes 1 (fields.getD 0 0) ++ leBytes 1 (fields.getD 1 0) ++ leBytes 1 (fields.getD 2 0) ++ leBytes 1 (fields.getD 3 0) ++
    leBytes 2 (fields.getD 4 0) ++ leBytes 1 (fields.getD 5 0) ++ leBytes 1 0 ++ leBytes 5 tick ++ leBytes 1 0
  b ++ leBytes 2 (crc16 b)

/-- REPAIR_RECORD_WRITE (R478): the oldest repair not yet written goes to the package record, or REPAIR_FULL is set. -/
def execRepairRecordWrite (s : State) : Host.Outcome State Fault Refusal :=
  let n := s.node
  match n.test.pendingRepairs with
  | [] => s.on n
  | (fields, tick) :: rest =>
    let n := { n with test := { n.test with pendingRepairs := rest } }
    if n.reg Reg.repairRecordsMax ≤ s.pkg.repairs.length then
      s.on (n.setReg Reg.coverageStatus (n.reg Reg.coverageStatus ||| 2))
    else
      .next { s with node := n.setReg Reg.repairRecordsUsed (s.pkg.repairs.length + 1),
                     pkg := { s.pkg with repairs := s.pkg.repairs ++ [repairRecord fields tick] } }

/-- LOCKSTEP_MISMATCH (R470): an uncorrectable error of a chip unit. -/
def execLockstepMismatch (unit : BitVec 8) (s : State) : Host.Outcome State Fault Refusal :=
  s.on (s.node.unitFault s.clock.tick .chip unit.toNat)

end Sys2Proof.Machine
end

