-- ==== Sys2Proof/Machine/Frames.lean ====
section
/-!
DEFINITION. What leaves on a link port (chapters 13 and 14): the bytes of replies and frames, gates and gate rules, eligibility, strict
priority and deficit round robin, credits, the replay buffer, paths and frame counters; and what the queues' histograms sample.
-/

namespace Sys2Proof.Machine

/-! ### Messages and frames -/

/-- A reply's bytes (Table 3-9). -/
def Reply.bytes (r : Reply) : Bytes :=
  leBytes 2 r.status ++ leBytes 1 r.opcode ++ leBytes 1 r.detail ++ leBytes 4 r.requestId ++ leBytes 6 r.sequenceId ++ leBytes 2 r.session ++
  leBytes 5 r.queueTick ++ leBytes 2 r.node ++ leBytes 1 0 ++ leBytes 4 r.body.length ++ leBytes 4 r.info ++ r.body

/-- A message's bytes. -/
def OutMsg.message (m : OutMsg) : Bytes :=
  match m.reply with
  | some r => r.bytes
  | none => m.bytes

/-- The message's frames are sent with ENC (R354). -/
def OutMsg.enc (m : OutMsg) : Bool :=
  match m.reply with
  | some r => r.body != []
  | none => decide (3 ≤ m.ftype) && decide (m.ftype ≤ 6)

/-- Payload bytes of the message's next frame (R342). -/
def OutMsg.nextLen (m : OutMsg) : Nat := Nat.min 4096 (m.message.length - m.sent)

/-- 512-byte cells of a frame (R348, R373). -/
def frameCells (len : Nat) (enc : Bool) : Nat := ceilDiv (32 + len + if enc then 16 else 0) 512

/-- Cells of what is left of a message, frame by frame. -/
def OutMsg.cells (m : OutMsg) : Nat :=
  let left := m.message.length - m.sent
  left / 4096 * frameCells 4096 m.enc + if left % 4096 = 0 then 0 else frameCells (left % 4096) m.enc

/-- A port sends a VLAN tag (Table 13-12). -/
def Node.tagged (n : Node) (p : Nat) : Bool := n.portReg p Reg.vlan % 4096 != 0

/-- Bytes of a frame on the line: frame bytes on a native port, MAC bytes with preamble and gap on an Ethernet port (R347, R353). -/
def Node.lineBytes (n : Node) (p len : Nat) (enc : Bool) : Nat :=
  32 + len + (if enc then 16 else 0) + (if n.isNative p then 0 else 18 + (if n.tagged p then 4 else 0) + 20)

/-- Frame bytes as R346 counts them. -/
def Node.countBytes (n : Node) (p len : Nat) : Nat := len + if n.isNative p then 48 else 96

/-- The time of a frame on the line in ps, rounded up (Table 13-1). -/
def Node.linePs (n : Node) (p len : Nat) (enc : Bool) : Nat :=
  ceilDiv (n.lineBytes p len enc * 1000000) (if n.isNative p then 101500 else 100000)

/-! ### Gates (Table 14-1, R368 to R372) -/

/-- The GATES of a gate list at a unit of its cycle. -/
def gatesOf (raw : Bytes) : Nat → Nat → Nat → Nat
  | 0, _, _ => 0
  | fuel + 1, i, u =>
    let e := fieldB raw (8 + 4 * i) 4
    let d := e / 65536
    if u < d then e % 64 else gatesOf raw fuel (i + 1) (u - d)

/-- The gates of a named list, `units` gate units after its window's start (R369). -/
def Last.listGates (l : Last) (list units : Nat) : Nat :=
  match l.gates.find? fun g => g.number == list with
  | none => 0
  | some g =>
    let cycle := fieldB g.raw 4 4
    if cycle = 0 then 0 else gatesOf g.raw (fieldB g.raw 2 2) 0 (units % cycle)

/-- The plan in force at a tick: the active last, or the armed one from its commit tick on (R57, R370). -/
def Node.planAt (n : Node) (t : Nat) : Plan :=
  match n.plans.find? fun pl => decide (pl.2.base ≤ t) && (match pl.2.limit with | some l => decide (t < l) | none => true) with
  | some (_, pl) => pl
  | none => n.plan

/-- The window of a plan that a tick lies in, with its absolute start. -/
def Plan.windowAt (pl : Plan) (t kind target : Nat) : Option (Nat × Window) :=
  if t < pl.base ∨ pl.last.roundLen = 0 then none else
  let o := (t - pl.base) % pl.last.roundLen
  (pl.last.windows.find? fun w => w.kind == kind && w.target == target && decide (w.start ≤ o) && decide (o < w.start + w.length)).map
    fun w => (t - (o - w.start), w)

/-- The gates of a port in a gate unit of a tick, bit v for Qv (Table 14-1). Out of rounds no window runs (R410). -/
def Node.gatesAt (n : Node) (p t unit : Nat) : Nat :=
  let pl := n.planAt t
  match (if n.inRounds then pl.windowAt t 4 (0x100 + p) else none) with
  | some (start, w) => 0xC0 + pl.last.listGates w.param ((t - start) * 64 + unit)
  | none =>
    0xAF + match (if n.inRounds then pl.windowAt t 5 (0x100 + p) else none) with
      | some (_, w) => if bitOf w.param 3 then 0x10 else 0
      | none => 0

/-- The ps from the start of a tick at which a queue's gate next closes after a unit, looked for over `fuel` units; none where it stays open. -/
def Node.nextClose (n : Node) (p q t : Nat) : Nat → Nat → Option Nat
  | 0, _ => none
  | fuel + 1, u =>
    let v := u + 1
    if bitOf (n.gatesAt p (t + v / 64) (v % 64)) q then n.nextClose p q t fuel v else some (v * 15625)

/-- The gate rule of the port's gate mode lets a frame of Q0 to Q5 start at a time of the tick (R371, R372). -/
def Node.gateLets (n : Node) (p q t ps len : Nat) (enc : Bool) : Bool :=
  match n.nextClose p q t 8 (ps / 15625) with
  | none => true
  | some c =>
    if n.portReg p Reg.gateMode = 1 then decide (ps + n.reg Reg.guardUnits * 15625 ≤ c)
    else decide (ps + n.linePs p len enc + n.reg Reg.gateMarginNs * 1000 ≤ c)

/-! ### Choosing the frame (R366, R367) -/

/-- A port's shaping state. -/
def Node.shaper (n : Node) (p : Nat) : Shaper := Map.get {} n.links.shapers p

/-- Write a port's shaping state. -/
def Node.setShaper (n : Node) (p : Nat) (v : Shaper) : Node :=
  { n with links := { n.links with shapers := Map.set {} n.links.shapers p v } }

/-- The message at the head of a queue: in Q7 the one with the least notice tick goes before those without (R376). -/
def headOf (q : Nat) (l : List OutMsg) : Option OutMsg :=
  if q ≠ 7 then l.head?
  else
    let least := l.foldl (fun (b : Option OutMsg) m =>
      match m.notice, b with
      | none, b => b
      | some _, none => some m
      | some t, some x => if t < x.notice.getD 0 then some m else b) none
    match least with
    | some m => some m
    | none => l.head?

/-- Q7 of a SEND tick has room for a frame (R347); session-wide notices of a lost node, marked by notice tick 0, may take the spare too (R459). -/
def Node.q7Room (n : Node) (p t : Nat) (m : OutMsg) : Bool :=
  if !n.inRounds || ((n.planAt t).windowAt t 4 (0x100 + p)).isNone then true
  else
    let s := n.shaper p
    let used := if s.capTick = t then s.capUsed else 0
    let cap := if n.isNative p then 1024 else 768
    let spare := if m.notice = some 0 then (if n.isNative p then 4476 else 3232) else 0
    decide (used + n.lineBytes p m.nextLen m.enc ≤ cap + spare)

/-- Flits a frame takes: its bytes from a flit's first data byte on (R339; the fill of its last flit is a DESIGN CHOICE, log entry 76). -/
def frameFlits (len : Nat) (enc : Bool) : Nat := ceilDiv (32 + len + if enc then 16 else 0) 232

/-- A queue's head frame may start, the gate rule apart: its gate, credits and room in the replay buffer on a native port, PFC on an Ethernet one. -/
def Node.mayStart (n : Node) (p q t ps : Nat) : Option OutMsg :=
  match headOf q (n.queue p q) with
  | none => none
  | some m =>
    let l := n.port p
    let open_ := bitOf (n.gatesAt p (t + ps / 1000000) (ps / 15625 % 64)) q
    let native := !n.isNative p || (decide (l.unacked.length + frameFlits m.nextLen m.enc ≤ 256) &&
      (decide (6 ≤ q) || decide (frameCells m.nextLen m.enc ≤ Map.get 0 l.credits q)))
    let eth := n.isNative p || decide (6 ≤ q) || !bitOf l.paused q
    if open_ && native && eth && (q != 7 || n.q7Room p t m) then some m else none

/-- Count a frame that a gate rule holds, once (R372). -/
def Node.gateHold (n : Node) (p q : Nat) : Node :=
  let s := n.shaper p
  if s.held.contains q then n
  else
    let n := n.setShaper p { s with held := s.held ++ [q] }
    (n.setPortReg p Reg.gateHolds ((n.portReg p Reg.gateHolds + 1) % 2 ^ 64)).bump Reg.gateHoldsAll

/-- Weight of a queue in bytes of quantum (R367). -/
def Node.quantumOf (n : Node) (p q : Nat) : Nat := n.portReg p Reg.weights / 256 ^ q % 256 * 512

/-- Deficit round robin from the scheduler's place: the queue whose head frame starts, with the shaping state (R367). -/
def Node.drr (n : Node) (p t ps : Nat) : Nat → Node × Option (Nat × OutMsg)
  | 0 => (n, none)
  | fuel + 1 =>
    let s := n.shaper p
    let q := s.pos
    let next := { s with pos := (q + 1) % 6, visited := false }
    match n.mayStart p q t ps with
    | none => (n.setShaper p next).drr p t ps fuel
    | some m =>
      if !n.gateLets p q t ps m.nextLen m.enc then
        let n := n.gateHold p q
        (n.setShaper p { n.shaper p with pos := (q + 1) % 6, visited := false }).drr p t ps fuel
      else
        let d := Map.get 0 s.deficits q + if s.visited then 0 else n.quantumOf p q
        let b := n.countBytes p m.nextLen
        if b ≤ d then
          let left := if (n.queue p q).length = 1 ∧ m.sent + m.nextLen = m.message.length then 0 else d - b
          (n.setShaper p { s with deficits := Map.set 0 s.deficits q left, visited := true }, some (q, m))
        else (n.setShaper p { next with deficits := Map.set 0 s.deficits q d }).drr p t ps fuel

/-- The first eligible queue in the order Q7, Q6, then the weighted group (R366). -/
def Node.chooseFrame (n : Node) (p t ps : Nat) : Node × Option (Nat × OutMsg) :=
  match n.mayStart p 7 t ps with
  | some m => (n, some (7, m))
  | none =>
    match n.mayStart p 6 t ps with
    | some m => (n, some (6, m))
    | none => if (List.range 6).any fun q => (n.mayStart p q t ps).isSome then n.drr p t ps 72 else (n, none)

/-! ### Keys (R354, R417, R421) -/

/-- The LIVE key slot under which a message's frames go: its session's, or the slice's latest SLICE_LINK key. -/
def Node.keyFor (n : Node) (m : OutMsg) : Option Nat :=
  match m.reply with
  | some r =>
    let k := (n.session r.session).keySlot
    if (n.keySlot k).state = 1 then some k else none
  | none =>
    (n.sec.keys.foldl (fun (b : Option (Nat × Nat)) e =>
      if e.2.state = 1 ∧ e.2.ktype = 2 ∧ e.2.slice = m.slice then
        match b with
        | some (t, k) => if t ≤ e.2.liveTick then some (e.2.liveTick, e.1) else some (t, k)
        | none => some (e.2.liveTick, e.1)
      else b) none).map (·.2)

/-- A key's frame counter goes up by one: a warning at 2^63, and at 2^64 − 1 the key retires at the next boundary (R421). -/
def Node.useKey (n : Node) (now k : Nat) : Node :=
  let v := n.keySlot k
  let c := v.nonce + 1
  let n := n.setKey k { v with nonce := c, retireAt := if c = 2 ^ 64 - 1 then some (now + 1) else v.retireAt }
  if c = 2 ^ 63 then n.event 0x0040 (leBytes 2 k ++ leBytes 1 1)
  else if c = 2 ^ 64 - 1 then n.event 0x0040 (leBytes 2 k ++ leBytes 1 2) else n

/-- The nonce of a link frame (R354). -/
def linkNonce (src port ctr : Nat) : Nat := src + port * 2 ^ 16 + ctr * 2 ^ 32

/-! ### Starting a frame -/

/-- A Camris frame header (Table 13-4). -/
def camrisHeader (ftype vc flags src dst msgId off len keyId nonce pathSeq : Nat) : Bytes :=
  leBytes 1 1 ++ leBytes 1 ftype ++ leBytes 1 vc ++ leBytes 1 flags ++ leBytes 2 src ++ leBytes 2 dst ++ leBytes 4 msgId ++ leBytes 4 off ++
  leBytes 2 len ++ leBytes 2 keyId ++ leBytes 8 nonce ++ leBytes 4 pathSeq

/-- Data flits of a frame's bytes, 232 each. -/
def flitsOf : Nat → Bytes → List Bytes
  | 0, _ => []
  | fuel + 1, bs => if bs = [] then [] else sliceB bs 0 232 :: flitsOf fuel (bs.drop 232)

/-- A frame goes onto the line: flits into the replay buffer with the next SEQ values (R340), or an Ethernet frame; counted. -/
def Node.transmit (n : Node) (p : Nat) (frame : Bytes) : Node :=
  let l := n.port p
  let n := n.setPortReg p Reg.framesTx ((n.portReg p Reg.framesTx + 1) % 2 ^ 64)
  if n.isNative p then
    let fs := flitsOf 24 frame
    let l := { l with unacked := l.unacked ++ fs.zipIdx.map fun e => ((l.nextSeq + e.2) % 4096, e.1), nextSeq := (l.nextSeq + fs.length) % 4096,
                      nakOwed := false, owed := [], txFrame := frame }
    n.setPort p l
  else n.setPort p { l with txFrame := frame }

/-- The key of a path (R351). -/
def pathKey (endpoint vc : Nat) : Nat := endpoint * 8 + vc

/-- The final reply of a request has left: it counts as answered (R84), LATE where it left after its deadline (R83). -/
def Node.replyLeft (n : Node) (now : Nat) (r : Reply) : Node :=
  if r.status = stLateNotice then n.bump Reg.lateNotices
  else if r.final then
    let late := match n.admitted? (reqKey r.session r.requestId) with
      | some q => decide (q.deadline < now) && (r.status == stDone || r.status == stShort)
      | none => false
    (if late then n.bump Reg.lateDeliveries else n).answered r.session r.requestId
  else n

/-- Replace or remove the first message of a queue equal to `m`. -/
def updateMsg (m : OutMsg) (new : Option OutMsg) : List OutMsg → List OutMsg
  | [] => []
  | x :: rest => if x = m then (match new with | some y => y :: rest | none => rest) else x :: updateMsg m new rest

/-- Start the next frame of a message on a port (R342, R348, R351, R354). A message whose key is not LIVE is discarded (R420). -/
def Node.startFrame (n : Node) (now p q : Nat) (m : OutMsg) : Node :=
  let key := if m.enc then n.keyFor m else some 0
  match key with
  | none =>
    let n := n.setQueue p q (updateMsg m none (n.queue p q))
    match m.reply with
    | some r => if r.final then n.answered r.session r.requestId else n
    | none => n
  | some k =>
    let (id, n) := match m.msgId with
      | some i => (i, n)
      | none => (n.links.msgNext, { n with links := { n.links with msgNext := (n.links.msgNext + 1) % 2 ^ 32 } })
    let len := m.nextLen
    let data := sliceB m.message m.sent len
    let done := m.sent + len == m.message.length
    let flags := (if m.enc then 1 else 0) + (if m.sent = 0 then 2 else 0) + (if done then 4 else 0)
    let slot := n.keySlot k
    let numbered := !n.isNative p && decide (3 ≤ q) && decide (q ≤ 5)
    let path : Path := Map.get ({} : Path) n.links.tx (pathKey m.dst q)
    let head := camrisHeader m.ftype q flags n.straps m.dst id m.sent len (if m.enc then slot.keyId else 0) (if m.enc then slot.nonce else 0)
      (if numbered then path.next else 0)
    let frame := head ++ if m.enc then gcmSeal slot.key (linkNonce n.straps p slot.nonce) head data else data
    let n := if m.enc then n.useKey now k else n
    let n := if numbered then
        let t : Path := { path with next := (path.next + 1) % 2 ^ 32, unacked := path.unacked ++ [(path.next, now, 0, frame)] }
        { n with links := { n.links with tx := Map.set ({} : Path) n.links.tx (pathKey m.dst q) t } }
      else n
    let l := n.port p
    let c := Map.get 0 l.credits q - frameCells len m.enc
    let n := if n.isNative p ∧ q ≤ 5 then
        n.setPort p { l with credits := Map.set 0 l.credits q c,
                             stalledSince := if c = 0 then Map.put l.stalledSince q now else l.stalledSince }
      else n
    let s := n.shaper p
    let used := (if s.capTick = now then s.capUsed else 0) + if q = 7 then n.lineBytes p len m.enc else 0
    let busy := Nat.max (s.unit * 15625) s.busy + n.linePs p len m.enc
    let n := n.setShaper p { s with busy := busy, capTick := now, capUsed := used, held := s.held.filter fun x => x != q }
    let n := n.setQueue p q (updateMsg m (if done then none else some { m with sent := m.sent + len, msgId := some id }) (n.queue p q))
    let n := n.transmit p frame
    match m.reply with
    | some r => if done then n.replyLeft now r else n
    | none => n

/-- The port can start a frame: it starts the head of the first eligible queue (R366). Nothing is sent out of service (R356), in FAULT or in SAFE (R448),
nor before the frame before it has ended in this tick. -/
def Node.frameStart (n : Node) (now p : Nat) : Node :=
  let s := n.shaper p
  let ps := Nat.max (s.unit * 15625) s.busy
  if !n.inService p || n.st == stFault || n.st == stSafe || decide (1000000 ≤ ps) then n
  else
    match n.chooseFrame p now ps with
    | (n, none) => n
    | (n, some (q, m)) => n.startFrame now p q m

/-- FRAME_START (R366). -/
def execFrameStart (p : Fin 48) (s : State) : Host.Outcome State Fault Refusal := s.on (s.node.frameStart s.clock.tick p.val)

/-- The next gate unit of the tick begins (R369): GATE_STATE takes its gates. -/
def Node.gateUnit (n : Node) (now p : Nat) : Node :=
  let s := n.shaper p
  let u := Nat.min 63 (s.unit + 1)
  (n.setShaper p { s with unit := u }).setPortReg p Reg.gateState (n.gatesAt p now u)

/-- GATE_UNIT (R369). -/
def execGateUnit (p : Fin 48) (s : State) : Host.Outcome State Fault Refusal := s.on (s.node.gateUnit s.clock.tick p.val)

/-- A tick begins at the ports: gate unit 0, the time of a frame still running, and what idle flits have carried to native peers (R339, R348). -/
def Node.portsTick (n : Node) (now : Nat) : Node :=
  n.foldl (List.range 48) fun n p =>
    let s := n.shaper p
    let n := n.setShaper p { s with unit := 0, busy := s.busy - 1000000 }
    let n := if n.portReg p Reg.portMode = 1 ∧ 1 ≤ n.portReg p Reg.portState ∧ n.portReg p Reg.portState ≤ 3 then
        n.setPort p { n.port p with nakOwed := false, owed := [] } else n
    n.setPortReg p Reg.gateState (n.gatesAt p now 0)

/-! ### Statistics (R383) -/

/-- The bucket of a depth or delay (Table 14-5). -/
def histBucket (shift v : Nat) : Nat := if v = 0 then 1 else Nat.min 15 (Nat.log2 v + shift)

/-- Add one to a histogram bucket, which stops at 0xFFFFFFFF. -/
def histAdd (h : Map Nat) (key : Nat) : Map Nat := Map.set 0 h key (Nat.min 0xFFFFFFFF (Map.get 0 h key + 1))

/-- Add one sample of a queue: its depth and the ticks since its head was queued, none where it is empty. -/
def histSample (h : Map Nat) (queue : Nat) (v : Option (Nat × Nat)) : Map Nat :=
  match v with
  | none => histAdd (histAdd h (queue * 32)) (queue * 32 + 16)
  | some (d, t) => histAdd (histAdd h (queue * 32 + histBucket 1 d)) (queue * 32 + 16 + histBucket 2 t)

/-- A slow-tier port's traffic in 512-byte units and the tick of its oldest transfer: reads under way and spills. -/
def Node.slowTraffic (n : Node) (port : Nat) : List (Nat × Nat) :=
  (n.tiers.reads.filterMap fun r =>
    match (n.page r.page).slow with
    | some k => if r.started && n.slowPortOf k == port then some (32, r.tick) else none
    | none => none) ++
  (n.tiers.spillsNow.filterMap fun e => if n.slowPortOf e.2.1 = port then some (32, e.2.2) else none)

/-- Depth and head delay of a list of depths and queue ticks. -/
def sampleOf (now : Nat) (l : List (Nat × Nat)) : Option (Nat × Nat) :=
  match l with
  | [] => none
  | e :: _ => some ((l.map (·.1)).sum, now - e.2)

/-- The sample of every queue (R383): queue number port × 8 + queue, then 384 host booked, 385 host DRR, 386 and 387 the slow-tier ports. -/
def Node.sampleQueues (n : Node) (now : Nat) : Node :=
  let links := (List.range 384).foldl (fun h i =>
    histSample h i (sampleOf now ((n.queue (i / 8) (i % 8)).map fun m => (m.cells, m.queuedAt)))) n.links.hist
  let host := histSample links 384 (sampleOf now ((n.host.out.filter fun m => m.reply.isSome).map fun m => (ceilDiv m.message.length 512, m.queuedAt)))
  let drr := histSample host 385 (sampleOf now (n.host.dma.map fun m => (ceilDiv (m.data.length + 48) 512, m.queuedAt)))
  let h := histSample (histSample drr 386 (sampleOf now (n.slowTraffic 0))) 387 (sampleOf now (n.slowTraffic 1))
  { n with links := { n.links with hist := h } }

/-- STATISTICS_SAMPLE (R383): at every boundary that 64 divides. -/
def execStatisticsSample (s : State) : Host.Outcome State Fault Refusal :=
  s.on (if s.clock.tick % s.node.reg Reg.histPeriod = 0 then s.node.sampleQueues s.clock.tick else s.node)

/-- A write of HIST_CLEAR: 1 zeroes every histogram. -/
def Node.histClear (n : Node) (v : Nat) : Node := if v = 1 then { n with links := { n.links with hist := [] } } else n

/-- HIST_CLEAR (R383). -/
def execHistClear (via : Via) (v : BitVec 8) (s : State) : Host.Outcome State Fault Refusal :=
  s.command via 0x3101 5 [v] fun n => n.histClear v.toNat

end Sys2Proof.Machine
end

