-- ==== Sys2Proof/Machine/Loss.lean ====
section
/-!
DEFINITION. Lost sequences and lost nodes (R459, R463, R464): loss reports, session-wide notices, and what the loss of a node means for the
sequences that were coming in from it.
-/

namespace Sys2Proof.Machine

/-- The link port for session-wide notices: NOTICE_PORT, or the lowest node port in service. -/
def Node.noticePortOf (n : Node) : Option Nat :=
  let v := n.reg Reg.noticePort
  if v ≠ 0xFF then (if v < 48 then some v else none)
  else (List.range 48).find? fun p => n.inService p && (n.portSlice p).isNone

/-- A session-wide reply for sessions of another node, to their hosts (R459, R462). -/
def Node.sessionWide (n : Node) (now node status detail info : Nat) (notice : Option Nat) (sessions : List (Nat × Nat)) : Node :=
  match n.noticePortOf with
  | none => n
  | some p =>
    n.foldl sessions fun n e =>
      let r : Reply := { status := status, detail := detail, requestId := 0xFFFFFFFF, session := e.1, queueTick := now, node := node, info := info }
      n.enqueue p 7 { ftype := 2, dst := e.2, reply := some r, notice := notice, queuedAt := now }

/-- A status-only reply about one sequence to a host (R461, R463). -/
def Node.sequenceReply (n : Node) (now status detail node id session host info : Nat) : Node :=
  match n.noticePortOf with
  | none => n
  | some p =>
    if host = 0xFFFF then n
    else
      let r : Reply := { status := status, opcode := if status = stDone then opSeqOpen else 0, detail := detail, requestId := 0xFFFFFFFF, sequenceId := id,
                         session := session, queueTick := now, node := node, info := info }
      n.enqueue p 7 { ftype := 2, dst := host, reply := some r, queuedAt := now }

/-- The sessions of a node in this node's copy of its session table, with their hosts. -/
def Node.heldSessions (n : Node) (node : Nat) : List (Nat × Nat) :=
  (n.rcv.sessionsHeld.filter fun e => e.1 == node).map fun e => (e.2.1, e.2.2)

/-- A sequence enters a loss report (R463): the record and the reply. -/
def Node.lossReport (n : Node) (now id session node host reason : Nat) : Node :=
  let r : LossRec := { seqId := id, session := session, node := node, host := host, reason := reason, tick := now }
  (({ n with rcv := { n.rcv with losses := n.rcv.losses ++ [r] } }).bump Reg.lossEntries).sequenceReply now stSeqLost 0x71 node id session host 0

/-- A sequence of this node is LOST (R453, R463): its admitted requests end, and it enters a loss report. -/
def Node.loseSeq (n : Node) (now k reason : Nat) : Node :=
  let q := n.seq k
  if q.state = .free ∨ q.state = .lost then n
  else
    let n := n.endAll now stSeqLost 0 false fun a => a.names k
    let n := n.setSeq k { n.seq k with state := .lost, publish := none }
    n.lossReport now q.id q.session n.straps (Map.get 0xFFFF n.links.replyDst q.session) reason

/-- A sequence that was coming in is lost (R403, R462, R464). -/
def Node.loseIncoming (n : Node) (now id reason : Nat) : Node :=
  match Map.find n.rcv.incoming id with
  | none => n
  | some c =>
    let host := match n.rcv.rosters.find? fun r => r.seqId == id && r.op == 1 with
      | some r => r.host
      | none => Map.get 0xFFFF n.links.replyDst c.session
    let n := { n with rcv := { n.rcv with incoming := Map.erase n.rcv.incoming id },
                      comp := { n.comp with moving := n.comp.moving.filter fun k => k != seqLocal id } }
    n.lossReport now id c.session (c.lost.getD c.source) host reason

/-- The roster's sequences of a node that are not OPEN here. -/
def Node.rosterOpen (n : Node) (node : Nat) : List Roster :=
  let closed := (n.rcv.rosters.filter fun r => r.op == 2 && r.node == node).map fun r => r.seqId
  (n.rcv.rosters.filter fun r => r.op == 1 && r.node == node && !closed.contains r.seqId &&
    !((n.seq (seqLocal r.seqId)).id == r.seqId && (n.seq (seqLocal r.seqId)).state == .opened))

/-- A sequence known from a roster alone is lost. -/
def Node.loseRoster (n : Node) (now reason : Nat) (r : Roster) : Node :=
  if (Map.find n.rcv.incoming r.seqId).isSome then n.loseIncoming now r.seqId reason
  else
    let n := { n with comp := { n.comp with moving := n.comp.moving.filter fun k => k != seqLocal r.seqId } }
    n.lossReport now r.seqId r.session r.node r.host reason

/-- The node that streams a takeover to this one is lost (R464): the sequences not yet OPEN are lost with REASON 1. That no other node holds them is taken
from the lost node's stream being the only one (DESIGN CHOICE, log entry 83). -/
def Node.streamLost (n : Node) (now node : Nat) : Node :=
  let froms := (n.rcv.incoming.filter fun e => e.2.source == node).filterMap fun e => e.2.lost
  let nodes := froms.foldl (fun acc x => insertNat x acc) []
  n.foldl nodes fun n x => n.foldl (n.rosterOpen x) fun n r =>
    match Map.find n.rcv.incoming r.seqId with
    | some c => if c.source = node then n.loseRoster now 1 r else n
    | none => n.loseRoster now 1 r

/-- Set the state of a partner in PARTNER_STATE: 0 in service, 1 suspected, 2 lost. -/
def Node.setPartner (n : Node) (node v : Nat) : Node :=
  match n.comp.current with
  | none => n
  | some m =>
    let n := if m.weltA = node then n.setOctet Reg.partnerState 0 v else n
    if m.weltB = node then n.setOctet Reg.partnerState 1 v else n

/-- A node is lost (R459). A node that holds a copy of its session table acts for it (DESIGN CHOICE, log entry 77). -/
def Node.nodeLost (n : Node) (now node : Nat) : Node :=
  if n.rcv.lostNodes.contains node then n
  else
    let n := (({ n with rcv := { n.rcv with lostNodes := n.rcv.lostNodes ++ [node] } }).setPartner node 2).streamLost now node
    let held := n.heldSessions node
    if held = [] then n
    else (n.event 0x0030 (leBytes 2 node)).sessionWide now node stLateNotice 6 (now % 2 ^ 32) (some 0) held

end Sys2Proof.Machine
end

