-- ==== Sys2Proof/Machine/Time.lean ====
section
/-!
DEFINITION. Fabric time (R29 to R41): pulses and number frames, lock, selection and switchover, holdover, and how a node leaves its rounds (R410).
-/

namespace Sys2Proof.Machine

/-- The two tick inputs as numbers of TIME_SOURCE. -/
def tickNum : TickIn → Nat
  | .a => 1
  | .b => 2

/-- The other input. -/
def otherTick : TickIn → TickIn
  | .a => .b
  | .b => .a

/-- What the time unit knows of an input. -/
def TimeUnit.input (t : TimeUnit) : TickIn → TickInput
  | .a => t.a
  | .b => t.b

/-- Write what it knows of an input. -/
def TimeUnit.setInput (t : TimeUnit) (i : TickIn) (v : TickInput) : TimeUnit :=
  match i with
  | .a => { t with a := v }
  | .b => { t with b := v }

/-- Pulse symbols (Table 2-1). -/
inductive Pulse where
  | short | long | marker | invalid
deriving DecidableEq, Repr

/-- Classify a pulse by its width in ns (R30). -/
def pulseOf (w : Nat) : Pulse :=
  if 150 ≤ w ∧ w ≤ 349 then .short else if 400 ≤ w ∧ w ≤ 599 then .long else if 650 ≤ w ∧ w ≤ 849 then .marker else .invalid

/-- The node's own count at an edge: the boundary nearest to it (R34, R40; DEDUCED, log entry 3). -/
def Clock.countAt (c : Clock) (ns : Nat) : Nat := (c.tick + (ns + 500 - c.boundaryNs) / 1000) % 2 ^ 64

/-- One edge of an input (R30 to R32): the input, and the number of a frame whose last bit it brings. A gap above 1,050 ns starts a new series. -/
def TickInput.edge (t : TickInput) (ns width count : Nat) : TickInput × Option Nat :=
  let p := pulseOf width
  let gap := match t.lastEdge with | some l => ns - l | none => 1000
  if p = .invalid ∨ gap < 950 then (t, none)
  else
    let broken := decide (1050 < gap)
    let t := { t with lastEdge := some ns, missed := 0 }
    let t := if broken then { t with inFrame := false, prevFrame := none, locked := t.locked && decide (gap < 9050) } else t
    match p with
    | .marker => ({ t with inFrame := true, pos := 0, bits := 0, markCount := count }, none)
    | _ =>
      if !t.inFrame ∨ 64 ≤ t.pos then (t, none)
      else
        let b := t.bits * 2 + if p = .long then 1 else 0
        ({ t with bits := b, pos := t.pos + 1 }, if t.pos = 63 then some b else none)

/-- TIME_STATUS as the time unit stands (Table 2-10); bits 7 and 6 stay as they are. -/
def Node.timeBits (n : Node) (skew : Bool) : Nat :=
  let t := n.time
  (if t.a.locked then 1 else 0) + (if t.b.locked then 2 else 0) + (if t.selected = 1 then 4 else 0) + (if t.selected = 2 then 8 else 0) +
  (if t.holdover then 16 else 0) + (if skew then 32 else 0) + n.reg Reg.timeStatus / 64 * 64

/-- Bring TIME_STATUS and TIME_SOURCE up to date. -/
def Node.timeUpdate (n : Node) : Node :=
  (n.setReg Reg.timeSource n.time.selected).setTimeStatus (n.timeBits (bitOf (n.reg Reg.timeStatus) 5))

/-- SKEW_AB is set (R35). -/
def Node.skewed (n : Node) : Bool := bitOf (n.reg Reg.timeStatus) 5

/-- An input is locked and eligible (R35): not skewed while the other one is selected. -/
def Node.eligible (n : Node) (i : TickIn) : Bool :=
  (n.time.input i).locked && !(n.skewed && n.time.selected == tickNum (otherTick i))

/-- Select an input; a change from one input to the other is a switchover. -/
def Node.selectTick (n : Node) (i : TickIn) : Node :=
  let was := n.time.selected
  let n := { n with time := { n.time with selected := tickNum i, switchPending := none } }
  (if was ≠ 0 ∧ was ≠ tickNum i then n.bump32 Reg.switchCount else n).timeUpdate

/-- The skew of the inputs in ns: TICK_B edge minus TICK_A edge, of edges of one boundary (R35). -/
def TimeUnit.skew (t : TimeUnit) : Int :=
  match t.a.lastEdge, t.b.lastEdge with
  | some a, some b => ((b : Int) - (a : Int) + 500) % 1000 - 500
  | _, _ => 0

/-- SKEW_AB_CHECK (R35). -/
def Node.skewCheck (n : Node) : Node :=
  let d := n.time.skew
  let n := n.setReg Reg.skewAb ((d % 2 ^ 32).toNat)
  n.setTimeStatus (n.timeBits (decide (200 < d.natAbs)))

/-! ### Leaving rounds (R38, R39, R410) -/

/-- The node leaves rounds: HOLD, its requests end, a change under way is refused. `cause` is 1 for the holdover limit, 2 for TIME_SPLIT. -/
def Node.leaveRounds (n : Node) (now cause : Nat) : Node :=
  let bit := if cause = 1 then 6 else 7
  let n := n.setTimeStatus (n.reg Reg.timeStatus ||| 2 ^ bit)
  if !n.inRounds then (if n.comp.outCause = 0 then { n with comp := { n.comp with outCause := cause } } else n)
  else
    let n := { n with comp := { n.comp with outCause := cause, returnState := n.st, rejoinPending := false } }
    let n := n.setReg Reg.outOfRounds 1
    let n := if n.st = stPreop ∨ n.st = stOperational then n.setState now stHold (if cause = 1 then 2 else 3) else n
    let n := if cause = 1 then n.endAll now stGroupHold 1 false fun _ => true
             else n.endAll now stTimeSplit 3 true fun _ => true
    if n.reg Reg.commitState = 2 ∨ n.reg Reg.commitState = 3 then n.refuseChange now [(0x0F, 0)] else n

/-- Holdover begins (R38, R39): the limit is fixed, and requests whose deadline lies beyond it have their notice. -/
def Node.startHoldover (n : Node) (now : Nat) : Node :=
  let lim := n.reg Reg.holdoverLimit
  let n := { n with time := { n.time with selected := 0, holdover := true, holdoverStart := now, limit := lim, switchPending := none } }
  let n := n.timeUpdate
  n.foldl (n.unfinished.filter fun q => decide (now + lim < q.deadline)) fun n q => n.lateNotice now q 1 0xFFFFFFFF

/-- The selected input is gone: the other one takes over at the next boundary, or holdover begins (R36, R38). -/
def Node.loseTick (n : Node) (now : Nat) (i : TickIn) : Node :=
  let n := { n with time := n.time.setInput i { n.time.input i with locked := false, prevFrame := none, inFrame := false } }
  if n.time.selected ≠ tickNum i then n.timeUpdate
  else if n.eligible (otherTick i) || (n.time.input (otherTick i)).locked && !n.skewed then
    ({ n with time := { n.time with switchPending := some (otherTick i) } }).timeUpdate
  else n.startHoldover now

/-- An input has delivered a frame number and locks (R34): selection, or the end of holdover (R40). -/
def Node.lockTick (n : Node) (i : TickIn) : Node :=
  let n := { n with time := n.time.setInput i { n.time.input i with locked := true } }
  let t := n.time
  if t.holdover ∧ n.inRounds then
    let n := { n with time := { n.time with holdover := false, align := some i } }
    n.selectTick i
  else if t.selected = 0 ∧ n.inRounds then n.selectTick i
  else if n.reg Reg.tickPrimary = tickNum i ∧ t.selected ≠ tickNum i ∧ n.eligible i ∧ t.selected ≠ 0 then
    ({ n with time := { n.time with switchPending := some i } }).timeUpdate
  else n.timeUpdate

/-- What a whole frame number does to a node whose count is set (R34, R40, R41). -/
def Node.frameNumber (n : Node) (now : Nat) (i : TickIn) (v : Nat) : Node :=
  let ti := n.time.input i
  let agrees := decide (v = ti.markCount)
  let pair := ti.prevFrame == some ((v + 2 ^ 64 - 4096) % 2 ^ 64)
  let other := n.time.input (otherTick i)
  let put := fun (n : Node) => { n with time := n.time.setInput i { n.time.input i with prevFrame := some v } }
  let split := !agrees && other.prevFrame == some v
  let n :=
    if ti.locked then (if agrees then put n else put (n.loseTick now i))
    else if pair then
      (if agrees then put (n.lockTick i)
       else if n.time.holdover then (put n).leaveRounds now 2 else put n)
    else put n
  if split then n.leaveRounds now 2 else n

/-- TICK_EDGE (R30): an edge of an input at a time in ns, with the width of its pulse. The first two agreeing frames set the count (R34). -/
def execTickEdge (i : TickIn) (ns width : Nat) (s : State) : Host.Outcome State Fault Refusal :=
  let n := s.node
  let (ti, num) := (n.time.input i).edge ns width (s.clock.countAt ns)
  let n := { n with time := n.time.setInput i ti }
  let n := n.skewCheck
  match num with
  | none => s.on n.timeUpdate
  | some v =>
    if n.time.counted then s.on (n.frameNumber s.clock.tick i v).timeUpdate
    else if ti.prevFrame = some ((v + 2 ^ 64 - 4096) % 2 ^ 64) then
      let n := { n with time := { n.time.setInput i { ti with prevFrame := some v, locked := true } with counted := true } }
      .next { s with node := n.selectTick i, clock := { tick := (v + 64) % 2 ^ 64, boundaryNs := ns } }
    else s.on ({ n with time := n.time.setInput i { ti with prevFrame := some v } }).timeUpdate

/-- MISSED_TICK (R36): no valid edge within 1,050 ns; the boundary comes from the local oscillator, and a switch that waits for it is made. -/
def execMissedTick (i : TickIn) (s : State) : Host.Outcome State Fault Refusal :=
  let n := s.node
  let ti := n.time.input i
  let n := { n with time := n.time.setInput i { ti with missed := ti.missed + 1, inFrame := false, prevFrame := none } }
  match n.time.switchPending with
  | some j => s.on (if (n.time.input j).locked then n.selectTick j else n)
  | none => s.on n

/-- INPUT_LOST (R36): the 9th consecutive missed tick. -/
def execInputLost (i : TickIn) (s : State) : Host.Outcome State Fault Refusal :=
  s.on (if 9 ≤ (s.node.time.input i).missed ∧ (s.node.time.input i).locked then s.node.loseTick s.clock.tick i else s.node)

/-- HOLDOVER_LIMIT (R38): the end of the limit fixed for this holdover. -/
def execHoldoverLimit (s : State) : Host.Outcome State Fault Refusal :=
  let t := s.node.time
  s.on (if t.holdover ∧ t.holdoverStart + t.limit ≤ s.clock.tick ∧ s.node.inRounds then s.node.leaveRounds s.clock.tick 1 else s.node)

/-- A write of TICK_PRIMARY (R37): with both inputs locked and eligible the selection moves at the next boundary. -/
def Node.tickPrimaryWrite (n : Node) (v : Nat) : Node :=
  let n := n.setReg Reg.tickPrimary v
  let i : TickIn := if v = 1 then .a else .b
  if n.time.selected ≠ v ∧ n.time.selected ≠ 0 ∧ n.time.a.locked ∧ n.time.b.locked ∧ !n.skewed then
    { n with time := { n.time with switchPending := some i } }
  else n

/-- TICK_PRIMARY_WRITE (R37). -/
def execTickPrimaryWrite (via : Via) (v : BitVec 8) (s : State) : Host.Outcome State Fault Refusal :=
  s.command via 0x1100 4 [v] fun n => n.tickPrimaryWrite v.toNat

end Sys2Proof.Machine
end

