-- ==== Sys2Proof/Machine/Ports.lean ====
section
/-!
DEFINITION. The states of a link port (R356 to R363): training, service, DOWN with its causes, the replies that move to other ports (R465), nodes
found lost (R459), the loopback test and the targeted tests' results, held frames, credits that stall, and paths of Ethernet mode (R351, R352).
-/

namespace Sys2Proof.Machine

/-! ### Lost nodes and suspected partners (R457, R459) -/

/-- Every port that reaches a node directly is DOWN with LANE or PEER_SILENT (R459). -/
def Node.cutOff (n : Node) (node : Nat) : Bool :=
  let ports := (List.range 48).filter fun p => n.portReg p Reg.peer == node && n.portReg p Reg.portState != 0
  !ports.isEmpty && ports.all fun p => n.portReg p Reg.portState == 4 && (n.portReg p Reg.downReason == 1 || n.portReg p Reg.downReason == 8)

/-- A partner is suspected lost (R457). -/
def Node.suspect (n : Node) (node : Nat) : Node :=
  match n.comp.current with
  | none => n
  | some m =>
    let i := if m.weltA = node then some 0 else if m.weltB = node then some 1 else none
    match i with
    | none => n
    | some i => if n.octet Reg.partnerState i ≠ 0 then n else (n.setPartner node 1).event 0x0031 (leBytes 2 node)

/-! ### Replies caught on a port that leaves service (R465) -/

/-- The work that is left of a request once its items are placed: its send. -/
def sendWork (bytes : Nat) : Work := { statusOnly := bytes == 0, sendBytes := bytes }

/-- Book a reply's send on the first other port that takes it, from the tick its phase 2 ends or from now. -/
def Node.rebook (n : Node) (now : Nat) (ports : List Nat) (q : Admitted) : Option Admitted :=
  let n0 := { n with adm := { n.adm with admitted := n.adm.admitted.filter fun a => a.req.key != q.req.key } }
  ports.findSome? fun c =>
    match n0.placeSend (sendWork q.send.msg) (Nat.max now q.send.doneTick) { q with send := { q.send with port := c, notice := none } } with
    | some (_, _, some q') => some { q' with send := { q'.send with doneTick := q.send.doneTick } }
    | _ => none

/-- Book a reply that comes late on whichever of the ports can send it first, the lowest of equals (R465): the windows of four rounds from now on
are looked through (DESIGN CHOICE, log entry 132). -/
def Node.rebookLate (n : Node) (now : Nat) (ports : List Nat) (q : Admitted) : Option SendBooking :=
  let n0 := { n with adm := { n.adm with admitted := n.adm.admitted.filter fun a => a.req.key != q.req.key } }
  let far := now + 4 * n.reg Reg.roundLen
  ports.foldl (fun (b : Option SendBooking) c =>
    match n0.bookSend (sendWork q.send.msg) (Nat.max now q.send.doneTick) { q with deadline := far, send := { q.send with port := c, notice := none } } with
    | none => b
    | some (_, x) => match b with
      | some y => if y.sendTick ≤ x.sendTick then some y else some x
      | none => some x) none

/-- The booking of a late reply: that of `rebookLate`, else the first port with nothing booked. -/
def Node.lateBooking (n : Node) (now c : Nat) (cs : List Nat) (q : Admitted) : SendBooking :=
  match n.rebookLate now (c :: cs) q with
  | some b => { b with doneTick := q.send.doneTick }
  | none => { q.send with port := c, bytes := 0, cells := 0, notice := none }

/-- A reply that is booked and not yet queued moves to another port. Where none is in service the reply stays, and its notice waits with it (R80, R362;
DEDUCED, log entry 131). -/
def Node.moveBooking (n : Node) (now p : Nat) (q : Admitted) : Node :=
  match n.otherPorts p q.slice with
  | [] => if q.send.msg = 0 then n else n.lateNotice now q 7 0xFFFFFFFF
  | c :: cs =>
    if q.send.msg = 0 then n.setAdmitted q.req.key fun q => { q with send := { q.send with port := c } }
    else
      match n.rebook now (c :: cs) q with
      | some q' => n.setAdmitted q.req.key fun _ => q'
      | none =>
        let late := n.lateBooking now c cs q
        (n.lateNotice now { q with send := { q.send with port := c, notice := some 1 } } 7 0xFFFFFFFF).setAdmitted q.req.key fun q => { q with send := late }

/-- The notice of a queued reply that a port's DOWN makes late, on a port, once (R80, R465). -/
def Node.queuedLate (n : Node) (now c : Nat) (notice : Option Nat) (q : Admitted) : Node :=
  if q.lateSent then n else
  (n.queueReply now c (q.req.reply stLateNotice 7 0xFFFFFFFF []) notice 0 0).setAdmitted q.req.key fun q => { q with lateSent := true }

/-- A reply that waits in Q6 of the port moves to another port. -/
def Node.moveQueued (n : Node) (now p : Nat) (m : OutMsg) (r : Reply) : Node :=
  let key := reqKey r.session r.requestId
  match n.otherPorts p m.slice with
  | [] => match n.admitted? key with
    | none => n
    | some q => n.queuedLate now p q.send.notice q
  | c :: cs =>
    let n := n.setQueue p 6 (updateMsg m none (n.queue p 6))
    let fresh := { m with sent := 0, msgId := none }
    match n.admitted? key with
    | none => n.enqueue c 6 fresh
    | some q =>
      match n.rebook now (c :: cs) q with
      | some q' =>
        let n := n.setAdmitted key fun _ => q'
        n.enqueue q'.send.port 6 { fresh with winStart := q'.send.winStart, booked := q'.send.bytes }
      | none =>
        let late := n.lateBooking now c cs q
        let n := (n.queuedLate now c (some 1) q).setAdmitted key fun q => { q with send := late }
        n.enqueue late.port 6 { fresh with winStart := late.winStart, booked := late.bytes }

/-- Status entries that wait in Q7 of the port move to the first other port, with their notice ticks. -/
def Node.moveStatus (n : Node) (p : Nat) (m : OutMsg) : Node :=
  match n.otherPorts p m.slice with
  | [] => n
  | c :: _ => (n.setQueue p 7 (updateMsg m none (n.queue p 7))).enqueue c 7 m

/-- The replies of a port that leaves service (R465). -/
def Node.moveReplies (n : Node) (now p : Nat) : Node :=
  let n := n.foldl (n.unfinished.filter fun q => q.send.port == p) fun n q => n.moveBooking now p q
  let n := n.foldl (n.queue p 6) fun n m => match m.reply with
    | some r => n.moveQueued now p m r
    | none => n
  n.foldl ((n.queue p 7).filter fun m => m.reply.isSome) fun n m => n.moveStatus p m

/-- The frames still queued on a port are discarded and counted; finals among them count as answered (R84, R362). -/
def Node.discardHeld (n : Node) (p : Nat) : Node :=
  n.foldl (List.range 8) fun n q =>
    let l := n.queue p q
    let n := n.setPortReg p Reg.heldDiscards ((n.portReg p Reg.heldDiscards + l.length) % 2 ^ 64)
    let n := n.setQueue p q []
    n.foldl l fun n m => match m.reply with
      | some r => if r.final then n.answered r.session r.requestId else n
      | none => n

/-! ### DOWN and training (R356, R359, R361) -/

/-- A port enters TRAINING: the link starts again, credits are granted anew (R348, R356); the frames it holds stay for what is left of DOWN_HOLD (R362). -/
def Node.trainPort (n : Node) (now p : Nat) : Node :=
  let l := n.port p
  let fresh : Port :=
    { nextSeq := 0, trainStart := now, lastRx := now, destMac := l.destMac, peerFw := l.peerFw, txFrame := l.txFrame, downTick := l.downTick }
  (n.setPortReg p Reg.portState 1).setPort p fresh

/-- DOWN of a port (R359, R360, R362): nothing where it is DOWN or DISABLED. -/
def Node.portDown (n : Node) (now p reason : Nat) : Node :=
  if n.portReg p Reg.portState = 4 ∨ n.portReg p Reg.portState = 0 then n
  else
    let n := (n.setPortReg p Reg.portState 4).setPortReg p Reg.downReason reason
    let n := (n.event 0x0020 (leBytes 1 p ++ leBytes 1 reason)).bump Reg.downEvents
    let n := n.setPort p { n.port p with downTick := now, testing := true }
    let n := (n.unitError now .port p noRequest).moveReplies now p
    let peer := n.portReg p Reg.peer
    if peer < 1024 ∧ n.cutOff peer then n.nodeLost now peer else n

/-- The committed MODE of a port changes (R338): its replies move, everything else is discarded, and it trains in the new mode; MODE 0 disables it,
with PORT_DOWN and reason 7 (R359, R360). -/
def Node.modeCommit (n : Node) (now p v : Nat) : Node :=
  let n := (n.setPortReg p Reg.portState 4).moveReplies now p
  let finals := (List.range 8).flatMap fun q => (n.queue p q).filterMap fun m => m.reply.bind fun r => if r.final then some r else none
  let n := n.setPortReg p Reg.heldDiscards ((n.portReg p Reg.heldDiscards + finals.length) % 2 ^ 64)
  let n := n.foldl (List.range 8) fun n q => n.setQueue p q []
  let n := n.foldl finals fun n r => n.answered r.session r.requestId
  let n := (n.setPortReg p Reg.portMode v).setPortReg p Reg.q7Cap (if v = 2 ∨ v = 3 then 768 else 1024)
  if v = 0 then
    ((n.setPort p { destMac := (n.port p).destMac }).setPortReg p Reg.portState 0 |>.setPortReg p Reg.downReason 7).event 0x0020
      (leBytes 1 p ++ leBytes 1 7)
  else (n.setPort p { n.port p with downTick := now }).trainPort now p

/-- The loopback test of a port ends (R359). -/
def Node.loopback (n : Node) (now p : Nat) (pass : Bool) : Node :=
  let l := n.port p
  if !l.testing then n
  else
    let n := n.setPort p { l with testing := false }
    let demand := (n.unitState? .port p).any fun u => u.onDemand
    let n := n.setReg Reg.lastResult (leNat (resultRecord (if demand then 3 else 2) 0 .port (if pass then 0 else 1) p 0xFFFF 0xFFFFFFFF 0 (now - 1)))
    if pass then
      let n := n.unitPasses now .port p
      if n.portReg p Reg.autoRetrain = 1 ∧ n.portReg p Reg.portState = 4 then n.trainPort now p else n
    else n.unitFails now .port p 0xFFFFFFFF 0xFFFF

/-- LOOPBACK_RESULT (R359). -/
def execLoopbackResult (p : Fin 48) (pass : Bool) (s : State) : Host.Outcome State Fault Refusal := s.on (s.node.loopback s.clock.tick p.val pass)

/-- A targeted test has a result (R445); of a port it is its loopback test. A unit that is not under test has none. -/
def Node.testResult (n : Node) (now : Nat) (kind : UnitKind) (num : Nat) (pass : Bool) (addr bit : Nat) : Node :=
  if kind = .port then n.loopback now num pass
  else
    match n.unitState? kind num with
    | none => n
    | some u =>
      if u.retired then n
      else
        let r := resultRecord (if u.onDemand then 3 else 2) 0 kind (if pass then 0 else 1) num (if pass then 0xFFFF else bit)
          (if pass then 0xFFFFFFFF else addr) 0 (now - 1)
        let n := n.setReg Reg.lastResult (leNat r)
        if pass then n.unitPasses now kind num else n.unitFails now kind num addr bit

/-- TEST_RESULT (R445). -/
def execTestResult (kind : BitVec 8) (unit : BitVec 32) (pass : Bool) (addr : BitVec 32) (bit : BitVec 16) (s : State) :
    Host.Outcome State Fault Refusal :=
  match unitKindOf kind.toNat with
  | none => s.on s.node
  | some k => s.on (s.node.testResult s.clock.tick k unit.toNat pass addr.toNat bit.toNat)

/-- LANE_LOCK_LOSS (Table 13-8): reason 1. -/
def execLaneLockLoss (p : Fin 48) (s : State) : Host.Outcome State Fault Refusal := s.on (s.node.portDown s.clock.tick p.val 1)

/-- PEER_SILENT (Table 13-8): reason 8, once nothing valid has come for 8 ticks. -/
def execPeerSilent (p : Fin 48) (s : State) : Host.Outcome State Fault Refusal :=
  let n := s.node
  s.on (if (n.port p.val).lastRx + 8 ≤ s.clock.tick then n.portDown s.clock.tick p.val 8 else n)

/-- The training bound of a port's mode in ticks (R356). -/
def Node.trainBound (n : Node) (p : Nat) : Nat :=
  1000 * if n.isNative p then n.reg Reg.trainNativeMs else n.reg Reg.trainEthMs

/-- TRAIN_TIMEOUT (R356): reason 5, for a port still in TRAINING at its bound. -/
def execTrainTimeout (p : Fin 48) (s : State) : Host.Outcome State Fault Refusal :=
  let n := s.node
  s.on (if n.portReg p.val Reg.portState = 1 ∧ (n.port p.val).trainStart + n.trainBound p.val ≤ s.clock.tick
        then n.portDown s.clock.tick p.val 5 else n)

/-- REPLAY_ACK_TIMEOUT (Table 13-8): reason 3, for a replay not acknowledged within 1 tick. -/
def execReplayAckTimeout (p : Fin 48) (s : State) : Host.Outcome State Fault Refusal :=
  let n := s.node
  match (n.port p.val).replayStart with
  | none => s.on n
  | some (t, _) => s.on (if t + 1 ≤ s.clock.tick then n.portDown s.clock.tick p.val 3 else n)

/-- CREDIT_STALL (Table 13-8): no credit for a channel for 10,000 ticks; counted once, with its event. -/
def execCreditStall (p : Fin 48) (vc : Fin 8) (s : State) : Host.Outcome State Fault Refusal :=
  let n := s.node
  let l := n.port p.val
  match Map.find l.stalledSince vc.val with
  | none => s.on n
  | some t =>
    s.on (if t + 10000 ≤ s.clock.tick then
      ((n.setPort p.val { l with stalledSince := Map.erase l.stalledSince vc.val }).event 0x0021 (leBytes 1 p.val ++ leBytes 1 vc.val)).setPortReg p.val
        Reg.creditStalls ((n.portReg p.val Reg.creditStalls + 1) % 2 ^ 64)
      else n)

/-- A write of RETRAIN (R361): 1 takes a DOWN port that is not retired to TRAINING. -/
def Node.retrain (n : Node) (now p v : Nat) : Node :=
  if v = 1 ∧ n.portReg p Reg.portState = 4 ∧ !n.retired .port p ∧ n.portReg p Reg.portMode ≠ 0 then n.trainPort now p else n

/-- RETRAIN (R361). -/
def execRetrain (via : Via) (p : Fin 48) (v : BitVec 8) (s : State) : Host.Outcome State Fault Refusal :=
  s.command via (0x5000 + p.val * 0x40) 6 [v] fun n => n.retrain s.clock.tick p.val v.toNat

/-- DOWN_HOLD_EXPIRY (R362): a port out of service for DOWN_HOLD ticks since it went DOWN discards what it holds. -/
def execDownHoldExpiry (p : Fin 48) (s : State) : Host.Outcome State Fault Refusal :=
  let n := s.node
  let st := n.portReg p.val Reg.portState
  s.on (if st ≠ 0 ∧ st ≠ 3 ∧ (n.port p.val).downTick + n.reg Reg.downHold ≤ s.clock.tick then n.discardHeld p.val else n)

/-- READY ports enter service at a round boundary (Table 13-7). -/
def Node.portsToService (n : Node) : Node :=
  n.foldl ((List.range 48).filter fun p => n.portReg p Reg.portState == 2) fun n p => n.setPortReg p Reg.portState 3

/-! ### HELLO (R357) -/

/-- A HELLO payload (R357). -/
def Node.helloPayload (n : Node) (now p : Nat) : Bytes :=
  leBytes 2 n.straps ++ leBytes 1 p ++ leBytes 1 (n.portReg p Reg.portMode) ++ leBytes 1 (n.reg Reg.fwVersion % 256) ++
  leBytes 1 (n.reg Reg.fwVersion / 256 % 256) ++ leBytes 2 0 ++ leBytes 8 now ++ leBytes 4 (n.reg Reg.lastId) ++ leBytes 4 (n.reg Reg.configGen) ++
  List.replicate 40 0

/-- HELLO_SEND (R357): a TRAINING port sends a HELLO frame. -/
def execHelloSend (p : Fin 48) (s : State) : Host.Outcome State Fault Refusal :=
  let n := s.node
  if n.portReg p.val Reg.portState ≠ 1 then s.on n
  else
    let id := n.links.msgNext
    let n := { n with links := { n.links with msgNext := (id + 1) % 2 ^ 32 } }
    s.on (n.transmit p.val (camrisHeader 8 7 6 n.straps 0xFFFF id 0 64 0 0 0 ++ n.helloPayload s.clock.tick p.val))

/-- A HELLO arrives at a TRAINING port (R357). -/
def Node.helloReceive (n : Node) (now p : Nat) (v : Bytes) : Node :=
  if n.portReg p Reg.portState ≠ 1 then n
  else
    let peer := fieldB v 0 2
    let tick := fieldB v 8 8
    if n.portReg p Reg.peerExpect ≠ 0xFFFF ∧ n.portReg p Reg.peerExpect ≠ peer then n.portDown now p 4
    else if now < tick ∨ tick + 2 < now then (n.setPortReg p Reg.downReason 6).leaveRounds now 2
    else
      let n := ((n.setPortReg p Reg.portState 2).setPortReg p Reg.peer peer).setPortReg p Reg.peerPort (fieldB v 2 1)
      let n := n.setPortReg p Reg.trainMs ((now - (n.port p).trainStart) / 1000 % 65536)
      let grants := (List.range 6).map fun vc => (vc, n.reg Reg.inReserve)
      n.setPort p { n.port p with peerFw := fieldB v 4 2, owed := if n.isNative p then grants else [] }

/-- HELLO_RECEIVE (R357). -/
def execHelloReceive (p : Fin 48) (payload : Bytes) (s : State) : Host.Outcome State Fault Refusal :=
  s.on (s.node.helloReceive s.clock.tick p.val payload)

/-! ### Paths of Ethernet mode (R351, R352) -/

/-- A PATH_ACK payload of a received path (R352): the next number expected and which of the 64 after it have come. -/
def Path.ack (vc : Nat) (t : Path) : Bytes :=
  leBytes 1 vc ++ leBytes 3 0 ++ leBytes 4 t.expect ++
  leBytes 8 ((List.range 64).foldl (fun m i => if t.seen.contains ((t.expect + 1 + i) % 2 ^ 32) then m + 2 ^ i else m) 0)

/-- An Ethernet port in service that leads to an endpoint: the one its MAC address was learned on, or the route of the map. -/
def Node.ethPort (n : Node) (endpoint : Nat) : Option Nat :=
  match (List.range 48).find? fun p => n.inService p && !n.isNative p && (Map.find (n.port p).destMac endpoint).isSome with
  | some p => some p
  | none => (n.route endpoint).bind fun p => if n.inService p ∧ !n.isNative p then some p else none

/-- A PATH_ACK goes into Q7 for a path that holds frames not yet covered (R352). -/
def Node.pathAck (n : Node) (now endpoint vc : Nat) : Node :=
  let t : Path := Map.get {} n.links.rx (pathKey endpoint vc)
  match t.owedSince, n.ethPort endpoint with
  | some _, some p =>
    let t' : Path := { t with owedSince := none }
    let n := { n with links := { n.links with rx := Map.set {} n.links.rx (pathKey endpoint vc) t' } }
    n.enqueue p 7 { ftype := 10, dst := endpoint, bytes := t.ack vc, queuedAt := now }
  | _, _ => n

/-- PATH_ACK_SEND (R352). -/
def execPathAckSend (endpoint : BitVec 16) (vc : Fin 8) (s : State) : Host.Outcome State Fault Refusal :=
  s.on (s.node.pathAck s.clock.tick endpoint.toNat vc.val)

/-- Sequence numbers modulo 2^32: `a` lies before `b`. -/
def seqBefore (a b : Nat) : Bool := decide (0 < (b + 2 ^ 32 - a) % 2 ^ 32) && decide ((b + 2 ^ 32 - a) % 2 ^ 32 < 2 ^ 31)

/-- A PATH_ACK's payload covers frames of a path (R352). -/
def Node.pathAcked (n : Node) (endpoint : Nat) (v : Bytes) : Node :=
  let vc := fieldB v 0 1
  let cum := fieldB v 4 4
  let seen := fieldB v 8 8
  let t : Path := Map.get {} n.links.tx (pathKey endpoint vc)
  let left := t.unacked.filter fun e => !(seqBefore e.1 cum ||
    (let d := (e.1 + 2 ^ 32 - (cum + 1)) % 2 ^ 32
     decide (d < 64) && bitOf seen d))
  let t' : Path := { t with unacked := left }
  { n with links := { n.links with tx := Map.set {} n.links.tx (pathKey endpoint vc) t' } }

/-- PATH_ACK_RECEIVE (R352): `frame` is the Camris frame; its SRC is the endpoint whose frames it acknowledges. -/
def execPathAckReceive (p : Fin 48) (frame : Bytes) (s : State) : Host.Outcome State Fault Refusal :=
  let n := s.node
  s.on (if n.isNative p.val ∨ fieldB frame 1 1 ≠ 10 ∨ fieldB frame 0 1 ≠ 1 then n else n.pathAcked (fieldB frame 4 2) (frame.drop 32))

/-- A frame unacknowledged after PATH_RETRY_TICKS is resent, at most 4 times; then its destination is unreachable (R351, R457). -/
def Node.pathRetry (n : Node) (now endpoint vc number : Nat) : Node :=
  let t : Path := Map.get {} n.links.tx (pathKey endpoint vc)
  match t.unacked.find? fun e => e.1 == number with
  | none => n
  | some (_, sent, times, frame) =>
    if now < sent + n.reg Reg.pathRetryTicks then n
    else if 4 ≤ times then
      let t' : Path := { t with unacked := t.unacked.filter fun e => e.1 != number }
      ({ n with links := { n.links with tx := Map.set {} n.links.tx (pathKey endpoint vc) t' } }).suspect endpoint
    else
      match n.ethPort endpoint with
      | none => n
      | some p =>
        let t' : Path := { t with unacked := t.unacked.map fun e => if e.1 = number then (number, now, times + 1, frame) else e }
        let n := { n with links := { n.links with tx := Map.set {} n.links.tx (pathKey endpoint vc) t' } }
        (n.transmit p frame).setPortReg p Reg.pathResends ((n.portReg p Reg.pathResends + 1) % 2 ^ 64)

/-- PATH_RETRY (R351). -/
def execPathRetry (endpoint : BitVec 16) (vc : Fin 8) (number : BitVec 32) (s : State) : Host.Outcome State Fault Refusal :=
  s.on (s.node.pathRetry s.clock.tick endpoint.toNat vc.val number.toNat)

/-! ### Pauses (R338, R350) -/

/-- A PFC frame: from its MAC addresses and EtherType 0x8808 on, opcode 0x0101, the enable vector and eight times (IEEE 802.1Qbb). -/
def Node.pfcReceive (n : Node) (p : Nat) (frame : Bytes) : Node :=
  let be := fun (o : Nat) => fieldB frame o 1 * 256 + fieldB frame (o + 1) 1
  if n.isNative p ∨ be 12 ≠ 0x8808 ∨ be 14 ≠ 0x0101 then n
  else
    let l := n.port p
    let m := (List.range 6).foldl (fun m v => if bitOf (be 16) v then setBit m v (be (18 + 2 * v) != 0) else m) l.paused
    (n.setPort p { l with paused := m }).setPortReg p Reg.pfcRx ((n.portReg p Reg.pfcRx + 1) % 2 ^ 64)

/-- PFC_RECEIVE (R350). -/
def execPfcReceive (p : Fin 48) (frame : Bytes) (s : State) : Host.Outcome State Fault Refusal := s.on (s.node.pfcReceive p.val frame)

/-- PAUSE_RECEIVE (R338): ignored and counted. -/
def execPauseReceive (p : Fin 48) (s : State) : Host.Outcome State Fault Refusal :=
  let n := s.node
  s.on (n.setPortReg p.val Reg.pauseIgnored ((n.portReg p.val Reg.pauseIgnored + 1) % 2 ^ 64))

end Sys2Proof.Machine
end

