-- ==== Sys2Proof/Machine/Slices.lean ====
section
/-!
DEFINITION. Slices (R386 to R395, R435 to R441): binding, sessions, release, drain and scrub.
-/

namespace Sys2Proof.Machine

/-! ### Binding (R389 to R392) -/

/-- The resources of a SLICE_BIND (Table 15-4) as a slice record. -/
def Slice.ofBytes (v : Bytes) : Slice :=
  { tenant := fieldB v 4 4, blocks := fieldB v 8 32, channels := fieldB v 40 64, ports := fieldB v 104 6, sessFirst := fieldB v 110 2,
    sessCount := fieldB v 112 2 }

/-- Two slices share a block, a channel, a port or a session number. -/
def Slice.clash (a b : Slice) : Bool :=
  a.blocks &&& b.blocks != 0 || a.channels &&& b.channels != 0 || a.ports &&& b.ports != 0 ||
  (decide (a.sessFirst < b.sessFirst + b.sessCount) && decide (b.sessFirst < a.sessFirst + a.sessCount))

/-- Free slow-tier slots of the node. -/
def Node.slowFreeSlots (n : Node) : Nat := n.reg Reg.slowSlotCount - (n.tiers.slow.filter fun e => e.2.used).length

/-- The conditions of R391 with their codes; `pending` says that a bind which waited is checked again (R392). Slots that R315 and R299 would need at
once are none in a slice that holds nothing (DEDUCED, log entry 80). -/
def Node.bindCode (n : Node) (pending : Bool) (v : Bytes) : Nat :=
  let k := fieldB v 0 1
  let b := Slice.ofBytes v
  let cur := n.slice k
  let others := n.comp.slices.any fun e => e.1 != k && e.2.state != .free && e.2.clash b
  let gone := (List.range 512).any fun c => bitOf b.channels c && n.retired .channel c
  let high := fieldB v 126 1
  firstCode
    [(cur.state == .bound, 1), (others || gone, 2), (decide (122880 * popcount b.channels 512 < fieldB v 116 4), 3),
     (decide ((if n.slowPresent then n.slowFreeSlots else 0) < fieldB v 120 4), 4),
     (b.blocks == 0 || b.channels == 0 || b.sessCount == 0 || decide (3072 < b.sessFirst + b.sessCount), 5),
     (!pending && (cur.state == .releasing || cur.state == .scrubbing) && cur.pendingBind.isSome, 6),
     (decide (2 ^ 28 ≤ b.tenant) || fieldB v 114 2 != 0 || fieldB v 1 3 != 0 || decide (63 < k) || decide (100 < high) ||
       decide (high ≤ fieldB v 127 1) || decide (1920 < fieldB v 124 2), 7)]

/-- A key drawn at a bind (Table 16-1). -/
def Node.bindKey (n : Node) (now s tenant ktype len : Nat) : Node :=
  let (k, n) := n.draw len
  match n.freeKeySlot with
  | none => n
  | some slot => n.setKey slot { state := 1, ktype := ktype, tenant := tenant, slice := s, key := k, liveTick := now }

/-- A bind is applied (R389, R390): the generation goes on, the quota record is set, the slow-tier keys are drawn. -/
def Node.applyBind (n : Node) (now : Nat) (v : Bytes) : Node :=
  let s := fieldB v 0 1
  let b := Slice.ofBytes v
  let n := n.setSlice s { b with bindGen := ((n.slice s).bindGen + 1) % 256 }
  let n := n.setSliceState now s .bound
  let n := n.setQuota s { high := fieldB v 126 1, low := fieldB v 127 1, t0Kib := fieldB v 124 2, t1Slots := fieldB v 116 4,
                          slowSlots := if n.slowPresent then fieldB v 120 4 else 0 }
  (n.bindKey now s b.tenant 4 64).bindKey now s b.tenant 5 32

/-- A write of SLICE_BIND (R391, R392). -/
def Node.sliceBind (n : Node) (now : Nat) (v : Bytes) : Node :=
  let s := fieldB v 0 1
  let code := n.bindCode false v
  let n := n.setReg Reg.bindResult code
  if code ≠ 0 then n
  else if (n.slice s).state = .free then n.applyBind now v
  else n.setSlice s { n.slice s with pendingBind := some v }

/-- SLICE_BIND (R391). -/
def execSliceBind (via : Via) (value : Bytes) (s : State) : Host.Outcome State Fault Refusal :=
  s.command via 0x3204 1 value fun n => n.sliceBind s.clock.tick value

/-- Binds that waited are checked again and applied at the boundary after scrub ends (R392). -/
def Node.pendingBinds (n : Node) (now : Nat) : Node :=
  n.foldl (n.comp.slices.filter fun e => e.2.state == .free && e.2.pendingBind.isSome && decide (e.2.stateTick < now)) fun n e =>
    let v := e.2.pendingBind.getD []
    let n := n.setSlice e.1 { n.slice e.1 with pendingBind := none }
    let code := n.bindCode true v
    let n := n.setReg Reg.bindResult code
    if code = 0 then n.applyBind now v else n

/-! ### Sessions (R393) -/

/-- The BOUND slice that a session number lies in. -/
def Node.sliceOfSession (n : Node) (x : Nat) : Option (Nat × Slice) :=
  n.comp.slices.find? fun e => e.2.state == .bound && decide (e.2.sessFirst ≤ x) && decide (x < e.2.sessFirst + e.2.sessCount)

/-- A reply port of a slice: its own link ports, node ports, its host function (R393). -/
def Node.replyPortOk (n : Node) (s port : Nat) : Bool := port == 0x101 + s || (decide (port < n.reg Reg.linkPorts) && n.portUsable s port)

/-- The slot holds a LIVE SESSION key of the slice. -/
def Node.sessionKey (n : Node) (s k : Nat) : Bool :=
  let v := n.keySlot k
  v.state == 1 && v.ktype == 1 && v.slice == s

/-- The open requests of some sessions end with TENANT_GONE (R82, R393, R394). -/
def Node.sessionsGone (n : Node) (now : Nat) (f : Nat → Bool) : Node :=
  (n.endWaiting now stTenantGone fun w => f w.req.sess).endAll now stTenantGone 0 false fun q => f q.req.sess

/-- A session leaves the table: its traffic leaves the DRR of the host port (R381). -/
def Node.dropSession (n : Node) (x : Nat) : Node :=
  { n with host := { n.host with deficits := Map.erase n.host.deficits x, dma := n.host.dma.filter fun d => d.session != x } }

/-- A write of SESSION_SET (R393). -/
def Node.sessionSet (n : Node) (now : Nat) (v : Bytes) : Node :=
  let x := fieldB v 0 2
  let op := fieldB v 2 1
  let port := fieldB v 4 2
  let key := fieldB v 6 2
  let at_ := n.sliceOfSession x
  let s := (at_.map (·.1)).getD 64
  let cur := n.session x
  let code := firstCode
    [(at_.isNone, 1), ((op != 1 && op != 2) || fieldB v 3 1 != 0 || fieldB v 12 4 != 0, 2), (op == 1 && !n.replyPortOk s port, 3),
     (op == 1 && !n.sessionKey s key, 4), (op == 2 && cur.state != 1, 5)]
  let n := n.setReg Reg.sessionResult code
  if code ≠ 0 then n
  else if op = 1 then
    let tenant := (n.slice s).tenant
    (n.setSession x { cur with state := 1, slice := s, tenant := tenant, replyPort := port, keySlot := key, quantum := fieldB v 8 4,
                               lastActivity := if cur.state = 1 then cur.lastActivity else now }).journal 6 x
      (Map.get 0xFFFF n.links.replyDst x) 1 []
  else (((n.sessionsGone now fun y => y == x).journal 6 x 0 0 []).dropSession x).setSession x {}

/-- A SESSION_SET with the OP its row names. -/
def sessionValue (op : Nat) (v : Bytes) : Bytes := v.take 2 ++ [BitVec.ofNat 8 op] ++ v.drop 3

/-- SESSION_OPEN (R393). -/
def execSessionOpen (via : Via) (value : Bytes) (s : State) : Host.Outcome State Fault Refusal :=
  s.command via 0x3204 4 (sessionValue 1 value) fun n => n.sessionSet s.clock.tick (sessionValue 1 value)

/-- SESSION_CLOSE (R393). -/
def execSessionClose (via : Via) (value : Bytes) (s : State) : Host.Outcome State Fault Refusal :=
  s.command via 0x3204 4 (sessionValue 2 value) fun n => n.sessionSet s.clock.tick (sessionValue 2 value)

/-! ### Release (R394, R436, R437) -/

/-- A queued message that a release takes away: anything of the slice but its status entries (R436, R376). -/
def OutMsg.taken (m : OutMsg) (s : Nat) : Bool :=
  m.slice == s && (match m.reply with | some r => r.body != [] | none => decide (3 ≤ m.ftype) && decide (m.ftype ≤ 6))

/-- A reply caught by a release: a result that has not started is replaced by TENANT_GONE (R79, R436); one that has started loses its other frames. -/
def Node.replyTaken (n : Node) (now port : Nat) (m : OutMsg) : Node :=
  match m.reply with
  | none => n
  | some r =>
    if !r.final then n
    else if m.sent = 0 then n.queueReply now port { r with status := stTenantGone, detail := 0, info := 0, body := [] } m.notice 0 0
    else n.answered r.session r.requestId

/-- Unstarted frames of the slice leave every queue (R436). -/
def Node.discardTraffic (n : Node) (now s : Nat) : Node :=
  let n := n.foldl (List.range 384) fun n i =>
    let l := n.queue (i / 8) (i % 8)
    if l.any (fun m => m.taken s) then
      (n.setQueue (i / 8) (i % 8) (l.filter fun m => !m.taken s)).foldl (l.filter fun m => m.taken s) fun n m => n.replyTaken now (i / 8) m
    else n
  let out := n.host.out.filter fun m => m.taken s
  let n := { n with host := { n.host with out := n.host.out.filter (fun m => !m.taken s), dma := n.host.dma.filter (fun d => d.func != s + 1) } }
  n.foldl out fun n m => n.replyTaken now m.dst m

/-- Near-bank commands of the slice that have not started are withdrawn without a token (R437). -/
def Node.withdraw (n : Node) (s : Nat) : Node :=
  let queues := Map.norm [] n.stk.queues fun _ l => l.filter fun c => !(tagSlice c.args.tag.toNat == s && c.done == 0)
  { n with stk := { n.stk with queues := queues } }

/-- The models and tenant programs of a tenant without a slice are retired (R394). -/
def Node.retireTenant (n : Node) (now tenant : Nat) : Node :=
  let models := n.models.map fun (e : Nat × Model) =>
    if e.2.tenant = tenant ∧ e.2.state = 1 then (e.1, { e.2 with state := 2, freeFrom := now + 1 }) else e
  let progs := n.progs.map fun (e : Nat × Prog) =>
    if e.2.tenant = tenant ∧ e.2.state ≠ 3 then (e.1, { e.2 with state := 3, readyAfter := now + 1 }) else e
  { n with models := models, progs := progs }

/-- The pages, sequences and moves of a slice end without replies (R394, R466). -/
def Node.dropSequences (n : Node) (s : Nat) : Node :=
  let gone := (n.rcv.incoming.filter fun e => e.2.slice == s).map fun e => seqLocal e.1
  let n := { n with rcv := { n.rcv with incoming := n.rcv.incoming.filter (fun e => e.2.slice != s),
                                        restores := n.rcv.restores.filter (fun e => (n.page e.1).slice != s),
                                        takeovers := n.rcv.takeovers.filter (fun t => t.slice != s || t.lost != n.straps) },
                    comp := { n.comp with moving := n.comp.moving.filter (fun k => !gone.contains k) } }
  n.foldl ((n.seqs.seqs.filter fun e => e.2.slice == s).map (·.1)) fun n k => n.releaseSeq k

/-- Release of a BOUND slice (R394, R436). -/
def Node.releaseSlice (n : Node) (now s : Nat) : Node :=
  let b := n.slice s
  if 63 < s ∨ b.state ≠ .bound then n
  else
    let n := n.foldl ((n.sec.keys.filter fun e => e.2.slice == s && e.2.state == 1).map (·.1)) fun n k => n.retireKey k
    let inSlice := fun (x : Nat) => decide (b.sessFirst ≤ x) && decide (x < b.sessFirst + b.sessCount)
    let n := n.sessionsGone now inSlice
    let n := n.discardTraffic now s
    let table := n.adm.sessions.map fun (e : Nat × Session) => if inSlice e.1 then (e.1, { e.2 with state := 2 }) else e
    let n := { n with adm := { n.adm with sessions := table } }
    let n := n.foldl ((n.adm.sessions.filter fun e => inSlice e.1).map (·.1)) Node.dropSession
    let n := match n.tiers.stagedQuota with
      | some v => if fieldB v 0 1 = s then { n with tiers := { n.tiers with stagedQuota := none } } else n
      | none => n
    let n := n.foldl ((n.share.domains.filter fun e => e.2.slice == s).map (·.1)) Node.dropDomain
    let n := n.foldl ((n.indexes.filter fun e => e.2.slice == s).map (·.1)) fun n k => n.retireIndex now k
    let n := n.dropSequences s
    let n := n.withdraw s
    let n := n.setSlice s { b with drainTick := now + n.reg Reg.drainTicks, usedAtRelease := n.t1Used s }
    let n := (n.setSliceState now s .releasing).journal 7 0 (s + 1) 0 []
    if n.tenantBound b.tenant then n else n.retireTenant now b.tenant

/-- SLICE_RELEASE (R394). -/
def execSliceRelease (via : Via) (v : BitVec 8) (s : State) : Host.Outcome State Fault Refusal :=
  s.command via 0x3204 3 [v] fun n => n.releaseSlice s.clock.tick v.toNat

/-! ### Drain and scrub (R438 to R441) -/

/-- S_T of R440. -/
def Node.scrubTicks (n : Node) (s : Nat) : Nat :=
  let m := Nat.max 1 (ceilDiv (Nat.max (n.quota s).t1Slots (n.slice s).usedAtRelease) 1048576)
  n.reg Reg.scrubFix + n.reg Reg.scrubPer16g * m

/-- TENANT_GONE finals of the slice that have not left are discarded and counted (R84, R438). -/
def Node.unsentFinals (n : Node) (s : Nat) : Node :=
  let gone := fun (m : OutMsg) => m.slice == s && (match m.reply with | some r => r.final && r.status == stTenantGone | none => false)
  let drop := fun (n : Node) (m : OutMsg) => match m.reply with
    | some r => (n.bump Reg.unsentFinals).answered r.session r.requestId
    | none => n
  let n := n.foldl (List.range 384) fun n i =>
    let l := n.queue (i / 8) (i % 8)
    if l.any gone then (n.setQueue (i / 8) (i % 8) (l.filter fun m => !gone m)).foldl (l.filter gone) drop else n
  let out := n.host.out.filter gone
  let n := { n with host := { n.host with out := n.host.out.filter fun m => !gone m } }
  n.foldl out drop

/-- The address lies in on-die memory of the blocks of a mask (Table 7-3, R440). -/
def inBlocks (blocks a : Nat) : Bool :=
  let r := a / 2 ^ 27 % 16
  let area := a / 2 ^ 25 % 4
  if area = 0 then bitOf blocks (r * 16 + a / 2 ^ 17 % 256 / 16) else if area = 1 then bitOf blocks (r * 16 + a / 2 ^ 21 % 16) else false

/-- Thread state, tile registers, item queues, session contexts, mailboxes and function registers of the slice are cleared (Table 16-9, on-die
part; R441). What refuses the sessions' requests with TENANT_GONE stays until the slice is FREE (Table 15-3; DEDUCED, log entry
135). -/
def Node.scrubCells (n : Node) (s : Nat) : Node :=
  let b := n.slice s
  let cell := fun (c : Nat) => bitOf b.blocks (c / 16)
  let mine := fun (x : Nat) => decide (b.sessFirst ≤ x) && decide (x < b.sessFirst + b.sessCount)
  let left := fun (v : Session) => ({ state := v.state, slice := v.slice, tenant := v.tenant, replyPort := v.replyPort } : Session)
  { n with cells := { threads := n.cells.threads.filter (fun e => !cell (e.1 / 16)), tiles := n.cells.tiles.filter (fun e => !cell (e.1 / 16)),
                      queues := n.cells.queues.filter (fun e => !cell e.1) },
           adm := { n.adm with sessions := n.adm.sessions.map fun (e : Nat × Session) => if mine e.1 then (e.1, left e.2) else e },
           host := { n.host with boxes := n.host.boxes.filter (fun e => !mine e.1), funcs := n.host.funcs.filter (fun e => e.1 != s) } }

/-- The drain bound of a slice: SCRUBBING begins (R438, R440). -/
def Node.startScrub (n : Node) (now s : Nat) : Node :=
  let n := (n.unsentFinals s).scrubCells s
  let n := n.setSlice s { n.slice s with scrubEnd := now + n.scrubTicks s }
  n.setSliceState now s .scrubbing

/-- DRAIN_BOUND (R438). -/
def execDrainBound (slice : Fin 64) (s : State) : Host.Outcome State Fault Refusal :=
  let n := s.node
  let b := n.slice slice.val
  if b.state = .releasing ∧ b.drainTick ≤ s.clock.tick then
    .next { s with node := n.startScrub s.clock.tick slice.val, mem := s.mem.filter fun c => !inBlocks b.blocks c.1 }
  else s.on n

/-- The records of a slice go: pages, gradients, weight copies, indexes, replicas; slow-tier slots keep their GEN (Table 16-9). -/
def Node.scrubTables (n : Node) (s : Nat) : Node :=
  let pages := (n.seqs.pages.filter fun e => e.2.slice == s).map (·.1)
  let weights := n.tiers.weights.map fun (e : Nat × Weight) => if e.2.slice = s ∧ e.2.state ≠ 0 then (e.1, ({} : Weight)) else e
  let tiers := { n.tiers with
    weights := weights.filter (fun (e : Nat × Weight) => e.2 != {})
    slow := n.tiers.slow.map fun (e : Nat × SlowSlot) => if e.2.slice = s then (e.1, { gen := e.2.gen }) else e
    reads := n.tiers.reads.filter (fun r => !pages.contains r.page)
    background := n.tiers.background.filter (fun p => !pages.contains p)
    spillsNow := n.tiers.spillsNow.filter (fun e => !pages.contains e.1) }
  let sq := { n.seqs with pages := n.seqs.pages.filter (fun e => e.2.slice != s), slots := n.seqs.slots.filter (fun e => e.2 != s) }
  { n with seqs := sq, tiers := tiers, grads := n.grads.filter (fun g => Map.get s n.seqs.slots g.2.slot != s),
           indexes := n.indexes.filter (fun e => e.2.slice != s), packers := n.packers.filter (fun k => !pages.contains k.page),
           packOrder := n.packOrder.filter (fun e => !pages.contains e.2), rcv := { n.rcv with replicas := n.rcv.replicas.filter fun r => r.slice != s } }

/-- Every channel of the slice reads as FREE lines of zeros (R277, R389). -/
def Node.scrubChannels (n : Node) (s : Nat) : Node :=
  let c := (n.slice s).channels
  n.foldl ((List.range 512).filter fun i => bitOf c i) fun n i => n.zeroChannel (i / 32) (i % 32)

/-- Scrub ends (R394, R435, R440): quota zero, slots of the slice's retired keys FREE, the slice FREE. -/
def Node.endScrub (n : Node) (now s : Nat) : Node :=
  let b := n.slice s
  let n := (n.scrubChannels s).scrubTables s
  let gone := fun (x : Nat) => decide (b.sessFirst ≤ x) && decide (x < b.sessFirst + b.sessCount)
  let n := { n with adm := { n.adm with sessions := n.adm.sessions.filter fun e => !gone e.1 } }
  let n := n.setQuota s { high := 0, low := 0 }
  let n := { n with sec := { n.sec with keys := n.sec.keys.filter fun e => !(e.2.slice == s && e.2.state == 2) } }
  let n := (n.setSlice s { bindGen := b.bindGen, pendingBind := b.pendingBind }).bump Reg.scrubs
  let n := n.setSliceState now s .free
  let last := !(n.comp.slices.any fun e => e.2.state != .free && e.2.tenant == b.tenant)
  if last then { n with sec := { n.sec with inspected := Map.erase n.sec.inspected b.tenant } } else n

/-- SCRUB_END (R440): exactly S_T ticks after the drain bound. -/
def execScrubEnd (slice : Fin 64) (s : State) : Host.Outcome State Fault Refusal :=
  let b := s.node.slice slice.val
  s.on (if b.state = .scrubbing ∧ b.scrubEnd = s.clock.tick then s.node.endScrub s.clock.tick slice.val else s.node)

end Sys2Proof.Machine
end

