-- ==== Sys2Proof/Machine/Mailbox.lean ====
section
/-!
DEFINITION. The mailbox pages of sessions (Table 21-3): their registers, and the page as fabric address space 5 shows it to threads (Table 7-3, R525).
-/

namespace Sys2Proof.Machine

/-- A session's mailbox. -/
def Node.box (n : Node) (x : Nat) : Mailbox := Map.get {} n.host.boxes x

/-- Write a session's mailbox. -/
def Node.setBox (n : Node) (x : Nat) (b : Mailbox) : Node := { n with host := { n.host with boxes := Map.set {} n.host.boxes x b } }

/-- A write dropped and counted (R522, R523). -/
def Node.registerDrop (n : Node) : Node := n.bump Reg.registerDrops

/-- The slice whose mailbox page a session is, while it is BOUND (R522). -/
def Node.boxSlice (n : Node) (x : Nat) : Option Nat := (n.sliceOfSession x).bind fun e => if e.2.state = .bound then some e.1 else none

/-- Ring registers that the driver has written by no command of the table (log entry 93): sizes are powers of 2 from 16 to 4,096, bases 64-byte
aligned. -/
def Node.fillBox (n : Node) (x : Nat) : Node :=
  let b := n.box x
  if b.sqSize ≠ 0 ∧ b.cqSize ≠ 0 then n
  else
    let (v, n) := n.draw 32
    n.setBox x { b with sqSize := 2 ^ (4 + fieldB v 0 4 % 9), cqSize := 2 ^ (4 + fieldB v 4 4 % 9), sqBase := fieldB v 8 8 / 64 * 64,
                        cqBase := fieldB v 16 8 / 64 * 64, msix := fieldB v 24 2 % 64 }

/-- A write of CTRL: ENABLE, and MSTATUS between 0 and 1 (R526). -/
def Node.mailboxEnable (n : Node) (x v : Nat) : Node :=
  match n.boxSlice x with
  | none => n.registerDrop
  | some _ =>
    if v % 2 = 1 then
      let n := n.fillBox x
      n.setBox x { n.box x with enable := true, mstatus := 1 }
    else n.setBox x { n.box x with enable := false, mstatus := 0 }

/-- The registers of a mailbox page as its first 48 bytes (Table 21-3). -/
def Mailbox.bytes (b : Mailbox) : Bytes :=
  leBytes 8 b.sqBase ++ leBytes 4 b.sqSize ++ leBytes 4 b.cqSize ++ leBytes 8 b.cqBase ++ leBytes 4 b.sqTail ++ leBytes 4 b.sqHead ++
  leBytes 4 b.cqHead ++ leBytes 4 b.cqTail ++ leBytes 2 b.msix ++ leBytes 1 (if b.enable then 1 else 0) ++ leBytes 1 b.mstatus ++ leBytes 4 0

/-- Bytes of a session's mailbox page; a page with no BOUND slice reads 0. -/
def Node.boxRead (n : Node) (x off len : Nat) : Bytes :=
  if (n.boxSlice x).isNone then List.replicate len 0 else sliceB (n.box x).bytes off len

/-- Write bytes into a session's mailbox page: the ring fields only while ENABLE is 0, the doorbell and CQ_HEAD always, CTRL with its effect; the rest is
read-only. -/
def Node.boxWrite (n : Node) (x off : Nat) (data : Bytes) : Node :=
  if (n.boxSlice x).isNone then n.registerDrop
  else
    let b := n.box x
    let v := spliceB (sliceB b.bytes 0 4096) off data
    let b1 := if b.enable then b
      else { b with sqBase := fieldB v 0 8, sqSize := fieldB v 8 4, cqSize := fieldB v 12 4, cqBase := fieldB v 16 8, msix := fieldB v 0x28 2 }
    let n := n.setBox x { b1 with sqTail := fieldB v 0x18 4, cqHead := fieldB v 0x20 4 }
    if off ≤ 0x2A ∧ 0x2A < off + data.length then n.mailboxEnable x (fieldB v 0x2A 1) else n

end Sys2Proof.Machine
end

