-- ==== Sys2Proof/Machine/Mem.lean ====
section
/-!
DEFINITION. The on-die memory of fabric address space 3 (Tables 7-2, 1-3): scratch, block memory and staging as bytes by their 51-bit offset. A
byte that nothing has written reads 0 (DESIGN CHOICE, log entry 2).
-/

namespace Sys2Proof.Machine

/-- The byte at an offset. -/
def Memory.byte (m : List Host.Cell) (a : Nat) : Byte := Map.get (0 : Byte) m a

/-- Write a byte. -/
def Memory.setByte (m : List Host.Cell) (a : Nat) (b : Byte) : List Host.Cell := Map.set (0 : Byte) m a b

/-- The canonical form: offsets strictly rising, no zero byte listed. -/
def Memory.wf (m : List Host.Cell) : Bool := Map.wf (fun _ => (0 : Byte)) m

/-- `len` bytes from an offset on. -/
def Memory.read (m : List Host.Cell) (a : Nat) : Nat → Bytes
  | 0 => []
  | len + 1 => Memory.byte m a :: Memory.read m (a + 1) len

/-- Write bytes from an offset on. -/
def Memory.write (m : List Host.Cell) (a : Nat) : Bytes → List Host.Cell
  | [] => m
  | b :: t => Memory.write (Memory.setByte m a b) (a + 1) t

/-- REGION, AREA and BYTE of a space-3 offset (Table 7-2). -/
def regionOf (off : Nat) : Nat := off / 2 ^ 27 % 16
def areaOf (off : Nat) : Nat := off / 2 ^ 25 % 4
def byteOf (off : Nat) : Nat := off % 2 ^ 25

/-- The offset names a byte that exists (Table 7-2): Reserved bits zero, AREA 0 to 2, and in staging no byte above 8 MiB. -/
def offsetOk (off : Nat) : Bool := decide (off < 2 ^ 31) && (decide (areaOf off < 2) || (areaOf off == 2 && decide (byteOf off < 2 ^ 23)))

/-- The offset lies in the code area of a block (R192). -/
def inCode (off : Nat) : Bool := areaOf off == 1 && decide (0x1E0000 ≤ off % 2 ^ 21)

/-- The block (region × 16 + block) of an offset in scratch or block memory. -/
def blockOf (off : Nat) : Nat := regionOf off * 16 + (if areaOf off = 0 then off / 2 ^ 17 % 256 / 16 else off / 2 ^ 21 % 16)

/-- A run of bytes stays inside one memory: the scratch of a cell, one block's memory, or one region's staging. -/
def runOk (off len : Nat) : Bool :=
  offsetOk off && decide (len ≠ 0) &&
  (let size := if areaOf off = 0 then 2 ^ 17 else if areaOf off = 1 then 2 ^ 21 else 2 ^ 23
   decide (off % size + len ≤ size))

end Sys2Proof.Machine
end

