-- ==== Sys2Proof/Machine/Recovery.lean ====
section
/-!
DEFINITION. What passes between a node, its welt partners and its spare (R402, R403, R412, R453 to R464): cuts with their journal records and
replicas, acknowledgements, rosters, restored pages, sequences that move, and takeovers. The manual gives the payloads of REPL and MOVE frames no layout;
the one used here is a DESIGN CHOICE (log entry 78): byte 0 is a kind, the rest as each function says.
-/

namespace Sys2Proof.Machine

/-! ### Pages as they travel (R247) -/

/-- STATE, TOKENS, FORMAT and BLOCK_LEN of a page. -/
def pageHead (state tokens format : Nat) (lens : List Nat) : Bytes :=
  leBytes 1 state ++ leBytes 2 tokens ++ leBytes 1 format ++ (List.range 4).flatMap fun i => leBytes 1 (lens.getD i 0)

/-- The stored blocks of a COMPRESSED page, without what lies past BLOCK_LEN. -/
def packStored (lens : List Nat) (slot : Bytes) : Bytes := (List.range 4).flatMap fun b => sliceB slot (b * 4096) (lens.getD b 0 * 64)

/-- Stored blocks put back into their places. -/
def unpackStored : List Nat → Bytes → Bytes
  | [], _ => []
  | l :: ls, v => padTo 4096 (v.take (l * 64)) ++ unpackStored ls (v.drop (l * 64))

/-- A page with its stored bytes, from tier 1 or from the slow tier. -/
def Node.pagePart (n : Node) (p : Nat) : Bytes :=
  let d := n.page p
  let slot := match d.t1, d.slow with
    | some g, _ => n.slotBytes g 0 16384
    | none, some k => padTo 16384 ((Map.get {} n.tiers.slow k).data.flatMap fun l => leBytes 64 l.toNat)
    | none, none => List.replicate 16384 0
  let st := if d.state = .spilled ∨ d.state = .prefetching then PState.compressed.code else d.state.code
  pageHead st d.tokens d.format d.blockLen ++ (if st = PState.compressed.code then packStored d.blockLen slot else slot)

/-- A replica's part, from the slot that holds it. -/
def Node.replicaPart (n : Node) (r : Replica) : Bytes :=
  let slot := n.slotBytes r.slot 0 16384
  pageHead r.state r.tokens r.format r.blockLen ++ (if r.state = PState.compressed.code then packStored r.blockLen slot else slot)

/-- BLOCK_LEN of a part. -/
def partLens (v : Bytes) : List Nat := (List.range 4).map fun i => fieldB v (4 + i) 1

/-- The slot bytes of a part. -/
def partSlot (v : Bytes) : Bytes :=
  if fieldB v 0 1 = PState.compressed.code then unpackStored (partLens v) (v.drop 8) else padTo 16384 (v.drop 8)

/-- The replica held for a page of another node. -/
def Node.replicaOf (n : Node) (source page : Nat) : Option Replica := n.rcv.replicas.find? fun r => r.source == source && r.page == page

/-- Hold a page of another node in a slot of the slice, in place of the one held before (R454); none where the slice has no slot. -/
def Node.storeReplica (n : Node) (source page slice : Nat) (v : Bytes) : Option Node :=
  let slot := match n.replicaOf source page with
    | some r => some r.slot
    | none => (n.mostFree slice).bind fun x => n.lowestSlot slice x
  match slot with
  | none => none
  | some g =>
    let r : Replica := { source := source, page := page, slice := slice, slot := g, state := fieldB v 0 1, tokens := fieldB v 1 2,
                         format := fieldB v 3 1, blockLen := partLens v }
    let n := (n.takeSlot slice g).writeSlot g 0 (partSlot v) page (n.tagOf true kindPage slice)
    some { n with rcv := { n.rcv with replicas := (n.rcv.replicas.filter fun x => !(x.source == source && x.page == page)) ++ [r] } }

/-! ### Journal records -/

/-- A journal entry's bytes. -/
def JEntry.image (e : JEntry) : Bytes :=
  leBytes 1 e.kind ++ leBytes 6 e.seq ++ leBytes 2 e.track ++ leBytes 4 e.pos ++ leBytes 4 e.bytes.length ++ e.bytes

/-- The entries of a record. -/
def entriesOf : Nat → Bytes → List JEntry
  | 0, _ => []
  | fuel + 1, v =>
    if v = [] then []
    else
      let len := fieldB v 13 4
      { kind := fieldB v 0 1, seq := fieldB v 1 6, track := fieldB v 7 2, pos := fieldB v 9 4, bytes := sliceB v 17 len } ::
        entriesOf fuel (v.drop (17 + len))

/-! ### Cuts at the source (R455, R456) -/

/-- The welt partners of the current map (R454). -/
def Node.partners (n : Node) : List Nat :=
  match n.comp.current with
  | none => []
  | some m => [m.weltA, m.weltB].filter fun w => decide (w < 1024)

/-- The offset of the round's first replication window: the first MAINT window of a link port with the replication bit (R455). -/
def Node.cutOffset (n : Node) : Option Nat :=
  (n.sched.active.windows.filter fun w => w.kind == 5 && decide (0x100 ≤ w.target) && decide (w.target < 0x130) && bitOf w.param 3).foldl
    (fun (b : Option Nat) w => match b with | some x => some (Nat.min x w.start) | none => some w.start) none

/-- The slice of the partner that takes a slice's replicas (REPLICA_MAP). -/
def Node.replicaSlice (n : Node) (slice place : Nat) : Nat := n.octet Reg.replicaMap (2 * slice + place)

/-- The place of a partner in REPLICA_MAP: 0 for WELT_A, 1 for WELT_B. -/
def Node.partnerPlace (n : Node) (node : Nat) : Nat :=
  match n.comp.current with | some m => if m.weltA = node then 0 else 1 | none => 0

/-- The head of every message of a cut: kind, round, tick, messages of the cut, slice on the partner. -/
def cutHead (kind round tick total slice : Nat) : Bytes := leBytes 1 kind ++ leBytes 8 round ++ leBytes 8 tick ++ leBytes 4 total ++ leBytes 1 slice

/-- A cut is sent to one partner: a journal record for each slice with changes, then the pages (R455). -/
def Node.sendCut (n : Node) (now round : Nat) (entries : List JEntry) (pages : List Nat) (w : Nat) : Node :=
  let place := n.partnerPlace w
  let slices := (List.range 64).filter fun s => entries.any fun e => e.slice == s
  let total := slices.length + pages.length
  let n := n.foldl slices fun n s =>
    let body := (entries.filter fun e => e.slice == s).flatMap JEntry.image
    n.sendNode now 5 4 w s (cutHead 1 round now total (n.replicaSlice s place) ++ body)
  n.foldl pages fun n p =>
    let s := (n.page p).slice
    n.sendNode now 5 4 w s (cutHead 2 round now total (n.replicaSlice s place) ++ leBytes 4 p ++ n.pagePart p)

/-- The host endpoint of a session (R345, R456). -/
def Node.hostOf (n : Node) (session : Nat) : Nat := Map.get 0xFFFF n.links.replyDst session

/-- Roster records of a cut's opens, forks and closes, for the spare (Table 17-4). -/
def Node.rosterRecords (n : Node) (entries : List JEntry) : Bytes :=
  (entries.filter fun e => e.kind == 2 || e.kind == 3 || e.kind == 4).flatMap fun e =>
    leBytes 6 e.seq ++ leBytes 2 e.pos ++ leBytes 2 (n.hostOf e.pos) ++ leBytes 2 n.straps ++ leBytes 1 (if e.kind = 4 then 2 else 1) ++ leBytes 3 0

/-- A cut is acknowledged by every partner: JOURNAL_ROUND of its sequences, REPLICATED of its pages (R455). -/
def Node.cutDone (n : Node) (c : Cut) : Node :=
  let seqs := n.seqs.seqs.map fun (e : Nat × Seq) =>
    if c.seqs.contains e.2.id then (e.1, { e.2 with cnt := { e.2.cnt with journalRound := c.round } }) else e
  let pages := n.seqs.pages.map fun (e : Nat × Page) =>
    if c.pages.contains e.1 ∧ (e.2.state = .compressed ∨ e.2.state = .spilled ∨ e.2.state = .prefetching) then (e.1, { e.2 with replicated := true }) else e
  let n := { n with seqs := { n.seqs with seqs := seqs, pages := pages }, rcv := { n.rcv with cuts := n.rcv.cuts.filter fun x => x != c } }
  n.setReg Reg.lastAckedCut c.tick

/-- The cut of a round (R455): at the first boundary of the round's first replication window, once a round. -/
def Node.journalCut (n : Node) (now : Nat) : Node :=
  let round := n.roundAt now
  if !n.inRounds ∨ now < n.reg Reg.roundBase ∨ n.partners = [] ∨ n.cutOffset ≠ some (n.offset now) ∨ n.rcv.cutRound = some round then n
  else
    let entries := n.rcv.journal
    let flying := n.rcv.cuts.flatMap fun c => c.pages
    let pages := (n.seqs.pages.filter fun e => (e.2.state == .compressed || e.2.state == .spilled) && !e.2.replicated && !flying.contains e.1).map (·.1)
    let seqs := (entries.filter fun e => decide (e.kind ≤ 5)).map fun e => e.seq
    let cut : Cut := { round := round, tick := now, pages := pages, seqs := seqs, waiting := n.partners }
    let n := { n with rcv := { n.rcv with journal := [], cutRound := some round, cuts := n.rcv.cuts ++ [cut] } }
    let n := (n.foldl n.partners fun n w => n.sendCut now round entries pages w).bump Reg.cutsSent
    let roster := n.rosterRecords entries
    let n := match n.comp.current with
      | some m => if m.spare < 1024 ∧ roster ≠ [] then n.sendNode now 5 4 m.spare ((entries.headD { kind := 0, seq := 0 }).slice) (leBytes 1 8 ++ roster) else n
      | none => n
    if entries = [] ∧ pages = [] then n.cutDone cut else n

/-- JOURNAL_CUT (R455). -/
def execJournalCut (s : State) : Host.Outcome State Fault Refusal := s.on (s.node.journalCut s.clock.tick)

/-- An acknowledgement from a partner (R455, R457): kind 7, the round. -/
def Node.cutAck (n : Node) (src : Nat) (v : Bytes) : Node :=
  let round := fieldB v 1 8
  match n.rcv.cuts.find? fun c => c.round == round && c.waiting.contains src with
  | none => n
  | some c =>
    let c' : Cut := { c with waiting := c.waiting.filter fun w => w != src }
    let n := { n with rcv := { n.rcv with cuts := n.rcv.cuts.map fun x => if x = c then c' else x } }
    let n := if n.rcv.lostNodes.contains src then n else n.setPartner src 0
    if c'.waiting = [] then n.cutDone c' else n

/-- CUT_ACK_RECEIVE (R455). -/
def execCutAckReceive (src : BitVec 16) (bytes : Bytes) (s : State) : Host.Outcome State Fault Refusal := s.on (s.node.cutAck src.toNat bytes)

/-- Partners that have not acknowledged a cut by the end of its round are suspected lost (R457). -/
def Node.partnerSuspect (n : Node) (now : Nat) : Node :=
  let late := n.rcv.cuts.filter fun c => decide (c.round < n.roundAt now) && decide (n.reg Reg.roundBase ≤ now)
  n.foldl (late.flatMap fun c => c.waiting) Node.suspect

/-- PARTNER_SUSPECT (R457). -/
def execPartnerSuspect (s : State) : Host.Outcome State Fault Refusal := s.on (s.node.partnerSuspect s.clock.tick)

/-! ### Cuts and replicas at the partner (R455, R412) -/

/-- One entry of a cut is held (R455): a session change updates the copy of the session table, a release gives replicas back, a close drops what was held of the sequence. -/
def Node.holdEntry (n : Node) (source round tick : Nat) (e : JEntry) : Node :=
  let r := n.rcv
  if e.kind = 6 then
    let rest := r.sessionsHeld.filter fun x => !(x.1 == source && x.2.1 == e.seq)
    { n with rcv := { r with sessionsHeld := if e.pos = 1 then rest ++ [(source, e.seq, e.track)] else rest } }
  else if e.kind = 7 then
    if e.track ≠ 0 then n
    else
      match n.replicaOf source e.pos with
      | none => n
      | some x => { n.dropSlot x.slot with rcv := { r with replicas := r.replicas.filter fun y => y != x } }
  else if e.kind = 4 then { n with rcv := { r with heldJournal := r.heldJournal.filter fun h => !(h.source == source && h.entry.seq == e.seq) } }
  else { n with rcv := { r with heldJournal := r.heldJournal ++ [{ source := source, round := round, tick := tick, entry := e }] } }

/-- One message of a cut has been written; after the last one the cut is acknowledged (R455). -/
def Node.cutPart (n : Node) (now source round tick total slice : Nat) : Node :=
  let left := match n.rcv.cutsIn.find? fun c => c.source == source && c.round == round with
    | some c => c.left
    | none => total
  let rest := n.rcv.cutsIn.filter fun c => !(c.source == source && c.round == round)
  if 1 < left then { n with rcv := { n.rcv with cutsIn := rest ++ [{ source := source, round := round, tick := tick, left := left - 1 }] } }
  else
    let n := { n with rcv := { n.rcv with cutsIn := rest, cutsHeld := Map.put n.rcv.cutsHeld source (round, tick) } }
    n.sendNode now 5 4 source slice (leBytes 1 7 ++ leBytes 8 round)

/-- The sequences that hold a page. -/
def Node.seqsWith (n : Node) (p : Nat) : List Nat := (n.seqs.seqs.filter fun e => e.2.tracks.any fun t => t.pages.contains p).map (·.1)

/-- A page whose replica differs is QUARANTINED with its sequences, and its readers end (R412, R137, R124). -/
def Node.quarantinePage (n : Node) (now p : Nat) : Node :=
  let d := n.page p
  if d.state = .free ∨ d.state = .quarantined then n
  else
    let n := ((n.poisonReaders now p).removePageNode p).stopPacker p
    let n := n.dropRewrites p
    let n := n.setPage p { n.page p with state := .quarantined, prior := d.state }
    n.foldl (n.seqsWith p) fun n k => if (n.seq k).state = .opened then n.setSeq k { n.seq k with state := .quarantined } else n

/-- A comparison of a replica with its source (R412): page, its fields and the SHA3-512 of its stored bytes. What differs is quarantined here and reported to
the source. When a source compares is open in the manual; this node answers comparisons and sends none (DESIGN CHOICE, log entry 79). -/
def Node.compareReplica (n : Node) (now source : Nat) (v : Bytes) : Node :=
  let p := fieldB v 1 4
  match n.replicaOf source p with
  | none => n
  | some r =>
    let part := n.replicaPart r
    if sliceB v 5 8 = part.take 8 ∧ sliceB v 13 64 = sha3_512 (part.drop 8) then n
    else
      let n := { n with rcv := { n.rcv with replicas := n.rcv.replicas.map fun x => if x = r then { r with mismatch := true } else x } }
      n.sendNode now 5 4 source r.slice (leBytes 1 5 ++ leBytes 4 p)

/-- Roster records are held by the spare (R456); a close follows its open. -/
def Node.rosterReceive (n : Node) (v : Bytes) : Node :=
  let recs := (List.range (v.length / 16)).map fun i =>
    let b := sliceB v (16 * i) 16
    ({ seqId := fieldB b 0 6, session := fieldB b 6 2, host := fieldB b 8 2, node := fieldB b 10 2 % 1024, op := fieldB b 12 1 } : Roster)
  { n with rcv := { n.rcv with rosters := n.rcv.rosters ++ recs } }

/-- ROSTER_RECEIVE (R456): `bytes` are the records of Table 17-4. -/
def execRosterReceive (_src : BitVec 16) (bytes : Bytes) (s : State) : Host.Outcome State Fault Refusal := s.on (s.node.rosterReceive bytes)

/-- A REPL message (R455): 1 journal record, 2 replica, 4 comparison, 5 mismatch, 6 resend, 7 acknowledgement, 8 roster. -/
def Node.replReceive (n : Node) (now src : Nat) (v : Bytes) : Node :=
  let kind := fieldB v 0 1
  let round := fieldB v 1 8
  let tick := fieldB v 9 8
  let total := fieldB v 17 4
  let slice := fieldB v 21 1
  if kind = 1 then
    (n.foldl (entriesOf v.length (v.drop 22)) fun n e => n.holdEntry src round tick e).cutPart now src round tick total slice
  else if kind = 2 then
    if (n.slice slice).state ≠ .bound then n
    else
      match n.storeReplica src (fieldB v 22 4) slice (v.drop 26) with
      | none => n
      | some n => n.cutPart now src round tick total slice
  else if kind = 4 then n.compareReplica now src v
  else if kind = 5 then n.quarantinePage now (fieldB v 1 4)
  else if kind = 6 then n.setPage (fieldB v 1 4) { n.page (fieldB v 1 4) with replicated := false }
  else if kind = 7 then n.cutAck src v
  else if kind = 8 then n.rosterReceive (v.drop 1)
  else n

/-- REPL_RECEIVE (R455). -/
def execReplReceive (src : BitVec 16) (bytes : Bytes) (s : State) : Host.Outcome State Fault Refusal :=
  s.on (s.node.replReceive s.clock.tick src.toNat bytes)

/-! ### What a partner can rebuild -/

/-- A sequence's descriptor after one journal entry. -/
def heldStep (q : Option Seq) (e : JEntry) : Option Seq :=
  if e.kind = 2 ∨ e.kind = 3 then some (Seq.ofImage e.bytes)
  else
    q.map fun q =>
      let tr := q.tracks.getD e.track {}
      if e.kind = 1 then { q with tracks := q.tracks.set e.track { tr with tokens := Nat.max tr.tokens (e.pos + 1) } }
      else if e.kind = 5 then
        let pages := if e.pos < tr.pages.length then tr.pages.set e.pos (leNat e.bytes) else tr.pages ++ [leNat e.bytes]
        { q with tracks := q.tracks.set e.track { tr with pages := pages } }
      else q

/-- What is held of a sequence of another node: its descriptor as of the latest cut. -/
def Node.heldSeq (n : Node) (source id : Nat) : Option Seq :=
  ((n.rcv.heldJournal.filter fun h => h.source == source && h.entry.seq == id).map fun h => h.entry).foldl heldStep none

/-- The tokens held of a sequence. -/
def Node.heldTokens (n : Node) (source id : Nat) : List JEntry :=
  ((n.rcv.heldJournal.filter fun h => h.source == source && h.entry.seq == id).map fun h => h.entry).filter fun e => e.kind == 1

/-- The raw slot of a page rebuilt from the token records of one track (R453): tag words and records of tokens 16·i on, none where one of them is missing. -/
def rebuildPage (q : Seq) (tokens : List JEntry) (track index : Nat) : Option Bytes :=
  let t := q.tracks.getD track {}
  let count := Nat.min 16 (t.tokens - 16 * index)
  let recs := (List.range count).map fun j => (tokens.filter fun e => e.track == track && e.pos == 16 * index + j).getLast?
  if recs.any fun r => r.isNone then none
  else
    let bs := recs.map fun r => (r.map fun e => e.bytes).getD []
    let a := (bs.flatMap fun b => sliceB b 4 q.aBytes) ++ List.replicate ((16 - count) * q.aBytes) 0
    let b := (bs.flatMap fun b => sliceB b (4 + q.aBytes) q.bBytes) ++ List.replicate ((16 - count) * q.bBytes) 0
    some (padTo 16320 (a ++ b) ++ padTo 64 (bs.flatMap fun b => b.take 4))

/-- A partner answers a request for a page (R453): kind 2 with its replica or what it rebuilds, kind 3 where it can do neither. -/
def Node.answerRestore (n : Node) (now source page : Nat) : Node :=
  match n.replicaOf source page with
  | some r => n.sendNode now 6 3 source r.slice (leBytes 1 2 ++ leBytes 4 page ++ n.replicaPart r)
  | none =>
    let ids := ((n.rcv.heldJournal.filter fun h => h.source == source && (h.entry.kind == 2 || h.entry.kind == 3)).map fun h => h.entry.seq)
    let found := ids.findSome? fun id => (n.heldSeq source id).bind fun q =>
      (q.tracks.zipIdx.findSome? fun e => if e.1.pages.contains page then some (e.2, e.1.pages.findIdx (· == page)) else none).bind fun e =>
        (rebuildPage q (n.heldTokens source id) e.1 e.2).map fun slot =>
          (q, Nat.min 16 ((q.tracks.getD e.1 {}).tokens - 16 * e.2), slot)
    match found with
    | none => n.sendNode now 6 3 source 64 (leBytes 1 3 ++ leBytes 4 page)
    | some (q, count, slot) =>
      n.sendNode now 6 3 source q.slice (leBytes 1 2 ++ leBytes 4 page ++ pageHead (if count < 16 then 2 else 3) count q.format [] ++ slot)

/-! ### Poisoned pages (R453) -/

/-- The bytes of a page asked for have come; they are written to its slot, or to a new one where it has none. -/
def Node.restoredBytes (n : Node) (src page : Nat) (v : Bytes) : Node :=
  let d := n.page page
  if d.state ≠ .poisoned ∧ d.state ≠ .quarantined then n
  else
    let slot := match d.t1 with
      | some g => some g
      | none => (n.mostFree d.slice).bind fun x => n.lowestSlot d.slice x
    match slot with
    | none => n
    | some g =>
      let n := (n.takeSlot d.slice g).setPage page { d with t1 := some g }
      let n := (n.freeLines g).writeSlot g 0 (partSlot v) page (n.tagOf true kindPage d.slice)
      let r : Replica := { source := src, page := page, slice := d.slice, slot := g, state := fieldB v 0 1, tokens := fieldB v 1 2,
                           format := fieldB v 3 1, blockLen := partLens v }
      { n with rcv := { n.rcv with arrivedPages := (n.rcv.arrivedPages.filter fun x => x.page != page) ++ [r] } }

/-- A restored page takes its state (R453): COMPRESSED, with RAW blocks where it was rebuilt whole from its tokens, or TAIL. -/
def Node.pageBack (n : Node) (r : Replica) : Node :=
  let d := n.page r.page
  let tail := decide (r.tokens < 16) || r.state == PState.tail.code
  let n := n.setPage r.page { d with state := if tail then .tail else .compressed, tokens := r.tokens, replicated := true, dirty := true,
                                     blockLen := if tail then [] else r.blockLen }
  let n := { n with rcv := { n.rcv with arrivedPages := n.rcv.arrivedPages.filter (fun x => x.page != r.page),
                                        restores := n.rcv.restores.filter (fun e => e.1 != r.page) } }
  let n := n.bump Reg.pagesRestored
  if tail ∨ r.state = PState.compressed.code then n
  else
    match n.seqsWith r.page with
    | [] => n
    | k :: _ => n.storeImage r.page (n.seq k).aBytes (n.seq k).bBytes (n.slotBytes r.slot 0 16384)

/-- A QUARANTINED sequence with no QUARANTINED page left is in service again (R412). -/
def Node.settleSeq (n : Node) (k : Nat) : Node :=
  let q := n.seq k
  if q.state = .quarantined ∧ !(q.tracks.any fun t => t.pages.any fun p => (n.page p).state == .quarantined) then n.setSeq k { q with state := .opened }
  else n

/-- PAGE_RESTORE (R453): the last line of a page that was asked for is written. -/
def Node.pageRestore (n : Node) (p : Nat) : Node :=
  match n.rcv.arrivedPages.find? fun r => r.page == p with
  | none => n
  | some r =>
    let d := n.page p
    if d.state ≠ .poisoned ∧ d.state ≠ .quarantined then n
    else
      let n := n.pageBack r
      n.foldl (n.seqsWith p) Node.settleSeq

/-- PAGE_RESTORE (R453). -/
def execPageRestore (page : BitVec 32) (s : State) : Host.Outcome State Fault Refusal := s.on (s.node.pageRestore page.toNat)

/-- A page that will not come back: the sequences that hold it are LOST (R453, R463). -/
def Node.pageGone (n : Node) (now p : Nat) : Node :=
  let n := { n with rcv := { n.rcv with restores := n.rcv.restores.filter fun e => e.1 != p } }
  if (n.page p).state ≠ .poisoned then n else n.foldl (n.seqsWith p) fun n k => n.loseSeq now k 3

/-- PAGE_RESTORE_TIMEOUT (R453). -/
def execPageRestoreTimeout (page : BitVec 32) (s : State) : Host.Outcome State Fault Refusal :=
  let n := s.node
  s.on (if n.rcv.restores.any (fun e => e.1 == page.toNat && decide (e.2 ≤ s.clock.tick)) then n.pageGone s.clock.tick page.toNat else n)

/-! ### Sequences that come in (R403, R460, R461) -/

/-- A page of an incoming sequence at an index of a track: already here, held as it was sent, or what its tokens rebuild. -/
inductive InPage where
  | here (p : Nat)
  | copy (r : Replica)
  | made (count : Nat) (slot : Bytes)
  | missing
deriving DecidableEq, Repr

/-- What has come of a page. -/
def Node.inPage (n : Node) (c : Incoming) (q : Seq) (track index : Nat) : InPage :=
  let p := ((q.tracks.getD track {}).pages).getD index 0
  match n.comp.moved.find? fun e => e.1 == c.source && e.2.1 == p && (n.page e.2.2).slice == c.slice && (n.page e.2.2).state != .free with
  | some e => .here e.2.2
  | none =>
    match n.replicaOf c.source p with
    | some r => .copy r
    | none =>
      match rebuildPage q c.tokens track index with
      | some slot => .made (Nat.min 16 ((q.tracks.getD track {}).tokens - 16 * index)) slot
      | none => .missing

/-- Everything of a sequence has come. -/
def Node.wholeIncoming (n : Node) (c : Incoming) : Bool :=
  let q := Seq.ofImage c.image
  c.image != [] && q.tracks.zipIdx.all fun e => (List.range e.1.pages.length).all fun i => n.inPage c q e.2 i != .missing

/-- A local page for a page of an incoming sequence: its number and the node, none where no slot is free. -/
def Node.takeInPage (n : Node) (now : Nat) (c : Incoming) (q : Seq) (track index : Nat) : Option (Nat × Node) :=
  let last := index + 1 == (q.tracks.getD track {}).pages.length
  match n.inPage c q track index with
  | .missing => none
  | .here p => some (p, n.setPage p { n.page p with ref := (n.page p).ref + 1 })
  | .copy r =>
    let p := n.freePage
    let part := n.slotBytes r.slot 0 16384
    let st : PState := if last then .tail else if r.state = PState.sealed.code then .sealed else .compressed
    let n := n.setPage p { state := st, tokens := r.tokens, format := r.format, blockLen := r.blockLen, t1 := some r.slot, slice := c.slice, ref := 1,
                           dirty := true, lastUse := now }
    let n := n.writeSlot r.slot 0 part p (n.tagOf true kindPage c.slice)
    let n := if st = .sealed then n.queuePacker (now - 1) p else n
    some (p, { n with rcv := { n.rcv with replicas := n.rcv.replicas.filter fun x => x != r },
                      comp := { n.comp with moved := n.comp.moved ++ [(c.source, r.page, p)] } })
  | .made count slot =>
    match (n.mostFree c.slice).bind fun x => n.lowestSlot c.slice x with
    | none => none
    | some g =>
      let (p, n) := n.newPage c.slice q.format g .tail
      let n := n.writeSlot g 0 slot p (n.tagOf true kindPage c.slice)
      let n := n.setPage p { n.page p with tokens := count, state := if last then .tail else .sealed, lastUse := now }
      some (p, if last then n else n.queuePacker (now - 1) p)

/-- The local pages of a track, in index order. -/
def Node.takeTrack (n : Node) (now : Nat) (c : Incoming) (q : Seq) (track : Nat) : List Nat → Option (List Nat × Node)
  | [] => some ([], n)
  | i :: rest =>
    match n.takeInPage now c q track i with
    | none => none
    | some (p, n) => (n.takeTrack now c q track rest).map fun r => (p :: r.1, r.2)

/-- The tracks of an incoming sequence, each with a fresh spare page. -/
def Node.takeTracks (n : Node) (now : Nat) (c : Incoming) (q : Seq) : List (Track × Nat) → Option (List (Track × List Nat) × Node)
  | [] => some ([], n)
  | (t, i) :: rest =>
    match n.takeTrack now c q i (List.range t.pages.length) with
    | none => none
    | some (ps, n) =>
      match (n.mostFree c.slice).bind fun x => n.lowestSlot c.slice x with
      | none => none
      | some g =>
        let (sp, n) := n.newPage c.slice q.format g .spare
        let tr : Track := { layer := t.layer, group := t.group, tokens := t.tokens, spare := some sp }
        (n.takeTracks now c q rest).map fun r => ((tr, ps) :: r.1, r.2)

/-- A sequence that has come whole becomes OPEN under its SEQUENCE_ID (R403, R460); nothing where it cannot be built. -/
def Node.openIncoming (n : Node) (now id : Nat) : Option Node :=
  match Map.find n.rcv.incoming id with
  | none => none
  | some c =>
    let q := Seq.ofImage c.image
    let k := seqLocal id
    if !n.wholeIncoming c ∨ (n.seq k).state ≠ .free ∨ (n.slice c.slice).state ≠ .bound then none
    else
      match n.takeTracks now c q q.tracks.zipIdx with
      | none => none
      | some (ts, n) =>
        let dir := n.seqs.dirNext
        let home := n.pageSlot (((ts.headD ({}, [])).2).headD 0) / 2 ^ 22
        let sq : Seq := { q with state := .opened, slice := c.slice, home := home, dir := dir, tracks := ts.map (·.1), session := c.session, domain := 0 }
        let n := { n with seqs := { n.seqs with dirNext := dir + ts.length, released := n.seqs.released.filter fun x => x != k } }
        let n := n.setSeq k sq
        let n := n.foldl (ts.zipIdx) fun n e => n.pushPages k e.2 e.1.2
        some { n with rcv := { n.rcv with incoming := Map.erase n.rcv.incoming id },
                      comp := { n.comp with moving := n.comp.moving.filter fun x => x != k } }

/-- A sequence of a planned move opens when its last part has come (R403). -/
def Node.tryMoved (n : Node) (now id : Nat) : Node :=
  match Map.find n.rcv.incoming id with
  | none => n
  | some c => if c.lost.isSome then n else (n.openIncoming now id).getD n

/-- SEQUENCE_RESTORED (R460, R461): a sequence taken over is OPEN, and its host is told. -/
def Node.sequenceRestored (n : Node) (now id : Nat) : Node :=
  match Map.find n.rcv.incoming id with
  | none => n
  | some c =>
    if c.lost.isNone then n
    else
      match n.openIncoming now id with
      | none => n
      | some n =>
        let host := match n.rcv.rosters.find? fun r => r.seqId == id && r.op == 1 with
          | some r => r.host
          | none => n.hostOf c.session
        n.sequenceReply now stDone 0x70 n.straps id c.session host (c.cutTick % 2 ^ 32)

/-- SEQUENCE_RESTORED (R461). -/
def execSequenceRestored (seq : BitVec 48) (s : State) : Host.Outcome State Fault Refusal := s.on (s.node.sequenceRestored s.clock.tick seq.toNat)

/-! ### MOVE messages -/

/-- The descriptor of a sequence on its way (kind 4): slice there, lost node or 0xFFFF, tick of the restored cut, session, image. -/
def moveSeq (slice lost cutTick session : Nat) (image : Bytes) : Bytes :=
  leBytes 1 4 ++ leBytes 1 slice ++ leBytes 2 lost ++ leBytes 8 cutTick ++ leBytes 2 session ++ image

/-- A descriptor comes in: its number is skipped at examination until it is whole. -/
def Node.moveSeqIn (n : Node) (src : Nat) (v : Bytes) : Node :=
  let slice := fieldB v 1 1
  let img := v.drop 14
  let id := fieldB img 0 6
  let lost := fieldB v 2 2
  if (n.slice slice).state ≠ .bound ∨ (n.seq (seqLocal id)).state ≠ .free then n
  else
    let old : Incoming := (Map.find n.rcv.incoming id).getD { source := src, slice := slice }
    let c : Incoming := { old with source := src, slice := slice, image := img, lost := if lost = 0xFFFF then none else some lost,
                                   cutTick := fieldB v 4 8, session := fieldB v 12 2 }
    { n with rcv := { n.rcv with incoming := Map.put n.rcv.incoming id c },
             comp := { n.comp with moving := insertNat (seqLocal id) n.comp.moving } }

/-- A token of an incoming sequence (kind 6). -/
def Node.moveTokenIn (n : Node) (src : Nat) (v : Bytes) : Node :=
  let slice := fieldB v 1 1
  n.foldl (entriesOf 1 (v.drop 2)) fun n e =>
    let old : Incoming := (Map.find n.rcv.incoming e.seq).getD { source := src, slice := slice }
    { n with rcv := { n.rcv with incoming := Map.put n.rcv.incoming e.seq { old with tokens := old.tokens ++ [e] } } }

/-- A MOVE message: 1 request for a page, 2 that page, 3 its refusal, 4 a descriptor, 5 a page of a sequence that comes in, 6 a token of one. -/
def Node.moveReceive (n : Node) (now src : Nat) (v : Bytes) : Node :=
  let kind := fieldB v 0 1
  if kind = 1 then n.answerRestore now src (fieldB v 1 4)
  else if kind = 2 then n.restoredBytes src (fieldB v 1 4) (v.drop 5)
  else if kind = 3 then n.pageGone now (fieldB v 1 4)
  else
    let n := if kind = 4 then n.moveSeqIn src v
      else if kind = 5 then
        (if (n.slice (fieldB v 1 1)).state = .bound then (n.storeReplica src (fieldB v 2 4) (fieldB v 1 1) (v.drop 6)).getD n else n)
      else if kind = 6 then n.moveTokenIn src v else n
    n.foldl ((n.rcv.incoming.filter fun e => e.2.source == src).map (·.1)) fun n id => n.tryMoved now id

/-- MOVE_RECEIVE (R401 to R403, R453, R460). -/
def execMoveReceive (src : BitVec 16) (bytes : Bytes) (s : State) : Host.Outcome State Fault Refusal :=
  s.on (s.node.moveReceive s.clock.tick src.toNat bytes)

/-- MOVE_TIMEOUT (R403): a sequence of a planned move that is not whole at C + MOVE_TICKS is lost. REASON 2 is the nearest of Table 17-6 (log entry 84). -/
def execMoveTimeout (seq : BitVec 20) (s : State) : Host.Outcome State Fault Refusal :=
  let n := s.node
  match n.rcv.incoming.find? fun e => seqLocal e.1 == seq.toNat && e.2.lost.isNone with
  | none => s.on n
  | some e => s.on (if n.comp.moveDue ≤ s.clock.tick then n.loseIncoming s.clock.tick e.1 2 else n)

/-! ### Takeover (R460, R462) -/

/-- The tick of a sequence's latest write that is held. -/
def Node.heldAppend (n : Node) (source id : Nat) : Nat :=
  (n.rcv.heldJournal.filter fun h => h.source == source && h.entry.seq == id).foldl (fun b h => Nat.max b h.tick) 0

/-- The sequences held of a node's slice, in descending order of their latest write, then ascending SEQUENCE_ID (R460). -/
def Node.takeoverOrder (n : Node) (source slice : Nat) : List Nat :=
  let ids := ((n.rcv.heldJournal.filter fun h => h.source == source).map fun h => h.entry.seq).foldl (fun acc x => insertNat x acc) []
  let ids := ids.filter fun id => match n.heldSeq source id with | some q => q.slice == slice | none => false
  sortBy (fun a b => decide (n.heldAppend source b < n.heldAppend source a)) ids

/-- A write of TAKEOVER_CMD (Table 17-5). Whether the slice is BOUND on the spare is known to the spare alone: a free value (log entry 82). -/
def Node.takeoverCmd (n : Node) (v : Bytes) : Node :=
  let lost := fieldB v 2 2 % 1024
  let spare := fieldB v 4 2 % 1024
  let slice := fieldB v 6 1
  if fieldB v 0 1 = 2 then
    { n with rcv := { n.rcv with takeovers := n.rcv.takeovers.filter fun t => !(t.lost == lost && t.slice == slice) } }
  else if fieldB v 0 1 = 1 then
    let code := firstCode
      [((Map.find n.rcv.cutsHeld lost).isNone, 1), (Config.open 82 (leNat v + 2 ^ 200 * n.freeCount) % 2 == 1, 2), (n.directPorts spare == [], 3)]
    let n := { n with freeCount := n.freeCount + 1 }
    let n := n.setReg Reg.takeoverResult code
    if code ≠ 0 then n
    else
      let t : Takeover := { lost := lost, spare := spare, slice := slice, spareSlice := fieldB v 7 1, left := n.takeoverOrder lost slice }
      { n with rcv := { n.rcv with takeovers := n.rcv.takeovers ++ [t] } }
  else n

/-- TAKEOVER_START (R460). -/
def execTakeoverStart (via : Via) (value : Bytes) (s : State) : Host.Outcome State Fault Refusal :=
  s.command via 0x3504 1 (forceOp 1 value) fun n => n.takeoverCmd (forceOp 1 value)

/-- TAKEOVER_STOP (R460). -/
def execTakeoverStop (via : Via) (value : Bytes) (s : State) : Host.Outcome State Fault Refusal :=
  s.command via 0x3504 1 (forceOp 2 value) fun n => n.takeoverCmd (forceOp 2 value)

/-- The messages that carry a sequence of a lost node to the spare: descriptor, replicas, then the tokens that no replica covers. -/
def Node.takeoverMessages (n : Node) (t : Takeover) (id : Nat) : List Bytes :=
  match n.heldSeq t.lost id with
  | none => []
  | some q =>
    let cut := (Map.get ((0 : Nat), (0 : Nat)) n.rcv.cutsHeld t.lost).2
    let session := match n.rcv.heldJournal.find? fun h => h.source == t.lost && h.entry.seq == id && (h.entry.kind == 2 || h.entry.kind == 3) with
      | some h => h.entry.pos
      | none => 0xFFFF
    let pages := (q.tracks.flatMap fun tr => tr.pages).filterMap fun p => n.replicaOf t.lost p
    let covered := fun (e : JEntry) => match ((q.tracks.getD e.track {}).pages)[e.pos / 16]? with
      | some p => (n.replicaOf t.lost p).isSome
      | none => false
    [moveSeq t.spareSlice t.lost cut session q.image] ++
    (pages.map fun r => leBytes 1 5 ++ leBytes 1 t.spareSlice ++ leBytes 4 r.page ++ n.replicaPart r) ++
    (((n.heldTokens t.lost id).filter fun e => !covered e).map fun e => leBytes 1 6 ++ leBytes 1 t.spareSlice ++ e.image)

/-- One takeover's share of a tick: sequences go out while the bytes of RESTORE_BYTES_TICK per direct port allow (R460); `fuel` counts sequences. -/
def Node.takeoverGo (now : Nat) : Nat → Takeover → Node → Takeover × Node
  | 0, t, n => (t, n)
  | fuel + 1, t, n =>
    match t.left with
    | [] => (t, n)
    | id :: rest =>
      let ms := n.takeoverMessages t id
      let size := (ms.map fun m => m.length).sum
      if t.credit < size then (t, n)
      else Node.takeoverGo now fuel { t with left := rest, credit := t.credit - size } (n.foldl ms fun n m => n.sendNode now 6 3 t.spare t.slice m)

/-- The takeovers' share of a tick. -/
def Node.takeoverTick (n : Node) (now : Nat) : Node :=
  let ts := n.rcv.takeovers
  n.foldl ts fun n t =>
    let t' := { t with credit := t.credit + n.reg Reg.restoreBytesTick * (n.directPorts t.spare).length }
    let (t'', n) := Node.takeoverGo now t.left.length t' n
    { n with rcv := { n.rcv with takeovers := n.rcv.takeovers.map fun x => if x = t then (if t''.left = [] then { t'' with credit := 0 } else t'') else x } }

/-- TAKEOVER_TIMEOUT (R462): what is not OPEN by C + TAKEOVER_TICKS is lost. -/
def execTakeoverTimeout (s : State) : Host.Outcome State Fault Refusal :=
  let n := s.node
  match n.rcv.takeoverDue with
  | none => s.on n
  | some t =>
    if s.clock.tick < t then s.on n
    else
      let n := n.foldl n.rcv.takeoverNodes fun n x => n.foldl (n.rosterOpen x) fun n r => n.loseRoster s.clock.tick 2 r
      s.on { n with rcv := { n.rcv with takeoverDue := none, takeoverNodes := [] } }

end Sys2Proof.Machine
end

