-- ==== Sys2Proof/Machine/Compose.lean ====
section
/-!
DEFINITION. Composition (R396 to R412): maps and epochs, a slice that moves, round headers and the agreement of a group, the return to rounds, and
the settlement of quarantined sequences.
-/

namespace Sys2Proof.Machine

/-! ### A slice that moves (R400 to R402) -/

/-- The slices of a map with a ROLE, and the peer of each. -/
def CompMap.slicesIn (m : CompMap) (role : Nat) : List (Nat × Nat) :=
  ((List.range 64).filter fun s => m.sliceRole s == role).map fun s => (s, fieldB m.raw (1170 + 4 * s) 2)

/-- A page that moves (kind 5). -/
def Node.movePage (n : Node) (slice p : Nat) : Bytes := leBytes 1 5 ++ leBytes 1 slice ++ leBytes 4 p ++ n.pagePart p

/-- A MAINT window in which a page may be copied to a node: one of its region, or of the port that leads to the node (R401). -/
def Node.copyWindow (n : Node) (now p dest : Nat) : Bool :=
  let o := n.offset now
  let region := (n.page p).t1.map fun g => g / 2 ^ 22
  let port := (n.route dest).map fun p => 0x100 + p
  decide (n.reg Reg.roundBase ≤ now) && n.sched.active.windows.any fun w =>
    w.kind == 5 && (some w.target == region || some w.target == port) && decide (w.start ≤ o) && decide (o < w.start + w.length)

/-- The pre-copy of the slices that a staged map moves out (R401). -/
def Node.preCopy (n : Node) (now : Nat) : Node :=
  match n.comp.stagedMap with
  | none => n
  | some m =>
    let st := n.reg Reg.commitState
    if st = 0 ∨ st = 4 then n
    else
      n.foldl (m.slicesIn 2) fun n e =>
        n.foldl ((n.movePages e.1).filter fun p => !n.comp.preCopied.contains p) fun n p =>
          if !n.copyWindow now p e.2 ∨ (n.route e.2).isNone then n
          else { n.sendNode now 6 3 e.2 e.1 (n.movePage e.1 p) with comp := { n.comp with preCopied := n.comp.preCopied ++ [p] } }

/-- PRE_COPY (R401). -/
def execPreCopy (s : State) : Host.Outcome State Fault Refusal := s.on (s.node.preCopy s.clock.tick)

/-- The final pass of a slice (R402): descriptors with their page tables, tails, and the pages that were not copied before. -/
def Node.finalPass (n : Node) (now slice dest : Nat) : Node :=
  if (n.slice slice).state ≠ .bound then n
  else
    let seqs := n.seqs.seqs.filter fun e => e.2.slice == slice && e.2.state == .opened
    let pages := (seqs.flatMap fun e => e.2.tracks.flatMap fun t => t.pages).foldl (fun acc p => insertNat p acc) []
    let n := n.foldl seqs fun n e => n.sendNode now 6 3 dest slice (moveSeq slice 0xFFFF now e.2.session e.2.image)
    n.foldl (pages.filter fun p => !n.comp.preCopied.contains p) fun n p => n.sendNode now 6 3 dest slice (n.movePage slice p)

/-! ### The commit of a map (R396, R399, R462) -/

/-- What the commit of a map means for the loss of a node: a partner that acts for it queues its sessions' finals, the spare that takes its place sets the bound
(R462). -/
def Node.commitTakeover (n : Node) (now : Nat) (old new : CompMap) : Node :=
  let gone := old.members.filter fun x => decide (x < 1024) && !new.members.contains x
  let n := n.foldl (gone.filter fun x => n.rcv.lostNodes.contains x) fun n x => n.sessionWide now x stEpochRetired 6 0 none (n.heldSessions x)
  if old.role = 2 ∧ new.role = 1 ∧ gone ≠ [] then
    let waits := gone.flatMap fun x => (n.rosterOpen x).map fun r => seqLocal r.seqId
    { n with rcv := { n.rcv with takeoverDue := some (now + n.reg Reg.takeoverTicks), takeoverNodes := gone },
             comp := { n.comp with moving := waits.foldl (fun acc k => insertNat k acc) n.comp.moving } }
  else n

/-- The staged map becomes current (R396): the map before it is the previous one, its epoch admits for one round more (R399). -/
def Node.commitMap (n : Node) (now : Nat) : Node :=
  match n.comp.stagedMap with
  | none => n
  | some m =>
    let old := n.comp.current.getD {}
    let c := { n.comp with current := some m, previous := some old, stagedMap := none, commitTick := now, admissionEnd := some (now + n.reg Reg.roundLen),
                           prevLead := n.comp.maxLead, maxLead := 0,
                           moveDue := if m.slicesIn 3 = [] then n.comp.moveDue else now + n.reg Reg.moveTicks }
    let n := { n with comp := c }
    let n := (((n.setReg Reg.prevEpoch (n.reg Reg.epoch)).setReg Reg.epoch m.epoch).setReg Reg.epochState 1).setReg Reg.drainTick 0
    let n := if old.weltA = m.weltA then n else n.setOctet Reg.partnerState 0 0
    let n := if old.weltB = m.weltB then n else n.setOctet Reg.partnerState 1 0
    let n := n.foldl (m.slicesIn 2) fun n e => n.finalPass now e.1 e.2
    ({ n with comp := { n.comp with preCopied := [] } }).commitTakeover now old m

/-- EPOCH_ADMISSION_END (R399): the previous epoch stops admitting, and its drain tick Z is fixed. -/
def Node.epochAdmissionEnd (n : Node) (now : Nat) : Node :=
  match n.comp.admissionEnd with
  | none => n
  | some t =>
    if now < t ∨ n.reg Reg.epochState ≠ 1 then n
    else ({ n with comp := { n.comp with admissionEnd := none } }.setReg Reg.epochState 2).setReg Reg.drainTick (t + n.comp.prevLead)

/-- EPOCH_ADMISSION_END (R399). -/
def execEpochAdmissionEnd (s : State) : Host.Outcome State Fault Refusal := s.on (s.node.epochAdmissionEnd s.clock.tick)

/-- Boundary Z (R399, R402): stragglers end with EPOCH_RETIRED, the epoch ceases to exist, and slices that moved out are released. -/
def Node.epochDrained (n : Node) (now : Nat) : Node :=
  if n.reg Reg.epochState ≠ 2 ∨ now < n.reg Reg.drainTick then n
  else
    let late := n.unfinished.filter fun q => q.req.hdr.epoch.toNat == n.reg Reg.prevEpoch
    let n := n.bumpBy Reg.epochRetiredCount late.length
    let n := n.foldl late fun n q => n.endRequest now q.req.key stEpochRetired 0
    let out := match n.comp.current with | some m => m.slicesIn 2 | none => []
    let n := ({ n with comp := { n.comp with previous := none } }.setReg Reg.epochState 0).setReg Reg.prevEpoch 0
    n.foldl out fun n e => n.releaseSlice now e.1

/-- DRAIN_TICK (R399). -/
def execDrainTick (s : State) : Host.Outcome State Fault Refusal := s.on (s.node.epochDrained s.clock.tick)

/-! ### Round headers (R405 to R409) -/

/-- The composition digest (R406). -/
def Node.digest (n : Node) : Bytes :=
  (sha3_512 (leBytes 2 (n.reg Reg.fwVersion) ++ leBytes 4 (n.reg Reg.lastId) ++ leBytes 2 (n.reg Reg.epoch) ++ leBytes 4 (n.reg Reg.configGen))).take 32

/-- The round header at a round boundary (Table 15-8). -/
def Node.roundHeader (n : Node) (now : Nat) : Bytes :=
  let prev := n.comp.previous.isSome
  leBytes 1 1 ++
  leBytes 1 ((if n.time.holdover then 1 else 0) + (if n.reg Reg.groupState = 1 then 2 else 0) + if prev then 4 else 0) ++ leBytes 2 n.straps ++
  leBytes 2 ((n.comp.current.getD {}).group) ++ leBytes 2 (n.reg Reg.epoch) ++ leBytes 8 now ++ leBytes 8 (n.roundAt now) ++
  leBytes 4 (n.reg Reg.lastId) ++ leBytes 4 (n.reg Reg.configGen) ++ leBytes 2 (n.reg Reg.fwVersion) ++ leBytes 1 n.st ++ leBytes 1 0 ++
  leBytes 2 (if prev then n.reg Reg.prevEpoch else 0) ++ leBytes 2 0 ++ n.digest ++ leBytes 8 0

/-- The round header goes out (R48): as a Voxley event on both rings, and in Q7 of every link port in service, but for ports of a slice under scrub (R441). Its
DST on a link port is the link peer (DESIGN CHOICE, log entry 85). -/
def Node.sendHeader (n : Node) (now : Nat) : Node :=
  let h := n.roundHeader now
  let payload := leBytes 4 (n.reg Reg.eventSeq) ++ leBytes 2 0x0100 ++ leBytes 2 80 ++ h
  let n := (n.ringSendBoth 0x20 0xFFFF payload).eventQueueWrite payload
  let scrubbed := fun (p : Nat) => match n.portSlice p with | some s => (n.slice s).state == .scrubbing | none => false
  n.foldl ((List.range 48).filter fun p => n.inService p && !scrubbed p) fun n p =>
    n.enqueue p 7 { ftype := 7, dst := 0xFFFF, bytes := h, queuedAt := now }

/-- The other members of the node's group (R408). -/
def Node.members (n : Node) : List Nat :=
  match n.comp.current with
  | none => []
  | some m => if m.role = 0 then [] else m.members.filter fun x => decide (x < 1024) && x != n.straps

/-- The tick of a header cannot come from this node's rounds (R41): it lies ahead, or is no boundary of the last that both run, or bears another number there
(DEDUCED, log entry 81). -/
def Node.headerSplit (n : Node) (now : Nat) (h : Bytes) : Bool :=
  let t := fieldB h 8 8
  decide (now ≤ t) || (fieldB h 24 4 == n.reg Reg.lastId && (!n.isRound t || n.roundAt t != fieldB h 16 8))

/-- A round header comes in (R408): TIME_SPLIT, or the first copy in time is kept and its DIGEST compared; a mismatch puts the group in HOLD. -/
def Node.headerReceive (n : Node) (now : Nat) (h : Bytes) : Node :=
  let node := fieldB h 2 2 % 1024
  if h.length ≠ 80 ∨ fieldB h 0 1 ≠ 1 ∨ node = n.straps ∨ !n.inRounds then n
  else if n.time.counted && n.headerSplit now h then n.leaveRounds now 2
  else if !n.members.contains node then n
  else
    let arrival := now - 1
    let round := n.roundAt arrival
    let known : Bool := match Map.find n.comp.headers node with | some p => p.round == round && p.raw != [] | none => false
    if known ∨ fieldB h 16 8 ≠ round ∨ n.reg Reg.headerWait < n.offset arrival then n
    else
      let same := sliceB h 40 32 == n.digest
      let p : PeerHeader := { raw := h, tick := now, round := round, matched := same }
      let n := { n with comp := { n.comp with headers := Map.put n.comp.headers node p, silent := n.comp.silent.filter fun x => x != node } }
      if same then n else (n.bump Reg.digestMismatches).setReg Reg.groupState 1

/-- ROUND_HEADER_RECEIVE (R408). -/
def execRoundHeaderReceive (bytes : Bytes) (s : State) : Host.Outcome State Fault Refusal := s.on (s.node.headerReceive s.clock.tick bytes)

/-- HEADER_WAIT_EXPIRY (R408): members without a header in this round are silent, each reported once for a period of silence. -/
def Node.headerWaitExpiry (n : Node) (now : Nat) : Node :=
  if !n.inRounds ∨ now < n.reg Reg.roundBase ∨ n.offset now ≤ n.reg Reg.headerWait then n
  else
    let round := n.roundAt now
    let missing := n.members.filter fun x => match Map.find n.comp.headers x with | some p => p.round != round | none => true
    n.foldl (missing.filter fun x => !n.comp.silent.contains x) fun n x =>
      { n with comp := { n.comp with silent := n.comp.silent ++ [x] } }.event 0x0032 (leBytes 2 x)

/-- HEADER_WAIT_EXPIRY (R408). -/
def execHeaderWaitExpiry (s : State) : Host.Outcome State Fault Refusal := s.on (s.node.headerWaitExpiry s.clock.tick)

/-- The hold of the group lifts at the round boundary after a round in which every member's header carried the node's own digest (R409). -/
def Node.liftHold (n : Node) (now : Nat) : Node :=
  if n.reg Reg.groupState ≠ 1 ∨ n.roundAt now = 0 then n
  else if n.members.all fun x => match Map.find n.comp.headers x with
      | some p => p.round + 1 == n.roundAt now && p.matched && sliceB p.raw 40 32 == n.digest
      | none => false
    then n.setReg Reg.groupState 0
  else n

/-- A write of HOLD_STOP (R409). -/
def Node.holdStop (n : Node) (now v : Nat) : Node :=
  if v = 1 ∧ n.reg Reg.groupState = 1 then n.endAll now stGroupHold 2 true fun _ => true else n

/-- HOLD_STOP (R409). -/
def execHoldStop (via : Via) (v : BitVec 8) (s : State) : Host.Outcome State Fault Refusal :=
  s.command via 0x3204 7 [v] fun n => n.holdStop s.clock.tick v.toNat

/-! ### Return to rounds (R410) -/

/-- A tick input qualifies for a rejoin: locked, and its latest number is the node's own (R34, R410). Its edges lie within 500 ns of the nearest boundary. -/
def TickInput.qualifies (t : TickInput) : Bool := t.locked && t.prevFrame == some t.markCount

/-- The input to rejoin on: the primary one if it qualifies, else the other. -/
def Node.rejoinInput (n : Node) : Option TickIn :=
  let first : TickIn := if n.reg Reg.tickPrimary = 2 then .b else .a
  if (n.time.input first).qualifies then some first
  else if (n.time.input (otherTick first)).qualifies then some (otherTick first) else none

/-- A write of REJOIN (R410). -/
def Node.rejoin (n : Node) (v : Nat) : Node :=
  if v ≠ 1 then n
  else if !n.inRounds && n.rejoinInput.isSome then { n with comp := { n.comp with rejoinPending := true } }
  else n.bump32 Reg.rejoinRefused

/-- REJOIN (R410). -/
def execRejoin (via : Via) (v : BitVec 8) (s : State) : Host.Outcome State Fault Refusal :=
  s.command via 0x3204 8 [v] fun n => n.rejoin v.toNat

/-- A boundary moved by at most 500 ns so that it falls on an edge's grid (R40). -/
def alignNs (boundary edge : Nat) : Nat :=
  let d := (edge % 1000 + 1000 - boundary % 1000) % 1000
  if d ≤ 500 then boundary + d else boundary - (1000 - d)

/-- The rejoining boundary (R410): the node returns to rounds on the input that qualifies, or stays out and counts the refusal. -/
def Node.rejoinApply (n : Node) (now : Nat) : Node :=
  if !n.comp.rejoinPending then n
  else
    let n := { n with comp := { n.comp with rejoinPending := false } }
    match n.rejoinInput with
    | none => n.bump32 Reg.rejoinRefused
    | some i =>
      let back := n.comp.returnState
      let n := { n with comp := { n.comp with outCause := 0 }, time := { n.time with holdover := false, align := some i } }
      let n := (n.setReg Reg.outOfRounds 0).selectTick i
      let n := n.setTimeStatus (n.reg Reg.timeStatus % 64)
      if n.st = stHold then n.setState now back 7 else n

/-! ### Settling a dispute (R412) -/

/-- The QUARANTINED pages of a sequence. -/
def Node.disputed (n : Node) (k : Nat) : List Nat :=
  ((n.seq k).tracks.flatMap fun t => t.pages).filter fun p => (n.page p).state == .quarantined

/-- KEEP (Table 15-9): local pages return to their prior state, and the partner takes a fresh replica. -/
def Node.quarantineKeep (n : Node) (k : Nat) : Node :=
  let ps := n.disputed k
  let n := n.foldl ps fun n p => n.setPage p { n.page p with state := (n.page p).prior, prior := .free, replicated := false }
  n.foldl (ps.flatMap n.seqsWith) Node.settleSeq

/-- YIELD (Table 15-9): local pages are asked of the partner. -/
def Node.quarantineYield (n : Node) (now k : Nat) : Node :=
  match n.partners with
  | [] => n
  | w :: _ => n.foldl (n.disputed k) fun n p => n.sendNode now 6 3 w (n.page p).slice (leBytes 1 1 ++ leBytes 4 p)

/-- DROP (Table 15-9): the sequence is LOST and its pages are released. -/
def Node.quarantineDrop (n : Node) (now k : Nat) : Node :=
  let q := n.seq k
  let n := n.loseSeq now k 1
  let n := n.foldl (q.tracks.flatMap fun t => t.pages) fun n p => n.releaseRef p
  let n := n.foldl (q.tracks.filterMap fun t => t.spare) fun n p => n.dropPage p
  n.setSeq k { n.seq k with tracks := (n.seq k).tracks.map fun t => { t with pages := [], spare := none, refill := none } }

/-- A write of QUARANTINE_CMD (R412): it acts on a QUARANTINED sequence. -/
def Node.quarantineCmd (n : Node) (now : Nat) (v : Bytes) : Node :=
  let id := fieldB v 2 6
  let k := seqLocal id
  let q := n.seq k
  if q.state ≠ .quarantined ∨ q.id ≠ id then n
  else
    let op := fieldB v 0 1
    if op = 1 then n.quarantineKeep k else if op = 2 then n.quarantineYield now k else if op = 3 then n.quarantineDrop now k else n

/-- QUARANTINE_KEEP (R412). -/
def execQuarantineKeep (via : Via) (value : Bytes) (s : State) : Host.Outcome State Fault Refusal :=
  s.command via 0x3204 6 (forceOp 1 value) fun n => n.quarantineCmd s.clock.tick (forceOp 1 value)

/-- QUARANTINE_YIELD (R412). -/
def execQuarantineYield (via : Via) (value : Bytes) (s : State) : Host.Outcome State Fault Refusal :=
  s.command via 0x3204 6 (forceOp 2 value) fun n => n.quarantineCmd s.clock.tick (forceOp 2 value)

/-- QUARANTINE_DROP (R412). -/
def execQuarantineDrop (via : Via) (value : Bytes) (s : State) : Host.Outcome State Fault Refusal :=
  s.command via 0x3204 6 (forceOp 3 value) fun n => n.quarantineCmd s.clock.tick (forceOp 3 value)

end Sys2Proof.Machine
end

