-- ==== Sys2Proof/Machine/SelfTest.lean ====
section
/-!
DEFINITION. The self-test controller: periodic slices, the coverage cycle and tests on demand (chapter 18).
-/

namespace Sys2Proof.Machine

/-! ### The cursor (R471) -/

/-- The slice's unit is retired, itself or with what it belongs to: the cursor skips it. -/
def Node.sliceRetired (n : Node) (cls target place : Nat) : Bool :=
  let u := sliceUnit cls target place 0xFFFFFFFF
  if cls ≤ 5 then
    n.retired .region target || (cls != 5 && n.retired u.1 u.2) ||
    (cls == 1 && n.retired .block (target * 16 + place / 16)) || (cls == 2 && n.retired .block (target * 16 + place / 8))
  else u.1 != .chip && n.retired u.1 u.2

/-- The first place from `place` on, around the class's slices, whose unit is not retired. -/
def Node.nextPlace (n : Node) (cls target : Nat) : Nat → Nat → Option Nat
  | 0, _ => none
  | fuel + 1, place =>
    let p := place % classSlices cls
    if n.sliceRetired cls target p then n.nextPlace cls target fuel (p + 1) else some p

/-- The targets of a class. -/
def classTargets (cls : Nat) : List Nat := if cls ≤ 5 then List.range 16 else [16]

/-- Every class has run every one of its slices once (R471). `done` holds a bit per place. -/
def Node.cycleDone (n : Node) : Bool :=
  (List.range 8).all fun i => (classTargets (i + 1)).all fun t =>
    (List.range (classSlices (i + 1))).all fun p =>
      bitOf (Map.get 0 n.test.done (classKey (i + 1) t)) p || n.sliceRetired (i + 1) t p

/-! ### Slices (R468, R474, R475) -/

/-- The class and place that a request for a unit takes in a target's window (R479). -/
def demandPlace (cls target : Nat) (u : UnitKind × Nat) : Option Nat :=
  match u.1 with
  | .thread => if cls = 1 ∧ u.2 / 4096 = target then some (u.2 / 16 % 256) else none
  | .cell => if cls = 1 ∧ u.2 / 256 = target then some (u.2 % 256) else none
  | .block => if cls = 2 ∧ u.2 / 16 = target then some (u.2 % 16 * 8) else none
  | .channel => if cls = 5 ∧ u.2 / 32 = target then some 0 else none
  | .region => if cls = 4 ∧ u.2 = target then some 0 else none
  | .port => none
  | .chip => if (cls = 6 ∧ u.2 = 1) ∨ (cls = 7 ∧ u.2 = 3) then some 0 else none

/-- A SELFTEST window of the active last opens: its class's next slice starts, or the test that a request waits for (R468, R479). A unit that is under
test takes no slice, and a node out of rounds or in no state that serves has no windows. -/
def Node.startSlice (n : Node) (now : Nat) (w : Window) : Node :=
  let t := if w.param ≤ 5 then w.target else 16
  let wanted := n.test.demand.findSome? fun u => (demandPlace w.param t u).map fun p => (u, p)
  let place := match wanted with
    | some (_, p) => some p
    | none => n.nextPlace w.param t (classSlices w.param) (Map.get 0 n.test.cursor (classKey w.param t))
  match place with
  | none => n
  | some p =>
    let u := sliceUnit w.param t p 0xFFFFFFFF
    if n.test.running.any (fun x => x.cls == w.param && x.target == t) || (!n.unitUp u.1 u.2 && !n.retired u.1 u.2) then n
    else
      let demand := match wanted with
        | some (d, _) => n.test.demand.erase d
        | none => n.test.demand
      let x : RunSlice := { cls := w.param, target := t, place := p, start := now, winEnd := now + Nat.min w.length 40, onDemand := wanted.isSome }
      let n := if n.test.started then n else n.setReg Reg.cycleStart now
      { n with test := { n.test with running := n.test.running ++ [x], demand := demand, started := true } }

/-- SELFTEST_SLICE_START (R468): the windows that open at this boundary. -/
def execSelftestSliceStart (s : State) : Host.Outcome State Fault Refusal :=
  let n := s.node
  let now := s.clock.tick
  if !n.inRounds || decide (now < n.reg Reg.roundBase) || !(n.st == stPreop || n.st == stOperational || n.st == stHold) then s.on n
  else
    s.on (n.foldl (n.sched.active.windows.filter fun w => w.kind == 6 && w.start == n.offset now) fun n w => n.startSlice now w)

/-- The slice is a signature test (Table 18-1). -/
def RunSlice.bySignature (x : RunSlice) (addr : Nat) : Bool :=
  addr == 0xFFFFFFFF && (x.cls == 1 || x.cls == 4 || x.cls == 6 || x.cls == 7 || (x.cls == 8 && decide (x.place < 16)))

/-- The firmware's stored signature of a slice (`0x3608:02`): a free value, per firmware. -/
def storedSignature (x : RunSlice) : Nat := Config.open 86 (classKey x.cls x.target * 4096 + x.place) % 2 ^ 32

/-- The coverage cycle ends and the next begins (R471). -/
def Node.endCycle (n : Node) (now : Nat) : Node :=
  if !n.cycleDone then n
  else
    let n := n.setReg Reg.cycleLast ((now - n.reg Reg.cycleStart) % 2 ^ 32)
    let n := n.setReg Reg.cycleStart now
    { n with test := { n.test with done := [], overrun := false } }

/-- A slice ends with a result (R474). A failure is an uncorrectable error of its unit (R475); of a patrol, of the line it found (R260). -/
def Node.endSlice (n : Node) (now : Nat) (x : RunSlice) (pass : Bool) (addr bit : Nat) : Node :=
  let addr := if pass then 0xFFFFFFFF else addr
  let u := sliceUnit x.cls x.target x.place addr
  let sig := storedSignature x
  let (raw, n) := if pass || !x.bySignature addr then ([], n) else n.draw 4
  let sig := if !x.bySignature addr then 0 else if pass then sig else leNat raw
  let r := resultRecord x.kind x.cls u.1 (if pass then 0 else 1) u.2 (if pass then 0xFFFF else bit) addr sig (now - 1)
  let key := classKey x.cls x.target
  let cursor := if x.onDemand then n.test.cursor else Map.set 0 n.test.cursor key ((x.place + 1) % classSlices x.cls)
  let ran := Map.set 0 n.test.done key (Map.get 0 n.test.done key ||| 2 ^ x.place)
  let n := { n with test := { n.test with running := n.test.running.filter (· != x), cursor := cursor, done := ran } }
  let n := (n.setReg Reg.lastResult (leNat r)).bump Reg.slicesRun
  let n := if x.onDemand then n.setReg Reg.testResult 0 else n
  let n :=
    if pass then n
    else
      let n := n.bump Reg.slicesFailed
      if x.cls = 5 ∧ addr ≠ 0xFFFFFFFF then n.lineUncorrectable now (x.target * 2 ^ 30 + (x.place * 2 ^ 24 + addr % 2 ^ 24) / 64) 2 noRequest
      else n.unitFault now u.1 u.2
  n.endCycle now

/-- SELFTEST_SLICE_END (R474): of the class and region, or of the chip class. A slice whose window has ended has no result (R468). -/
def execSelftestSliceEnd (cls target : BitVec 8) (pass : Bool) (addr : BitVec 32) (bit : BitVec 16) (s : State) :
    Host.Outcome State Fault Refusal :=
  match s.node.test.running.find? fun x => x.cls == cls.toNat && (decide (6 ≤ x.cls) || x.target == target.toNat) with
  | none => s.on s.node
  | some x => if x.winEnd < s.clock.tick then s.on s.node else s.on (s.node.endSlice s.clock.tick x pass addr.toNat bit.toNat)

/-- SELFTEST_SLICE_STOP (R468): slices at their window's end, or at 40 µs. -/
def execSelftestSliceStop (s : State) : Host.Outcome State Fault Refusal :=
  s.on (s.node.stopSlices s.clock.tick fun x => decide (x.winEnd ≤ s.clock.tick))

/-- CYCLE_OVERRUN (R473), once in a cycle. -/
def execCycleOverrun (s : State) : Host.Outcome State Fault Refusal :=
  let n := s.node
  if !n.test.started || n.test.overrun || decide (s.clock.tick ≤ n.reg Reg.cycleStart + n.reg Reg.cycleTicks) then s.on n
  else
    let n := { n with test := { n.test with overrun := true } }
    s.on ((n.setReg Reg.coverageStatus (n.reg Reg.coverageStatus ||| 1)).event 0x0050 (leBytes 8 (n.reg Reg.cycleStart)))

/-! ### Tests on demand (R479) -/

/-- The unit of a request is one that the classes of Table 18-1 or a port test covers. Only link ports have a number in Table 17-2's
terms (DESIGN CHOICE, log entry 73). -/
def unitKnown (kind : UnitKind) (num : Nat) : Bool :=
  match kind with
  | .thread => true | .cell => decide (num < 4096) | .block => decide (num < 256) | .channel => decide (num < 512)
  | .region => decide (num < 16) | .port => decide (num < 48) | .chip => num == 1 || num == 3

/-- TEST_REQ's effect: a port is tested at once where it is DOWN or DISABLED, other units wait for their window. -/
def Node.testReq (n : Node) (now : Nat) (v : Bytes) : Node :=
  match unitKindOf (fieldB v 0 1) with
  | none => n.setReg Reg.testResult 3
  | some kind =>
    let num := fieldB v 2 2
    if !unitKnown kind num then n.setReg Reg.testResult 3
    else if kind = .port then
      let st := n.portReg num Reg.portState
      if st ≠ 0 ∧ st ≠ 4 then n.setReg Reg.testResult 2
      else
        let n := n.setReg Reg.testResult 1
        let l := n.port num
        if l.testing ∨ n.retired .port num then n
        else
          let n := (n.setPort num { l with testing := true }).bump Reg.targetedRun
          { n with rcv := { n.rcv with units := Map.put n.rcv.units (unitKey .port num) { since := now, started := true, onDemand := true } } }
    else
      let n := n.setReg Reg.testResult 1
      if n.test.demand.contains (kind, num) then n else { n with test := { n.test with demand := n.test.demand ++ [(kind, num)] } }

/-- TEST_REQ (R479). -/
def execTestReq (via : Via) (value : Bytes) (s : State) : Host.Outcome State Fault Refusal :=
  s.command via 0x3604 1 value fun n => n.testReq s.clock.tick value

end Sys2Proof.Machine
end

