-- ==== Sys2Proof/Machine/Security.lean ====
section
/-!
DEFINITION. The security engine (chapter 16): keys installed and retired, firmware images, attestation reports; scan entry and its zeroization
(R480); and the package record's mutable record (R560, R561).
-/

namespace Sys2Proof.Machine

/-! ### The mutable record (R560) -/

/-- The copy in force: the one with the higher GEN among those whose CRC passes. -/
def Package.current (p : Package) : Mutable :=
  if !p.copyB.valid then p.copyA else if !p.copyA.valid then p.copyB
  else if p.copyB.gen ≤ p.copyA.gen then p.copyA else p.copyB

/-- A change writes a whole record to the copy with the lower GEN, with GEN one above the other's. -/
def Package.change (p : Package) (f : Mutable → Mutable) : Package :=
  let c := p.current
  let m := { f c with gen := c.gen + 1, valid := true }
  if c = p.copyA then { p with copyB := m } else { p with copyA := m }

/-- OP_ROOT is not blank (R561). -/
def opRootSet (d : Bytes) : Bool := d.any fun b => b != 0

/-- OPROOT_WRITE (R561), an awl instruction over JTAG: accepted only while no slice is BOUND, in force from the next reset. -/
def execOprootWrite (value : Bytes) (s : State) : Host.Outcome State Fault Refusal :=
  let n := s.node
  let n := { n with sec := { n.sec with jtagUsed := true, awlUsed := true } }
  if value.length ≠ 64 ∨ n.comp.slices.any (fun e => e.2.state == .bound) then s.on n
  else .next { s with node := n, pkg := s.pkg.change fun m => { m with opRoot := value } }

/-! ### Keys (R415 to R421) -/

/-- A unit of traffic whose unstarted frames are of the key: the key its next frame would be sealed with (R417, R420). -/
def Node.sealedBy (n : Node) (k : Nat) (m : OutMsg) : Bool := m.enc && decide (m.sent < m.message.length) && n.keyFor m == some k

/-- Frames of a key that have not started are discarded (R420). A final reply discarded leaves its request answered. -/
def Node.discardKey (n : Node) (k : Nat) : Node :=
  let drop := fun (n : Node) (m : OutMsg) => match m.reply with
    | some r => if r.final then n.answered r.session r.requestId else n
    | none => n
  let n := n.foldl (List.range 384) fun n i =>
    let l := n.queue (i / 8) (i % 8)
    if l.any (n.sealedBy k) then (n.setQueue (i / 8) (i % 8) (l.filter fun m => !n.sealedBy k m)).foldl (l.filter (n.sealedBy k)) drop else n
  let out := n.host.out.filter (n.sealedBy k)
  let n := { n with host := { n.host with out := n.host.out.filter fun m => !out.contains m } }
  n.foldl out drop

/-- A key is retired with its unstarted frames (R420). -/
def Node.retireNow (n : Node) (k : Nat) : Node := if (n.keySlot k).state = 1 then (n.discardKey k).retireKey k else n

/-- The code of R419 for an install. A KEY_ID of 0, which Table 16-3 does not allow, has no code of its own and counts as 2, being that of the
keys without one (DESIGN CHOICE, log entry 87). `key` is what decapsulation gives. -/
def Node.installCode (n : Node) (v : Bytes) (key : Option Bytes) : Nat :=
  let slot := fieldB v 0 2
  let ktype := fieldB v 2 1
  let sl := fieldB v 8 1
  let id := fieldB v 10 2
  let live := n.sec.keys.filter fun e => e.2.state == 1
  firstCode
    [(decide (n.reg Reg.keySlots ≤ slot) || (n.keySlot slot).state != 0, 1),
     (id == 0 || (live.any fun e => e.2.keyId == id) || n.sec.usedIds.contains id, 2),
     (!n.bound sl (fieldB v 4 4 % 2 ^ 28), 3), (key.isNone, 4), (ktype != 1 && ktype != 2, 5),
     (ktype == 2 && decide (2 ≤ (live.filter fun e => e.2.ktype == 2 && e.2.slice == sl).length), 6),
     (fieldB v 3 1 != 0 || fieldB v 4 4 / 2 ^ 28 != 0 || fieldB v 9 1 != 0 || fieldB v 12 4 != 0, 7)]

/-- KEY_INSTALL's effect (R418, R419). -/
def Node.keyInstall (n : Node) (now : Nat) (v : Bytes) : Node :=
  let key := unwrapKey n.sec.kemPrivate (sliceB v 16 1568) (sliceB v 0 16) "UHLELLE KEY WRAP" (sliceB v 1584 48)
  let code := n.installCode v key
  let n := n.setReg Reg.keyResult code
  if code ≠ 0 then n.bump Reg.keyRefusals
  else
    let k : KeySlot := { state := 1, ktype := fieldB v 2 1, tenant := fieldB v 4 4 % 2 ^ 28, slice := fieldB v 8 1, keyId := fieldB v 10 2,
                         liveTick := now, key := key.getD [] }
    let n := { n with sec := { n.sec with usedIds := n.sec.usedIds ++ [k.keyId] } }
    (n.setKey (fieldB v 0 2) k).bump Reg.keyInstalls

/-- KEY_INSTALL (R418). -/
def execKeyInstall (via : Via) (value : Bytes) (s : State) : Host.Outcome State Fault Refusal :=
  s.command via 0x3404 1 value fun n => n.keyInstall s.clock.tick value

/-- KEY_RETIRE's effect (R419, R420). -/
def Node.keyRetire (n : Node) (now : Nat) (v : Bytes) : Node :=
  let k := fieldB v 0 2
  let at_ := fieldB v 4 8
  let d := n.keySlot k
  let code := firstCode
    [(fieldB v 2 2 != 0 || fieldB v 12 4 != 0, 7), (d.state != 1 || decide (3 ≤ d.ktype), 8), (n.adm.sessions.any fun e => e.2.state == 1 && e.2.keySlot == k, 9)]
  let n := n.setReg Reg.keyResult code
  if code ≠ 0 then n.bump Reg.keyRefusals
  else if at_ ≤ now then n.retireNow k
  else n.setKey k { d with retireAt := some at_ }

/-- KEY_RETIRE (R420). -/
def execKeyRetire (via : Via) (value : Bytes) (s : State) : Host.Outcome State Fault Refusal :=
  s.command via 0x3404 2 value fun n => n.keyRetire s.clock.tick value

/-- KEY_RETIREMENT (R420, R421): the scheduled tick has come. -/
def execKeyRetirement (slot : BitVec 16) (s : State) : Host.Outcome State Fault Refusal :=
  match (s.node.keySlot slot.toNat).retireAt with
  | some t => if t ≤ s.clock.tick then s.on (s.node.retireNow slot.toNat) else s.on s.node
  | none => s.on s.node

/-! ### Firmware images (R427, R428) -/

/-- BODY_LEN of an image header: the fields of R427 stand in their order with no gap. -/
def imageBody (v : Bytes) : Nat := fieldB v 11 4

/-- The layout of R427. -/
def imageFormat (v : Bytes) : Bool :=
  decide (128 ≤ v.length) && fieldB v 0 2 == 1 && decide (1 ≤ fieldB v 2 1) && decide (fieldB v 2 1 ≤ 3) &&
  v.length == 128 + 2592 + imageBody v + 4627

/-- FW_RESULT of an image (R428). Where its layout is not that of R427 there is no key or signature to check. -/
def imageCode (p : Package) (v : Bytes) : Nat :=
  if !imageFormat v then 4
  else
    let key := sliceB v 128 2592
    let body := v.take (v.length - 4627)
    firstCode
      [(!Config.verify key [] body (v.drop (v.length - 4627)), 1), (sha3_512 key != p.romSigner, 2), (decide (fieldB v 7 2 < p.current.svnMin), 3)]

/-- The number under which an image is kept: bank and KIND. -/
def bankKey (bank kind : Nat) : Nat := bank * 4 + kind

/-- An accepted image goes to the bank that is not active, beside the active bank's other images, and that bank is active from the next reset
(R560). That the other images are carried over is DEDUCED (log entry 88): a bank holds three images. -/
def Package.stage (p : Package) (v : Bytes) : Package :=
  let b := p.current.bank
  let other := 1 - b
  let kept := [1, 2, 3].foldl (fun (m : Map Bytes) k =>
    if k = fieldB v 2 1 then Map.put m (bankKey other k) v else Map.set [] m (bankKey other k) (Map.get [] p.banks (bankKey b k))) p.banks
  { p with banks := kept }.change fun m => { m with bank := other }

/-- FW_STAGED's effect (R428). -/
def State.fwStaged (s : State) (v : Bytes) : State :=
  let code := imageCode s.pkg v
  let s := s.put (s.node.setReg Reg.fwResult code)
  if code = 0 then { s with pkg := s.pkg.stage v } else s

/-- FW_STAGED (R428). -/
def execFwStaged (via : Via) (image : Bytes) (s : State) : Host.Outcome State Fault Refusal :=
  .next (s.write via 0x3404 6 image fun s => s.fwStaged image)

/-! ### Attestation (R429 to R432) -/

/-- An entry of a report (Table 16-6). -/
def reportEntry (kind sub num layer : Nat) (label digest : Bytes) : Bytes :=
  leBytes 1 kind ++ leBytes 1 sub ++ leBytes 2 num ++ leBytes 2 layer ++ leBytes 2 0 ++ padTo 8 label ++ padTo 64 digest

/-- Names of the built-in programs (Table 7-10). -/
def builtinNames : List String := ["ATT_KV", "ATT_LAT", "REDUCE", "APPEND", "FORK_COPY", "BWD", "SEARCH_SCAN"]

/-- Digest of a built-in program: per firmware, a free value. -/
def builtinDigest (i : Nat) : Bytes := leBytes 64 (Config.open 89 i)

/-- Entries of the tenant's READY weights, by NUM, LAYER, SUB. -/
def Node.weightEntries (n : Node) (tenant : Nat) : List Bytes :=
  let ws := (n.tiers.weights.filter fun e => e.2.state == 2 && (Map.get {} n.models e.2.model).tenant == tenant).map (·.2)
  let le := fun (a b : Weight) => decide ((a.model * 65536 + a.layer) * 256 + a.kind < (b.model * 65536 + b.layer) * 256 + b.kind)
  (sortBy le ws).map fun w => reportEntry 3 w.kind w.model w.layer [] w.digest

/-- The report up to its signature (Table 16-5). -/
def Node.reportBody (n : Node) (now tenant : Nat) (nonce : Bytes) : Bytes :=
  let builtin := builtinNames.zipIdx.map fun e => reportEntry 1 0 0 0 (nameBytes e.1) (builtinDigest e.2)
  let of := fun (t : Nat) => tenant != 0 && t == tenant
  let progs := (n.progs.filter fun e => of e.2.tenant && e.2.state == 2).map fun e => reportEntry 2 0 e.1 0 [] e.2.digest
  let weights := if tenant = 0 then [] else n.weightEntries tenant
  let indexes := (n.indexes.filter fun e => of e.2.tenant && e.2.state == 2).map fun e => reportEntry 4 0 e.1 0 [] e.2.digest
  let all := builtin ++ progs ++ weights ++ indexes
  let flag := if tenant = 0 then !n.sec.inspected.isEmpty else (Map.find n.sec.inspected tenant).isSome
  let flags := (if flag then 1 else 0) + (if n.sec.awlUsed then 2 else 0) + (if n.sec.jtagUsed then 4 else 0)
  leBytes 2 1 ++ leBytes 2 0 ++ leBytes 4 (2048 + 80 * all.length + 4627) ++ leBytes 4 tenant ++ leBytes 4 0 ++ padTo 64 nonce ++ leBytes 8 now ++
  leBytes 32 (n.reg Reg.identity) ++ leBytes 128 (n.reg Reg.stackIds) ++ padTo 192 n.sec.fwDigests ++ leBytes 2 n.sec.fwSvn ++
  leBytes 2 n.sec.fwVersion ++ leBytes 4 (n.reg Reg.lastId) ++ leBytes 2 (n.reg Reg.epoch) ++ leBytes 2 0 ++ leBytes 4 (n.reg Reg.configGen) ++
  leBytes 4 flags ++ leBytes 4 0 ++ padTo 1568 n.sec.kemPublic ++ leBytes 2 builtin.length ++ leBytes 2 progs.length ++ leBytes 2 weights.length ++
  leBytes 2 indexes.length ++ leBytes 8 0 ++ all.flatten

/-- ATTEST_STATE, and ASTATUS of the function that asked (R528). -/
def Node.attestState (n : Node) (v : Nat) : Node :=
  let n := n.setReg Reg.attestState v
  match n.sec.attestDest with
  | some (f, _) => { n with host := { n.host with funcs := Map.set {} n.host.funcs f { (Map.get {} n.host.funcs f : VFunc) with astatus := v } } }
  | none => n

/-- ATTEST_REQ's effect (R429, R432). `dest` is the function and address of a request by R528. -/
def Node.attestReq (n : Node) (tenant : Nat) (nonce : Bytes) (dest : Option (Nat × Nat)) : Node :=
  if n.reg Reg.attestState = 1 then { n with sec := { n.sec with attestIgnored := n.sec.attestIgnored + 1 } }
  else if n.reg Reg.attestState = 3 then n
  else
    let sec := { n.sec with attestTenant := tenant, attestNonce := nonce, attestSnap := [], attestDest := dest }
    { n with sec := sec }.attestState 1

/-- The state after the batch that applied the request is taken (R429): by the boundary that ends the batch. -/
def Node.attestSnapshot (n : Node) (now : Nat) : Node :=
  if n.reg Reg.attestState = 1 ∧ n.sec.attestSnap = [] then
    { n with sec := { n.sec with attestSnap := n.reportBody now n.sec.attestTenant n.sec.attestNonce } }
  else n

/-- ATTEST_REQ (R429). -/
def execAttestReq (via : Via) (value : Bytes) (s : State) : Host.Outcome State Fault Refusal :=
  s.command via 0x3404 4 value fun n => n.attestReq (fieldB value 0 4) (sliceB value 8 64) none

/-- The report is ready: signed, and written where a function asked for it (R429, R430, R528). -/
def Node.reportReady (n : Node) (now : Nat) : Node :=
  if n.reg Reg.attestState ≠ 1 then n
  else
    let n := n.attestSnapshot now
    let report := n.sec.attestSnap ++ padTo 4627 (Config.sign n.sec.dikPrivate n.sec.attestSnap)
    let n := { n with sec := { n.sec with report := report } }.attestState 2
    match n.sec.attestDest with
    | some (f, a) => { n with host := { n.host with writes := n.host.writes ++ [{ func := f, addr := a, bytes := report }] } }
    | none => n

/-- ATTEST_REPORT_READY (R430). -/
def execAttestReportReady (s : State) : Host.Outcome State Fault Refusal := s.on (s.node.reportReady s.clock.tick)

/-! ### Scan (R432, R480) -/

/-- The registers of a region or of a link port: its entries but the constants. -/
def zeroEntries (n : Node) (index : Nat) : Node :=
  n.foldl ((Dict.object index).getD []) fun n e => if e.access = .const then n else n.setReg (dkey index e.sub) 0

/-- Key slots, private keys and the keys derived from them are zeroized (R480). -/
def Node.zeroizeKeys (n : Node) : Node :=
  let keys := n.sec.keys.map fun (e : Nat × KeySlot) => (e.1, { e.2 with state := if e.2.state = 1 then 2 else e.2.state, key := [], retireAt := none })
  let domains := n.share.domains.map fun (e : Nat × Domain) => (e.1, { e.2 with key := [] })
  { n with sec := { n.sec with keys := keys, kemPrivate := [], dikPrivate := [] }, share := { n.share with domains := domains } }

/-- The node enters scan (R480): FAULT, the secrets, then the regions and the link complex. -/
def Node.scanEntry (n : Node) (now : Nat) : Node :=
  let n := { n with sec := { n.sec with jtagUsed := true, awlUsed := true }, test := { n.test with running := [], demand := [] } }
  let n := (n.enterFault now 6).zeroizeKeys
  let n := { n with cells := {}, links := {} }
  let n := n.foldl (List.range 16) fun n r => n.foldl [0, 1, 2] fun n j => zeroEntries n (0x4000 + r * 256 + j)
  let n := n.foldl (List.range 48) fun n p => n.foldl [0, 1, 2, 3, 4] fun n j => zeroEntries n (0x5000 + p * 64 + j)
  (n.setReg Reg.scanState 1).attestState 3

/-- SCAN_ENTRY (R480), over JTAG. -/
def execScanEntry (s : State) : Host.Outcome State Fault Refusal :=
  if s.node.reg Reg.scanState ≠ 0 ∨ s.node.st = 0 then s.on s.node
  else .next { s with node := s.node.scanEntry s.clock.tick, mem := [] }

/-- ZEROIZATION_COMPLETE (R480). -/
def execZeroizationComplete (s : State) : Host.Outcome State Fault Refusal :=
  if s.node.reg Reg.scanState = 1 then s.on (s.node.setReg Reg.scanState 2) else s.on s.node

end Sys2Proof.Machine
end

