-- ==== Sys2Proof/Machine/Thread.lean ====
section
/-!
DEFINITION. The registers of a thread (Table 7-1): x, v, ACC and tile registers, and what an instruction needs of its thread to issue.
-/

namespace Sys2Proof.Machine

/-! ### Registers -/

/-- Read xi; x0 reads 0. -/
def Thread.getX (t : Thread) (i : Nat) : Nat := if i = 0 then 0 else Map.get 0 t.x i

/-- Write xi, 64 bits; writes to x0 are ignored. -/
def Thread.setX (t : Thread) (i v : Nat) : Thread := if i = 0 then t else { t with x := Map.set 0 t.x i (v % 2 ^ 64) }

/-- The 64 lanes of vi, FP32 bits; registers above v15 do not exist, and what one reads is free (log entry 110). -/
def Thread.getV (t : Thread) (i : Nat) : List Nat :=
  if i < 16 then (List.range 64).map fun l => (Map.get [] t.v i).getD l 0
  else (List.range 64).map fun l => Config.open 110 (i * 64 + l) % 2 ^ 32

/-- Write vi; a write above v15 has no effect (log entry 110). -/
def Thread.setV (t : Thread) (i : Nat) (lanes : List Nat) : Thread :=
  if i < 16 then { t with v := Map.set [] t.v i (if lanes.all (· == 0) then [] else lanes) } else t

/-- An element of ACC, FP32 bits. -/
def Thread.getAcc (t : Thread) (row col : Nat) : Nat := Map.get 0 t.acc (row * 32 + col)

/-- The number of a thread's tile register over the node, by its name in the program; none where it was not granted (R187). -/
def Thread.tileKey (t : Thread) (key i : Nat) : Option Nat := (t.tiles[i]?).map fun r => key / 16 * 16 + r

/-- A tile register of a thread; one not granted reads 0. -/
def Node.tile (n : Node) (key i : Nat) : Tile :=
  match (n.thread key).tileKey key i with
  | some k => Map.get {} n.cells.tiles k
  | none => {}

/-- Write a tile register of a thread; one not granted is not written. -/
def Node.setTile (n : Node) (key i : Nat) (x : Tile) : Node :=
  match (n.thread key).tileKey key i with
  | some k => { n with cells := { n.cells with tiles := Map.set {} n.cells.tiles k x } }
  | none => n

/-! ### Loads -/

/-- Bytes of an LD or ST: 8 to 64 bits by MOD, whose code is free (log entry 111). -/
def ldBytes (m : Nat) : Nat := 2 ^ (Config.open 111 m % 4)

/-- A loaded value in a 64-bit register: zero-extended, or where its top bit is set perhaps sign-extended (log entry 111). -/
def ldExtend (m : Nat) (bs : Bytes) : Nat :=
  let v := leNat bs
  let top := 2 ^ (8 * bs.length)
  if v < top / 2 ∨ Config.open 112 m % 2 = 0 then v else v + (2 ^ 64 - top)

/-- The 64 lanes of 256 bytes. -/
def lanesOf (bs : Bytes) : List Nat := (List.range 64).map fun l => fieldB bs (4 * l) 4

/-- A load's data reach its register: kind 0 x, 1 v, 2 tile. The scale field that TLD.MEM leaves is free (log entry 114). -/
def Node.land (n : Node) (key kind rd m : Nat) (bs : Bytes) : Node :=
  let t := n.thread key
  if kind = 0 then n.setThread key (t.setX rd (ldExtend m bs))
  else if kind = 1 then n.setThread key (t.setV rd (lanesOf bs))
  else
    let (sc, n) := n.draw 128
    n.setTile key rd { data := bs, scales := sc }

/-! ### Issue -/

/-- The thread issues: it runs an item that has not reached END, and no remote load is out (log entry 113). -/
def Node.issues (n : Node) (key : Nat) : Bool :=
  let t := n.thread key
  t.running && !t.ended && t.load.isNone && !n.stopped

/-- The pc after an instruction. -/
def Thread.next (t : Thread) : Thread := { t with pc := (t.pc + 8) % 2 ^ 32 }

/-- Change a thread and move its pc past the instruction. -/
def Node.retire (n : Node) (key : Nat) (f : Thread → Thread) : Node := n.setThread key (f (n.thread key)).next

/-- A program fault (R213): a tenant item ends; a built-in program takes none, and its instruction has no effect. -/
def Node.programFault (n : Node) (now key : Nat) : Node :=
  if (n.thread key).program.isSome then n.trap now key stFormat 0x40 else n.retire key id

/-- The admitted request and the item of a thread. -/
def Node.itemOf (n : Node) (t : Thread) : Option (Admitted × Item) :=
  (n.admitted? (reqKey t.session t.request)).bind fun q => (q.items.find? fun i => i.num == t.item).map fun i => (q, i)

end Sys2Proof.Machine
end

