-- ==== Sys2Proof/Machine/Receive.lean ====
section
/-!
DEFINITION. What arrives at a link port: flits (R339 to R341), Ethernet frames (R351, R353), and the Camris frames they carry (R342 to R345,
R354, R355), put together into messages and handed to what they are for; the cells of the buffer pool that they hold meanwhile (R375, R377, R378).
-/

namespace Sys2Proof.Machine

/-- Add 1 to a counter of a port. -/
def Node.bumpPort (n : Node) (p k : Nat) : Node := n.setPortReg p k ((n.portReg p k + 1) % 2 ^ 64)

/-- The port's receiver runs: it is TRAINING, READY or IN_SERVICE. -/
def Node.receives (n : Node) (p : Nat) : Bool := !n.stopped && decide (1 ≤ n.portReg p Reg.portState) && decide (n.portReg p Reg.portState ≤ 3)

/-! ### Inbound cells (R373, R375, R377, R378) -/

/-- Cells that unfinished messages of a channel hold on a port. -/
def Node.inCells (n : Node) (p vc : Nat) : Nat :=
  (((Map.get [] n.links.inbound p).filter fun (m : InMsg) => m.vc == vc).flatMap fun m => m.parts.map fun e => frameCells e.2.length (m.keyId != 0)).sum

/-- Cells that a queue's messages hold; a status entry holds none (R376). -/
def Node.outCells (n : Node) (p q : Nat) : Nat := ((n.queue p q).map OutMsg.cells).sum

/-- Shared cells in use: what every channel and queue holds above its reserve (R375). Q6 has its own partition (R374). -/
def Node.sharedUsed (n : Node) : Nat :=
  ((List.range 48).flatMap fun p =>
    (List.range 8).flatMap fun v =>
      let out := if v = 6 then 0 else n.outCells p v - (if v = 7 then n.reg Reg.q7Reserve else n.reg Reg.qbReserve)
      [n.inCells p v - (if v < 6 then n.reg Reg.inReserve else n.reg Reg.inReserveTv), out]).sum

/-- The shared part of the pool (Table 14-4). -/
def Node.sharedCells (n : Node) : Nat :=
  n.reg Reg.poolCells3100 - (48 * (6 * n.reg Reg.inReserve + 2 * n.reg Reg.inReserveTv + n.reg Reg.q7Reserve + 3 * n.reg Reg.qbReserve) + n.reg Reg.q6Pool)

/-- SHARED_FREE. -/
def Node.sharedFree (n : Node) : Nat := n.sharedCells - n.sharedUsed

/-- An inbound frame finds its cells (R375). -/
def Node.cellsFor (n : Node) (p vc cells : Nat) : Bool :=
  let reserve := if vc < 6 then n.reg Reg.inReserve else n.reg Reg.inReserveTv
  let held := n.inCells p vc
  decide (held + cells ≤ reserve) ||
  (decide ((held + cells - reserve) * 8 ≤ n.reg Reg.dtNum * n.sharedFree) && decide (held + cells - Nat.max held reserve ≤ n.sharedFree))

/-- XOFF or XON where the inbound cells of a channel have reached their mark (R378). -/
def Node.pfcUpdate (n : Node) (p vc : Nat) : Node :=
  if n.isNative p ∨ 5 < vc then n
  else
    let held := n.inCells p vc
    let l := n.port p
    if !bitOf l.xoffSent vc && decide (n.reg Reg.inReserve - n.reg Reg.pfcHeadroom ≤ held) then
      (n.setPort p { l with xoffSent := setBit l.xoffSent vc true }).bumpPort p Reg.pfcTx
    else if bitOf l.xoffSent vc && decide (held < n.reg Reg.inReserve / 2) then
      (n.setPort p { l with xoffSent := setBit l.xoffSent vc false }).bumpPort p Reg.pfcTx
    else n

/-- The cells of a message are freed: a native peer gets its credits back, less what is withheld from it (R348, R377). -/
def Node.freeCells (n : Node) (p vc cells : Nat) : Node :=
  if n.isNative p ∧ vc ≤ 5 then
    let l := n.port p
    let hold := Nat.min cells (Map.get 0 l.withheld vc)
    n.setPort p { l with withheld := Map.set 0 l.withheld vc (Map.get 0 l.withheld vc - hold),
                         owed := Map.set 0 l.owed vc (Map.get 0 l.owed vc + (cells - hold)) }
  else n.pfcUpdate p vc

/-! ### Remote accesses (R194) -/

/-- The slice that owns an offset of space 3: the slice of its block, or a slice of the region for staging. -/
def Node.slicesAt (n : Node) (off : Nat) : List Nat :=
  (n.comp.slices.filter fun e => e.2.state == .bound &&
    (if areaOf off = 2 then n.sliceCells e.1 (regionOf off) else bitOf e.2.blocks (blockOf off))).map (·.1)

/-- A thread's remote access is answered: the data of a load reach its register; a refusal is a program fault of its item. -/
def Node.remoteDone (n : Node) (now thread kind : Nat) (data : Bytes) : Node :=
  let t := n.thread thread
  if !t.running ∨ t.remoteOut = 0 then n
  else if kind = 5 then
    let n := n.bump Reg.progFaults
    (n.endRequest now (reqKey t.session t.request) stFormat 0x40).freeThread thread
  else
    let n1 := n.setThread thread { t with remoteOut := t.remoteOut - 1, load := if kind = 3 then none else t.load }
    match t.load with
    | some (k, rd, m) => if kind = 3 then n1.land thread k rd m data else n1
    | none => n1

/-- A MEM message (its layout is log entry 90): KIND (1 read, 2 write, 3 read data, 4 write done, 5 refusal), thread (U32), ADDRESS (U64), LENGTH
(U32), data. A read or write of space 3 is served where its address lies in a slice of the tenant whose key sealed it, and outside code areas for a write;
one of space 5 where the mailbox is of that tenant. -/
def State.memReceive (s : State) (src tenant slice : Nat) (v : Bytes) : State :=
  let n := s.node
  let now := s.clock.tick
  let kind := fieldB v 0 1
  let th := sliceB v 1 4
  let addr := fieldB v 5 8
  let len := fieldB v 13 4
  let off := addr % 2 ^ 51
  let box := off / 4096
  if 3 ≤ kind then s.put (n.remoteDone now (fieldB v 1 4) kind (v.drop 17))
  else if addr / 2 ^ 51 % 8 = 5 then
    let mine := match n.boxSlice box with | some x => (n.slice x).tenant == tenant | none => false
    let reply := fun (n : Node) (k : Nat) (data : Bytes) => n.sendNode now 3 5 src slice (leBytes 1 k ++ th ++ leBytes 8 addr ++ leBytes 4 len ++ data)
    if !mine ∨ 2 ^ 24 ≤ off ∨ 4096 < off % 4096 + len ∨ len = 0 then s.put (reply n 5 [])
    else if kind = 1 then s.put (reply n 3 (n.boxRead box (off % 4096) len))
    else s.put (reply (n.boxWrite box (off % 4096) (sliceB v 17 len)) 4 [])
  else
    let mine := (n.slicesAt off).any fun x => (n.slice x).tenant == tenant
    let ok := decide (addr / 2 ^ 51 % 8 = 3) && runOk off len && mine && (kind == 1 || (kind == 2 && !inCode off))
    let reply := fun (k : Nat) (data : Bytes) => n.sendNode now 3 5 src slice (leBytes 1 k ++ th ++ leBytes 8 addr ++ leBytes 4 len ++ data)
    if !ok then s.put (reply 5 [])
    else if kind = 1 then s.put (reply 3 (Memory.read s.mem off len))
    else { s with node := reply 4 [], mem := Memory.write s.mem off (sliceB v 17 len) }

/-! ### Messages -/

/-- The message is whole: its parts, in order, reach from 0 to the total of its LAST frame. -/
def InMsg.whole (m : InMsg) : Option Bytes :=
  let parts := sortBy (fun (a b : Nat × Bytes) => decide (a.1 < b.1)) m.parts
  let all := (parts.map (·.2)).flatten
  let gapless := (parts.foldl (fun (acc : Bool × Nat) e => (acc.1 && e.1 == acc.2, acc.2 + e.2.length)) (true, 0)).1
  if gapless ∧ m.total = some all.length then some all else none

/-- The endpoint that a session's replies go to becomes the source of its latest request (R345); the change goes to the partners (Table 17-4). -/
def Node.replyTo (n : Node) (session src : Nat) : Node :=
  if Map.get 0xFFFF n.links.replyDst session = src then n
  else { n with links := { n.links with replyDst := Map.put n.links.replyDst session src } }.journal 6 session src 1 []

/-- A request message that has come whole (R344). One sealed under another key than its session's is dropped as one whose tag fails (DEDUCED, log
entry 91). -/
def Node.requestArrives (n : Node) (now p src keySlot : Nat) (v : Bytes) : Node :=
  if v.length < 64 then n.bumpPort p Reg.framesDropped
  else
    let r := Request.ofBytes v p
    let ses := n.session r.sess
    if ses.state ≠ 0 ∧ ses.keySlot ≠ keySlot then n.bumpPort p Reg.tagFailures
    else (if ses.state = 0 then n else n.replyTo r.sess src).arrive now r

/-- A TILE message (R306; its layout is log entry 78): the answer to a tile that this node asked of the sender, or a request. -/
def Node.tileMessageIn (n : Node) (now src : Nat) (v : Bytes) : Node :=
  let model := fieldB v 0 2
  let layer := fieldB v 2 2
  let kind := fieldB v 4 1
  let tile := fieldB v 5 2
  let asked := n.tiers.weights.find? fun e => e.2.model == model && e.2.layer == layer && e.2.kind == kind &&
    e.2.poisoned.any fun x => x.1 == tile && (((e.2.sources n.straps)[x.2.1]?).any fun y => y.2 == src)
  match asked with
  | some (d, _) => n.tileArrives now d tile (v.drop 7)
  | none => n.serveTile now src model layer kind tile (sliceB v 7 64)

/-- A whole message goes to what it is for (Table 13-5). -/
def State.dispatch (s : State) (p : Nat) (m : InMsg) (keySlot : Nat) (v : Bytes) : State :=
  let n := s.node
  let now := s.clock.tick
  let k := n.keySlot keySlot
  match m.ftype with
  | 1 => s.put (n.requestArrives now p m.src keySlot v)
  | 3 => s.memReceive m.src k.tenant k.slice v
  | 4 => s.put (n.tileMessageIn now m.src v)
  | 5 => s.put (n.replReceive now m.src v)
  | 6 => s.put (n.moveReceive now m.src v)
  | 7 => s.put (n.headerReceive now v)
  | 8 => s.put (n.helloReceive now p v)
  | 10 => s.put (n.pathAcked m.src v)
  | _ => s

/-! ### Frames (R342, R343, R354, R355) -/

/-- The channel of a received frame's type (Table 13-5). -/
def vcAllowed (ftype vc : Nat) : Bool :=
  if ftype = 1 then decide (vc ≤ 3) else if ftype = 2 then vc == 6 || vc == 7 else if ftype = 3 ∨ ftype = 4 then vc == 5
  else if ftype = 5 then vc == 4 else if ftype = 6 then vc == 3 else decide (7 ≤ ftype) && decide (ftype ≤ 10) && vc == 7

/-- Frame types that carry tenant payload, which is never in clear (R354); a reply may be status-only. -/
def sealedType (ftype : Nat) : Bool := ftype == 1 || (decide (3 ≤ ftype) && decide (ftype ≤ 6))

/-- A frame keeps to Tables 13-4 and 13-5, and is for this node or for the link peer. -/
def Node.frameOk (n : Node) (p : Nat) (f : Bytes) : Bool :=
  let ftype := fieldB f 1 1
  let vc := fieldB f 2 1
  let flags := fieldB f 3 1
  let dst := fieldB f 6 2
  let off := fieldB f 12 4
  let len := fieldB f 16 2
  let enc := flags % 2 == 1
  fieldB f 0 1 == n.reg Reg.camrisVersion && vcAllowed ftype vc && decide (flags < 8) && (dst == n.straps || dst == 0xFFFF) &&
  decide (1 ≤ len) && decide (len ≤ 4096) && decide (32 + len + (if enc then 16 else 0) ≤ f.length) &&
  ((flags / 2 % 2 == 1) == (off == 0)) && (enc || (fieldB f 18 2 == 0 && fieldB f 20 8 == 0)) && (!n.isNative p || fieldB f 28 4 == 0) &&
  (!sealedType ftype || enc) &&
  (ftype != 9 || (len == 64 && !enc && (sliceB f 32 64).all (· == 0)))

/-- The LIVE slot of a KEY_ID for a frame type: SESSION keys for requests and replies, SLICE_LINK keys for the rest. -/
def Node.slotOf (n : Node) (ftype keyId : Nat) : Option Nat :=
  (n.sec.keys.find? fun e => e.2.state == 1 && e.2.keyId == keyId && e.2.ktype == (if ftype ≤ 2 then 1 else 2)).map (·.1)

/-- A numbered frame of a path (R351, R352): new, or a repetition of one that has come. -/
def Path.fresh (t : Path) (number : Nat) : Bool := !(seqBefore number t.expect || t.seen.contains number)

/-- Take the numbers that follow the one expected out of those seen. -/
def Path.advance : Nat → Path → Path
  | 0, t => t
  | fuel + 1, t =>
    if t.seen.contains t.expect then Path.advance fuel { t with expect := (t.expect + 1) % 2 ^ 32, seen := t.seen.filter fun x => x != t.expect } else t

/-- A path's frame has come: it is owed an acknowledgement. -/
def Path.take (t : Path) (now number : Nat) : Path :=
  let t := { t with owedSince := some (t.owedSince.getD now) }
  if t.fresh number then Path.advance (t.seen.length + 1) { t with seen := t.seen ++ [number] } else t

/-- A frame's payload joins its message; a whole message is dispatched and its cells are freed. -/
def State.joinFrame (s : State) (p keySlot : Nat) (f data : Bytes) : State :=
  let n := s.node
  let now := s.clock.tick
  let vc := fieldB f 2 1
  let keyId := fieldB f 18 2
  let id := fieldB f 8 4
  let src := fieldB f 4 2
  let off := fieldB f 12 4
  let list : List InMsg := Map.get [] n.links.inbound p
  let same := fun (m : InMsg) => m.src == src && m.msgId == id && m.vc == vc
  let m : InMsg := (list.find? same).getD { ftype := fieldB f 1 1, src := src, msgId := id, vc := vc, keyId := keyId }
  let total := if fieldB f 3 1 / 4 % 2 = 1 then some (off + data.length) else m.total
  let m := { m with parts := m.parts.filter (fun (e : Nat × Bytes) => e.1 != off) ++ [(off, data)], total := total, lastTick := now }
  let rest := list.filter fun x => !same x
  match m.whole with
  | none => s.put ({ n with links := { n.links with inbound := Map.set [] n.links.inbound p (rest ++ [m]) } }.pfcUpdate p vc)
  | some v =>
    let cells := (m.parts.map fun (e : Nat × Bytes) => frameCells e.2.length (m.keyId != 0)).sum
    let n := { n with links := { n.links with inbound := Map.set [] n.links.inbound p rest } }.freeCells p vc cells
    (s.put n).dispatch p m keySlot v

/-- A Camris frame arrives (R342, R343, R351, R354, R355, R375). The nonce's port byte is the sender's port: from HELLO in native mode; on Ethernet
no frame carries it, and it is a free value (log entry 92). -/
def State.frameIn (s : State) (p : Nat) (f : Bytes) : State :=
  let n := s.node
  let now := s.clock.tick
  let drop := fun (k : Nat) => s.put (n.bumpPort p k)
  if !n.frameOk p f then drop Reg.framesDropped
  else
    let ftype := fieldB f 1 1
    let vc := fieldB f 2 1
    let src := fieldB f 4 2
    let len := fieldB f 16 2
    let keyId := fieldB f 18 2
    let enc := fieldB f 3 1 % 2 == 1
    let slot := if enc then n.slotOf ftype keyId else some 0
    match slot with
    | none => drop (if n.sec.usedIds.contains keyId then Reg.retiredKeyDrops else Reg.tagFailures)
    | some k =>
      let body := sliceB f 32 (len + if enc then 16 else 0)
      let plain := if enc then gcmOpen (n.keySlot k).key (linkNonce src (if n.isNative p then n.portReg p Reg.peerPort else Config.open 92 src % 256) (fieldB f 20 8)) (sliceB f 0 32) body
        else some body
      match plain with
      | none => drop Reg.tagFailures
      | some data =>
        let path : Path := Map.get {} n.links.rx (pathKey src vc)
        let numbered := !n.isNative p && decide (3 ≤ vc) && decide (vc ≤ 5)
        let repeated := numbered && !path.fresh (fieldB f 28 4)
        if !repeated && !n.cellsFor p vc (frameCells len enc) then s.put (n.bump Reg.poolDrops)
        else
          let n := n.bumpPort p Reg.framesRx
          let t := path.take now (fieldB f 28 4)
          let n := if numbered then { n with links := { n.links with rx := Map.set {} n.links.rx (pathKey src vc) t } } else n
          if repeated then s.put n else (s.put n).joinFrame p k f data

/-- CAMRIS_FRAME_RECEIVE (R342): the frame as the link layer of its port delivers it. -/
def execCamrisFrameReceive (p : Fin 48) (frame : Bytes) (s : State) : Host.Outcome State Fault Refusal :=
  let n := s.node
  if !n.receives p.val then s.on n
  else .next ((s.put (n.setPort p.val { n.port p.val with lastRx := s.clock.tick })).frameIn p.val frame)

/-! ### Flits (R339 to R341) -/

/-- The frames that a stream of data bytes holds, and what is left; zero bytes fill between frames. Bytes that begin no frame of this version are
dropped as one malformed frame. -/
def cutFrames (version : Nat) : Nat → Bytes → List Bytes × Bytes
  | 0, bs => ([], bs)
  | fuel + 1, bs =>
    let bs := bs.dropWhile fun b => b == 0
    if bs = [] then ([], [])
    else if (bs.headD 0).toNat ≠ version then ([bs], [])
    else
      let total := 32 + fieldB bs 16 2 + (if fieldB bs 3 1 % 2 = 1 then 16 else 0)
      if bs.length < 32 ∨ bs.length < total then ([], bs)
      else
        let (fs, left) := cutFrames version fuel (bs.drop total)
        (bs.take total :: fs, left)

/-- The flits up to an acknowledged SEQ leave the replay buffer; a replay whose first flit is among them has been acknowledged. -/
def Port.acknowledge (l : Port) (ack : Nat) : Port :=
  let i := l.unacked.findIdx fun e => e.1 == ack
  if i < l.unacked.length then
    let gone := (l.unacked.take (i + 1)).map (·.1)
    { l with unacked := l.unacked.drop (i + 1), replayStart := l.replayStart.bind fun r => if gone.contains r.2 then none else some r }
  else l

/-- A NAK asks for a replay (R340); the third in REPLAY_SPAN ticks takes the port DOWN (R341). -/
def Node.replay (n : Node) (now p : Nat) : Node :=
  let l := n.port p
  match l.unacked with
  | [] => n
  | e :: _ =>
    let recent := l.replayTicks.filter fun t => decide (now < t + n.reg Reg.replaySpan)
    let n := n.bumpPort p Reg.replays
    if n.reg Reg.replayLimit ≤ recent.length then n.portDown now p 2
    else n.setPort p { l with replayTicks := recent ++ [now], replayStart := some (now, e.1) }

/-- A credit return for a channel (R348). -/
def Port.credit (l : Port) (vc cells : Nat) : Port :=
  if cells = 0 ∨ 5 < vc then l
  else { l with credits := Map.set 0 l.credits vc (Map.get 0 l.credits vc + cells), stalledSince := Map.erase l.stalledSince vc }

/-- A flit that is right: header, data and symbols corrected. -/
def State.flitIn (s : State) (p : Nat) (f : Bytes) (corrected : Nat) : State :=
  let now := s.clock.tick
  let h := fieldB f 0 8
  let ftype := h / 2 ^ 60 % 16
  let seq := h / 2 ^ 48 % 4096
  let n := s.node.setPortReg p Reg.fecCorrected ((s.node.portReg p Reg.fecCorrected + corrected) % 2 ^ 64)
  let n := n.setPort p { n.port p with lastRx := now }
  if 3 ≤ ftype then s.put n
  else
    let l := ((n.port p).acknowledge (h / 2 ^ 36 % 4096)).credit (h / 2 ^ 32 % 8) (h / 2 ^ 20 % 4096)
    let n := n.setPort p l
    let n := if bitOf h 35 then n.replay now p else n
    if ftype ≠ 1 ∨ !n.receives p ∨ seq ≠ (l.rxSeq + 1) % 4096 then s.put n
    else
      let stream := l.rxStream ++ f.drop 8
      let (fs, left) := cutFrames (n.reg Reg.camrisVersion) (stream.length / 32 + 1) stream
      let n := n.setPort p { n.port p with rxSeq := seq, discarding := false, rxStream := left }
      fs.foldl (fun s f => s.frameIn p f) (s.put n)

/-- FLIT_RECEIVE (R339, R340). -/
def execFlitReceive (p : Fin 48) (flit : Bytes) (s : State) : Host.Outcome State Fault Refusal :=
  let n := s.node
  if n.portReg p.val Reg.portMode ≠ 1 ∨ !n.receives p.val then s.on n
  else
    match flitDecode flit with
    | none => s.on ((n.bumpPort p.val Reg.flitErrors).setPort p.val { n.port p.val with discarding := true, nakOwed := true })
    | some (f, c) => .next (s.flitIn p.val f c)

/-! ### Ethernet frames (R351, R353) -/

/-- An Ethernet frame with a right FCS: PFC and PAUSE frames, and Camris frames to the port's address. -/
def State.ethIn (s : State) (p : Nat) (f : Bytes) : State :=
  let n := s.node.setPort p { s.node.port p with lastRx := s.clock.tick }
  let be := fun (o : Nat) => fieldB f o 1 * 256 + fieldB f (o + 1) 1
  if be 12 = 0x8808 then
    if be 14 = 1 then s.put (n.bumpPort p Reg.pauseIgnored) else s.put (n.pfcReceive p f)
  else if fieldB f 0 6 ≠ n.portReg p Reg.mac then s.put n
  else
    let o := if be 12 = 0x8100 then 16 else 12
    if be o ≠ 0x88B6 then s.put n
    else
      let c := sliceB f (o + 2) (f.length - (o + 6))
      let l := n.port p
      (s.put (n.setPort p { l with destMac := Map.put l.destMac (fieldB c 4 2) (fieldB f 6 6) })).frameIn p c

/-- ETH_FRAME_RECEIVE (R351, R353): `frame` runs from the destination address to the FCS. -/
def execEthFrameReceive (p : Fin 48) (frame : Bytes) (s : State) : Host.Outcome State Fault Refusal :=
  let n := s.node
  if n.isNative p.val ∨ !n.receives p.val then s.on n
  else if frame.length < 18 ∨ fcs (frame.take (frame.length - 4)) ≠ leNat (frame.drop (frame.length - 4)) then s.on (n.bumpPort p.val Reg.fcsErrors)
  else .next (s.ethIn p.val frame)

/-! ### Reassembly (R344) -/

/-- A request whose frames have stopped for REASSEMBLY_TICKS is discarded; if its header had come it is refused. -/
def Node.reassemblyTimeout (n : Node) (now p src id : Nat) : Node :=
  let list : List InMsg := Map.get [] n.links.inbound p
  match list.find? fun m => m.src == src && m.msgId == id && m.ftype == 1 && decide (m.lastTick + n.reg Reg.reassemblyTicks ≤ now) with
  | none => n
  | some m =>
    let cells := (m.parts.map fun (e : Nat × Bytes) => frameCells e.2.length (m.keyId != 0)).sum
    let n := { n with links := { n.links with inbound := Map.set [] n.links.inbound p (list.filter fun x => x != m) } }
    let n := (n.freeCells p m.vc cells).bumpPort p Reg.reassemblyDrops
    match m.parts.find? fun e => e.1 == 0 && decide (64 ≤ e.2.length) with
    | none => n
    | some e => n.refuse now (Request.ofBytes e.2 p) stFormat 0x21 0xFFFFFFFF

/-- REASSEMBLY_TIMEOUT (R344). -/
def execReassemblyTimeout (p : Fin 48) (src : BitVec 16) (msgId : BitVec 32) (s : State) : Host.Outcome State Fault Refusal :=
  s.on (s.node.reassemblyTimeout s.clock.tick p.val src.toNat msgId.toNat)

end Sys2Proof.Machine
end

