-- ==== Sys2Proof/Machine/HostPort.lean ====
section
/-!
DEFINITION. The host port (chapter 21): session mailboxes, DMA rings and attestation registers of the virtual functions, resets and link
loss. Registers that the driver writes and for which the table has no command (ring bases and sizes, CQ_HEAD, DMA_BASE, NONCE, REPORT_ADDR) take
free values where they are first needed (log entry 93).
-/

namespace Sys2Proof.Machine

/-- The registers of a virtual function, by its slice. -/
def Node.func (n : Node) (s : Nat) : VFunc := Map.get {} n.host.funcs s

/-- Write the registers of a virtual function. -/
def Node.setFunc (n : Node) (s : Nat) (f : VFunc) : Node := { n with host := { n.host with funcs := Map.set {} n.host.funcs s f } }

/-- Raise an MSI-X vector of a function, at most once in a tick (R527). -/
def Node.raise (n : Node) (func vector : Nat) : Node :=
  if n.host.msix.contains (func, vector) then n else { n with host := { n.host with msix := n.host.msix ++ [(func, vector)] } }

/-- Bytes written to host memory. -/
def Node.hostWrite (n : Node) (func addr : Nat) (bytes : Bytes) : Node :=
  { n with host := { n.host with writes := n.host.writes ++ [{ func := func, addr := addr, bytes := bytes }] } }

/-! ### Mailbox registers (Table 21-3) -/

/-- MAILBOX_ENABLE (R526). -/
def execMailboxEnable (session : BitVec 16) (v : BitVec 32) (s : State) : Host.Outcome State Fault Refusal :=
  s.on (s.node.mailboxEnable session.toNat v.toNat)

/-- SQ_TAIL_DOORBELL (R522, R526). -/
def execSqTailDoorbell (session : BitVec 16) (v : BitVec 32) (s : State) : Host.Outcome State Fault Refusal :=
  let n := s.node
  match n.boxSlice session.toNat with
  | none => s.on n.registerDrop
  | some _ => s.on (n.setBox session.toNat { n.box session.toNat with sqTail := v.toNat })

/-! ### Fetching submissions (R526) -/

/-- OPEN_REQUESTS of a session (Table 3-4): waiting and admitted requests not yet answered. -/
def Node.openRequests (n : Node) (x : Nat) : Nat :=
  (n.adm.pool.filter fun w => w.req.sess == x).length + (n.adm.admitted.filter fun q => q.req.sess == x).length

/-- Completion entries that are free. -/
def Mailbox.cqFree (b : Mailbox) : Nat := b.cqSize - (b.cqTail + b.cqSize - b.cqHead % b.cqSize) % b.cqSize

/-- An enabled mailbox has a doorbelled entry. -/
def Mailbox.waiting (b : Mailbox) : Bool := b.enable && decide (0 < b.sqSize) && b.sqTail % b.sqSize != b.sqHead % b.sqSize

/-- The driver has consumed some of the completion entries written: how many is free (log entry 93). -/
def Node.consume (n : Node) (x : Nat) : Node :=
  let b := n.box x
  if b.cqSize = 0 then n
  else
    let (v, n) := n.draw 4
    let used := (b.cqTail + b.cqSize - b.cqHead % b.cqSize) % b.cqSize
    n.setBox x { b with cqHead := (b.cqHead + leNat v % (used + 1)) % b.cqSize }

/-- One entry of a session is fetched where the completion ring has room (R526). -/
def Node.fetchEntry (n : Node) (now x : Nat) : Node :=
  let n := if (n.box x).waiting then n.consume x else n
  let b := n.box x
  match n.boxSlice x with
  | none => n
  | some s =>
    if !b.waiting ∨ b.cqFree < 2 * (n.openRequests x + 1) then n
    else
      let n := (n.setBox x { b with sqHead := (b.sqHead + 1) % b.sqSize }).bump Reg.entriesFetched
      let f := s + 1
      let h := n.host
      { n with host := { h with fetched := Map.set 0 h.fetched f (Map.get 0 h.fetched f + 1),
                                reads := h.reads ++ [{ owner := x, index := b.sqHead % b.sqSize, issued := now, slice := s }] } }

/-- MAILBOX_FETCH (R526): one pass over the sessions with doorbelled entries, in ascending session number. -/
def execMailboxFetch (s : State) : Host.Outcome State Fault Refusal :=
  let n := s.node
  if !n.host.linkUp then s.on n
  else s.on (n.foldl (Map.keys n.host.boxes) fun n x => n.fetchEntry s.clock.tick x)

/-- A completion entry for a status of a message that gave no header: FORMAT, DETAIL 0x21, the mailbox's session (R526). -/
def Node.refuseMessage (n : Node) (now x s index : Nat) : Node :=
  let key := reqKey x 0
  let n := { n with host := { n.host with replyAddr := Map.put n.host.replyAddr key (0, 0, index) } }
  n.queueReply now (0x101 + s) { status := stFormat, detail := 0x21, session := x } none 0 0

/-- The largest reply that a request can produce, as the host port writes it (R526, R527); 0 where its replies are status-only. -/
def Node.largestReply (n : Node) (now : Nat) (r : Request) : Nat :=
  let w := n.workOf now (n.draft now { req := r, arrival := now - 1, deadline := r.deadlineTick (now - 1) }) 0
  if w.statusOnly then 0 else w.sendBytes + 48

/-- The header of a message in host memory (R526): ENC, FIRST and LAST set, MSG_OFFSET and PAYLOAD_LEN 0. -/
def hostHeaderOk (h : Bytes) : Bool :=
  fieldB h 0 1 == 1 && fieldB h 1 1 == 1 && fieldB h 3 1 == 7 && fieldB h 12 4 == 0 && fieldB h 16 2 == 0

/-- A whole submission: entry and message (R423, R526). A header that is not R526's counts as a message whose tag fails (log entry 94). -/
def Node.hostMessage (n : Node) (now : Nat) (rd : HostRead) : Node :=
  let entry := rd.data.take 32
  let len := fieldB entry 8 4
  let x := rd.owner
  if len < 112 then n.refuseMessage now x rd.slice rd.index
  else
    let msg := sliceB rd.data 32 len
    let head := sliceB msg 0 32
    let key := n.keySlot (n.session x).keySlot
    let plain := if hostHeaderOk head ∧ key.state = 1 ∧ key.keyId = fieldB head 18 2 then
        gcmOpen key.key (linkNonce (fieldB head 4 2) 0xFF (fieldB head 20 8)) head (msg.drop 32) else none
    match plain with
    | none => n.bump Reg.dmaTagFailures
    | some v =>
      let r := Request.ofBytes v (65 + rd.slice)
      let n := n.replyTo x (fieldB head 4 2)
      let n := { n with host := { n.host with replyAddr := Map.put n.host.replyAddr r.key (fieldB entry 16 8, fieldB entry 24 4, rd.index) } }
      let bad := decide (fieldB entry 24 4 < n.largestReply now r) || len != 112 + r.hdr.payloadLen.toNat
      n.arrive now r bad

/-- Bytes of an outstanding read come: the submission entry, then its message; the last byte makes it whole. A malformed entry stops the mailbox. -/
def Node.readArrives (n : Node) (now i : Nat) (bytes : Bytes) : Node :=
  match n.host.reads[i]? with
  | none => n
  | some rd =>
    let rest := n.host.reads.eraseIdx i
    let gone := { n with host := { n.host with reads := rest } }
    if n.boxSlice rd.owner ≠ some rd.slice then gone.bump Reg.drainDiscards
    else
      let rd := { rd with data := rd.data ++ bytes }
      if rd.data.length < 32 then { n with host := { n.host with reads := n.host.reads.set i rd } }
      else if fieldB rd.data 12 4 ≠ 0 ∨ fieldB rd.data 28 4 ≠ 0 then
        let others := rest.filter fun r => r.owner != rd.owner
        { n with host := { n.host with reads := others } }.setBox rd.owner { n.box rd.owner with mstatus := 2, enable := false }
      else if fieldB rd.data 8 4 < 112 ∨ 32 + fieldB rd.data 8 4 ≤ rd.data.length then gone.hostMessage now rd
      else { n with host := { n.host with reads := n.host.reads.set i rd } }

/-- HOST_READ_COMPLETION (R526, R438): `index` is the read's place among those outstanding. -/
def execHostReadCompletion (index : Nat) (bytes : Bytes) (s : State) : Host.Outcome State Fault Refusal :=
  s.on (s.node.readArrives s.clock.tick index bytes)

/-- HOST_READ_TIMEOUT (R438, R529): reads not completed within 50 ticks are abandoned; a message whose request header had come is refused. Its
header is under the tag that did not come, so the refusal supplies none of it (log entry 94). -/
def execHostReadTimeout (s : State) : Host.Outcome State Fault Refusal :=
  let n := s.node
  let late := n.host.reads.filter fun r => decide (r.issued + 50 ≤ s.clock.tick)
  let n := { n with host := { n.host with reads := n.host.reads.filter fun r => !decide (r.issued + 50 ≤ s.clock.tick) } }
  s.on (n.foldl late fun n r =>
    if 128 ≤ r.data.length ∧ n.boxSlice r.owner = some r.slice then n.refuseMessage s.clock.tick r.owner r.slice r.index else n)

/-! ### Writing replies and DMA messages (R380, R381, R423, R527) -/

/-- The address, limit and ring index of a reply's request. A request that came by a link port has none: they are free (log entry 93). -/
def Node.replyPlace (n : Node) (r : Reply) : Nat × Nat :=
  let key := reqKey r.session r.requestId
  match Map.find n.host.replyAddr key with
  | some e => (e.1, e.2.2)
  | none => (Config.open 93 key % 2 ^ 64, Config.open 94 key % 65536)

/-- A completion entry is written, with its vector (R526, R527). -/
def Node.completion (n : Node) (x func kind index len : Nat) (head : Bytes) : Node :=
  let b := n.box x
  let entry := leBytes 1 kind ++ leBytes 1 (if b.phase then 1 else 0) ++ leBytes 2 index ++ leBytes 4 len ++ List.replicate 24 0 ++ padTo 32 head
  let wrap := b.cqTail + 1 == b.cqSize
  let n := n.hostWrite func (b.cqBase + 64 * b.cqTail) entry
  (n.setBox x { b with cqTail := if wrap then 0 else b.cqTail + 1, phase := b.phase != wrap }).raise func b.msix

/-- A message in host memory: frame header, sealed data (R423, R526). -/
def Node.hostSeal (n : Node) (now k func ftype vc dst : Nat) (data : Bytes) : Bytes × Node :=
  let slot := n.keySlot k
  let id := n.links.msgNext
  let head := camrisHeader ftype vc 7 (0x100 + func) dst id 0 0 slot.keyId slot.nonce 0
  let out := head ++ gcmSeal slot.key (linkNonce (0x100 + func) 0xFF slot.nonce) head data
  (out, { n with links := { n.links with msgNext := (id + 1) % 2 ^ 32 } }.useKey now k)

/-- Write one reply: its message where it has a body, and its completion entry. A reply whose session key is not LIVE is discarded (R420). -/
def Node.writeReply (n : Node) (now : Nat) (m : OutMsg) (r : Reply) : Node :=
  let n := { n with host := { n.host with out := n.host.out.erase m } }
  let func := m.dst - 0x100
  let (addr, index) := n.replyPlace r
  let n := { n with host := { n.host with replyAddr := if r.final then Map.erase n.host.replyAddr (reqKey r.session r.requestId) else n.host.replyAddr } }
  if r.body = [] then (n.completion r.session func 1 index 0 r.bytes).replyLeft now r
  else
    match n.keyFor m with
    | none => if r.final then n.answered r.session r.requestId else n
    | some k =>
      let (msg, n) := n.hostSeal now k func 2 6 (Map.get 0xFFFF n.links.replyDst r.session) m.message
      ((n.hostWrite func addr msg).completion r.session func 2 index msg.length []).replyLeft now r

/-- The deficit round robin over the sessions with DMA messages waiting, in ascending session number (R381). -/
def Node.hostDrr (n : Node) : Nat → Node × Option DmaPart
  | 0 => (n, none)
  | fuel + 1 =>
    let h := n.host
    let ss := (h.dma.map (·.session)).foldl (fun l x => insertNat x l) []
    match (ss.find? fun x => decide (h.drrPos ≤ x)).orElse fun _ => ss.head? with
    | none => (n, none)
    | some x =>
      let mine := h.dma.filter fun d => d.session == x
      let deficit := Map.get 0 h.deficits x + if h.drrIn ∧ h.drrPos = x then 0 else (n.session x).quantum
      match mine with
      | [] => (n, none)
      | d :: more =>
        let bytes := d.data.length + 48
        if bytes ≤ deficit then
          let left := if more = [] then 0 else deficit - bytes
          ({ n with host := { h with deficits := Map.set 0 h.deficits x left, drrPos := x, drrIn := true, dma := h.dma.erase d } }, some d)
        else { n with host := { h with deficits := Map.set 0 h.deficits x deficit, drrPos := x + 1, drrIn := false } }.hostDrr fuel

/-- The descriptor at a ring index completes: DSTATUS is written back and its vector raised (R528). -/
def Node.dmaDone (n : Node) (s index status : Nat) : Node :=
  let f := n.func s
  ((n.hostWrite (s + 1) (f.dmaBase + 32 * index + 23) [BitVec.ofNat 8 status]).raise (s + 1) f.dmaVector).bump Reg.dmaDescriptors

/-- Write one DMA message (R528). -/
def Node.writeDma (n : Node) (now : Nat) (d : DmaPart) : Node :=
  let k := (n.session d.session).keySlot
  let n := if d.data = [] ∨ (n.keySlot k).state ≠ 1 then n
    else
      let (msg, n) := n.hostSeal now k d.func 3 5 (Map.get 0xFFFF n.links.replyDst d.session) d.data
      n.hostWrite d.func d.addr msg
  match d.last with
  | some (i, st) => n.dmaDone (d.func - 1) i st
  | none => n

/-- HOST_REPLY_WRITE (R380, R381, R527): the next traffic of the host port, status-only replies first, then replies with a body, then the DRR. A
reply to a session whose completion ring is not set up waits. -/
def execHostReplyWrite (s : State) : Host.Outcome State Fault Refusal :=
  let n := s.node
  let now := s.clock.tick
  let ready := n.host.out.filter fun m => match m.reply with | some r => decide (0 < (n.box r.session).cqSize) | none => false
  let status := ready.filter fun m => match m.reply with | some r => r.body.isEmpty | none => false
  if !n.host.linkUp then s.on n
  else
    match (headOf 7 status).orElse fun _ => ready.head? with
    | some m => match m.reply with
      | some r => s.on (n.writeReply now m r)
      | none => s.on n
    | none =>
      let quanta := n.host.dma.map fun d => Nat.max 1 (n.session d.session).quantum
      match n.hostDrr ((n.host.dma.length + 1) * (ceilDiv 65600 (quanta.foldl Nat.min 65600) + 2)) with
      | (n, some d) => s.on (n.writeDma now d)
      | (n, none) => s.on n

/-! ### DMA rings (R528) -/

/-- DMA_TAIL_DOORBELL (R522, R528). The ring's size and base are registers without a command (log entry 93). -/
def execDmaTailDoorbell (vf : Fin 64) (v : BitVec 32) (s : State) : Host.Outcome State Fault Refusal :=
  let n := s.node
  if (n.slice vf.val).state ≠ .bound then s.on n.registerDrop
  else
    let f := n.func vf.val
    let (raw, n) := if f.dmaSize = 0 then n.draw 16 else ([], n)
    let f := if f.dmaSize = 0 then { f with dmaSize := 2 ^ (4 + fieldB raw 0 4 % 9), dmaBase := fieldB raw 4 8, dmaVector := fieldB raw 12 2 % 64 } else f
    s.on (n.setFunc vf.val { f with dmaTail := v.toNat, dmaEnable := true })

/-- Bytes of a page's slot as the tier that holds it keeps them. -/
def Node.heldBytes (n : Node) (d : Page) (off len : Nat) : Bytes :=
  match d.t1 with
  | some g => n.slotBytes g off len
  | none => match d.slow with
    | some k => sliceB ((Map.get {} n.tiers.slow k : SlowSlot).data.flatMap fun l => leBytes 64 l.toNat) off len
    | none => List.replicate len 0

/-- The expanded slot of a page (R282, R283): as it lies, or its blocks expanded and laid out again. `none` where it cannot be read. -/
def Node.expandedSlot (n : Node) (p : Nat) : Option Bytes :=
  let d := n.page p
  if d.state = .poisoned ∨ d.state = .quarantined then none
  else if !d.packed then some (n.heldBytes d 0 16384)
  else
    match n.recordOf p with
    | none => some (n.heldBytes d 0 16384)
    | some (a, b) =>
      let blocks := (List.range 4).map fun i => blockExpand (d.blockLen.getD i 0) (n.heldBytes d (i * 4096) 4096)
      if blocks.any (fun x => match x with | .error _ => true | .ok _ => false) then none
      else some (untile (elemOf d.format) a b (blocks.flatMap fun x => match x with | .ok y => y | .error _ => []))

/-- Bytes of a page that can be read from an offset on, up to the first poisoned line; whether they are all. -/
def Node.readable (n : Node) (p off len : Nat) : Bytes × Bool :=
  match n.expandedSlot p with
  | none => ([], false)
  | some b =>
    let d := n.page p
    match d.t1 with
    | none => (sliceB b off len, true)
    | some g =>
      if d.packed then (if n.pagePoisoned p then ([], false) else (sliceB b off len, true))
      else
        let bad := (List.range ((off + len - 1) / 64 + 1 - off / 64)).find? fun i => n.slotPoisoned g (off / 64 + i) (off / 64 + i)
        match bad with
        | none => (sliceB b off len, true)
        | some i => (sliceB b off ((off / 64 + i) * 64 - off), false)

/-- Bytes of a run of space 0, page by page, up to poisoned data. -/
def Node.readRun (n : Node) : Nat → Nat → Nat → Bytes × Bool
  | 0, _, _ => ([], true)
  | fuel + 1, off, len =>
    if len = 0 then ([], true)
    else
      let here := Nat.min len (16384 - off % 16384)
      match n.readable (off / 16384) (off % 16384) here with
      | (b, false) => (b, false)
      | (b, true) =>
        let (rest, ok) := n.readRun fuel (off + here) (len - here)
        (b ++ rest, ok)

/-- Data cut into the messages of a transfer (R528): at most 65,536 data bytes each, one behind the other in host memory. -/
def dmaParts (session func now : Nat) (last : Nat × Nat) : Nat → Nat → Bytes → List DmaPart
  | 0, _, _ => []
  | fuel + 1, addr, data =>
    let here := data.take 65536
    if data.length ≤ 65536 then [{ session := session, func := func, addr := addr, data := here, last := some last, queuedAt := now }]
    else { session := session, func := func, addr := addr, data := here, queuedAt := now } ::
      dmaParts session func now last fuel (addr + 65536 + 48) (data.drop 65536)

/-- The next descriptor of a function's ring (R528). Several refusals that hold give the first of: Reserved bytes, DIR, SESSION, pages (log entry 96). -/
def Node.dmaDescriptor (n : Node) (now s : Nat) (v : Bytes) : Node :=
  let f := n.func s
  if (n.slice s).state ≠ .bound ∨ !f.dmaEnable ∨ f.dmaSize = 0 ∨ f.dmaTail % f.dmaSize = f.dmaHead % f.dmaSize then n
  else
    let i := f.dmaHead % f.dmaSize
    let n := n.setFunc s { f with dmaHead := (i + 1) % f.dmaSize }
    let src := fieldB v 0 8 % 2 ^ 51
    let len := fieldB v 16 4
    let x := fieldB v 20 2
    let b := n.slice s
    let pages := (List.range ((src + len - 1) / 16384 + 1 - src / 16384)).map fun j => src / 16384 + j
    let foreign := pages.filter fun p => (n.page p).slice != s || (n.page p).state == .free
    if fieldB v 24 8 ≠ 0 then n.dmaDone s i 5
    else if fieldB v 22 1 ≠ 0 then n.dmaDone s i 1
    else if x < b.sessFirst ∨ b.sessFirst + b.sessCount ≤ x ∨ (n.session x).state ≠ 1 then n.dmaDone s i 3
    else if len = 0 ∨ 1048576 < len ∨ fieldB v 0 8 / 2 ^ 51 % 8 ≠ 0 ∨ foreign ≠ [] then
      ((foreign.head?.bind fun p => (n.page p).t1).elim n fun g => n.domainFault now (g * 256)).dmaDone s i 2
    else
      let (data, ok) := n.readRun 65 src len
      { n with host := { n.host with dma := n.host.dma ++ dmaParts x (s + 1) now (i, if ok then 0 else 4) 17 (fieldB v 8 8) data } }

/-- DMA_DESCRIPTOR (R528): `desc` is the descriptor as the node reads it from host memory. -/
def execDmaDescriptor (vf : Fin 64) (desc : Bytes) (s : State) : Host.Outcome State Fault Refusal :=
  s.on (s.node.dmaDescriptor s.clock.tick vf.val desc)

/-- ATTEST_GO (R429, R528): a write of 1 asks for a report on the slice's tenant. NONCE and REPORT_ADDR are registers without a command (log
entry 93). -/
def execAttestGo (vf : Fin 64) (v : BitVec 32) (s : State) : Host.Outcome State Fault Refusal :=
  let n := s.node
  let b := n.slice vf.val
  if b.state ≠ .bound then s.on n.registerDrop
  else if v.toNat % 256 ≠ 1 then s.on n
  else
    let f := n.func vf.val
    let (raw, n) := if f.nonce = [] then n.draw 72 else ([], n)
    let f := if f.nonce = [] then { f with nonce := sliceB raw 0 64, reportAddr := fieldB raw 64 8 } else f
    s.on ((n.setFunc vf.val f).attestReq b.tenant f.nonce (some (vf.val, f.reportAddr)))

/-! ### Resets and the link (R529, R549) -/

/-- The replies queued for host functions are discarded and counted (Table 21-5). -/
def Node.dropHostReplies (n : Node) (f : OutMsg → Bool) : Node :=
  let out := n.host.out.filter f
  let n := { n with host := { n.host with out := n.host.out.filter fun m => !f m } }
  n.foldl out fun n m => match m.reply with
    | some r =>
      let n := n.bump Reg.hostRepliesLost
      if r.final then n.answered r.session r.requestId else n
    | none => n

/-- FLR of a virtual function: requests whose replies go to it end as under ABORT, and their finals are discarded; mailboxes and DMA ring stop. -/
def Node.flr (n : Node) (now s : Nat) : Node :=
  let port := 0x101 + s
  let here := fun (r : Request) => (n.session r.sess).state != 0 && (n.session r.sess).replyPort == port
  let n := (n.endWaiting now stAborted fun w => here w.req).endAll now stAborted 0 false fun q => here q.req
  let n := n.dropHostReplies fun m => m.dst == port
  let b := n.slice s
  let mine := fun (x : Nat) => decide (b.sessFirst ≤ x) && decide (x < b.sessFirst + b.sessCount)
  let boxes := Map.norm {} n.host.boxes fun x (m : Mailbox) => if mine x then { m with enable := false, mstatus := 0 } else m
  let n := { n with host := { n.host with boxes := boxes, dma := n.host.dma.filter (fun d => d.func != s + 1), reads := n.host.reads.filter fun r => r.slice != s } }
  n.setFunc s { n.func s with dmaEnable := false }

/-- FLR_VF (Table 21-5). -/
def execFlrVf (vf : Fin 64) (s : State) : Host.Outcome State Fault Refusal := s.on (s.node.flr s.clock.tick vf.val)

/-- FLR of function 0: the open command goes, function 0 is locked, the event queue is empty. -/
def Node.flr0 (n : Node) : Node :=
  { n with host := { n.host with cmdOpen := false, command := [], unlocked := false, eventQueue := [], eqHead := n.host.eqTail } }

/-- FLR_F0 (Table 21-5). -/
def execFlrF0 (s : State) : Host.Outcome State Fault Refusal := s.on s.node.flr0

/-- The link is not up: HOST_SEND_BYTES reads 0 and replies are discarded. -/
def Node.linkLost (n : Node) : Node :=
  let n := (n.setReg Reg.hostSendBytes 0).dropHostReplies fun _ => true
  { n with host := { n.host with linkUp := false } }

/-- HOST_LINK_DOWN (R529, R360): with the event PORT_DOWN of the host port, reason 11. -/
def execHostLinkDown (s : State) : Host.Outcome State Fault Refusal :=
  let n := s.node
  if !n.host.linkUp then s.on n else s.on (n.linkLost.event 0x0020 (leBytes 1 0x50 ++ leBytes 1 11))

/-- The link has trained (R520): the width and rate reached are free (log entry 95), and HOST_SEND_BYTES is theirs. -/
def Node.hostTrain (n : Node) : Node :=
  let (v, n) := n.draw 1
  let k := leNat v % 3
  let n := n.setReg Reg.hostLink ((if k = 0 then 16 else if k = 1 then 8 else 4) + 64 * 256)
  let n := n.setReg Reg.hostSendBytes (if k = 0 then 64000 else if k = 1 then 32000 else 0)
  { n with host := { n.host with linkUp := true } }

/-- HOST_LINK_UP (R529). -/
def execHostLinkUp (s : State) : Host.Outcome State Fault Refusal :=
  if s.node.host.linkUp then s.on s.node else s.on s.node.hostTrain

/-- HOST_PORT_RESET (R549): as an FLR of every function; the link then trains again. -/
def execHostPortReset (s : State) : Host.Outcome State Fault Refusal :=
  s.on ((s.node.foldl (List.range 64) fun n f => n.flr s.clock.tick f).flr0).linkLost

/-- IDE_KM (R521): the key of stream 0, the link's, or of a selective stream 1 to 4. The message is the stream, then the key (log entry 95). -/
def execIdeKm (value : Bytes) (s : State) : Host.Outcome State Fault Refusal :=
  let n := s.node
  let stream := fieldB value 0 1
  if 4 < stream then s.on n
  else
    let keys := Map.put n.host.ideKeys stream (value.drop 1)
    s.on ({ n with host := { n.host with ideKeys := keys } }.setReg Reg.ideStreams keys.length)

/-! ### Slow-tier ports (R531 to R533) -/

/-- What the node finds at a port (R531), free (log entry 97): presence, latency in ns, bandwidth in MB/s, capacity up to 16 TiB. -/
def SlowPort.ofBytes (v : Bytes) : SlowPort :=
  { present := fieldB v 0 1 % 2 == 1, latencyNs := fieldB v 1 4, bandwidth := fieldB v 5 4, capacity := fieldB v 9 8 % (2 ^ 44 + 1),
    ident := fieldB v 17 12 }

/-- Capacity and state of a port (R531, Table 21-7). -/
def Node.setSlowPort (n : Node) (p state capacity : Nat) : Node :=
  let caps := leNat ((List.range 2).flatMap fun i => leBytes 8 (if i = p then capacity else n.reg Reg.slowPortCap / 2 ^ (64 * i) % 2 ^ 64))
  let n := (n.setReg Reg.slowPortCap caps).setOctet Reg.slowPortState p state
  n.setReg Reg.slowSlotCount (n.portSlots 0 + n.portSlots 1)

/-- Enumerate a slow-tier port: its device is admitted, or refused with PORT_DOWN reason 9 (R531). -/
def Node.enumeratePort (n : Node) (p : Nat) : Node :=
  if !n.hasUnit (1 + p) then n
  else
    let (v, n) := n.draw 29
    let d := SlowPort.ofBytes v
    let refused := d.present && (decide (1500 < d.latencyNs) || decide (d.bandwidth < 51000))
    let n := { n with slow := Map.put n.slow p { d with up := d.present && !refused } }
    let n := if refused then n.event 0x0020 (leBytes 1 (0x40 + p) ++ leBytes 1 9) else n
    n.setSlowPort p (if !d.present then 0 else if refused then 2 else 1) (if d.present && !refused then d.capacity else 0)

/-- A write of RESCAN (R531). -/
def Node.rescan (n : Node) (v : Nat) : Node :=
  if v ≠ 1 ∨ n.tiers.slow.any (fun e => e.2.used) then n else (n.enumeratePort 0).enumeratePort 1

/-- RESCAN (R531). -/
def execRescan (via : Via) (v : BitVec 8) (s : State) : Host.Outcome State Fault Refusal :=
  s.command via 0x1220 4 [v] fun n => n.rescan v.toNat

/-- A page's copy in a slow-tier slot of a failed port: the only copy is lost, a clean one is dropped with DIRTY set (R533). -/
def Node.slowPageLost (n : Node) (now p : Nat) : Node :=
  let d := n.page p
  if d.state = .spilled ∨ d.state = .prefetching then n.pageFault now p fun _ => false
  else ((match d.slow with | some k => n.dropSlow k | none => n).setPage p { d with slow := none, dirty := true }).bump Reg.slowCopiesDropped

/-- A weight's slow-tier copy with tiles on a failed port (R305, R533): the only copy is a weight fault of each of those tiles. -/
def Node.slowWeightLost (n : Node) (now d : Nat) (tiles : List Nat) : Node :=
  let w := n.weight d
  if w.res = 1 then
    (n.foldl (List.range w.slotCount) fun n i => n.dropSlow (w.slow.getD 0 + i)).setWeight d { w with slow := none }
  else n.foldl tiles fun n t => n.weightFault now d t

/-- A link-down, viral indication or uncorrectable AER error of a slow-tier port (R533). -/
def Node.slowPortError (n : Node) (now p : Nat) : Node :=
  if n.octet Reg.slowPortState p ≠ 1 then n
  else
    let pages := (n.seqs.pages.filter fun e => match e.2.slow with | some k => n.slowPortOf k == p | none => false).map (·.1)
    let weights := n.tiers.weights.filterMap fun e => match e.2.slow with
      | some k =>
        let ts := (List.range e.2.slotCount).filter fun i => n.slowPortOf (k + i) == p
        if ts = [] then none else some (e.1, ts)
      | none => none
    let n := n.event 0x0020 (leBytes 1 (0x40 + p) ++ leBytes 1 10)
    let n := n.foldl pages fun n q => n.slowPageLost now q
    let n := n.foldl weights fun n e => n.slowWeightLost now e.1 e.2
    let n := { n with slow := Map.modify n.slow p fun d => { d with up := false } }
    n.setSlowPort p 3 0

/-- SLOW_PORT_ERROR (R533): kind 0 link-down, 1 viral, 2 uncorrectable AER; the others are correctable and only counted (log entry 97). -/
def execSlowPortError (p : Fin 8) (kind : BitVec 8) (s : State) : Host.Outcome State Fault Refusal :=
  let n := s.node
  if 2 ≤ p.val then s.on n
  else if kind.toNat ≤ 2 then s.on (n.slowPortError s.clock.tick p.val)
  else s.on (n.bump Reg.cxlCorrected)

end Sys2Proof.Machine
end

