-- ==== Sys2Proof/Machine/Power.lean ====
section
/-!
DEFINITION. Power, cooling and start-up (chapter 22), the reset and alarm pins (R555), and the eyelets that follow the node's state
(R485 to R487): thresholds and ADMIT_CAP, trips and SAFE, boot, the node states, resets.
-/

namespace Sys2Proof.Machine

/-! ### Thresholds (R539 to R541) -/

/-- `a` is at or above `b`, as FP32. -/
def f32Ge (a b : Nat) : Bool := f32Lt b a || f32Eq a b

/-- 95 % of POWER_LIMIT (Table 22-3). -/
def Node.powerRelease (n : Node) : Nat := f32Div (f32OfNat (95 * n.reg Reg.powerLimit)) (f32OfNat 100)

/-- Every quantity of Table 22-3 is below its release level. -/
def Node.cool (n : Node) (junction stack outlet watts : Nat) : Bool :=
  f32Lt junction (f32OfNat 95) && f32Lt stack (f32OfNat 80) && f32Lt outlet (f32OfNat 55) && f32Lt watts n.powerRelease

/-- A quantity of Table 22-3 is at its throttle level. -/
def Node.hot (n : Node) (junction stack outlet watts : Nat) : Bool :=
  f32Ge junction (f32OfNat 100) || f32Ge stack (f32OfNat 85) || f32Ge outlet (f32OfNat 60) || f32Ge watts (f32OfNat (n.reg Reg.powerLimit))

/-- The input lies within its working range (Table 22-1). -/
def inputWorks (volts : Nat) : Bool := f32Ge volts (f32OfNat 40) && f32Ge (f32OfNat 60) volts

/-- The samples of a tick (R539): the round's maxima and power sum, the coolant temperatures and the voltage as they are (Table 22-10; DEDUCED,
log entry 134), and in SAFE the quiet ticks of R544. -/
def Node.sample (n : Node) (m : Sensors) : Node :=
  let top := fun (n : Node) (k v : Nat) => if f32Lt (n.reg k) v then n.setReg k v else n
  let n := top (top n Reg.junctionMax m.junction.toNat) Reg.stackMax m.stack.toNat
  let n := ((n.setReg Reg.coolantIn m.coolantIn.toNat).setReg Reg.coolantOut m.coolantOut.toNat).setReg Reg.inputV m.volts.toNat
  let most := fun (a b : Nat) => if f32Lt a b then b else a
  let quiet := n.st == stSafe && n.cool m.junction.toNat m.stack.toNat m.coolantOut.toNat (n.reg Reg.inputW) && inputWorks m.volts.toNat &&
    !n.power.alarmLow
  { n with power := { n.power with wattSum := f32Add n.power.wattSum m.watts.toNat, samples := n.power.samples + 1,
                                   inletMax := most n.power.inletMax m.coolantIn.toNat, outletMax := most n.power.outletMax m.coolantOut.toNat,
                                   quiet := if quiet then n.power.quiet + 1 else 0 } }

/-- A record of ROUND_LOG (R551). -/
def Node.roundRecord (n : Node) (round watts : Nat) : Bytes :=
  leBytes 8 round ++ leBytes 4 (n.reg Reg.junctionMax) ++ leBytes 4 (n.reg Reg.stackMax) ++ leBytes 4 n.power.inletMax ++
  leBytes 4 n.power.outletMax ++ leBytes 4 watts ++ leBytes 1 (n.reg Reg.admitCap) ++ [0, 0, 0]

/-- ADMIT_CAP for the round that starts (R540), from the maxima of the round that ended, and its log record (R551). -/
def Node.capUpdate (n : Node) (round : Nat) : Node :=
  let w := if n.power.samples = 0 then 0 else f32Div n.power.wattSum (f32OfNat n.power.samples)
  let j := n.reg Reg.junctionMax
  let k := n.reg Reg.stackMax
  let o := n.power.outletMax
  let cap := n.reg Reg.admitCap
  let next := if n.hot j k o w then Nat.max (n.reg Reg.capFloor) (cap - 10) else if n.cool j k o w then Nat.min 100 (cap + 5) else cap
  let log := n.power.log ++ [n.roundRecord round w]
  let n := { n with power := { n.power with log := log.drop (log.length - 1024), wattSum := 0, samples := 0, inletMax := 0, outletMax := 0 } }
  let n := (n.setReg Reg.junctionMax 0).setReg Reg.stackMax 0
  let n := (n.setReg Reg.inputW w).setReg Reg.admitCap next
  let n := if n.st = stSafe then n else n.setReg Reg.thermalState (if next < 100 then 1 else 0)
  if next < 100 then n.bump Reg.throttleRounds else n

/-! ### Trips and SAFE (R542 to R544) -/

/-- A trip (R543): TRIP_CAUSE records the first of the batch; in SAFE a trip only starts the quiet period again. -/
def Node.trip (n : Node) (now cause stateCause : Nat) : Node :=
  if n.st = 0 ∨ n.st = stFault then n
  else if n.st = stSafe then { n with power := { n.power with quiet := 0 } }
  else
    let r := (n.rcv.log.getLast?).map ErrRec.unitBytes
    let n := (n.event 0x0011 (leBytes 1 stSafe ++ r.getD [0, 0, 0, 0])).setState now stSafe stateCause
    let n := ((n.setReg Reg.tripCause cause).bump32 Reg.trips).setReg Reg.thermalState 2
    let n := n.stopSlices now fun _ => true
    let n := if n.reg Reg.commitState = 2 ∨ n.reg Reg.commitState = 3 then n.refuseChange now [(7, 0)] else n
    let n := n.foldl n.unfinished fun n q => (n.stopItems q).setAdmitted q.req.key fun q =>
      { q with items := q.items.map fun i => if i.open then { i with state := 4 } else i }
    let n := ({ n with cells := {}, packers := [] }).stopCommands now
    let n := n.foldl [0, 1] fun n p => if n.octet Reg.slowPortState p = 1 then
        ({ n with slow := Map.modify n.slow p fun d => { d with up := false } }).setSlowPort p 3 0 else n
    { n with power := { n.power with quiet := 0, stacksOff := cause == 2, draining := false, toOperational := false } }

/-- The trip cause of a sensor sample (Table 22-3): 1 junction, 2 stack, 3 outlet, 0 none. -/
def sensorCause (m : Sensors) : Nat :=
  if f32Ge m.junction.toNat (f32OfNat 115) then 1 else if f32Ge m.stack.toNat (f32OfNat 95) then 2
  else if f32Ge m.coolantOut.toNat (f32OfNat 70) then 3 else 0

/-- SENSOR_TRIP (R542). -/
def execSensorTrip (m : Sensors) (s : State) : Host.Outcome State Fault Refusal :=
  s.on (if sensorCause m = 0 then s.node else s.node.trip s.clock.tick (sensorCause m) 5)

/-- INPUT_TRIP (R542): voltage where the latest sample lies outside the working range, else current (log entry 98). -/
def execInputTrip (s : State) : Host.Outcome State Fault Refusal :=
  s.on (s.node.trip s.clock.tick (if inputWorks (s.node.reg Reg.inputV) then 5 else 4) 5)

/-- COOLANT_ALARM (R555). -/
def execCoolantAlarm (s : State) : Host.Outcome State Fault Refusal :=
  s.on ({ s.node with power := { s.node.power with alarmLow := true } }.trip s.clock.tick 6 5)

/-- COOLANT_ALARM_RELEASE (R555). -/
def execCoolantAlarmRelease (s : State) : Host.Outcome State Fault Refusal :=
  s.on { s.node with power := { s.node.power with alarmLow := false } }

/-- The slices in a state. -/
def Node.slicesIn (n : Node) (st : SliceState) : List Nat := (n.comp.slices.filter fun e => e.2.state == st).map (·.1)

/-- The node leaves SAFE (R544): BOUND slices are released, scrubs start again (Table 16-8), ADMIT_CAP takes CAP_FLOOR. -/
def Node.leaveSafe (n : Node) (now : Nat) : Node :=
  let scrubs := n.slicesIn .scrubbing
  let n := n.foldl (n.slicesIn .bound) fun n s => n.releaseSlice now s
  let n := n.foldl scrubs fun n s => n.setSlice s { n.slice s with scrubEnd := now + n.scrubTicks s }
  let n := (n.setReg Reg.admitCap (n.reg Reg.capFloor)).setReg Reg.thermalState 1
  ({ n with power := { n.power with stacksOff := false } }).setState now stPreop 1

/-! ### STATE_REQ (R519, R548) -/

/-- A write of 1 to STATE_REQ is accepted (R548). -/
def Node.mayOperate (n : Node) : Bool :=
  n.st == stPreop && (n.time.a.locked || n.time.b.locked) && !n.time.holdover && n.reg Reg.lastId != 0 && n.comp.current.isSome

/-- A write of STATE_REQ. -/
def Node.stateReq (n : Node) (now v : Nat) (awl : Bool) : Node :=
  if v = 1 ∧ n.mayOperate then { n with power := { n.power with toOperational := true } }
  else if v = 2 ∧ n.st = stOperational then { n with power := { n.power with draining := true } }
  else if v = 2 ∧ n.st = stSafe ∧ awl ∧ n.reg Reg.safeClearTicks ≤ n.power.quiet then n.leaveSafe now
  else if v = 3 ∧ 1 ≤ n.st ∧ n.st ≠ stFault then n.trip now 7 1
  else n.bump32 Reg.reqRefused

/-- STATE_REQ_OPERATIONAL (R548). -/
def execStateReqOperational (via : Via) (s : State) : Host.Outcome State Fault Refusal :=
  s.command via 0x1030 4 [1] fun n => n.stateReq s.clock.tick 1 via.throughAwl

/-- STATE_REQ_PREOP (R548). -/
def execStateReqPreop (via : Via) (s : State) : Host.Outcome State Fault Refusal :=
  s.command via 0x1030 4 [2] fun n => n.stateReq s.clock.tick 2 via.throughAwl

/-- STATE_REQ_SAFE (R542). -/
def execStateReqSafe (via : Via) (s : State) : Host.Outcome State Fault Refusal :=
  s.command via 0x1030 4 [3] fun n => n.stateReq s.clock.tick 3 via.throughAwl

/-! ### The eyelets and the ring ports (R485 to R487) -/

/-- Write a ring's unit. -/
def Node.setRingUnit (n : Node) (r : Nat) (u : RingUnit) : Node :=
  if r = 0 then { n with mgmt := { n.mgmt with a := u } } else { n with mgmt := { n.mgmt with b := u } }

/-- The state of a ring (R485). -/
def RingUnit.state (u : RingUnit) : Nat :=
  if !u.eyelet || (!u.eastUp && !u.westUp) then 2 else if u.lastReturn.isSome && u.eastUp && u.westUp then 0 else 1

/-- Put a ring's unit and set RING_STATE and EYELET_STATE; a change of state is the event RING_STATE (R485). -/
def Node.putRing (n : Node) (r : Nat) (u : RingUnit) : Node :=
  let old := n.ringState r
  let n := n.setRingUnit r u
  let n := n.setReg Reg.eyeletState ((if n.mgmt.a.eyelet then 1 else 0) + (if n.mgmt.b.eyelet then 2 else 0))
  if old = u.state then n else (n.setOctet Reg.ringState r u.state).event 0x0060 (leBytes 1 r ++ leBytes 1 u.state)

/-- The conditions of Table 19-1 that hold of the node, but the watchdog's. -/
def Node.eyeletMay (n : Node) (r : Nat) : Bool :=
  n.mgmt.mgmtFwOk && !n.power.inReset && (n.st == stBoot || n.st == stPreop || n.st == stOperational || n.st == stHold) &&
  n.reg Reg.scanState == 0 && (n.ringUnit r).linkTest && !bitOf (n.reg Reg.eyeletHold) r

/-- Close an eyelet: the node is no station of the ring. -/
def Node.closeEyelet (n : Node) (r : Nat) : Node := n.putRing r { n.ringUnit r with eyelet := false, lastReturn := none }

/-- The number of a ring: 0 A, 1 B. -/
def ringNum : Ring → Nat
  | .a => 0
  | .b => 1

/-- EYELET_CLOSE (R486): a condition of Table 19-1 fails. -/
def execEyeletClose (ring : Ring) (s : State) : Host.Outcome State Fault Refusal :=
  let n := s.node
  let r := ringNum ring
  s.on (if (n.ringUnit r).eyelet && !(n.eyeletMay r && n.mgmt.watchdogOk) then n.closeEyelet r else n)

/-- EYELET_OPEN (R486): every condition of Table 19-1 holds; the watchdog's refresh comes with the command (log entry 99). -/
def execEyeletOpen (ring : Ring) (s : State) : Host.Outcome State Fault Refusal :=
  let n := s.node
  let r := ringNum ring
  if (n.ringUnit r).eyelet || !n.eyeletMay r then s.on n
  else s.on (({ n with mgmt := { n.mgmt with watchdogOk := true } }).putRing r { n.ringUnit r with eyelet := true, lastReturn := none })

/-- WATCHDOG_EXPIRY (R486): the eyelets close. -/
def execWatchdogExpiry (s : State) : Host.Outcome State Fault Refusal :=
  let n := { s.node with mgmt := { s.node.mgmt with watchdogOk := false } }
  s.on ((n.closeEyelet 0).closeEyelet 1)

/-- RING_PORT_DOWN (R485): whether the loss is a fault of the node's own PHY, which closes the eyelet, is free (log entry 100). -/
def execRingPortDown (ring : Ring) (east : Bool) (s : State) : Host.Outcome State Fault Refusal :=
  let r := ringNum ring
  let (v, n) := (s.node.ringCount r east 3).draw 1
  let own := leNat v % 2 == 1
  let u := n.ringUnit r
  let u := { u with eastUp := u.eastUp && !east, westUp := u.westUp && east, linkTest := u.linkTest && !own, eyelet := u.eyelet && !own, lastReturn := none }
  s.on (n.putRing r u)

/-- RING_PORT_UP (R487). -/
def execRingPortUp (ring : Ring) (east : Bool) (s : State) : Host.Outcome State Fault Refusal :=
  let n := s.node
  let r := ringNum ring
  let u := n.ringUnit r
  s.on (n.putRing r { u with eastUp := u.eastUp || east, westUp := u.westUp || !east, linkTest := true })

/-! ### Boot (R545 to R547) -/

/-- All node state but the pins is discarded (R549); the package record stands beside the node. -/
def State.wipe (s : State) (st : Nat) : State :=
  let n : Node := { pins := s.node.pins, freeCount := s.node.freeCount, power := { alarmLow := s.node.power.alarmLow } }
  { s with mem := [], clock := { s.clock with tick := 0 }, node := n.setReg Reg.nodeState st }

/-- The image of a KIND in the active bank. -/
def Package.image (p : Package) (kind : Nat) : Bytes := Map.get [] p.banks (bankKey p.current.bank kind)

/-- The image of a KIND passes the checks of R427. -/
def Package.imageOk (p : Package) (kind : Nat) : Bool := imageCode p (p.image kind) == 0 && fieldB (p.image kind) 2 1 == kind

/-- The identity key pair's seed (R424): the response that the helper data corrects is the die's own, a free value. -/
def Package.seed (p : Package) : Bytes := (sha3_512 (leBytes 64 (Config.open 100 (leNat p.puf)) ++ nameBytes "UHLELLE DIK")).take 32

/-- The identity public key (R424): ML-DSA-87 key generation, a published standard. -/
def Package.dik (p : Package) : Bytes := leBytes 2592 (Config.open 101 (leNat p.seed))

/-- A repair record of Table 18-5 is applied, or skipped where its CRC fails (R478). -/
def Node.applyRepair (n : Node) (b : Bytes) : Node :=
  if b.length ≠ 16 ∨ crc16 (b.take 14) ≠ fieldB b 14 2 then n.bump32 Reg.repairCrcSkips
  else
    let r : RepairRow := { memory := fieldB b 0 1, region := fieldB b 1 1, placeA := fieldB b 2 1, placeB := fieldB b 3 1, row := fieldB b 4 2, spares := 0 }
    let sp := fieldB b 6 1
    let n := { n with test := { n.test with spares := Map.set 0 n.test.spares r.key (Nat.max (Map.get 0 n.test.spares r.key) (sp + 1)) } }
    if r.memory = 4 then { n with stk := { n.stk with rowMap := n.stk.rowMap ++ [[r.region, r.placeA, r.placeB, sp, r.row]] } } else n

/-- A unit that fails its stage-4 test is retired or repaired (R546): which units fail is free (log entry 101). -/
def Node.bootTests : Nat → Node → Node
  | 0, n => n
  | k + 1, n =>
    let (v, n) := n.draw 16
    let kind := unitKindOf (fieldB v 0 1 % 7 + 1)
    let num := fieldB v 1 2
    let n := match kind with
      | some u => if unitKnown u num && !n.retired u num then n.unitFails 0 u num (fieldB v 4 4) (fieldB v 8 2) else n
      | none => n
    Node.bootTests k n

/-- Stage 4 of Table 22-4 after the main image: the stacks train, repairs are applied, every unit is tested. -/
def Node.memoryStage (n : Node) (p : Package) : Node :=
  let (v, n) := n.draw 2
  let n := n.foldl ((List.range 16).filter fun i => bitOf (leNat v) i) fun n i =>
    n.foldl (List.range 32) fun n c => Node.retireUnit 0 5 .channel (i * 32 + c) n
  let n := (n.foldl p.repairs Node.applyRepair).setReg Reg.repairRecordsUsed p.repairs.length
  let (k, n) := n.draw 2
  Node.bootTests (leNat k) n

/-- Stage 3 of Table 22-4: identity, straps, keys (R424, R426, R556, R559, R561). -/
def Node.identityStage (n : Node) (p : Package) : Node :=
  let n := ((n.setReg Reg.identity (leNat p.identity)).setReg Reg.stackIds (leNat p.stackIds)).setReg Reg.partNumber (leNat p.partNumber)
  let n := (n.setReg Reg.ringMacA (fieldB p.ringMacs 0 6)).setReg Reg.ringMacB (fieldB p.ringMacs 6 6)
  let (pub, n) := n.draw 1568
  let (priv, n) := n.draw 3168
  let (nonce, n) := n.draw 32
  let imgs := [1, 2, 3].map p.image
  let main := p.image 2
  let sec := { n.sec with dikPublic := p.dik, dikPrivate := leBytes 4896 (Config.open 102 (leNat p.seed)), kemPublic := pub, kemPrivate := priv,
                          opRoot := p.current.opRoot, fwDigests := imgs.flatMap sha3_512, fwSvn := fieldB main 7 2,
                          fwFloor := (imgs.map fun v => fieldB v 9 2).foldl Nat.max 0, fwVersion := fieldB main 3 2 }
  let n := { n with sec := sec, straps := n.pins % 1024 }
  let n := ((n.setReg Reg.dikPublic (leNat p.dik)).setReg Reg.kemPublic (leNat pub)).setReg Reg.unlockNonce (leNat nonce)
  (n.setReg Reg.fwVersion (fieldB main 3 2)).setReg Reg.fwSvnMin p.current.svnMin

/-- Put the boot stage. -/
def Node.atStage (n : Node) (k : Nat) : Node := { n with power := { n.power with stage := k } }

/-- Boot from stage 1 to the enumeration of stage 5 (R545, R546); PREOP follows at a round boundary. -/
def Node.boot (n : Node) (p : Package) : Node :=
  let n := (n.setReg Reg.nodeState stBoot).atStage 1
  if !p.headerOk || !(p.copyA.valid || p.copyB.valid) || !p.imageOk 1 then n.enterFault 0 0
  else
    let n := (n.hostTrain.identityStage p).atStage 3
    if p.dik != p.certKey || !p.imageOk 3 then n.enterFault 0 0
    else
      let n := { n with mgmt := { n.mgmt with mgmtFwOk := true } }
      if !p.imageOk 2 then n.enterFault 0 0
      else
        let n := n.memoryStage p
        if n.st = stFault then n else ((n.enumeratePort 0).enumeratePort 1).atStage 4

/-- Discard the node's state and boot (R549). -/
def State.restart (s : State) : State :=
  let t := s.wipe stBoot
  t.put (t.node.boot t.pkg)

/-- POWER_LOSS (R537): OFF at once. -/
def execPowerLoss (s : State) : Host.Outcome State Fault Refusal := .next (s.wipe 0)

/-- POWER_UP (R545). -/
def execPowerUp (s : State) : Host.Outcome State Fault Refusal :=
  if s.node.st = 0 ∨ (s.node.power.stage = 0 ∧ !s.node.power.inReset) then .next s.restart else s.on s.node

/-- MODULE_RESET (R555): the node's state is discarded; boot waits for the level to rise. -/
def execModuleReset (s : State) : Host.Outcome State Fault Refusal :=
  if s.node.st = 0 then s.on s.node
  else
    let t := s.wipe stBoot
    .next (t.put { t.node with power := { t.node.power with inReset := true } })

/-- MODULE_RESET_RELEASE (R555). -/
def execModuleResetRelease (s : State) : Host.Outcome State Fault Refusal :=
  if s.node.power.inReset then .next s.restart else s.on s.node

/-- RESET_REQ (R549): a firmware reset, which leaves no response to send (log entry 104); other values have no effect. -/
def execResetReq (via : Via) (v : BitVec 8) (s : State) : Host.Outcome State Fault Refusal :=
  .next (s.serve via 0x11 fun s =>
    let st := s.node.writeStatus via false 0x3704 1 [v]
    if st = svOk ∧ v = 1 then (s.restart, none) else (s.put (s.node.countRefused st), some [BitVec.ofNat 8 st, 0, 0, 0]))

/-! ### Output pins (Table 23-3) -/

/-- STATUS2 to STATUS0 as a number, a pin driven low a 1 (R557). -/
def Node.statusPins (n : Node) : BitVec 3 := BitVec.ofNat 3 n.st

/-- The level of EYELET_A_OPEN_N or EYELET_B_OPEN_N: low while the ring's eyelet is open. -/
def Node.eyeletOpenN (n : Node) (ring : Ring) : Bool := !(n.ringUnit (ringNum ring)).eyelet

/-- The level of SLOW_PERST0_N or SLOW_PERST1_N: held low until stage 5 of Table 22-4; none where the variant does not drive J8 (R558). -/
def Node.slowPerstN (n : Node) : Option Bool := if n.slowPresent then some (decide (4 ≤ n.power.stage)) else none

end Sys2Proof.Machine
end

