-- ==== Sys2Proof/Machine/Tables.lean ====
section
/-!
DEFINITION. The DOMAIN entries of the object dictionary as they read (R512): tables with one record per number, logs, and images, laid out by the
tables of their chapters.
-/

namespace Sys2Proof.Machine

/-- A DOMAIN's current value: the size of its records (1 for an image), its length in bytes, and `count` records from a record on. -/
structure Domain.View where
  size : Nat
  length : Nat
  recs : Nat → Nat → Bytes

/-- An image or log given byte by byte. -/
def viewBytes (b : Bytes) : Domain.View := { size := 1, length := b.length, recs := fun i k => sliceB b i k }

/-- A list of records, first record first. -/
def viewList (size : Nat) (l : List Bytes) : Domain.View :=
  { size := size, length := size * l.length, recs := fun i k => ((l.drop i).take k).flatMap (padTo size) }

/-- A table of `count` records, by number. -/
def viewTable (size count : Nat) (f : Nat → Bytes) : Domain.View :=
  { size := size, length := size * count, recs := fun i k => (List.range k).flatMap fun j => padTo size (f (i + j)) }

/-- Whole records of a view from a byte offset on, at most `len` bytes (R495). -/
def Domain.View.read (v : Domain.View) (off len : Nat) : Bytes :=
  v.recs (off / v.size) (Nat.min (len / v.size) ((v.length - off) / v.size))

/-- One past the highest key in use. -/
def Map.top {α : Type} (m : Map α) : Nat := match m.getLast? with | some e => e.1 + 1 | none => 0

/-! ### Records of chapters 3 to 5 -/

/-- Handle or number that an absent one reads as. -/
abbrev noHandle : Nat := 0xFFFFFFFF

/-- Session record (Table 3-4). -/
def Node.sessionRecord (n : Node) (x : Nat) : Bytes :=
  match Map.find n.adm.sessions x with
  | none => []
  | some s =>
    leBytes 2 x ++ leBytes 1 s.state ++ leBytes 1 s.slice ++ leBytes 4 s.tenant ++ leBytes 2 s.replyPort ++ leBytes 2 s.keySlot ++
    leBytes 4 (n.openRequests x) ++ leBytes 4 s.quantum ++ leBytes 8 s.lastActivity

/-- Sequence descriptor (Table 4-1). -/
def Node.seqRecord (n : Node) (k : Nat) : Bytes :=
  match Map.find n.seqs.seqs k with
  | none => []
  | some q =>
    leBytes 6 q.id ++ leBytes 1 q.state.code ++ leBytes 1 q.slice ++ leBytes 1 q.home ++
    leBytes 1 ((if q.forked then 1 else 0) + (if q.attached then 2 else 0)) ++ leBytes 2 q.layerFirst ++ leBytes 2 q.layerCount ++
    leBytes 1 q.groupCount ++ leBytes 1 q.format ++ leBytes 5 q.spanBase ++ leBytes 3 0 ++ leBytes 4 q.spanLimit ++ leBytes 4 q.domain ++
    leBytes 6 q.parent ++ leBytes 2 q.tracks.length ++ leBytes 4 q.dir ++ leBytes 4 ((q.tracks.map fun t => t.pages.length).sum) ++
    leBytes 5 q.openTick ++ leBytes 3 0 ++ leBytes 5 q.lastAppend ++ leBytes 3 0 ++ leBytes 8 q.cnt.appends ++ leBytes 8 q.cnt.attends ++
    leBytes 4 q.cnt.seals ++ leBytes 4 q.cnt.cowCopies ++ leBytes 4 q.cnt.noPage ++ leBytes 4 q.cnt.spills ++ leBytes 4 q.cnt.prefetches ++
    leBytes 4 q.cnt.poisoned ++ leBytes 8 q.cnt.journalRound ++ leBytes 2 q.aBytes ++ leBytes 2 q.bBytes

/-- Track entry (Table 4-3) at a handle: TRACK_DIR is the handle of a sequence's track 0. -/
def Node.trackRecord (n : Node) (h : Nat) : Bytes :=
  match n.seqs.seqs.find? fun e => decide (e.2.dir ≤ h) && decide (h < e.2.dir + e.2.tracks.length) with
  | none => []
  | some (k, q) =>
    let t := h - q.dir
    let tr := q.track t
    leBytes 2 tr.layer ++ leBytes 1 tr.group ++ leBytes 1 ((if tr.noSpare then 1 else 0) + (if tr.tokens = q.spanLimit then 2 else 0)) ++
    leBytes 4 tr.tokens ++ leBytes 2 tr.booked ++ leBytes 2 (n.readers k t) ++ leBytes 4 tr.tail ++ leBytes 4 (tr.spare.getD noHandle) ++
    leBytes 4 (tr.chunks.headD noHandle) ++ leBytes 4 (tr.chunks.getLastD noHandle) ++ leBytes 4 tr.pages.length

/-- Page-table chunk (Table 4-4) at a handle. -/
def Node.chunkRecord (n : Node) (h : Nat) : Bytes :=
  match (n.seqs.seqs.flatMap fun e => e.2.tracks).find? fun t => t.chunks.contains h with
  | none => []
  | some t =>
    let i := t.chunks.findIdx (· == h)
    let ps := (t.pages.drop (60 * i)).take 60
    leBytes 4 (t.chunks.getD (i + 1) noHandle) ++ leBytes 4 (60 * i) ++ leBytes 1 ps.length ++ leBytes 7 0 ++ ps.flatMap (leBytes 4)

/-- Page descriptor (Table 4-5). -/
def Node.pageRecord (n : Node) (p : Nat) : Bytes :=
  let d := n.page p
  let flags := (if d.dirty then 1 else 0) + (if d.replicated then 2 else 0) + if d.moving then 4 else 0
  leBytes 1 d.state.code ++ leBytes 1 flags ++ leBytes 1 d.tokens ++ leBytes 1 d.format ++ leBytes 4 (d.t1.getD noHandle) ++
  leBytes 4 (d.slow.getD noHandle) ++ ((List.range 4).flatMap fun i => leBytes 1 (d.blockLen.getD i 0)) ++ leBytes 2 d.ref ++ leBytes 2 d.pin ++
  leBytes 5 d.lastUse ++ leBytes 1 d.slice ++ leBytes 2 0 ++ leBytes 4 (d.node.getD noHandle)

/-- The pages in each state (Table 4-8), FREE being every ID not in another. -/
def Node.pageCounts (n : Node) : List Nat :=
  (List.range 10).map fun c =>
    if c = 0 then n.reg Reg.pageDescMax - (n.seqs.pages.filter fun e => e.2.state != .free).length
    else (n.seqs.pages.filter fun e => e.2.state.code == c).length

/-- Domain record (Table 5-8). -/
def Node.domainRecord (n : Node) (d : Nat) : Bytes :=
  match Map.find n.share.domains d with
  | none => []
  | some m =>
    leBytes 4 d ++ leBytes 4 m.tenant ++ leBytes 1 m.slice ++ leBytes 1 1 ++ leBytes 2 m.keySlot ++
    leBytes 4 (n.share.nodes.filter fun e => e.2.live && e.2.domain == d).length ++ leBytes 5 m.created ++ leBytes 3 0 ++ leBytes 8 m.attaches

/-- Prefix-tree node (Table 5-2); TOKENS read zeros but through the awl (R135). -/
def Node.prefixRecord (n : Node) (awl : Bool) (h : Nat) : Bytes :=
  match Map.find n.share.nodes h with
  | none => []
  | some d =>
    padTo 32 d.hash ++ leBytes 4 (d.parent.getD noHandle) ++ leBytes 4 h ++ leBytes 4 d.domain ++ leBytes 4 d.index ++ leBytes 2 0 ++
    leBytes 1 (if d.live then 1 else 0) ++ leBytes 5 d.tick ++ leBytes 8 d.tag ++ leBytes 5 d.spanBase ++ leBytes 1 d.format ++
    leBytes 2 d.layerFirst ++ leBytes 2 d.layerCount ++ leBytes 1 d.groupCount ++ leBytes 2 d.aBytes ++ leBytes 2 d.bBytes ++ leBytes 1 0 ++
    (if awl then padTo 64 (d.tokens.flatMap (leBytes 4)) else leBytes 64 0)

/-- Page set at a handle: the page IDs in track order (R134), one record for every node (log entry 102). -/
def Node.pageSetRecord (n : Node) (h : Nat) : Bytes :=
  match Map.find n.share.nodes h with
  | none => []
  | some d => d.pageSet.flatMap (leBytes 4)

/-! ### Records of chapters 6 to 12 -/

/-- Model record (Table 6-1). -/
def Node.modelRecord (n : Node) (k : Nat) : Bytes :=
  match Map.find n.models k with
  | none => []
  | some m =>
    leBytes 2 k ++ leBytes 1 m.state ++ leBytes 1 m.layout ++ leBytes 4 m.tenant ++ leBytes 2 m.layerFirst ++ leBytes 2 m.layerCount ++
    leBytes 2 m.qHeads ++ leBytes 2 m.kvHeads ++ leBytes 1 m.groupKv ++ leBytes 1 m.format ++ leBytes 1 m.posMode ++ leBytes 1 m.pairing ++
    leBytes 2 m.dQk ++ leBytes 2 m.dRope ++ leBytes 2 m.dLat ++ leBytes 2 m.dV ++ leBytes 4 m.ropeBase ++ leBytes 4 m.scale ++
    leBytes 4 m.softcap ++ leBytes 4 m.slopeExp ++ leBytes 4 m.pageFix ++ leBytes 4 m.pageRh ++ leBytes 4 m.outRh ++ leBytes 4 m.weightDir

/-- Weight descriptor (Table 6-8). HOME_SLOT is known at the home node. -/
def Node.weightRecord (n : Node) (d : Nat) : Bytes :=
  match Map.find n.tiers.weights d with
  | none => []
  | some w =>
    leBytes 2 w.model ++ leBytes 2 w.layer ++ leBytes 1 w.kind ++ leBytes 1 w.state ++ leBytes 1 w.wformat ++ leBytes 1 0 ++ leBytes 4 w.bytes ++
    leBytes 4 (if w.homeNode = n.straps then w.t1.getD noHandle else noHandle) ++ leBytes 2 w.slotCount ++ leBytes 2 w.homeNode ++
    ((List.range 4).flatMap fun i => leBytes 2 (w.replicas.getD i 0xFFFF)) ++ leBytes 5 w.loadTick ++ leBytes 31 0 ++ padTo 64 w.digest

/-- Weight residency record (Table 11-7). -/
def Node.residencyRecord (n : Node) (d : Nat) : Bytes :=
  match Map.find n.tiers.weights d with
  | none => []
  | some w =>
    leBytes 4 d ++ leBytes 1 w.res ++ leBytes 1 w.slice ++ leBytes 2 w.poisoned.length ++ leBytes 4 (w.t1.getD noHandle) ++
    leBytes 4 (w.slow.getD noHandle) ++ leBytes 5 w.lastUse ++ leBytes 3 0 ++ leBytes 5 w.holdTick ++ leBytes 1 w.source

/-- Gradient record (Table 8-5). -/
def Node.gradRecord (n : Node) (g : Grad) : Bytes :=
  leBytes 6 (n.seq g.seq).id ++ leBytes 2 g.track ++ leBytes 4 g.index ++ leBytes 4 g.slot ++ leBytes 1 g.count ++ leBytes 1 g.state ++
  leBytes 1 (if g.isPartial then 1 else 0) ++ leBytes 1 0 ++ leBytes 5 g.lastAdd ++ leBytes 3 0 ++ leBytes 4 g.adds

/-- Program record (R216). -/
def Node.progRecord (n : Node) (k : Nat) : Bytes :=
  match Map.find n.progs k with
  | none => []
  | some p =>
    leBytes 1 k ++ leBytes 1 p.state ++ leBytes 2 0 ++ leBytes 4 p.tenant ++ leBytes 5 p.loadTick ++ leBytes 3 0 ++ leBytes 4 p.traps ++
    leBytes 12 0 ++ padTo 32 p.header ++ padTo 64 p.digest

/-- Built-in program records (R216). -/
def builtinRecords : List Bytes := builtinNames.zipIdx.map fun e => padTo 16 (nameBytes e.1) ++ leBytes 48 0 ++ builtinDigest e.2

/-- Record of STACK_STATUS (Table 10-11): spare rows used are counted in 4 bits per channel, stopping at 15. -/
def Node.stackRecord (n : Node) (st : Nat) : Bytes :=
  let used := fun (c : Nat) => Nat.min 15 ((List.range 16).map fun b => Map.get 0 n.test.spares (((4 * 16 + st) * 256 + c) * 16 + b)).sum
  let retired := ((List.range 32).map fun c => if n.retired .channel (st * 32 + c) then 2 ^ c else 0).sum
  leBytes 4 retired ++ ((List.range 16).flatMap fun i => leBytes 1 (used (2 * i) + 16 * used (2 * i + 1))) ++
  leBytes 4 (Map.get 0 n.stk.ce st) ++ leBytes 4 (Map.get 0 n.stk.ue st)

/-- Records of REPAIR_MAP: stack, channel, bank, spare, row. -/
def Node.repairMap (n : Node) : List Bytes :=
  n.stk.rowMap.map fun (r : List Nat) =>
    leBytes 1 (r.getD 0 0) ++ leBytes 1 (r.getD 1 0) ++ leBytes 1 (r.getD 2 0) ++ leBytes 1 (r.getD 3 0) ++ leBytes 2 (r.getD 4 0)

/-- Quota record (Table 11-4). -/
def Node.quotaRecord (n : Node) (s : Nat) : Bytes :=
  match Map.find n.tiers.quotas s with
  | none => []
  | some q =>
    leBytes 1 s ++ leBytes 1 q.high ++ leBytes 1 q.low ++ leBytes 1 0 ++ leBytes 4 q.t0Kib ++ leBytes 4 q.t1Slots ++ leBytes 4 q.slowSlots ++
    leBytes 4 (n.t1Used s) ++ leBytes 4 (n.slowUsed s) ++ leBytes 1 (if q.spilling then 1 else 0)

/-- Index record (Table 12-1). -/
def Node.indexRecord (n : Node) (k : Nat) : Bytes :=
  match Map.find n.indexes k with
  | none => []
  | some d =>
    d.defBytes k ++ leBytes 4 d.gen ++ leBytes 4 d.mainCount ++ leBytes 4 d.sideCount ++ leBytes 4 d.unassigned ++ leBytes 5 d.foldTick ++
    leBytes 15 0 ++ padTo 64 d.digest

/-- List records (R336): every list of every index, by index, then list. -/
def Node.listRecords (n : Node) : List Bytes :=
  n.indexes.flatMap fun e =>
    if e.2.state < 2 then []
    else (List.range e.2.centroids).map fun c =>
      leBytes 2 e.1 ++ leBytes 2 c ++ leBytes 1 (e.2.listRegion c) ++ leBytes 3 0 ++ leBytes 4 (e.2.listAt e.2.gen c).length ++
      leBytes 4 (e.2.side.filter fun r => r.list == c).length

/-! ### Records of chapters 14 to 22 -/

/-- A histogram record (R383): 16 buckets of depth, 16 of delay. -/
def Node.histRecord (n : Node) (q : Nat) : Bytes := (List.range 32).flatMap fun i => leBytes 4 (Map.get 0 n.links.hist (q * 32 + i))

/-- Slice record (Table 15-2). -/
def Node.sliceRecord (n : Node) (s : Nat) : Bytes :=
  match Map.find n.comp.slices s with
  | none => []
  | some b =>
    leBytes 1 s ++ leBytes 1 b.state.code ++ leBytes 1 b.bindGen ++ leBytes 1 (if b.pendingBind.isSome then 1 else 0) ++ leBytes 4 b.tenant ++
    leBytes 32 b.blocks ++ leBytes 64 b.channels ++ leBytes 6 b.ports ++ leBytes 2 b.sessFirst ++ leBytes 2 b.sessCount ++ leBytes 2 0 ++
    leBytes 5 b.stateTick

/-- Key record (Table 16-2). -/
def Node.keyRecord (n : Node) (k : Nat) : Bytes :=
  match Map.find n.sec.keys k with
  | none => []
  | some c =>
    leBytes 2 k ++ leBytes 1 c.state ++ leBytes 1 c.ktype ++ leBytes 4 c.tenant ++ leBytes 1 c.slice ++ leBytes 1 0 ++ leBytes 2 c.keyId ++
    leBytes 4 c.liveTick

/-- Error record (Table 17-1). -/
def ErrRec.record (r : ErrRec) : Bytes :=
  leBytes 5 r.tick ++ leBytes 3 0 ++ r.unitBytes ++ leBytes 4 r.address ++ leBytes 2 r.bit ++ leBytes 1 r.outcome ++ leBytes 1 0 ++
  leBytes 4 r.requestId ++ leBytes 2 r.session

/-- Per source node and slice (`0x3508:02`): source, slice, pages held, latest cut (log entry 102 for the places of the fields). -/
def Node.replicaSets (n : Node) : List Bytes :=
  let keys := (n.rcv.replicas.map fun r => (r.source, r.slice)).eraseDups
  keys.map fun e =>
    leBytes 2 e.1 ++ leBytes 1 e.2 ++ leBytes 1 0 ++ leBytes 4 (n.rcv.replicas.filter fun r => r.source == e.1 && r.slice == e.2).length ++
    leBytes 8 (Map.get (0, 0) n.rcv.cutsHeld e.1).1

/-- Loss-report record (Table 17-6). -/
def LossRec.record (l : LossRec) : Bytes :=
  leBytes 6 l.seqId ++ leBytes 2 l.session ++ leBytes 2 l.node ++ leBytes 2 l.host ++ leBytes 1 l.reason ++ leBytes 3 0 ++ leBytes 5 l.tick

/-- Roster record (Table 17-4). -/
def Roster.record (r : Roster) : Bytes :=
  leBytes 6 r.seqId ++ leBytes 2 r.session ++ leBytes 2 r.host ++ leBytes 2 r.node ++ leBytes 1 r.op

/-- Classes, targets and places of the signature slices in cursor order (Table 18-1, R471). -/
def signatureSlices : List (Nat × Nat × Nat) :=
  ([(1, 256), (4, 4)].flatMap fun c => (List.range 16).flatMap fun r => (List.range c.2).map fun i => (c.1, r, i)) ++
  ([(6, 16), (7, 8), (8, 16)].flatMap fun c => (List.range c.2).map fun i => (c.1, 16, i))

/-- The stored signatures (`0x3608:02`). -/
def signatureRecords : List Bytes :=
  signatureSlices.map fun e => leBytes 4 (storedSignature { cls := e.1, target := e.2.1, place := e.2.2, start := 0, winEnd := 0 })

/-- A record of SLOW_DEVICES: what the device of a port reports. -/
def Node.slowRecord (n : Node) (p : Nat) : Bytes :=
  match Map.find n.slow p with
  | none => []
  | some d => if d.present then leBytes 12 d.ident ++ leBytes 8 d.capacity ++ leBytes 4 d.latencyNs ++ leBytes 4 d.bandwidth else []

/-- A record of BOOKINGS of a region: booked cycles in the window that covers the tick, items queued. -/
def Node.bookingRecord (n : Node) (now r cell : Nat) : Bytes :=
  let cycles := match n.windowAt now 2 r with
    | some w => cellBooked n.adm.admitted r w.1 cell
    | none => 0
  leBytes 4 cycles ++ leBytes 2 (Map.get [] n.cells.queues (cellNum r cell)).length

/-- Cells of a region that hold bookings or queued items now. -/
def Node.bookingTop (n : Node) (r : Nat) : Nat :=
  let booked := n.adm.admitted.flatMap fun q => if q.phase < 2 then (q.items.filter fun i => i.region == r).map (·.cell) else []
  let queued := (n.cells.queues.filter fun e => e.1 / 256 == r).map fun e => e.1 % 256
  (booked ++ queued).foldl (fun a c => Nat.max a (c + 1)) 0

/-! ### The entries -/

/-- Tables with one record per number: their keys and what they hold now. -/
def Node.tableTops (n : Node) : List (Nat × Nat) :=
  [(Reg.sessionTable, Map.top n.adm.sessions), (Reg.seqTable, Map.top n.seqs.seqs), (Reg.trackDirs, n.seqs.dirNext),
   (Reg.pageTable, n.seqs.chunkNext), (Reg.pageDescs, Map.top n.seqs.pages), (Reg.domains, Map.top n.share.domains),
   (Reg.prefixNodes, n.share.nodeNext), (Reg.pageSets, n.share.nodeNext), (Reg.modelTable, Map.top n.models),
   (Reg.weightDescs, Map.top n.tiers.weights), (Reg.progTable, Map.top n.progs), (Reg.quotas, Map.top n.tiers.quotas),
   (Reg.weightRes, Map.top n.tiers.weights), (Reg.indexTable, Map.top n.indexes), (Reg.slices3208, Map.top n.comp.slices),
   (Reg.keyTable, Map.top n.sec.keys)] ++ (List.range 16).map fun r => (regionKey r Reg.bookings, n.bookingTop r)

/-- Records that a table has: one past the highest in use since reset (R512). -/
def Node.records (n : Node) (key : Nat) : Nat :=
  Nat.max (Map.get 0 n.tops key) (((n.tableTops.find? fun e => e.1 == key).map (·.2)).getD 0)

/-- Keep the lengths that tables have reached (R512). -/
def Node.keepTops (n : Node) : Node :=
  { n with tops := n.tableTops.foldl (fun m e => if Map.get 0 m e.1 < e.2 then Map.set 0 m e.1 e.2 else m) n.tops }

/-- Images: a staged last or map at its staged view, the active one, the previous map. -/
def Node.imageView (n : Node) (p : Package) (key : Nat) : Option Domain.View :=
  if key = Reg.lastStaged ∨ key = Reg.lastActive then some (viewBytes n.sched.active.raw)
  else if key = Reg.lastStaged + 0x80 then some (viewBytes (n.sched.staged.getD n.sched.active).raw)
  else if key = Reg.compStaged then some (viewBytes (n.comp.current.getD {}).raw)
  else if key = Reg.compStaged + 0x80 then some (viewBytes (match n.comp.stagedMap with | some m => m.raw | none => (n.comp.current.getD {}).raw))
  else if key = Reg.compMap then some (viewList 1424 ((n.comp.current.toList ++ n.comp.previous.toList).map (·.raw)))
  else if key = Reg.certChain then some (viewBytes p.certs)
  else if key = Reg.attestReport then some (viewBytes n.sec.report)
  else none

/-- Logs and lists. -/
def Node.listView (n : Node) (p : Package) (key : Nat) : Option Domain.View :=
  if key = Reg.eventLog then some (viewList 48 n.mgmt.events)
  else if key = Reg.ringPortStats then some (viewList 32 ((List.range 4).map fun i => (List.range 4).flatMap fun j => leBytes 8 (Map.get 0 n.mgmt.portStats (i * 4 + j))))
  else if key = Reg.slowDevices then some (viewTable 32 (if n.slowPresent then Map.top n.slow else 0) n.slowRecord)
  else if key = Reg.pageStateCounts then some (viewList 8 (n.pageCounts.map (leBytes 8)))
  else if key = Reg.gradMap then some (viewList 32 (n.grads.map fun e => n.gradRecord e.2))
  else if key = Reg.builtinTable then some (viewList 128 builtinRecords)
  else if key = Reg.stackStatus then some (viewTable 32 16 n.stackRecord)
  else if key = Reg.repairMap then some (viewList 8 n.repairMap)
  else if key = Reg.listTable then some (viewList 16 n.listRecords)
  else if key = Reg.queueHist then some (viewTable 128 384 n.histRecord)
  else if key = Reg.hostHist then some (viewTable 128 4 fun i => n.histRecord (384 + i))
  else if key = Reg.peerHeaders then some (viewList 80 (n.comp.headers.map fun e => e.2.raw))
  else if key = Reg.inspected then some (viewList 8 (n.sec.inspected.map fun e => leBytes 4 e.1 ++ leBytes 4 e.2))
  else if key = Reg.errorLog then some (viewList 32 (n.rcv.log.map ErrRec.record))
  else if key = Reg.replicaSets then some (viewList 16 n.replicaSets)
  else if key = Reg.lossReports then some (viewList 32 (n.rcv.losses.map LossRec.record))
  else if key = Reg.rosters then some (viewList 16 (n.rcv.rosters.map Roster.record))
  else if key = Reg.repairLog then some (viewList 16 p.repairs)
  else if key = Reg.signatures then some (viewList 4 signatureRecords)
  else if key = Reg.roundLog then some (viewList 32 n.power.log)
  else none

/-- Tables by number. -/
def Node.tableView (n : Node) (now : Nat) (awl : Bool) (key : Nat) : Option Domain.View :=
  let t := fun (size : Nat) (f : Nat → Bytes) => some (viewTable size (n.records key) f)
  if key = Reg.sessionTable then t 32 n.sessionRecord
  else if key = Reg.seqTable then t 128 n.seqRecord
  else if key = Reg.trackDirs then t 32 n.trackRecord
  else if key = Reg.pageTable then t 256 n.chunkRecord
  else if key = Reg.pageDescs then t 32 n.pageRecord
  else if key = Reg.domains then t 32 n.domainRecord
  else if key = Reg.prefixNodes then t 160 (n.prefixRecord awl)
  else if key = Reg.pageSets then t (4 * n.reg Reg.tracksMax) n.pageSetRecord
  else if key = Reg.modelTable then t 64 n.modelRecord
  else if key = Reg.weightDescs then t 128 n.weightRecord
  else if key = Reg.progTable then t 128 n.progRecord
  else if key = Reg.quotas then t 32 n.quotaRecord
  else if key = Reg.weightRes then t 32 n.residencyRecord
  else if key = Reg.indexTable then t 128 n.indexRecord
  else if key = Reg.slices3208 then t 128 n.sliceRecord
  else if key = Reg.keyTable then t 16 n.keyRecord
  else if 0x400000 ≤ key ∧ key < 0x500000 ∧ key % 0x10000 = Reg.bookings % 0x10000 then t 8 (n.bookingRecord now ((key - 0x400000) / 0x10000))
  else none

/-- The value of a DOMAIN entry. One that holds nothing, a write-only one and one of an absent unit are empty. -/
def Node.domainView (n : Node) (p : Package) (now : Nat) (awl : Bool) (index sub : Nat) : Domain.View :=
  let key := dkey index sub
  if n.entryAbsent index (sub % 0x80) then viewBytes []
  else match n.imageView p key with
    | some v => v
    | none => match n.listView p key with
      | some v => v
      | none => (n.tableView now awl key).getD (viewBytes [])

end Sys2Proof.Machine
end

