-- ==== Sys2Proof/Machine/Boundary.lean ====
section
/-!
DEFINITION. The boundaries of ticks and rounds (R43, R47) and the commit of a staged change (R59): what comes about at each whatever is commanded.
-/

namespace Sys2Proof.Machine

/-! ### A tick boundary (R43) -/

/-- What the batch of the boundary leaves behind it: a report's state (R429), samples (R539), SPILLING slices (R289), table lengths (R512); what the tick sent out on the rings
and to the host is gone. -/
def Node.endBatch (n : Node) (now : Nat) (m : Sensors) : Node :=
  let n := (((n.attestSnapshot now).sample m).spillingUpdate).keepTops
  { n with mgmt := { n.mgmt with out := [] }, host := { n.host with msix := [], writes := [] } }

/-- What is due at a boundary before its batch: the switch of tick inputs (R36), seals and refills, gradient slots that are zero (R229), centroids
(R317), binds that waited (R392), takeover streams (R460), ports. -/
def Node.startBatch (n : Node) (now : Nat) : Node :=
  let n := match n.time.switchPending with
    | some i => if (n.time.input i).locked then n.selectTick i else n
    | none => n
  let n := n.settleTracks now
  let n := { n with grads := Map.mapVals n.grads fun _ g => if g.state = 1 ∧ g.zeroDue ≤ now then { g with state := 2 } else g }
  (((n.indexesReady now).pendingBinds now).takeoverTick now).portsTick now

/-- TICK_BOUNDARY (R43): the batch of the boundary ends, the count advances by 1, and the next boundary begins, 1,000 ns on. -/
def execTickBoundary (m : Sensors) (s : State) : Host.Outcome State Fault Refusal :=
  let t := (s.clock.tick + 1) % 2 ^ 64
  .next { s with clock := { tick := t, boundaryNs := s.clock.boundaryNs + 1000 }, node := (s.node.endBatch s.clock.tick m).startBatch t }

/-! ### A round boundary (R47) -/

/-- Next-round values take effect (R61). -/
def Node.roundValues (n : Node) : Node := ({ n with nextRound := [] }).foldl n.nextRound fun m e => m.setReg e.1 e.2

/-- Every round-robin pointer goes to index 0 (R16). -/
def Node.resetPointers (n : Node) : Node :=
  { n with links := { n.links with shapers := Map.norm {} n.links.shapers fun _ h => { h with pos := 0, visited := false } },
           host := { n.host with drrPos := 0, drrIn := false } }

/-- PREOP and OPERATIONAL at a round boundary (R545, R548). -/
def Node.roundState (n : Node) (now : Nat) : Node :=
  if n.st = stBoot ∧ n.power.stage = 4 ∧ n.time.counted then (n.atStage 7).setState now stPreop 0
  else if n.st = stOperational ∧ n.power.draining ∧ n.unfinished = [] then
    ({ n with power := { n.power with draining := false } }).setState now stPreop 1
  else if n.st = stPreop ∧ n.power.toOperational then
    ({ n with power := { n.power with toOperational := false, opReached := true } }).setState now stOperational 1
  else n

/-- The node of a round boundary: ADMIT_CAP first (R540), then next-round values, ports, the group's hold, a rejoin, node states, the header. -/
def Node.roundBoundary (n : Node) (now : Nat) : Node :=
  let n := (n.capUpdate n.power.round).roundValues.resetPointers.portsToService
  let n := { n with power := { n.power with round := n.roundAt now } }
  let n := ((n.liftHold now).rejoinApply now).roundState now
  if n.inRounds && (n.st == stPreop || n.st == stOperational || n.st == stHold) then n.sendHeader now else n

/-- The minimum SVN rises when the running images first reach OPERATIONAL (R428). -/
def Package.raiseFloor (p : Package) (floor : Nat) : Package := if p.current.svnMin < floor then p.change fun m => { m with svnMin := floor } else p

/-- ROUND_BOUNDARY (R47). An alignment that is due moves the boundary by at most 500 ns (R40). -/
def execRoundBoundary (s : State) : Host.Outcome State Fault Refusal :=
  let now := s.clock.tick
  if !s.node.isRound now then s.on s.node
  else
    let n := s.node.roundBoundary now
    let first := !s.node.power.opReached && n.power.opReached
    let pkg := if first then s.pkg.raiseFloor n.sec.fwFloor else s.pkg
    let n := if first then n.setReg Reg.fwSvnMin pkg.current.svnMin else n
    match n.time.align with
    | none => .next { s with node := n, pkg := pkg }
    | some i =>
      .next { s with node := { n with time := { n.time with align := none } }, pkg := pkg,
                     clock := { s.clock with boundaryNs := alignNs s.clock.boundaryNs ((n.time.input i).lastEdge.getD s.clock.boundaryNs) } }

/-! ### The commit (R59) -/

/-- A request takes the placements that R56 found for it against the new last. -/
def Admitted.adopt (q a : Admitted) (c : Nat) : Admitted :=
  let items := q.items.map fun i => match a.items.find? fun j => j.num == i.num with
    | some j => if i.state = 0 ∧ c ≤ i.winStart then j else i
    | none => i
  { q with items := items, red := if c ≤ q.red.winStart then a.red else q.red,
           send := if c ≤ q.send.winStart ∧ q.send.port = a.send.port then a.send else q.send }

/-- The bookings of admitted work under the new last: those of R56 in place of the old ones from the commit tick on, those of R57 as they stand. -/
def Node.adoptAll (n : Node) (c : Nat) : Node :=
  let l := n.adm.admitted.map fun q =>
    let q' : Admitted := if q.phase < 2 ∧ !q.armedPart then
        (match n.adm.armed.find? fun a => a.req.key == q.req.key with | some a => q.adopt a c | none => q)
      else q
    { q' with armedPart := false }
  { n with adm := { n.adm with admitted := l, armed := [] } }

/-- The new last becomes active (R59). -/
def Node.commitLast (n : Node) (c : Nat) : Node :=
  match n.sched.staged with
  | none => n
  | some l =>
    let n := { n with sched := { n.sched with active := l, staged := none }, power := { n.power with round := 0 } }
    ((n.setReg Reg.lastId l.id).setReg Reg.roundLen l.roundLen).setReg Reg.roundBase c

/-- IN_RESERVE has changed: native peers are granted the difference, or credits that return are withheld (R377). -/
def Node.reserveChange (n : Node) (old : Nat) : Node :=
  let new := n.reg Reg.inReserve
  n.foldl ((List.range 48).filter fun p => n.portReg p Reg.portMode == 1 && n.portReg p Reg.portState == 3) fun n p =>
    let l := n.port p
    let step := fun (l : Port) (v : Nat) =>
      let back := Nat.min (new - old) (Map.get 0 l.withheld v)
      { l with owed := Map.set 0 l.owed v (Map.get 0 l.owed v + (new - old - back)),
               withheld := Map.set 0 l.withheld v (Map.get 0 l.withheld v - back + (old - new)) }
    n.setPort p ((List.range 6).foldl step l)

/-- Staged values of plain entries become active; a port whose MODE is committed trains in it (R338). -/
def Node.commitValues (n : Node) (now : Nat) : Node :=
  let old := n.reg Reg.inReserve
  let modes := (List.range 48).filterMap fun p => (Map.find n.staged (linkKey p Reg.portMode)).map fun v => (p, v)
  let plain := n.staged.filter fun e => !(modes.any fun m => linkKey m.1 Reg.portMode == e.1)
  let n := (({ n with staged := [] }).foldl plain fun n e => n.setReg e.1 e.2).reserveChange old
  n.foldl modes fun n m => n.modeCommit now m.1 m.2

/-- The commit (R59). -/
def Node.commitApply (n : Node) (now : Nat) : Node :=
  let c := n.sched.arming.armTick
  if n.reg Reg.commitState ≠ 3 ∨ now < c then n
  else
    let n := ((n.adoptAll c).commitLast c).commitValues now
    let n := match n.tiers.stagedQuota with
      | some v => ({ n with tiers := { n.tiers with stagedQuota := none } }).applyQuota v
      | none => n
    let n := n.commitMap now
    let g := n.reg Reg.genTarget
    let n := (n.setReg Reg.configGen (if g = 0 then (n.reg Reg.configGen + 1) % 2 ^ 32 else g)).setReg Reg.genTarget 0
    let n := { n with sched := { n.sched with arming := {} } }
    ((n.setReg Reg.lastCommitTick c).setReg Reg.commitState 0).commitEvent

/-- COMMIT_APPLY (R59). -/
def execCommitApply (s : State) : Host.Outcome State Fault Refusal := s.on (s.node.commitApply s.clock.tick)

end Sys2Proof.Machine
end

