-- ==== Sys2Proof/Machine/Dictionary.lean ====
section
/-!
DEFINITION. The dictionary services (R492 to R498, R501, R508 to R514): how entries read, what a write of each does, items of READ and WRITE, block
transfers, entry descriptors, COMMIT.
-/

namespace Sys2Proof.Machine

/-! ### Values that are counted or measured when read -/

/-- SLICE_OF_BLOCK of a region (Table 20-2). -/
def Node.sliceOfBlocks (n : Node) (r : Nat) : Nat :=
  leNat ((List.range 16).map fun b =>
    match n.comp.slices.find? fun e => e.2.state == .bound && bitOf e.2.blocks (r * 16 + b) with
    | some e => BitVec.ofNat 8 e.1
    | none => 0xFF)

/-- Bytes that the manual calls measured, or whose count needs times within a tick: a free value of the entry and the tick (log entry 105). -/
def measured (key now bytes : Nat) : Nat := Config.open 104 (key * 2 ^ 64 + now) % 256 ^ bytes

/-- Entries of a region or port that are counted. -/
def Node.countedPart (n : Node) (now key : Nat) : Option Nat :=
  if 0x400000 ≤ key ∧ key < 0x500000 then
    let r := (key - 0x400000) / 0x10000
    if key = regionKey r Reg.sliceOfBlock then some (n.sliceOfBlocks r)
    else if key = regionKey r Reg.stagingReserved then some (n.stagingUsed r)
    else if key = regionKey r Reg.cyclesCharged ∨ key = regionKey r Reg.burstStallNs then some (measured key now 8)
    else none
  else if 0x500000 ≤ key ∧ key < 0x5C0000 then
    let p := (key - 0x500000) / 0x4000
    if key = linkKey p Reg.qDepth then some (leNat ((List.range 8).flatMap fun q => leBytes 4 (n.outCells p q))) else none
  else none

/-- Entries of chapters 1 to 5 that are counted. -/
def Node.countedA (n : Node) (now key : Nat) : Option Nat :=
  if key = Reg.tickNow then some now
  else if key = Reg.holdoverTicks then some (if n.time.holdover then now - n.time.holdoverStart else 0)
  else if key = Reg.roundNumber then some (if n.reg Reg.roundBase ≤ now then n.roundAt now else 0)
  else if key = Reg.authState then some ((if n.ringKeyLive then 1 else 0) + if n.host.unlocked then 2 else 0)
  else if key = Reg.sliceStates then some (leNat ((List.range 64).map fun s => BitVec.ofNat 8 (n.slice s).state.code))
  else if key = Reg.poolDepth then some n.adm.pool.length
  else if key = Reg.seqActive then some (n.seqs.seqs.filter fun e => e.2.state != .free).length
  else if key = Reg.tracksNoSpare then some ((n.seqs.seqs.map fun e => (e.2.tracks.filter fun t => t.noSpare).length).sum)
  else if key = Reg.domainsActive then some n.share.domains.length
  else if key = Reg.nodesLive then some (n.share.nodes.filter fun e => e.2.live).length
  else none

/-- Entries of chapters 8 to 16 that are counted. -/
def Node.countedB (n : Node) (now key : Nat) : Option Nat :=
  if key = Reg.gradSlotsHeld then some ((n.grads.map fun e => e.2.count).sum)
  else if key = Reg.packQueue then some n.packOrder.length
  else if key = Reg.strokesShortened then some (measured key now 8)
  else if key = Reg.slowCapacity then some ((n.slow.map fun e => if e.2.up then e.2.capacity else 0).sum)
  else if key = Reg.portsInService then some (((List.range 48).map fun p => if n.inService p then 2 ^ p else 0).sum)
  else if key = Reg.sharedFree then some n.sharedFree
  else if key = Reg.q6PoolBooked then some (q6Booked n.adm.admitted now)
  else if key = Reg.digest then some (leNat n.digest)
  else if key = Reg.quarantinedSeqs then some (n.seqs.seqs.filter fun e => e.2.state == .quarantined).length
  else if key = Reg.keysLive then some (n.sec.keys.filter fun e => e.2.state == 1).length
  else none

/-- The active value under a key, as it reads: entries of an absent unit read their defaults (R9, R237, R312). -/
def Node.activeValue (n : Node) (now index sub : Nat) : Nat :=
  let key := dkey index sub
  if n.entryAbsent index sub then Dict.dflt key
  else match n.countedA now key with
    | some v => v
    | none => match n.countedB now key with
      | some v => v
      | none => (n.countedPart now key).getD (n.reg key)

/-- The highest subindex of an index (R501). -/
def highestSub (index : Nat) : Nat := ((Dict.object index).getD []).foldl (fun a e => Nat.max a e.sub) 0

/-- The entry a subindex names: itself, or an RWS entry at its staged view (R501). -/
def viewedEntry (index sub : Nat) : Option (Entry × Bool) :=
  if sub < 0x80 then (Dict.entry index sub).map fun e => (e, false)
  else match Dict.entry index (sub - 0x80) with
    | some e => if e.access = .rws then some (e, true) else none
    | none => none

/-- The bytes of an entry that is no DOMAIN. -/
def Node.valueBytes (n : Node) (now index : Nat) (e : Entry) (staged : Bool) : Bytes :=
  let v := n.activeValue now index e.sub
  let v := if e.access = .wo then 0 else if staged then Map.get v n.staged (dkey index e.sub) else v
  leBytes e.ty.bytes v

/-- An item of a READ: its status, type code and value (R492, R494, R501). -/
def Node.readItem (n : Node) (now : Nat) (via : Via) (index sub : Nat) : Nat × Nat × Bytes :=
  if !n.authentic via && !openRead index sub then (svNotAuthenticated, 0, [])
  else if !n.hasIndex index then (svNoObject, 0, [])
  else if sub = 0 then (svOk, 2, leBytes 1 (highestSub index))
  else match viewedEntry index sub with
    | none => (svNoSub, 0, [])
    | some (e, staged) => if e.ty = .domain then (svTooLong, e.ty.code, []) else (svOk, e.ty.code, n.valueBytes now index e staged)

/-- Zeros up to a multiple of 4. -/
def pad4 (b : Bytes) : Bytes := b ++ List.replicate ((4 - b.length % 4) % 4) 0

/-- The items of a READ as (index, sub). -/
def readPairs (payload : Bytes) : Option (List (Nat × Nat)) :=
  let k := payload.length / 4
  if payload.length % 4 ≠ 0 ∨ k = 0 ∨ 32 < k then none
  else some ((List.range k).map fun i => (fieldB payload (4 * i) 2, fieldB payload (4 * i + 2) 1))

/-- Answer items in order within a limit that counts the heads still to come (R492). -/
def Node.readItems (now : Nat) (via : Via) (limit : Nat) : List (Nat × Nat) → Bytes → Node → Node × Bytes
  | [], out, n => (n, out)
  | (index, sub) :: rest, out, n =>
    let (st, ty, v) := n.readItem now via index sub
    let fits := decide (out.length + 4 + (pad4 v).length + 4 * rest.length ≤ limit)
    let st := if st = svOk ∧ !fits then svTooLong else st
    let body := if st = svOk then v else []
    Node.readItems now via limit rest (out ++ leBytes 1 st ++ leBytes 1 ty ++ leBytes 2 body.length ++ pad4 body) (n.countRefused st)

/-- A READ (R492). A payload that breaks the layout is answered with an empty one (log entry 106). -/
def State.serveRead (via : Via) (limit : Nat) (payload : Bytes) (s : State) : State × Option Bytes :=
  match readPairs payload with
  | none => (s.put (s.node.bump Reg.framesRefused), some [])
  | some items =>
    let (n, out) := s.node.readItems s.clock.tick via limit items []
    (s.put n, some out)

/-! ### Writes -/

/-- RING_KEY_INSTALL's code (R490), and the key where it is 0. `opRoot` is the operator-root digest in force. -/
def Node.ringKeyCode (n : Node) (v : Bytes) : Nat × Bytes :=
  let op := sliceB v 1620 2592
  let key := unwrapKey n.sec.kemPrivate (sliceB v 4 1568) (sliceB v 0 4) "UHLELLE RING WRAP" (sliceB v 1572 48)
  let id := fieldB v 0 2
  if v.length ≠ 8839 ∨ id = 0 ∨ fieldB v 2 2 ≠ 0 then (5, [])
  else if !opRootSet n.sec.opRoot || sha3_512 op != n.sec.opRoot then (1, [])
  else if !Config.verify op (nameBytes "UHLELLE RING KEY") (sliceB v 0 4212) (sliceB v 4212 4627) then (2, [])
  else match key with
    | none => (3, [])
    | some k => if id ≤ n.reg Reg.ringKeyId then (4, []) else (0, k)

/-- RING_KEY_INSTALL's effect (R490): the key becomes current, the one before it is kept. -/
def Node.ringKeyInstall (n : Node) (now : Nat) (v : Bytes) : Node :=
  let (code, key) := n.ringKeyCode v
  let n := n.setReg Reg.authResult code
  if code ≠ 0 then n
  else
    { n with mgmt := { n.mgmt with ringKey := some (fieldB v 0 2, key), prevKey := n.mgmt.ringKey, keyTick := now, ringNonce := 0 } }.setReg
      Reg.ringKeyId (fieldB v 0 2)

/-- F0_UNLOCK's effect (R504): the unlock, AUTH_RESULT, a fresh UNLOCK_NONCE. Codes as R490 has them: 5 malformed, 1 wrong signer, 2 bad signature. -/
def Node.f0Unlock (n : Node) (v : Bytes) : Node :=
  let op := sliceB v 0 2592
  let code :=
    if v.length ≠ 7219 then 5
    else if !opRootSet n.sec.opRoot || sha3_512 op != n.sec.opRoot then 1
    else if !Config.verify op (nameBytes "UHLELLE F0 UNLOCK") (leBytes 32 (n.reg Reg.unlockNonce)) (sliceB v 2592 4627) then 2
    else 0
  let (nonce, n) := n.draw 32
  let n := (n.setReg Reg.authResult code).setReg Reg.unlockNonce (leNat nonce)
  if code = 0 then { n with host := { n.host with unlocked := true } } else n

/-- F0_LOCK's effect (R504). -/
def Node.f0Lock (n : Node) (v : Nat) : Node := if v = 1 then { n with host := { n.host with unlocked := false } } else n

/-- Commands of chapters 1 to 12: the key of the entry written, its value. -/
def Node.commandA (n : Node) (now : Nat) (awl : Bool) (key : Nat) (v : Bytes) : Option Node :=
  if key = Reg.stateReq then some (n.stateReq now (leNat v) awl)
  else if key = Reg.tickPrimary then some (n.tickPrimaryWrite (leNat v))
  else if key = Reg.lastStaged then some (n.lastLoad v)
  else if key = Reg.commitCtrl then some (n.commitCtrl now (leNat v))
  else if key = Reg.ringKeyInstall then some (n.ringKeyInstall now v)
  else if key = Reg.f0Unlock then some (n.f0Unlock v)
  else if key = Reg.f0Lock then some (n.f0Lock (leNat v))
  else if key = Reg.rescan then some (n.rescan (leNat v))
  else if key = Reg.domainCmd then some (n.domainCmd now v)
  else if key = Reg.modelDef then some (n.modelDef v)
  else if key = Reg.modelRetire then some (n.modelRetire now (leNat v))
  else if key = Reg.progLoad then some (n.progLoad now v)
  else if key = Reg.progUnload then some (n.progUnload now (leNat v))
  else if key = Reg.quotaSet then some (n.quotaSet v)
  else if key = Reg.indexDef then some (n.indexDef v)
  else if key = Reg.indexCmd then some (n.indexCmd now v)
  else if key = Reg.centroidLoad then some (n.centroidLoad now v)
  else none

/-- Commands of chapters 13 to 18. -/
def Node.commandB (n : Node) (now key : Nat) (v : Bytes) : Option Node :=
  if key = Reg.histClear then some (n.histClear (leNat v))
  else if key = Reg.sliceBind then some (n.sliceBind now v)
  else if key = Reg.sliceRelease then some (n.releaseSlice now (leNat v))
  else if key = Reg.sessionSet then some (n.sessionSet now v)
  else if key = Reg.compStaged then some ({ n with comp := { n.comp with stagedMap := some (CompMap.parse v) } }).toStaged
  else if key = Reg.quarantineCmd then some (n.quarantineCmd now v)
  else if key = Reg.holdStop then some (n.holdStop now (leNat v))
  else if key = Reg.rejoin then some (n.rejoin (leNat v))
  else if key = Reg.keyInstall then some (n.keyInstall now v)
  else if key = Reg.keyRetire then some (n.keyRetire now v)
  else if key = Reg.attestReq then some (n.attestReq (fieldB v 0 4) (sliceB v 8 64) none)
  else if key = Reg.takeoverCmd then some (n.takeoverCmd v)
  else if key = Reg.testReq then some (n.testReq now v)
  else if 0x500000 ≤ key ∧ key < 0x5C0000 ∧ key = linkKey ((key - 0x500000) / 0x4000) Reg.retrain then
    some (n.retrain now ((key - 0x500000) / 0x4000) (leNat v))
  else none

/-- A write that has passed its checks takes effect (R493): a command, or a plain value. -/
def State.applyWrite (s : State) (via : Via) (index sub : Nat) (v : Bytes) : State :=
  let key := dkey index sub
  let now := s.clock.tick
  if key = Reg.fwStaged then s.fwStaged v
  else match s.node.commandA now via.throughAwl key v with
    | some n => s.put n
    | none => match s.node.commandB now key v with
      | some n => s.put n
      | none => match Dict.entry index sub with
        | some e => s.put (s.node.storeValue index sub e (leNat v))
        | none => s

/-- One item of a WRITE: its status, and `none` for it where the write resets the node (R549). -/
def State.writeItem (s : State) (via : Via) (index sub : Nat) (v : Bytes) : State × Option Nat :=
  let st := s.node.writeStatus via false index sub v
  if st ≠ svOk then (s.put (s.node.countRefused st), some st)
  else if dkey index sub = Reg.resetReq ∧ leNat v = 1 then (s.restart, none)
  else (s.applyWrite via index sub v, some st)

/-- The items of a WRITE: index, subindex, value (R492). -/
def writeTriples : Nat → Bytes → Option (List (Nat × Nat × Bytes))
  | 0, p => if p = [] then some [] else none
  | fuel + 1, p =>
    if p = [] then some []
    else
      let len := fieldB p 4 2
      let next := 8 + (len + 3) / 4 * 4
      if p.length < 8 ∨ p.length < next then none
      else (writeTriples fuel (p.drop next)).map fun l => (fieldB p 0 2, fieldB p 2 1, sliceB p 8 len) :: l

/-- Apply items in order; a failed one stops none behind it (R493), a reset drops them. -/
def State.writeItems (via : Via) : List (Nat × Nat × Bytes) → Bytes → State → State × Option Bytes
  | [], out, s => (s, some (pad4 out))
  | (index, sub, v) :: rest, out, s =>
    match s.writeItem via index sub v with
    | (t, none) => (t, none)
    | (t, some st) => State.writeItems via rest (out ++ [BitVec.ofNat 8 st]) t

/-- A WRITE (R492). -/
def State.serveWrite (via : Via) (payload : Bytes) (s : State) : State × Option Bytes :=
  match writeTriples 32 payload with
  | some (i :: items) => s.writeItems via (i :: items) []
  | _ => (s.put (s.node.bump Reg.framesRefused), some [])

/-- OBJECT_WRITE (R493). -/
def execObjectWrite (via : Via) (index : BitVec 16) (sub : BitVec 8) (value : Bytes) (s : State) : Host.Outcome State Fault Refusal :=
  .next (s.serve via 0x11 fun s =>
    match s.writeItem via index.toNat sub.toNat value with
    | (t, some st) => (t, some [BitVec.ofNat 8 st, 0, 0, 0])
    | (t, none) => (t, none))

/-- RING_KEY_INSTALL (R490). -/
def execRingKeyInstall (via : Via) (value : Bytes) (s : State) : Host.Outcome State Fault Refusal :=
  s.command via 0x1204 1 value fun n => n.ringKeyInstall s.clock.tick value

/-- F0_UNLOCK (R504). -/
def execF0Unlock (via : Via) (value : Bytes) (s : State) : Host.Outcome State Fault Refusal :=
  s.command via 0x1204 2 value fun n => n.f0Unlock value

/-- F0_LOCK (R504). -/
def execF0Lock (via : Via) (v : BitVec 8) (s : State) : Host.Outcome State Fault Refusal :=
  s.command via 0x1204 3 [v] fun n => n.f0Lock v.toNat

/-! ### Tenant plaintext read by the operator -/

/-- Tenants whose plaintext an access reads or writes are flagged, each with the tick of the first setting; the access counts once (R434). -/
def Node.inspect (n : Node) (now : Nat) (tenants : List Nat) : Node :=
  if tenants = [] then n
  else
    let m := tenants.foldl (fun m t => if (Map.find m t).isSome then m else Map.put m t (now % 2 ^ 32)) n.sec.inspected
    { n with sec := { n.sec with inspected := m } }.bump Reg.operatorReads

/-- Tenants of the prefix nodes whose token IDs a run of records shows (R135). -/
def Node.tokenTenants (n : Node) (first count : Nat) : List Nat :=
  (n.share.nodes.filter fun e => decide (first ≤ e.1) && decide (e.1 < first + count)).map fun e =>
    (Map.get {} n.share.domains e.2.domain : Domain).tenant

/-! ### Block transfers (R495) -/

/-- The window base of a source (R513). -/
def Node.windowBase (n : Node) (src : Source) : Nat :=
  match src with
  | .ringA _ => n.reg Reg.windowA
  | .ringB _ => n.reg Reg.windowB
  | _ => n.reg Reg.windowF0

/-- The value an entry shows to block reads, and where it starts: a DOMAIN from the window base, another entry whole. -/
def State.blockView (s : State) (via : Via) (index sub : Nat) : Option (Domain.View × Nat) :=
  match viewedEntry index sub with
  | none => if sub = 0 then some (viewBytes (leBytes 1 (highestSub index)), 0) else none
  | some (e, staged) =>
    if e.ty = .domain then some (s.node.domainView s.pkg s.clock.tick via.throughAwl index sub, s.node.windowBase via.src)
    else some (viewBytes (s.node.valueBytes s.clock.tick index e staged), 0)

/-- A BLOCK_READ's status, TOTAL and data (R495, R513). -/
def State.blockRead (s : State) (via : Via) (index sub off len : Nat) : Nat × Nat × Bytes :=
  if !s.node.authentic via && !openRead index sub then (svNotAuthenticated, 0, [])
  else if !s.node.hasIndex index then (svNoObject, 0, [])
  else match s.blockView via index sub with
    | none => (svNoSub, 0, [])
    | some (v, base) =>
      let total := Nat.min (v.length - base) 0xFFFFFFFF
      if (base + off) % v.size ≠ 0 then (svRange, total, []) else (svOk, total, v.read (base + off) len)

/-- A BLOCK_READ (R495): LENGTH from 1 to `most`. Reading token IDs through the awl sets the owner's flag (R135). -/
def State.serveBlockRead (via : Via) (most : Nat) (payload : Bytes) (s : State) : State × Option Bytes :=
  let index := fieldB payload 0 2
  let sub := fieldB payload 2 1
  let off := fieldB payload 4 4
  let len := fieldB payload 8 2
  -- R503: on function 0 a segment carries up to 65,536 bytes; a LENGTH of 0 there stands for that number (log entry 106)
  let len := if len = 0 ∧ most = 65536 then 65536 else len
  if payload.length ≠ 12 ∨ len = 0 ∨ most < len then (s.put (s.node.bump Reg.framesRefused), some [])
  else
    let (st, total, data) := s.blockRead via index sub off len
    let n := s.node.countRefused st
    let n := if dkey index sub = Reg.prefixNodes ∧ via.throughAwl then
        n.inspect s.clock.tick (n.tokenTenants ((n.windowBase via.src + off) / 160) (data.length / 160))
      else n
    (s.put n, some (leBytes 1 st ++ leBytes 3 0 ++ leBytes 4 total ++ data))

/-- The block write of an entry that is open or discarded, of a source. -/
def Node.openBlock (n : Node) (source key : Nat) : Option BlockWrite := n.mgmt.blocks.find? fun b => b.source == source && b.key == key

/-- Put a block write in place of the source's own. -/
def Node.putBlock (n : Node) (b : BlockWrite) : Node :=
  { n with mgmt := { n.mgmt with blocks := (n.mgmt.blocks.filter fun x => !(x.source == b.source && x.key == b.key)) ++ [b] } }

/-- End a source's block write of an entry. -/
def Node.dropBlock (n : Node) (source key : Nat) : Node :=
  { n with mgmt := { n.mgmt with blocks := n.mgmt.blocks.filter fun x => !(x.source == source && x.key == key) } }

/-- Checks of an entry that hold for every segment of a block write. -/
def Node.blockGate (n : Node) (via : Via) (index sub : Nat) : Nat :=
  match Dict.entry index sub with
  | some e =>
    if e.ty = .domain ∨ 1424 < e.ty.bytes then n.writeStatus via true index sub (List.replicate e.ty.bytes 0)
    else if n.authentic via then svLength else svNotAuthenticated
  | none => n.writeStatus via true index sub []

/-- What a segment does to the block writes: its status, and the whole value where it closes one. -/
def Node.segment (n : Node) (now source key off : Nat) (final : Bool) (data : Bytes) : Nat × Option Bytes × Node :=
  let own := n.openBlock source key
  let other := n.mgmt.blocks.any fun x => x.key == key && x.source != source && !x.discarded
  let close := fun (whole : Bytes) (n : Node) =>
    if final then (svOk, some whole, n.dropBlock source key)
    else (svOk, none, n.putBlock { source := source, key := key, data := whole, lastTick := now })
  match own with
  | some b =>
    if off = 0 then (if other then (svBusy, none, n) else close data n)
    else if b.discarded then (svTimeout, none, n)
    else if off ≠ b.data.length then (svSequence, none, n)
    else if 67108864 < off + data.length then (svTooLong, none, n)
    else close (b.data ++ data) n
  | none => if other then (svBusy, none, n) else if off = 0 then close data n else (svSequence, none, n)

/-- A BLOCK_WRITE segment (R495). -/
def State.serveBlockWrite (via : Via) (most : Nat) (final : Bool) (payload : Bytes) (s : State) : State × Option Bytes :=
  let index := fieldB payload 0 2
  let sub := fieldB payload 2 1
  let off := fieldB payload 4 4
  let data := payload.drop 12
  if payload.length < 13 ∨ most < data.length ∨ data.length % 65536 ≠ fieldB payload 8 2 then (s.put (s.node.bump Reg.framesRefused), some [])
  else
    let gate := s.node.blockGate via index sub
    if gate ≠ svOk then (s.put (s.node.countRefused gate), some [BitVec.ofNat 8 gate, 0, 0, 0])
    else
      let (st, whole, n) := s.node.segment s.clock.tick via.src.number (dkey index sub) off final data
      match whole with
      | none => (s.put n, some [BitVec.ofNat 8 st, 0, 0, 0])
      | some v =>
        let st := n.writeStatus via true index sub v
        let t := s.put n
        (if st = svOk then t.applyWrite via index sub v else t, some [BitVec.ofNat 8 st, 0, 0, 0])

/-- BLOCK_TIMEOUT (R495): open block writes with no segment for BLOCK_TIMEOUT ticks are discarded. -/
def execBlockTimeout (s : State) : Host.Outcome State Fault Refusal :=
  let n := s.node
  let bs := n.mgmt.blocks.map fun b =>
    if !b.discarded && decide (b.lastTick + n.reg Reg.blockTimeout ≤ s.clock.tick) then { b with discarded := true, data := [] } else b
  s.on { n with mgmt := { n.mgmt with blocks := bs } }

/-! ### DESCRIBE and COMMIT -/

/-- The descriptor of an entry (Table 19-7). -/
def State.descriptor (s : State) (index : Nat) (e : Entry) : Bytes :=
  let len := if e.ty = .domain then (s.node.domainView s.pkg s.clock.tick false index e.sub).length else e.ty.bytes
  leBytes 2 index ++ leBytes 1 e.sub ++ leBytes 1 e.ty.code ++ leBytes 1 e.access.code ++ leBytes 1 e.eff.code ++
  leBytes 1 (if e.access = .rws then e.sub + 0x80 else 0) ++ leBytes 1 0 ++ leBytes 4 (Nat.min len 0xFFFFFFFF) ++
  leBytes 8 (if e.ty = .domain then 0 else e.dflt) ++ padTo 32 (nameBytes e.name) ++ leBytes 12 0

/-- A DESCRIBE (R498): subindex 0 is a U8 CONST without a name. -/
def State.serveDescribe (payload : Bytes) (s : State) : State × Option Bytes :=
  let index := fieldB payload 0 2
  let sub := fieldB payload 2 1
  let head := fun (st : Nat) => leBytes 1 st ++ leBytes 3 0
  if payload.length ≠ 4 then (s.put (s.node.bump Reg.framesRefused), some [])
  else if !s.node.hasIndex index then (s, some (head svNoObject ++ leBytes 64 0))
  else if sub = 0 then
    (s, some (head svOk ++ s.descriptor index { sub := 0, name := "", ty := .u 1, access := .const, dflt := highestSub index, eff := .reset, lo := 0, hi := 255 }))
  else match Dict.entry index sub with
    | none => (s, some (head svNoSub ++ leBytes 64 0))
    | some e => (s, some (head svOk ++ s.descriptor index e))

/-- What a COMMIT applies (R496). -/
def Node.commitFrame (n : Node) (now op gen tick : Nat) : Node :=
  let n := if op = 1 then (n.setReg Reg.commitTick tick).setReg Reg.genTarget gen else n
  n.commitCtrl now op

/-- A COMMIT (R496): ignored, without a response, where the current map names another group. -/
def State.serveCommit (via : Via) (payload : Bytes) (s : State) : State × Option Bytes :=
  let op := fieldB payload 0 1
  let group := fieldB payload 2 2
  let n := s.node
  let answer := fun (st : Nat) (n : Node) => some (leBytes 1 st ++ leBytes 1 (n.reg Reg.commitState) ++ leBytes 2 0 ++ leBytes 4 (n.reg Reg.armResult))
  if payload.length ≠ 16 ∨ op = 0 ∨ 3 < op then (s.put (n.bump Reg.framesRefused), some [])
  else if group != 0xFFFF && (match n.comp.current with | some m => m.group != group | none => false) then (s, none)
  else
    let st := n.writeStatus via false 0x1120 2 (leBytes 1 op)
    if st ≠ svOk then
      let m := n.countRefused st
      (s.put m, answer st m)
    else
      let m := n.commitFrame s.clock.tick op (fieldB payload 4 4) (fieldB payload 8 8)
      (s.put m, answer svOk m)

end Sys2Proof.Machine
end

