-- ==== Sys2Proof/Machine/Isa.lean ====
section
/-!
DEFINITION. Instructions of a thread that touch its registers only (R199 to R202): CONTROL, SCALAR, VECTOR and MATRIX. The command names the thread
that the cell's arbiter lets issue (R189); a thread that cannot issue does nothing.
-/

namespace Sys2Proof.Machine

/-- An instruction that changes its thread's registers and moves on. -/
def State.issue (s : State) (t : ThreadId) (f : Thread → Thread) : Host.Outcome State Fault Refusal :=
  s.on (if s.node.issues t.key then s.node.retire t.key f else s.node)

/-! ### CONTROL -/

/-- An instruction that sets the pc itself. -/
def State.jump (s : State) (t : ThreadId) (f : Thread → Thread) : Host.Outcome State Fault Refusal :=
  s.on (if s.node.issues t.key then s.node.setThread t.key (f (s.node.thread t.key)) else s.node)

/-- The target of a branch: a function of pc and IMM that the manual does not give (log entry 115). -/
def branchTarget (pc imm : Nat) : Nat := Config.open 115 (pc * 2 ^ 32 + imm) % 2 ^ 32

/-- BR (R200). -/
def execBr (t : ThreadId) (f : Fields) (s : State) : Host.Outcome State Fault Refusal :=
  s.jump t fun th => { th with pc := branchTarget th.pc f.imm.toNat }

/-- Whether xRA compares true with xRB under MOD; the comparison of each MOD is free (log entry 115). -/
def branchTaken (m a b : Nat) : Bool := Config.open 116 (m * 2 ^ 128 + a * 2 ^ 64 + b) % 2 == 1

/-- BRC (R200). -/
def execBrc (t : ThreadId) (f : Fields) (s : State) : Host.Outcome State Fault Refusal :=
  s.jump t fun th =>
    if branchTaken f.mod.val (th.getX f.ra.val) (th.getX f.rb.val) then { th with pc := branchTarget th.pc f.imm.toNat } else th.next

/-- LOOP (R200): the manual names it and gives no effect on its register or the pc, which take free values (log entry 115). -/
def execLoop (t : ThreadId) (f : Fields) (s : State) : Host.Outcome State Fault Refusal :=
  s.jump t fun th =>
    let k := (th.getX f.rd.val * 2 ^ 32 + f.imm.toNat) * 2 ^ 32 + th.pc
    { th.setX f.rd.val (Config.open 117 k) with pc := Config.open 118 k % 2 ^ 32 }

/-- END on a node (R186, R197, R202): the thread's state is cleared; its fences finish before ITEM_COMPLETION. A row and head left unwritten is a program fault
of a tenant item. -/
def Node.threadEnd (n : Node) (now key : Nat) : Node :=
  let t := n.thread key
  match t.program, n.itemOf t with
  | some _, some (q, it) =>
    if (it.rowHeads q.req).all fun e => t.written.contains e then
      n.setThread key { t with ended := true, pc := 0, x := [], v := [], acc := [], facets := [], facetHold := [] }
    else n.programFault now key
  | _, _ => n.setThread key { t with ended := true, pc := 0, x := [], v := [], acc := [], facets := [], facetHold := [] }

/-- END. -/
def execEndItem (t : ThreadId) (_f : Fields) (s : State) : Host.Outcome State Fault Refusal :=
  if s.node.issues t.key then
    .next { s with node := s.node.threadEnd s.clock.tick t.key, mem := clearMem s.mem (windowBase t.region.val t.cell.val t.thread.val) 8192 }
  else s.on s.node

/-! ### SCALAR -/

/-- A scalar instruction: xRD := f xRA xRB. -/
def State.scalar (s : State) (t : ThreadId) (f : Fields) (op : Nat → Nat → Nat) : Host.Outcome State Fault Refusal :=
  s.issue t fun th => th.setX f.rd.val (op (th.getX f.ra.val) (th.getX f.rb.val))

/-- ADD, modulo 2^64. -/
def execAdd (t : ThreadId) (f : Fields) (s : State) : Host.Outcome State Fault Refusal := s.scalar t f fun a b => a + b
/-- SUB, modulo 2^64. -/
def execSub (t : ThreadId) (f : Fields) (s : State) : Host.Outcome State Fault Refusal := s.scalar t f fun a b => a + 2 ^ 64 - b
/-- MUL, modulo 2^64. -/
def execMul (t : ThreadId) (f : Fields) (s : State) : Host.Outcome State Fault Refusal := s.scalar t f fun a b => a * b
/-- AND. -/
def execAnd (t : ThreadId) (f : Fields) (s : State) : Host.Outcome State Fault Refusal := s.scalar t f fun a b => a &&& b
/-- OR. -/
def execOr (t : ThreadId) (f : Fields) (s : State) : Host.Outcome State Fault Refusal := s.scalar t f fun a b => a ||| b
/-- XOR. -/
def execXor (t : ThreadId) (f : Fields) (s : State) : Host.Outcome State Fault Refusal := s.scalar t f fun a b => a ^^^ b

/-- A shift left; by 64 or more the result is free (log entry 116). -/
def shiftLeft (a b : Nat) : Nat := if b < 64 then a * 2 ^ b else Config.open 119 (a * 2 ^ 64 + b)

/-- SHL. -/
def execShl (t : ThreadId) (f : Fields) (s : State) : Host.Outcome State Fault Refusal := s.scalar t f shiftLeft

/-- A shift right: of a number whose top bit is set perhaps arithmetic, by 64 or more free (log entry 116). -/
def shiftRight (m a b : Nat) : Nat :=
  if 64 ≤ b then Config.open 120 (a * 2 ^ 64 + b)
  else if a < 2 ^ 63 ∨ Config.open 121 m % 2 = 0 then a / 2 ^ b
  else a / 2 ^ b + (2 ^ 64 - 2 ^ (64 - b))

/-- SHR. -/
def execShr (t : ThreadId) (f : Fields) (s : State) : Host.Outcome State Fault Refusal := s.scalar t f (shiftRight f.mod.val)

/-- Order of two scalars: where their top bits differ it depends on whether they are signed, which is free (log entry 116). -/
def scalarLt (m a b : Nat) : Bool :=
  if a / 2 ^ 63 = b / 2 ^ 63 ∨ Config.open 122 m % 2 = 0 then decide (a < b) else decide (b < a)

/-- MIN. -/
def execMin (t : ThreadId) (f : Fields) (s : State) : Host.Outcome State Fault Refusal :=
  s.scalar t f fun a b => if scalarLt f.mod.val b a then b else a
/-- MAX. -/
def execMax (t : ThreadId) (f : Fields) (s : State) : Host.Outcome State Fault Refusal :=
  s.scalar t f fun a b => if scalarLt f.mod.val a b then b else a

/-- IMM in 64 bits: zero-extended, or where its top bit is set perhaps sign-extended (log entry 116). -/
def immValue (m : Nat) (imm : BitVec 32) : Nat :=
  if imm.toNat < 2 ^ 31 ∨ Config.open 123 m % 2 = 0 then imm.toNat else imm.toNat + (2 ^ 64 - 2 ^ 32)

/-- LI. -/
def execLi (t : ThreadId) (f : Fields) (s : State) : Host.Outcome State Fault Refusal :=
  s.issue t fun th => th.setX f.rd.val (immValue f.mod.val f.imm)

/-! ### VECTOR -/

/-- A vector instruction: vRD := f of the thread's registers, 64 lanes. -/
def State.vector (s : State) (t : ThreadId) (f : Fields) (op : Thread → List Nat) : Host.Outcome State Fault Refusal :=
  s.issue t fun th => th.setV f.rd.val (op th)

/-- VADD. -/
def execVadd (t : ThreadId) (f : Fields) (s : State) : Host.Outcome State Fault Refusal :=
  s.vector t f fun th => List.zipWith f32Add (th.getV f.ra.val) (th.getV f.rb.val)
/-- VMUL. -/
def execVmul (t : ThreadId) (f : Fields) (s : State) : Host.Outcome State Fault Refusal :=
  s.vector t f fun th => List.zipWith f32Mul (th.getV f.ra.val) (th.getV f.rb.val)
/-- VFMA: vRD := vRA × vRB + vRD, rounded once (DEDUCED: a word has no third source, log entry 117). -/
def execVfma (t : ThreadId) (f : Fields) (s : State) : Host.Outcome State Fault Refusal :=
  s.vector t f fun th => List.zipWith (fun (p : Nat × Nat) c => f32Fma p.1 p.2 c) ((th.getV f.ra.val).zip (th.getV f.rb.val)) (th.getV f.rd.val)
/-- VMAX. -/
def execVmax (t : ThreadId) (f : Fields) (s : State) : Host.Outcome State Fault Refusal :=
  s.vector t f fun th => List.zipWith f32Max (th.getV f.ra.val) (th.getV f.rb.val)

/-- The lane that VSEL selects: that of vRA or vRB, by a condition on the lane's operands that the manual does not give (log entry 117). -/
def selectLane (m a b d : Nat) : Nat := if Config.open 124 (((m * 2 ^ 32 + a) * 2 ^ 32 + b) * 2 ^ 32 + d) % 2 = 0 then a else b

/-- VSEL. -/
def execVsel (t : ThreadId) (f : Fields) (s : State) : Host.Outcome State Fault Refusal :=
  s.vector t f fun th => List.zipWith (fun (p : Nat × Nat) d => selectLane f.mod.val p.1 p.2 d) ((th.getV f.ra.val).zip (th.getV f.rb.val)) (th.getV f.rd.val)

/-- VBCAST: every lane is the same value, the low half of xRA or the lane of vRA that IMM names: which is free (log entry 117). -/
def execVbcast (t : ThreadId) (f : Fields) (s : State) : Host.Outcome State Fault Refusal :=
  s.vector t f fun th =>
    List.replicate 64 (if Config.open 125 f.mod.val % 2 = 0 then th.getX f.ra.val % 2 ^ 32 else (th.getV f.ra.val).getD (f.imm.toNat % 64) 0)

/-- A product of an accumulation is NaN (a NaN, or infinity times zero). -/
def prodNan (p : FVal × FVal) : Bool :=
  match p.1, p.2 with
  | .nan, _ => true
  | _, .nan => true
  | .inf _, .fin _ m _ => m == 0
  | .fin _ m _, .inf _ => m == 0
  | _, _ => false

/-- The sign of an infinite product. -/
def prodInf (p : FVal × FVal) : Option Bool :=
  match p.1, p.2 with
  | .inf x, .inf y => some (x != y)
  | .inf x, .fin y _ _ => some (x != y)
  | .fin x _ _, .inf y => some (x != y)
  | _, _ => none

/-- An FP32 accumulation of exact products onto a first value, in an open order, with NaN and infinite operands (R201). -/
def accumulate (first : Nat) (a b : List FVal) : Nat :=
  let ps := a.zip b
  let f := f32Val first
  let signs := (match f with | .inf x => [x] | _ => []) ++ ps.filterMap prodInf
  if f == .nan || ps.any prodNan || (signs.contains true && signs.contains false) then f32Nan first (ps.length)
  else match signs with
    | x :: _ => if x then f32NegInf else f32PosInf
    | [] => fp32Dot first a b

/-- What a reduction leaves in the lanes of vRD: the result in lane 0, the others free (log entry 117). -/
def reduced (x : Nat) : List Nat := x :: (List.range 63).map fun i => Config.open 126 (x * 64 + i) % 2 ^ 32

/-- VREDMAX. -/
def execVredmax (t : ThreadId) (f : Fields) (s : State) : Host.Outcome State Fault Refusal :=
  s.vector t f fun th => reduced ((th.getV f.ra.val).foldl f32Max f32NegInf)
/-- VREDSUM, in an open order. -/
def execVredsum (t : ThreadId) (f : Fields) (s : State) : Host.Outcome State Fault Refusal :=
  s.vector t f fun th => reduced (accumulate 0 ((th.getV f.ra.val).map f32Val) (List.replicate 64 (.fin false 1 0)))
/-- VEXP2, within the bound of R174. -/
def execVexp2 (t : ThreadId) (f : Fields) (s : State) : Host.Outcome State Fault Refusal :=
  s.vector t f fun th => (th.getV f.ra.val).map f32Exp2
/-- VTANH, within the bound of R170. -/
def execVtanh (t : ThreadId) (f : Fields) (s : State) : Host.Outcome State Fault Refusal :=
  s.vector t f fun th => (th.getV f.ra.val).map fun x => Config.tanh x % 2 ^ 32

/-- A lane converted to FMT: to BF16 rounded to nearest even, kept as an FP32 lane; to FP32 as it is; the other formats free (log entry 117). -/
def convertLane (fmt x : Nat) : Nat := if fmt = 1 then f32ToBf16 x else if fmt = 0 then x else Config.open 127 (x * 8 + fmt) % 2 ^ 32

/-- VCVT (R201). -/
def execVcvt (t : ThreadId) (f : Fields) (s : State) : Host.Outcome State Fault Refusal :=
  s.vector t f fun th => (th.getV f.ra.val).map (convertLane f.fmt.val)

/-! ### MATRIX -/

/-- Bits of an element in a tile row: E3M2 is widened to a byte (R201). -/
def tileBits (fmt : Nat) : Nat := if fmt = 1 then 16 else if fmt = 4 then 4 else 8

/-- Row `i` of a tile: K elements in 64 bytes, with the row's scales (R201). -/
def Tile.row (x : Tile) (fmt i : Nat) : List FVal :=
  let d := fieldB x.data (64 * i) 64
  let k := tileK fmt
  (List.range k).map fun j =>
    let v := elemVal fmt (bitsOf d (j * tileBits fmt) (tileBits fmt))
    if fmt ≤ 1 then v else scaled (x.scales.getD (i * (k / 32) + j / 32) 0).toNat v

/-- ACC after an MMA (R201); the formats for which R201 gives no K leave it free (log entry 118). -/
def mmaAcc (fmt : Nat) (t : Thread) (a b : Tile) : Map Nat :=
  let at_ := fun (i : Nat) => (i / 32, i % 32)
  let cells := (List.range 1024).map fun i =>
    let (r, c) := at_ i
    (i, if 1 ≤ fmt ∧ fmt ≤ 4 then accumulate (t.getAcc r c) (a.row fmt r) (b.row fmt c) else Config.open 128 (t.getAcc r c * 1024 + i) % 2 ^ 32)
  cells.filter fun e => e.2 != 0

/-- MMA: ACC += tRA · tRBᵀ (R200, R201). -/
def execMma (t : ThreadId) (f : Fields) (s : State) : Host.Outcome State Fault Refusal :=
  let a := s.node.tile t.key f.ra.val
  let b := s.node.tile t.key f.rb.val
  s.issue t fun th => { th with acc := mmaAcc f.fmt.val th a b }

/-- ACC.CLR (R200). -/
def execAccClr (t : ThreadId) (_f : Fields) (s : State) : Host.Outcome State Fault Refusal := s.issue t fun th => { th with acc := [] }

/-- ACC.RD: two ACC rows in vRD (R200); which operand names the pair is free (log entry 118). -/
def execAccRd (t : ThreadId) (f : Fields) (s : State) : Host.Outcome State Fault Refusal :=
  s.vector t f fun th =>
    let p := Config.open 129 ((th.getX f.ra.val * 32 + f.ra.val) * 2 ^ 32 + f.imm.toNat) % 16
    (List.range 64).map fun l => th.getAcc (2 * p + l / 32) (l % 32)

end Sys2Proof.Machine
end

