-- ==== Sys2Proof/Machine/Ring.lean ====
section
/-!
DEFINITION. The two management rings and function 0 as paths to the dictionary (R483 to R499, R503, R523, R525): Voxley frames in and out, beacons,
the awl's reads and writes of memory, the mirror, the space-4 window.
-/

namespace Sys2Proof.Machine

/-! ### The awl (R433, R434, R499) -/

/-- The slices in a state whose on-die memory holds an offset of space 3. -/
def Node.slicesOver (n : Node) (off : Nat) (f : SliceState → Bool) : List Nat :=
  (n.comp.slices.filter fun e => f e.2.state &&
    (if areaOf off = 2 then n.sliceCells e.1 (regionOf off) else bitOf e.2.blocks (blockOf off))).map (·.1)

/-- A slice whose memory reads zeros (R441). -/
def SliceState.goes (st : SliceState) : Bool := st == .releasing || st == .scrubbing

/-- An access of the awl: its status, the data of a read, and the tenants whose plaintext it touches (R434). -/
structure AwlRead where
  status : Nat
  data : Bytes := []
  tenants : List Nat := []

/-- The tenant of a slice. -/
def Node.tenantOf (n : Node) (s : Nat) : Nat := (n.slice s).tenant

/-- A read of space 0 (R282, R283): up to the first poisoned line. -/
def Node.awlSpace0 (n : Node) (off len : Nat) : AwlRead :=
  let pages := (List.range ((off + len - 1) / 16384 + 1 - off / 16384)).map (off / 16384 + ·)
  let held := pages.filter fun p => (n.page p).state != .free
  if 2 ^ 45 ≤ off ∨ n.reg Reg.pageDescMax ≤ (off + len - 1) / 16384 then { status := svRange }
  else
    let gone := pages.any fun p => (n.slice (n.page p).slice).state.goes && (n.page p).state != .free
    { status := svOk, data := if gone then List.replicate len 0 else if n.power.stacksOff then leBytes len (measured off 3 len) else (n.readRun 3 off len).1,
      tenants := (held.map fun p => n.tenantOf (n.page p).slice).eraseDups }

/-- Lines of the rows that hold the node's own tables (R101, R257), whose contents in the stacks the manual does not lay out. -/
def systemLine (k : Nat) : Bool := decide (3932160 ≤ k % 2 ^ 30 / 256)

/-- A line as space 1 shows it: 64 data bytes and the side band of Table 10-4; the check symbols' values are free, and so is all
of it while the stacks are off (R543, log entry 108). -/
def Node.awlLine (n : Node) (k : Nat) : Bytes :=
  let l := n.line k
  if (n.slice (tagSlice l.tag.toNat)).state.goes && tagKind l.tag.toNat != 0 then leBytes 80 0
  else if n.power.stacksOff then leBytes 80 (measured k 3 80)
  else if systemLine k then leBytes 64 (measured k 1 64) ++ leBytes 16 (kindSystem * 2 ^ 27)
  else leBytes 64 l.data.toNat ++ leBytes 4 l.tag.toNat ++ leBytes 2 l.share.toNat ++ leBytes 10 (measured (leNat (leBytes 64 l.data.toNat)) 2 10)

/-- Tenants of the lines from one on whose KIND is PAGE, WEIGHT or GRADIENT. -/
def Node.lineTenants (n : Node) (k count : Nat) : List Nat :=
  (((List.range count).map fun i => (n.line (k + i)).tag.toNat).filter fun t => decide (1 ≤ tagKind t) && decide (tagKind t ≤ 3)).map
    fun t => n.tenantOf (tagSlice t)

/-- A read of space 1 (R499): an offset is the line's number, stack × 2^30 + line address, × 64 (log entry 108). -/
def Node.awlSpace1 (n : Node) (off len : Nat) : AwlRead :=
  if off % 64 ≠ 0 ∨ len % 64 ≠ 0 ∨ 2 ^ 40 < off + len then { status := svRange }
  else { status := svOk, data := (List.range (len / 64)).flatMap fun i => n.awlLine (off / 64 + i), tenants := (n.lineTenants (off / 64) (len / 64)).eraseDups }

/-- A read of space 2: stored ciphertext and MACs, free values (R433, log entry 108). -/
def Node.awlSpace2 (n : Node) (now off len : Nat) : AwlRead :=
  if n.reg Reg.slowSlotCount * 16896 < off + len then { status := svRange } else { status := svOk, data := leBytes len (measured (off * 2 ^ 12 + len) now len) }

/-- A read of space 3. -/
def State.awlSpace3 (s : State) (off len : Nat) : AwlRead :=
  let n := s.node
  if !runOk off len then { status := svRange }
  else
    { status := svOk, data := if n.slicesOver off SliceState.goes = [] then Memory.read s.mem off len else List.replicate len 0,
      tenants := ((n.slicesOver off fun st => st != .free).map n.tenantOf).eraseDups }

/-- A read by the awl. -/
def State.awlRead (s : State) (space off len : Nat) : AwlRead :=
  match space with
  | 0 => s.node.awlSpace0 off len
  | 1 => s.node.awlSpace1 off len
  | 2 => s.node.awlSpace2 s.clock.tick off len
  | 3 => s.awlSpace3 off len
  | _ => { status := svRange }

/-- Write 64-byte lines with their side bands as they are (log entry 108). -/
def Node.awlLines (n : Node) (k : Nat) (data : Bytes) : Node :=
  n.foldl (List.range (data.length / 64)) fun n i =>
    if systemLine (k + i) then n else n.setLine (k + i) { n.line (k + i) with data := BitVec.ofNat 512 (fieldB data (64 * i) 64) }

/-- A write by the awl: its status and the state. A write to space 2 changes ciphertext, which the model does not hold (log entry 108). -/
def State.awlWrite (s : State) (space off : Nat) (data : Bytes) : Nat × State :=
  let r := s.awlRead space off data.length
  if r.status ≠ svOk then (r.status, s)
  else match space with
    | 0 => (svAccess, s)
    | 1 => (svOk, s.put (s.node.awlLines (off / 64) data))
    | 2 => (svOk, s)
    | _ => (svOk, if s.node.slicesOver off SliceState.goes = [] then { s with mem := Memory.write s.mem off data } else s)

/-- An AWL frame (R499): the response is STATUS, 3 Reserved bytes and the data of a read (log entry 108). -/
def State.serveAwl (via : Via) (payload : Bytes) (s : State) : State × Option Bytes :=
  let op := fieldB payload 0 1
  let len := fieldB payload 4 4
  let addr := fieldB payload 8 8
  let space := addr / 2 ^ 51 % 8
  let off := addr % 2 ^ 51
  let head := fun (st : Nat) => leBytes 1 st ++ leBytes 3 0
  if !s.node.authentic via then (s.put (s.node.countRefused svNotAuthenticated), some (head svNotAuthenticated))
  else if payload.length < 16 ∨ (op ≠ 1 ∧ op ≠ 2) ∨ (op = 2 ∧ payload.length ≠ 16 + len) then (s.put (s.node.bump Reg.framesRefused), some [])
  else if len = 0 ∨ 1024 < len ∨ addr / 2 ^ 54 ≠ s.node.straps then (s, some (head svRange))
  else
    let r := s.awlRead space off len
    let flag := fun (s : State) => s.put (s.node.inspect s.clock.tick r.tenants)
    let s := s.put { s.node with sec := { s.node.sec with awlUsed := true } }
    if op = 1 then (if r.status = svOk then flag s else s, some (head r.status ++ r.data))
    else
      let (st, t) := s.awlWrite space off (payload.drop 16)
      (if st = svOk then flag t else t, some (head st))

/-! ### The services (Table 19-3) -/

/-- A command of the dictionary, by its VTYPE: `limit` bounds a READ's response, `most` a block segment (R492, R495, R503). -/
def State.service (via : Via) (vtype flags limit most : Nat) (payload : Bytes) (s : State) : State × Option Bytes :=
  if vtype = 0x10 then s.serveRead via limit payload
  else if vtype = 0x11 then s.serveWrite via payload
  else if vtype = 0x12 then s.serveBlockRead via most payload
  else if vtype = 0x13 then s.serveBlockWrite via most (bitOf flags 2) payload
  else if vtype = 0x14 then s.serveDescribe payload
  else if vtype = 0x18 then s.serveCommit via payload
  else if vtype = 0x40 then s.serveAwl via payload
  else (s.put (s.node.bump Reg.framesRefused), some [])

/-! ### Voxley frames (Table 19-2) -/

/-- A received Voxley frame (R488). -/
structure Voxley where
  vtype : Nat
  flags : Nat
  hops : Nat
  src : Nat
  dst : Nat
  seq : Nat
  keyId : Nat
  ctr : Nat
  head : Bytes
  payload : Bytes
  tag : Bytes

/-- The frame check sequence holds, and the frame has a length that a Voxley frame can have. -/
def voxleySound (f : Bytes) : Bool :=
  decide (66 ≤ f.length) && decide (f.length ≤ 1506) && fcs (f.take (f.length - 4)) == leNat (f.drop (f.length - 4))

/-- The frame's fields; `none` where it is no Voxley frame of the version accepted. -/
def voxleyOf (f : Bytes) : Option Voxley :=
  let len := fieldB f 28 2
  let auth := bitOf (fieldB f 16 1) 0
  if fieldB f 12 2 ≠ 0xB588 ∨ fieldB f 14 1 ≠ 1 ∨ 1440 < len ∨ f.length < 50 + len + (if auth then 16 else 0) then none
  else some { vtype := fieldB f 15 1, flags := fieldB f 16 1, hops := fieldB f 17 1, src := fieldB f 18 2, dst := fieldB f 20 2, seq := fieldB f 22 4,
              keyId := fieldB f 26 2, ctr := fieldB f 30 8, head := sliceB f 14 32, payload := sliceB f 46 len, tag := sliceB f (46 + len) 16 }

/-- The frame as it is forwarded: HOPS less 1, a new FCS (R484). -/
def forwarded (f : Bytes) : Bytes :=
  let body := f.take 17 ++ leBytes 1 (fieldB f 17 1 - 1) ++ (f.take (f.length - 4)).drop 18
  body ++ leBytes 4 (fcs body)

/-- The ring key of an identifier that a frame of this tick is checked against: the current key or the one before it, and none that this tick's batch
has installed (R490, R505). -/
def Node.ringKeyOf (n : Node) (now id : Nat) : Option Bytes :=
  let live := n.mgmt.prevKey.toList ++ (if n.mgmt.keyTick = now then [] else n.mgmt.ringKey.toList)
  (live.find? fun e => e.1 == id).map (·.2)

/-- The payload of a frame: as it stands, or opened under its ring key, `none` where the tag fails (R489). The header enters the tag with HOPS as
the origin set it (DEDUCED, log entry 107). -/
def Node.voxleyPayload (n : Node) (now : Nat) (f : Voxley) : Option Bytes :=
  if !bitOf f.flags 0 then some f.payload
  else match n.ringKeyOf now f.keyId with
    | none => none
    | some key => gcmOpen key (f.src + f.ctr * 2 ^ 32) (f.head.take 3 ++ [128] ++ f.head.drop 4) (f.payload ++ f.tag)

/-- VTYPEs of Table 19-3. -/
def knownVtype (v : Nat) : Bool := [0x01, 0x02, 0x10, 0x11, 0x12, 0x13, 0x14, 0x18, 0x20, 0x40].contains v

/-- An authenticated EVENT of another node (R489, R497): its round header; that it is in FAULT or SAFE (R459). -/
def Node.ringEvent (n : Node) (now src : Nat) (p : Bytes) : Node :=
  let code := fieldB p 4 2
  let state := fieldB p 8 1
  if code = 0x0100 then n.headerReceive now (sliceB p 8 80)
  else if (code = 0x0011 ∨ code = 0x0001) ∧ (state = 5 ∨ state = 6) then n.nodeLost now src
  else n

/-- A frame for this node is consumed (R488, R489). -/
def State.consume (s : State) (r : Nat) (f : Voxley) : State :=
  let now := s.clock.tick
  match s.node.voxleyPayload now f with
  | none => s.put (s.node.bump Reg.framesRefused)
  | some p =>
    let auth := bitOf f.flags 0
    let st := BitVec.ofNat 16 f.src
    let via : Via := { src := if r = 0 then .ringA st else .ringB st, auth := auth, awl := bitOf f.flags 3, seq := BitVec.ofNat 32 f.seq }
    if bitOf f.flags 1 || f.vtype == 2 then s
    else if f.vtype = 1 then
      s.serve { via with awl := false } 1 fun s =>
        (s, some (leBytes 32 (s.node.reg Reg.identity) ++ leBytes 2 s.node.straps ++ leBytes 1 s.node.st ++ leBytes 1 (129 - f.hops)))
    else if f.vtype = 0x20 then (if auth then s.put (s.node.ringEvent now f.src p) else s.put (s.node.bump Reg.framesRefused))
    else s.serve via f.vtype (State.service via f.vtype f.flags 1440 1424 p)

/-- The own beacon returns (R485): the ring is WHOLE. -/
def Node.ownBeacon (n : Node) (now r : Nat) (p : Bytes) : Node :=
  let u := n.ringUnit r
  if fieldB p 0 2 = n.straps ∧ fieldB p 2 1 = r ∧ fieldB p 4 4 = u.beaconSeq ∧ now ≤ u.lastBeacon + n.reg Reg.beaconTicks then
    n.putRing r { u with lastReturn := some now }
  else n

/-- A frame arrives on a ring (R484): dropped, stripped, forwarded, consumed. The port it arrives at is the one that is up, of two that are a free
value (log entry 107). -/
def State.ringIn (s : State) (r : Nat) (frame : Bytes) : State :=
  if s.node.ringState r = 2 then s
  else
    let u := s.node.ringUnit r
    let (v, n) := s.node.draw 1
    let east := if u.eastUp && u.westUp then leNat v % 2 == 1 else u.eastUp
    if !voxleySound frame then s.put (n.ringCount r east 2)
    else
      let n := n.ringCount r east 0
      match voxleyOf frame with
      | none => s.put (n.bump Reg.framesRefused)
      | some f =>
        if f.src = n.straps then s.put (if f.vtype = 2 then n.ownBeacon s.clock.tick r f.payload else n)
        else if !knownVtype f.vtype then s.put (n.bump Reg.framesRefused)
        else if f.hops = 0 then s.put n
        else
          let on : RingOut := { ring := r, vtype := f.vtype, flags := f.flags, dst := f.dst, seq := f.seq, payload := forwarded frame, raw := true,
                                hops := f.hops - 1, src := f.src, port := if east then 1 else 0 }
          let n := if f.dst != n.straps && u.eastUp && u.westUp then n.ringOut on else n
          if f.dst = n.straps ∨ f.dst = 0xFFFF then (s.put n).consume r f else s.put n

/-- A row's frame: one of its VTYPE. -/
def State.ringRow (s : State) (ring : Ring) (frame : Bytes) (vtype : Nat) : Host.Outcome State Fault Refusal :=
  .next (if fieldB frame 15 1 = vtype then s.ringIn (ringNum ring) frame else s)

/-- DISCOVER (R488). -/
def execDiscover (ring : Ring) (frame : Bytes) (s : State) : Host.Outcome State Fault Refusal := s.ringRow ring frame 0x01

/-- BEACON_RECEIVE (R485). -/
def execBeaconReceive (ring : Ring) (frame : Bytes) (s : State) : Host.Outcome State Fault Refusal := s.ringRow ring frame 0x02

/-- RING_FRAME_FORWARD (R484): any frame. -/
def execRingFrameForward (ring : Ring) (frame : Bytes) (s : State) : Host.Outcome State Fault Refusal := .next (s.ringIn (ringNum ring) frame)

/-- READ (R492). -/
def execRead (ring : Ring) (frame : Bytes) (s : State) : Host.Outcome State Fault Refusal := s.ringRow ring frame 0x10

/-- WRITE (R492). -/
def execWrite (ring : Ring) (frame : Bytes) (s : State) : Host.Outcome State Fault Refusal := s.ringRow ring frame 0x11

/-- BLOCK_READ (R495). -/
def execBlockRead (ring : Ring) (frame : Bytes) (s : State) : Host.Outcome State Fault Refusal := s.ringRow ring frame 0x12

/-- BLOCK_WRITE (R495). -/
def execBlockWrite (ring : Ring) (frame : Bytes) (s : State) : Host.Outcome State Fault Refusal := s.ringRow ring frame 0x13

/-- DESCRIBE (R498). -/
def execDescribe (ring : Ring) (frame : Bytes) (s : State) : Host.Outcome State Fault Refusal := s.ringRow ring frame 0x14

/-- COMMIT (R496). -/
def execCommit (ring : Ring) (frame : Bytes) (s : State) : Host.Outcome State Fault Refusal := s.ringRow ring frame 0x18

/-- AWL (R499). -/
def execAwl (ring : Ring) (frame : Bytes) (s : State) : Host.Outcome State Fault Refusal := s.ringRow ring frame 0x40

/-! ### Beacons -/

/-- The beacon of a ring and port (R485). -/
def Node.beacon (n : Node) (r number port : Nat) : RingOut :=
  { ring := r, vtype := 2, flags := 0, dst := 0xFFFF, seq := n.mgmt.outSeq, port := port,
    payload := leBytes 2 n.straps ++ leBytes 1 r ++ leBytes 1 port ++ leBytes 4 number ++ leBytes 8 0 }

/-- A ring's beacon is due: the next one goes out on both ports, and the ring is BROKEN where the one before it has not returned (R485). -/
def Node.sendBeacon (n : Node) (now r : Nat) : Node :=
  let u := n.ringUnit r
  if n.ringState r = 2 ∨ (u.beaconSeq ≠ 0 ∧ now < u.lastBeacon + n.reg Reg.beaconTicks) then n
  else
    let back := match u.lastReturn with
      | some t => decide (u.lastBeacon ≤ t)
      | none => false
    let k := (u.beaconSeq + 1) % 2 ^ 32
    let n := n.putRing r { u with beaconSeq := k, lastBeacon := now, lastReturn := if back then u.lastReturn else none }
    let n := { n with mgmt := { n.mgmt with outSeq := (n.mgmt.outSeq + 1) % 2 ^ 32 } }
    (n.ringSend (n.beacon r k 0)).ringSend (n.beacon r k 1)

/-- BEACON_SEND (R485). -/
def execBeaconSend (s : State) : Host.Outcome State Fault Refusal := s.on ((s.node.sendBeacon s.clock.tick 0).sendBeacon s.clock.tick 1)

/-! ### Function 0 (R503, R523, R525) -/

/-- CMD_DOORBELL (R523): the command buffer holds `frame`. -/
def execCmdDoorbell (v : BitVec 32) (frame : Bytes) (s : State) : Host.Outcome State Fault Refusal :=
  let n := s.node
  if !n.reachable .f0 then .next s
  else if n.host.cmdOpen then s.on n.registerDrop
  else
    let h := { n.host with cmdDoorbell := v.toNat, command := frame }
    let s := s.put { n with host := h }
    if fieldB frame 4 4 ≠ v.toNat ∨ frame.length < 16 + fieldB frame 8 4 then .next s
    else
      let flags := fieldB frame 1 1
      let via : Via := { src := .f0, auth := n.host.unlocked, awl := bitOf flags 3, seq := v }
      let s := s.put { s.node with host := { h with cmdOpen := true } }
      .next (s.serve via (fieldB frame 0 1) (State.service via (fieldB frame 0 1) flags 65536 65536 (sliceB frame 16 (fieldB frame 8 4))))

/-- What a read of the space-4 window returns (R514, R525). -/
def State.space4 (s : State) (index sub byte len : Nat) : Bytes :=
  let via : Via := { src := .f0, auth := s.node.host.unlocked, awl := false, seq := 0 }
  if !s.node.authentic via && !openRead index sub || !s.node.hasIndex index then List.replicate len 0
  else match s.blockView via index sub with
    | none => List.replicate len 0
    | some (v, base) => if (base + byte) % v.size ≠ 0 then List.replicate len 0 else sliceB (v.read (base + byte) len) 0 len

/-- SPACE4_READ (R525): the completion's data. -/
def execSpace4Read (addr : BitVec 35) (len : Nat) (s : State) : Host.Outcome State Fault Refusal :=
  let n := s.node
  if !n.reachable .f0 then .next s
  else
    let a := addr.toNat
    s.on { n with host := { n.host with space4Data := s.space4 n.host.space4 (a / 2 ^ 27) (a % 2 ^ 27) (Nat.min len 4096) } }

end Sys2Proof.Machine
end

