-- ==== Sys2Proof/Machine/IsaMem.lean ====
section
/-!
DEFINITION. Instructions of a thread that reach memory or its item (R191 to R205, R213): TILE, MEMORY, FENCE and ITEM.
-/

namespace Sys2Proof.Machine

/-! ### Addresses (Table 7-3) -/

/-- Staging offset in space 3 of an item's payload: where in its region's staging is free (log entry 122). -/
def payloadBase (region : Nat) (q : Admitted) : Nat := region * 2 ^ 27 + 2 * 2 ^ 25 + Config.open 130 q.req.key % 2 ^ 22

/-- Space-3 offset of a thread's scratch window (Table 7-1). -/
def threadWindow (t : ThreadId) : Nat := windowBase t.region.val t.cell.val t.thread.val

/-- What a thread's address names (Table 7-3). -/
inductive Reach where
  | mem (off : Nat)
  | payload (off : Nat)
  | box (session byte : Nat)
  | away
  | fault
deriving DecidableEq, Repr

/-- What `len` bytes at an address are for a thread, by Table 7-3 and R192. -/
def Node.reach (n : Node) (t : ThreadId) (addr len : Nat) (write : Bool) : Reach :=
  let th := n.thread t.key
  let node := addr / 2 ^ 54 % 1024
  let space := addr / 2 ^ 51 % 8
  let off := addr % 2 ^ 51
  let tenant := th.program.isSome
  let pay := match n.itemOf th with
    | some (q, _) => some (payloadBase t.region.val q, q.req.payload.length)
    | none => none
  if space = 5 then
    (if off / 4096 ≠ th.session ∨ 4096 < off % 4096 + len then .fault else if node = n.straps then .box th.session (off % 4096) else .away)
  else if space ≠ 3 then .fault
  else if node ≠ n.straps then (if tenant then .fault else .away)
  else
    match pay with
    | some (b, l) =>
      if !write ∧ b ≤ off ∧ off + len ≤ b + l then .payload (off - b)
      else if !runOk off len ∨ inCode off ∨ inCode (off + len - 1) then .fault
      else if tenant then
        (let w := threadWindow t
         if w ≤ off ∧ off + len ≤ w + 8192 then .mem off else .fault)
      else if regionOf off = t.region.val ∨ areaOf off = 2 then .mem off
      else .fault
    | none => .fault

/-- The address of an access: xRA plus IMM (log entry 119). -/
def Thread.address (t : Thread) (f : Fields) : Nat := (t.getX f.ra.val + immValue f.mod.val f.imm) % 2 ^ 64

/-- A tile address that is aligned to a tile; whether a narrower alignment is enough is free (log entry 114). -/
def tileAligned (a : Nat) : Bool := a % 2048 == 0 || Config.open 131 a % 2 == 1

/-- A remote access is sent (R194): KIND 1 a read, 2 a write, in Q5 of the port that the map names for the node (log entry 90). -/
def Node.sendAccess (n : Node) (now : Nat) (t : ThreadId) (kind addr len : Nat) (data : Bytes) : Node :=
  let th := n.thread t.key
  ((n.retire t.key fun th => { th with remoteOut := th.remoteOut + 1 }).bump Reg.remoteAccesses).sendNode now 3 5 (addr / 2 ^ 54 % 1024)
    (n.session th.session).slice (leBytes 1 kind ++ leBytes 4 t.key ++ leBytes 8 addr ++ leBytes 4 len ++ data)

/-- A load of `len` bytes into a register (kind 0 x, 1 v, 2 tile). -/
def State.loadTo (s : State) (t : ThreadId) (f : Fields) (kind len : Nat) (aligned : Bool) : Host.Outcome State Fault Refusal :=
  let n := s.node
  let now := s.clock.tick
  let addr := (n.thread t.key).address f
  let get := fun (bs : Bytes) => s.on ((n.retire t.key id).land t.key kind f.rd.val f.mod.val bs)
  if !n.issues t.key then s.on n
  else if !aligned then s.on (n.programFault now t.key)
  else match n.reach t addr len false with
    | .mem off => get (Memory.read s.mem off len)
    | .payload o => get (match n.itemOf (n.thread t.key) with | some (q, _) => sliceB q.req.payload o len | none => List.replicate len 0)
    | .box x b => get (n.boxRead x b len)
    | .away =>
      let n := n.sendAccess now t 1 addr len []
      s.on (n.setThread t.key { n.thread t.key with load := some (kind, f.rd.val, f.mod.val) })
    | .fault => s.on (n.programFault now t.key)

/-- A store of bytes. -/
def State.storeFrom (s : State) (t : ThreadId) (f : Fields) (data : Bytes) (aligned : Bool) : Host.Outcome State Fault Refusal :=
  let n := s.node
  let now := s.clock.tick
  let addr := (n.thread t.key).address f
  if !n.issues t.key then s.on n
  else if !aligned then s.on (n.programFault now t.key)
  else match n.reach t addr data.length true with
    | .mem off => .next { s with node := n.retire t.key id, mem := Memory.write s.mem off data }
    | .payload _ => s.on (n.programFault now t.key)
    | .box x b => s.on ((n.retire t.key id).boxWrite x b data)
    | .away => s.on (n.sendAccess now t 2 addr data.length data)
    | .fault => s.on (n.programFault now t.key)

/-! ### MEMORY -/

/-- LD: 8 to 64 bits. -/
def execLd (t : ThreadId) (f : Fields) (s : State) : Host.Outcome State Fault Refusal :=
  let w := ldBytes f.mod.val
  s.loadTo t f 0 w ((s.node.thread t.key).address f % w == 0)
/-- ST: the low 8 to 64 bits of xRB. -/
def execSt (t : ThreadId) (f : Fields) (s : State) : Host.Outcome State Fault Refusal :=
  let th := s.node.thread t.key
  let w := ldBytes f.mod.val
  s.storeFrom t f (leBytes w (th.getX f.rb.val)) (th.address f % w == 0)
/-- LDV: 256 bytes into vRD. -/
def execLdv (t : ThreadId) (f : Fields) (s : State) : Host.Outcome State Fault Refusal :=
  s.loadTo t f 1 256 ((s.node.thread t.key).address f % 256 == 0)
/-- STV: the 256 bytes of vRB. -/
def execStv (t : ThreadId) (f : Fields) (s : State) : Host.Outcome State Fault Refusal :=
  let th := s.node.thread t.key
  s.storeFrom t f ((th.getV f.rb.val).flatMap (leBytes 4)) (th.address f % 256 == 0)

/-! ### TILE: memory -/

/-- TLD.MEM: the 2,048 bytes of elements of tile RD (R205, log entry 114). -/
def execTldMem (t : ThreadId) (f : Fields) (s : State) : Host.Outcome State Fault Refusal :=
  s.loadTo t f 2 2048 (tileAligned ((s.node.thread t.key).address f))
/-- TST: the 2,048 bytes of elements of tile RB (R205, log entry 114). -/
def execTst (t : ThreadId) (f : Fields) (s : State) : Host.Outcome State Fault Refusal :=
  s.storeFrom t f (padTo 2048 (s.node.tile t.key f.rb.val).data) (tileAligned ((s.node.thread t.key).address f))

/-! ### TILE: pages and weights (R203 to R205) -/

/-- How a line that the operand port reads stands: good; just lost to an error; of another domain; poisoned before. -/
inductive LineRead where
  | good
  | lost
  | domain
  | poisoned
deriving DecidableEq, Repr

/-- Read a line at the operand port (R259 to R262): `l` is the line's number in the command's error list. -/
def Node.portLine (n : Node) (now slice owner : Nat) (req : Nat × Nat) (errs : List LineErr) (l k : Nat) : LineRead × Node :=
  let e := match errs.find? fun (x : LineErr) => x.line == l with | some x => x.symbols | none => 0
  let line := n.line k
  if 2 ≤ e then (.lost, n.lineUncorrectable now k 2 req)
  else
    let n := if e = 1 then n.lineCorrected now k else n
    if !n.lineInSlice line slice then (.domain, n.domainFault now k)
    else if !lineShareOk line owner (k % 256) then (.lost, n.lineUncorrectable now k 3 req)
    else if tagPoison line.tag.toNat then (.poisoned, n.bump Reg.poisonReads)
    else (.good, n)

/-- Read lines in order up to the first that is not good; each is (number in the error list, key). -/
def Node.portLines (n : Node) (now slice owner : Nat) (req : Nat × Nat) (errs : List LineErr) : List (Nat × Nat) → LineRead × Nat × Node
  | [] => (.good, 0, n)
  | (l, k) :: rest =>
    match n.portLine now slice owner req errs l k with
    | (.good, n') => n'.portLines now slice owner req errs rest
    | (r, n') => (r, k, n')

/-- Where a load's bytes lie in the parts of a page: slot byte of the first token's run, the bytes between tokens' runs, and the run's length; and the
tile-order byte of the first run (R238). -/
structure PageRun where
  base : Nat
  step : Nat
  len : Nat
  order : Nat
deriving DecidableEq, Repr

/-- The run of a part from element E on (R203): 0 part A, 1 part B, 2 the tag area. -/
def pageRun (elem a b part e : Nat) : PageRun :=
  if part = 2 then { base := 16320, step := 4, len := 4, order := 16320 }
  else
    let bytes := if part = 0 then a else b
    let base := if part = 0 then 0 else 16 * a
    let lo := vecBytes elem e
    let hi := vecBytes elem (Nat.min (e + tileK elem) (elemsOf elem bytes))
    { base := base + lo, step := bytes, len := hi - lo, order := base + 16 * lo }

/-- The lines of a page's slot that a run touches: those of its bytes in a raw page, those of its blocks in a compressed one. -/
def Page.runLines (d : Page) (r : PageRun) : List Nat :=
  if r.len = 0 then []
  else if d.packed then
    (List.range 4).flatMap fun b =>
      if r.order / 4096 ≤ b ∧ b ≤ (r.order + 16 * r.len - 1) / 4096 then (List.range (Nat.min 64 (d.blockLen.getD b 0))).map fun i => 64 * b + i else []
  else
    ((List.range 16).flatMap fun t =>
      let o := r.base + t * r.step
      (List.range ((o + r.len - 1) / 64 + 1 - o / 64)).map fun i => o / 64 + i).eraseDups

/-- The 256 bytes of one facet of a compressed page. -/
def Node.readFacet (n : Node) (d : Page) (f : Nat) : Except (Nat × CodecFail) Bytes :=
  let b := f / 16
  let len := d.blockLen.getD b 0
  let place := n.slotBytes (d.t1.getD 0) (b * 4096) 4096
  let wrap := fun (e : CodecFail) => (b, e)
  if 2 ≤ len ∧ len ≤ 63 then
    match packedHead place len with
    | some x => .error (b, { detail := x })
    | none => match facet place (f % 16) with | .error e => .error (wrap e) | .ok x => .ok x
  else match blockExpand len place with | .error e => .error (wrap e) | .ok x => .ok (sliceB x (f % 16 * 256) 256)

/-- Facets in order. -/
def Node.readFacets (n : Node) (d : Page) : List Nat → Except (Nat × CodecFail) Bytes
  | [] => .ok []
  | f :: rest =>
    match n.readFacet d f with
    | .error e => .error e
    | .ok x => match n.readFacets d rest with
      | .error e => .error e
      | .ok y => .ok (x ++ y)

/-- The facets that a run's bytes lie in. -/
def PageRun.facets (r : PageRun) : List Nat :=
  if r.len = 0 then [] else (List.range ((r.order + 16 * r.len - 1) / 256 + 1 - r.order / 256)).map (r.order / 256 + ·)

/-- The runs of the sixteen tokens, token by token. -/
def Node.runBytes (n : Node) (d : Page) (r : PageRun) : Except (Nat × CodecFail) (List Bytes) :=
  if d.packed then
    match n.readFacets d r.facets with
    | .error e => .error e
    | .ok bs => .ok ((List.range 16).map fun t => sliceB bs (r.order % 256 + t * r.len) r.len)
  else .ok ((List.range 16).map fun t => n.slotBytes (d.t1.getD 0) (r.base + t * r.step) r.len)

/-- The facets of PACKED blocks that a load expands, and those among them that the item had expanded before (R250). -/
def Thread.expand (t : Thread) (d : Page) (p : Nat) (fs : List Nat) : Thread × Nat :=
  let packed := fs.filter fun f => let len := d.blockLen.getD (f / 16) 0
                                   decide (2 ≤ len) && decide (len ≤ 63)
  let new := match packed with | f :: rest => if t.facetHold.contains (p, f) then rest else packed | [] => []
  let again := (new.filter fun f => t.facets.contains (p, f)).length
  let hold := match fs.getLast? with
    | some f => if packed.contains f then ((p, f) :: t.facetHold.filter fun e => e.1 != p).take 2 else t.facetHold
    | none => t.facetHold
  ({ t with facets := t.facets ++ (new.filter fun f => !t.facets.contains (p, f)).map fun f => (p, f), facetHold := hold }, again)

/-- A token's stored elements as a tile row: K elements in 64 bytes, E3M2 widened, and their scales (R201). -/
def widenRow (elem : Nat) (bs : Bytes) : Bytes × Bytes :=
  if elem ≤ 1 then (padTo 64 bs, [])
  else
    let blk := 1 + 32 * elemBits elem / 8
    let m := tileK elem / 32
    ((List.range m).flatMap (fun i =>
       let packed := sliceB bs (i * blk + 1) (blk - 1)
       if elem = 3 then (List.range 32).map fun j => BitVec.ofNat 8 (bitsOf (leNat packed) (6 * j) 6) else packed),
     (List.range m).map fun i => bs.getD (i * blk) 0)

/-- Replace bytes of a tile. -/
def Tile.put (x : Tile) (off : Nat) (bs : Bytes) : Tile := { x with data := spliceB (padTo 2048 x.data) off bs }
def Tile.putScales (x : Tile) (off : Nat) (bs : Bytes) : Tile := { x with scales := spliceB (padTo 128 x.scales) off bs }

/-- Sixteen token rows land in half a tile: token r in row r + 16 × half, or as the columns of K element rows (R203). The scales of transposed MX tiles
have no stated place and are `free` bytes (log entry 120). -/
def Tile.landRows (x : Tile) (elem half : Nat) (transpose : Bool) (rows : List Bytes) (free : Bytes) : Tile :=
  let wide := rows.map (widenRow elem)
  let m := tileK elem / 32
  if transpose then
    let w := tileBits elem
    let y := (List.range (tileK elem)).foldl (fun (y : Tile) i =>
      let half16 := wide.foldr (fun e acc => bitsOf (leNat e.1) (i * w) w + 2 ^ w * acc) 0
      y.put (i * 4 * w + half * (2 * w)) (leBytes (2 * w) half16)) x
    if elem ≤ 1 then y else { y with scales := padTo 128 free }
  else
    wide.zipIdx.foldl (fun (y : Tile) e =>
      let r := e.2 + 16 * half
      let y := y.put (64 * r) e.1.1
      if elem ≤ 1 then y else y.putScales (r * m) e.1.2) x

/-- Sixteen tag words land in half a tile, one in each row's first 4 bytes; the rest of the rows is free (log entry 120). -/
def Tile.landTags (x : Tile) (half : Nat) (rows : List Bytes) (free : Bytes) : Tile :=
  rows.zipIdx.foldl (fun (y : Tile) e => y.put (64 * (e.2 + 16 * half)) (padTo 4 e.1 ++ sliceB free (60 * e.2) 60)) x

/-- What a load from the operand port meets ends the item or stops the load: a poisoned page, a codec fault; a domain fault delivers nothing
(log entry 120). -/
def Node.pageStop (n : Node) (now key tkey p : Nat) (r : LineRead) : Node :=
  match r with
  | .poisoned => (n.pageFault now p fun _ => false).endRequest now key stPoison 0
  | .lost => n.endRequest now key stPoison 0
  | .domain => n.retire tkey id
  | .good => n

/-- TLD.PAGE on a node. -/
def Node.tldPage (n : Node) (now : Nat) (t : ThreadId) (f : Fields) (errs : List LineErr) : Node :=
  let th := n.thread t.key
  match n.itemOf th with
  | none => n
  | some (q, it) =>
    let sq := n.seq (seqLocal q.req.seqId)
    let elem := elemOf sq.format
    let part := f.imm.toNat % 4
    let e := th.getX f.rb.val
    let half := f.mod.val % 2
    match it.view[th.getX f.ra.val]? with
    | none => n.programFault now t.key
    | some v =>
      if part = 3 ∨ (part ≠ 2 ∧ (f.fmt.val ≠ elem ∨ e % tileK elem ≠ 0)) then n.programFault now t.key
      else
        let d := n.page v.page
        let run := pageRun elem sq.aBytes sq.bBytes part e
        let g := d.t1.getD 0
        let key := q.req.key
        match n.portLines now q.slice v.page (th.session, th.request) errs ((d.runLines run).map fun l => (l, g * 256 + l)) with
        | (.good, _, n) =>
          match n.runBytes d run with
          | .error (b, x) => n.codecFault now v.page b x.facet x.detail [key]
          | .ok rows =>
            let rows := rows.zipIdx.map fun x => if x.2 < v.tokens then x.1 else List.replicate x.1.length 0
            let (th', again) := th.expand d v.page (if d.packed then run.facets else [])
            let n := (n.retire t.key fun _ => th').bumpBy Reg.facetsReexpanded again
            let (free, n) := n.draw 960
            let x := n.tile t.key f.rd.val
            n.setTile t.key f.rd.val (if part = 2 then x.landTags half rows free else x.landRows elem half (bitOf f.mod.val 1) rows free)
        | (r, _, n) => n.pageStop now key t.key v.page r

/-- TLD_PAGE (R203, R204); `errs` is what the side band finds on lines of the page's slot. -/
def execTldPage (t : ThreadId) (f : Fields) (errs : List LineErr) (s : State) : Host.Outcome State Fault Refusal :=
  s.on (if s.node.issues t.key then s.node.tldPage s.clock.tick t f errs else s.node)

/-- TLD.WEIGHT on a node: KIND in IMM 1:0, the first vector in xRA, E in xRB (log entry 121). -/
def Node.tldWeight (n : Node) (now : Nat) (t : ThreadId) (f : Fields) (errs : List LineErr) : Node :=
  let th := n.thread t.key
  match n.itemOf th with
  | none => n
  | some (q, _) =>
    let m := n.model q.req.model
    let kind := f.imm.toNat % 4
    let row := th.getX f.ra.val
    let e := th.getX f.rb.val
    let di := m.descIndex q.req.lay kind
    let w := n.weight di
    let count := if kind = 1 then m.dQk else m.dLat
    let total := if kind = 1 then m.qHeads * m.dLat else m.qHeads * m.dV
    if !m.latent ∨ kind = 0 ∨ kind = 3 then n.programFault now t.key
    else if w.state ≠ 2 then n.endWithNotice now q.req.key stWeightLost 4
    else if f.fmt.val ≠ w.wformat ∨ e % tileK w.wformat ≠ 0 ∨ total < row + 32 ∨ count ≤ e then n.programFault now t.key
    else if w.res ≠ 1 then n
    else
      let vb := vecBytes w.wformat count
      let lo := vecBytes w.wformat e
      let len := vecBytes w.wformat (Nat.min (e + tileK w.wformat) count) - lo
      let lines := ((List.range 32).flatMap fun r =>
        let o := (row + r) * vb + lo
        (List.range ((o + len - 1) / 64 + 1 - o / 64)).map fun i => o / 64 + i).eraseDups
      match n.portLines now w.slice di (th.session, th.request) errs (lines.map fun l => (l, w.slots.getD (l / 256) 0 * 256 + l % 256)) with
      | (.good, _, n) =>
        let rows := (List.range 32).map fun r => n.weightData w ((row + r) * vb + lo) len
        let x := n.tile t.key f.rd.val
        let x := (x.landRows w.wformat 0 false (rows.take 16) []).landRows w.wformat 1 false (rows.drop 16) []
        (n.retire t.key id).setTile t.key f.rd.val x
      | (.poisoned, k, n) => n.weightFault now di (w.slots.findIdx (· == k / 256))
      | (.domain, _, n) => n.retire t.key id
      | (.lost, _, n) => n

/-- TLD_WEIGHT (R205); `errs` is what the side band finds on lines of the matrix. -/
def execTldWeight (t : ThreadId) (f : Fields) (errs : List LineErr) (s : State) : Host.Outcome State Fault Refusal :=
  s.on (if s.node.issues t.key then s.node.tldWeight s.clock.tick t f errs else s.node)

/-! ### FENCE (R196, Table 7-5): accesses to the own node complete at their instruction -/

/-- A fence that waits for a condition. -/
def State.fence (s : State) (t : ThreadId) (done : Thread → Bool) : Host.Outcome State Fault Refusal :=
  s.on (if s.node.issues t.key && done (s.node.thread t.key) then s.node.retire t.key id else s.node)

/-- FENCE.L. -/
def execFenceL (t : ThreadId) (_f : Fields) (s : State) : Host.Outcome State Fault Refusal := s.fence t fun _ => true
/-- FENCE.F: every remote access is answered. -/
def execFenceF (t : ThreadId) (_f : Fields) (s : State) : Host.Outcome State Fault Refusal := s.fence t fun th => th.remoteOut == 0
/-- FENCE.N: every near-bank command's token is back. -/
def execFenceN (t : ThreadId) (_f : Fields) (s : State) : Host.Outcome State Fault Refusal := s.fence t fun th => th.tokensOut.isEmpty

/-! ### ITEM -/

/-- Fields of the item descriptor (Table 7-8); the indexes that it does not name are free (log entry 122). -/
def Node.itemArg (n : Node) (t : ThreadId) (q : Admitted) (it : Item) (i : Nat) : Nat :=
  let at_ := fun (off : Nat) => n.straps * 2 ^ 54 + 3 * 2 ^ 51 + payloadBase t.region.val q + off
  let tails := it.view.filter fun v => v.state == PState.code .tail
  let args := if q.req.tenantProg then fieldB (n.prog q.target).header 12 2 else 0
  if i = 0 then it.num
  else if i = 1 then it.view.length
  else if i = 2 then (tails.map fun v => v.tokens).sum
  else if i = 3 then (if q.req.op = opAttendAppend ∧ it.last then q.tokens else 0)
  else if i = 4 then q.req.rows
  else if i = 5 then it.head0
  else if i = 6 then it.heads
  else if i = 7 then it.track
  else if i = 8 then it.pos
  else if i = 9 then it.budget
  else if i = 10 then at_ 16
  else if i = 11 then (if q.req.tenantProg then at_ (q.req.payload.length - args) else 0)
  else match it.view[i - 16]? with
    | some v => if 16 ≤ i then (n.seq (seqLocal q.req.seqId)).spanBase + 16 * v.index else Config.open 132 i
    | none => Config.open 132 i

/-- IARG (R202): the index is IMM. -/
def execIarg (t : ThreadId) (f : Fields) (s : State) : Host.Outcome State Fault Refusal :=
  let n := s.node
  match n.itemOf (n.thread t.key) with
  | none => s.on n
  | some (q, it) => s.issue t fun th => th.setX f.rd.val (n.itemArg t q it f.imm.toNat)

/-- The lanes of vi and the registers after it. -/
def Thread.lanesFrom (t : Thread) (i count : Nat) : List Nat := (List.range count).map fun l => (t.getV (i + l / 64)).getD (l % 64) 0

/-- PART.WR on a node (R202, R178): row xRA, head xRB, m and l in the first lanes of vRD, o behind them or from the next register on (log entry 123). -/
def Node.partWr (n : Node) (now : Nat) (t : ThreadId) (f : Fields) : Node :=
  let th := n.thread t.key
  match n.itemOf th with
  | none => n
  | some (q, it) =>
    let m := n.model q.req.model
    let row := th.getX f.ra.val
    let head := th.getX f.rb.val
    let o := if Config.open 133 0 % 2 = 0 then 2 else 64
    let v := th.lanesFrom f.rd.val (o + m.dAcc)
    if !(it.rowHeads q.req).contains (row, head) ∨ th.written.contains (row, head) then n.programFault now t.key
    else
      let p : Partial := { row := row, head := head, m := v.getD 0 0, l := v.getD 1 0, o := v.drop o }
      (n.setItem q.req.key it.num fun i => { i with partials := i.partials ++ [p] }).retire t.key fun th =>
        { th with written := th.written ++ [(row, head)] }

/-- PART_WR. -/
def execPartWr (t : ThreadId) (f : Fields) (s : State) : Host.Outcome State Fault Refusal :=
  s.on (if s.node.issues t.key then s.node.partWr s.clock.tick t f else s.node)

/-- NBC on a node (R263): built-in programs only; the thread's fences wait for the command's token. -/
def Node.nbcIssue (n : Node) (now : Nat) (t : ThreadId) (op : Nat) (c : NbArgs) : Node :=
  if (n.thread t.key).program.isSome then n.programFault now t.key
  else
    let (id, n) := n.issueCommand now op c true t.key
    n.retire t.key fun th => { th with tokensOut := th.tokensOut ++ id.toList }

/-- NBC: OP and the record of Table 10-5. -/
def execNbc (t : ThreadId) (_f : Fields) (op : BitVec 8) (c : NbArgs) (s : State) : Host.Outcome State Fault Refusal :=
  s.on (if s.node.issues t.key then s.node.nbcIssue s.clock.tick t op.toNat c else s.node)

end Sys2Proof.Machine
end

