-- ==== Sys2Proof/Machine/Dispatch.lean ====
section
/-!
DEFINITION. One arm per command, each one direct call of its meaning.
-/

namespace Sys2Proof.Machine

def exec (i : Instr) (s : State) : Host.Outcome State Fault Refusal :=
  match i with
  | .tickEdge input ns width => Sys2Proof.Machine.execTickEdge input ns width s
  | .missedTick input => Sys2Proof.Machine.execMissedTick input s
  | .inputLost input => Sys2Proof.Machine.execInputLost input s
  | .holdoverLimit => Sys2Proof.Machine.execHoldoverLimit s
  | .tickBoundary m => Sys2Proof.Machine.execTickBoundary m s
  | .roundBoundary => Sys2Proof.Machine.execRoundBoundary s
  | .tickPrimaryWrite via v => Sys2Proof.Machine.execTickPrimaryWrite via v s
  | .lastLoad via image => Sys2Proof.Machine.execLastLoad via image s
  | .objectWrite via index sub value => Sys2Proof.Machine.execObjectWrite via index sub value s
  | .arm via => Sys2Proof.Machine.execArm via s
  | .disarm via => Sys2Proof.Machine.execDisarm via s
  | .discard via => Sys2Proof.Machine.execDiscard via s
  | .regionArmReport r holds => Sys2Proof.Machine.execRegionArmReport r holds s
  | .armDeadline => Sys2Proof.Machine.execArmDeadline s
  | .commitApply => Sys2Proof.Machine.execCommitApply s
  | .admitTick => Sys2Proof.Machine.execAdmitTick s
  | .seqOpen r => Sys2Proof.Machine.execSeqOpen r s
  | .hashChain => Sys2Proof.Machine.execHashChain s
  | .seqFork r => Sys2Proof.Machine.execSeqFork r s
  | .forkCopyDone child => Sys2Proof.Machine.execForkCopyDone child s
  | .seqClose r => Sys2Proof.Machine.execSeqClose r s
  | .sequenceFree seq => Sys2Proof.Machine.execSequenceFree seq s
  | .append r => Sys2Proof.Machine.execAppend r s
  | .attend r => Sys2Proof.Machine.execAttend r s
  | .attendAppend r => Sys2Proof.Machine.execAttendAppend r s
  | .backwardCompute r => Sys2Proof.Machine.execBackwardCompute r s
  | .backwardFetch r => Sys2Proof.Machine.execBackwardFetch r s
  | .backwardRelease r => Sys2Proof.Machine.execBackwardRelease r s
  | .weightLoad r => Sys2Proof.Machine.execWeightLoad r s
  | .weightDigestCheck desc => Sys2Proof.Machine.execWeightDigestCheck desc s
  | .searchIvf r => Sys2Proof.Machine.execSearchIvf r s
  | .searchTree r => Sys2Proof.Machine.execSearchTree r s
  | .searchProbe r => Sys2Proof.Machine.execSearchProbe r s
  | .insert r => Sys2Proof.Machine.execInsert r s
  | .delete r => Sys2Proof.Machine.execDelete r s
  | .fold r => Sys2Proof.Machine.execFold r s
  | .generationReclaim index => Sys2Proof.Machine.execGenerationReclaim index s
  | .ballTreeBuild index => Sys2Proof.Machine.execBallTreeBuild index s
  | .abort r => Sys2Proof.Machine.execAbort r s
  | .reassemblyTimeout p src msgId => Sys2Proof.Machine.execReassemblyTimeout p src msgId s
  | .computeWindowOpen r => Sys2Proof.Machine.execComputeWindowOpen r s
  | .itemStart r cell => Sys2Proof.Machine.execItemStart r cell s
  | .itemCompletion t => Sys2Proof.Machine.execItemCompletion t s
  | .phase2Start q => Sys2Proof.Machine.execPhase2Start q s
  | .phase2Complete q => Sys2Proof.Machine.execPhase2Complete q s
  | .budgetTrap t => Sys2Proof.Machine.execBudgetTrap t s
  | .builtinOverrun t => Sys2Proof.Machine.execBuiltinOverrun t s
  | .br t f => Sys2Proof.Machine.execBr t f s
  | .brc t f => Sys2Proof.Machine.execBrc t f s
  | .loop t f => Sys2Proof.Machine.execLoop t f s
  | .endItem t f => Sys2Proof.Machine.execEndItem t f s
  | .add t f => Sys2Proof.Machine.execAdd t f s
  | .sub t f => Sys2Proof.Machine.execSub t f s
  | .mul t f => Sys2Proof.Machine.execMul t f s
  | .and t f => Sys2Proof.Machine.execAnd t f s
  | .or t f => Sys2Proof.Machine.execOr t f s
  | .xor t f => Sys2Proof.Machine.execXor t f s
  | .shl t f => Sys2Proof.Machine.execShl t f s
  | .shr t f => Sys2Proof.Machine.execShr t f s
  | .min t f => Sys2Proof.Machine.execMin t f s
  | .max t f => Sys2Proof.Machine.execMax t f s
  | .li t f => Sys2Proof.Machine.execLi t f s
  | .vadd t f => Sys2Proof.Machine.execVadd t f s
  | .vmul t f => Sys2Proof.Machine.execVmul t f s
  | .vfma t f => Sys2Proof.Machine.execVfma t f s
  | .vmax t f => Sys2Proof.Machine.execVmax t f s
  | .vsel t f => Sys2Proof.Machine.execVsel t f s
  | .vbcast t f => Sys2Proof.Machine.execVbcast t f s
  | .vredmax t f => Sys2Proof.Machine.execVredmax t f s
  | .vredsum t f => Sys2Proof.Machine.execVredsum t f s
  | .vexp2 t f => Sys2Proof.Machine.execVexp2 t f s
  | .vtanh t f => Sys2Proof.Machine.execVtanh t f s
  | .vcvt t f => Sys2Proof.Machine.execVcvt t f s
  | .mma t f => Sys2Proof.Machine.execMma t f s
  | .accClr t f => Sys2Proof.Machine.execAccClr t f s
  | .accRd t f => Sys2Proof.Machine.execAccRd t f s
  | .tldPage t f errs => Sys2Proof.Machine.execTldPage t f errs s
  | .tldMem t f => Sys2Proof.Machine.execTldMem t f s
  | .tldWeight t f errs => Sys2Proof.Machine.execTldWeight t f errs s
  | .tst t f => Sys2Proof.Machine.execTst t f s
  | .ld t f => Sys2Proof.Machine.execLd t f s
  | .st t f => Sys2Proof.Machine.execSt t f s
  | .ldv t f => Sys2Proof.Machine.execLdv t f s
  | .stv t f => Sys2Proof.Machine.execStv t f s
  | .fenceL t f => Sys2Proof.Machine.execFenceL t f s
  | .fenceF t f => Sys2Proof.Machine.execFenceF t f s
  | .fenceN t f => Sys2Proof.Machine.execFenceN t f s
  | .iarg t f => Sys2Proof.Machine.execIarg t f s
  | .partWr t f => Sys2Proof.Machine.execPartWr t f s
  | .nbc t f op c => Sys2Proof.Machine.execNbc t f op c s
  | .nbZero c => Sys2Proof.Machine.execNbZero c s
  | .nbZeroSlot c => Sys2Proof.Machine.execNbZeroSlot c s
  | .nbZeroChannel c => Sys2Proof.Machine.execNbZeroChannel c s
  | .nbFill c => Sys2Proof.Machine.execNbFill c s
  | .nbCopy c => Sys2Proof.Machine.execNbCopy c s
  | .nbAdd c => Sys2Proof.Machine.execNbAdd c s
  | .nbMul c => Sys2Proof.Machine.execNbMul c s
  | .nbAxpy c => Sys2Proof.Machine.execNbAxpy c s
  | .nbActRelu c => Sys2Proof.Machine.execNbActRelu c s
  | .nbActSilu c => Sys2Proof.Machine.execNbActSilu c s
  | .nbActGeluTanh c => Sys2Proof.Machine.execNbActGeluTanh c s
  | .nbActSigmoid c => Sys2Proof.Machine.execNbActSigmoid c s
  | .nbActExp2 c => Sys2Proof.Machine.execNbActExp2 c s
  | .nbActSoftcap c => Sys2Proof.Machine.execNbActSoftcap c s
  | .nbConvert c => Sys2Proof.Machine.execNbConvert c s
  | .nbRotatePair c => Sys2Proof.Machine.execNbRotatePair c s
  | .strokeEnd stack channel => Sys2Proof.Machine.execStrokeEnd stack channel s
  | .refreshBurst stack => Sys2Proof.Machine.execRefreshBurst stack s
  | .appendWrite q => Sys2Proof.Machine.execAppendWrite q s
  | .refillAttempt => Sys2Proof.Machine.execRefillAttempt s
  | .pageReclaim page => Sys2Proof.Machine.execPageReclaim page s
  | .pageRewriteStart w => Sys2Proof.Machine.execPageRewriteStart w s
  | .packerStart r => Sys2Proof.Machine.execPackerStart r s
  | .pageCompressed page => Sys2Proof.Machine.execPageCompressed page s
  | .spillStart => Sys2Proof.Machine.execSpillStart s
  | .spillComplete slot => Sys2Proof.Machine.execSpillComplete slot s
  | .prefetchRead => Sys2Proof.Machine.execPrefetchRead s
  | .prefetchComplete page => Sys2Proof.Machine.execPrefetchComplete page s
  | .slowReadCompletion slot unit data ok poison => Sys2Proof.Machine.execSlowReadCompletion slot unit data ok poison s
  | .slowReadTimeout slot => Sys2Proof.Machine.execSlowReadTimeout slot s
  | .refetchTimeout desc tile => Sys2Proof.Machine.execRefetchTimeout desc tile s
  | .tileResponse desc tile bytes => Sys2Proof.Machine.execTileResponse desc tile bytes s
  | .tileRequestServe src model layer kind tile digest => Sys2Proof.Machine.execTileRequestServe src model layer kind tile digest s
  | .weightHoldExpiry desc => Sys2Proof.Machine.execWeightHoldExpiry desc s
  | .heldDeadlineMargin q => Sys2Proof.Machine.execHeldDeadlineMargin q s
  | .domainCreate via value => Sys2Proof.Machine.execDomainCreate via value s
  | .domainDestroy via value => Sys2Proof.Machine.execDomainDestroy via value s
  | .modelDef via value => Sys2Proof.Machine.execModelDef via value s
  | .modelRetire via v => Sys2Proof.Machine.execModelRetire via v s
  | .modelFree model => Sys2Proof.Machine.execModelFree model s
  | .progLoad via image => Sys2Proof.Machine.execProgLoad via image s
  | .progReady slot => Sys2Proof.Machine.execProgReady slot s
  | .progUnload via v => Sys2Proof.Machine.execProgUnload via v s
  | .progSlotFree slot => Sys2Proof.Machine.execProgSlotFree slot s
  | .quotaSet via value => Sys2Proof.Machine.execQuotaSet via value s
  | .indexDef via value => Sys2Proof.Machine.execIndexDef via value s
  | .centroidLoad via image => Sys2Proof.Machine.execCentroidLoad via image s
  | .indexRetire via value => Sys2Proof.Machine.execIndexRetire via value s
  | .indexFree index => Sys2Proof.Machine.execIndexFree index s
  | .flitReceive p flit => Sys2Proof.Machine.execFlitReceive p flit s
  | .replayAckTimeout p => Sys2Proof.Machine.execReplayAckTimeout p s
  | .laneLockLoss p => Sys2Proof.Machine.execLaneLockLoss p s
  | .peerSilent p => Sys2Proof.Machine.execPeerSilent p s
  | .trainTimeout p => Sys2Proof.Machine.execTrainTimeout p s
  | .creditStall p vc => Sys2Proof.Machine.execCreditStall p vc s
  | .helloReceive p payload => Sys2Proof.Machine.execHelloReceive p payload s
  | .helloSend p => Sys2Proof.Machine.execHelloSend p s
  | .camrisFrameReceive p frame => Sys2Proof.Machine.execCamrisFrameReceive p frame s
  | .ethFrameReceive p frame => Sys2Proof.Machine.execEthFrameReceive p frame s
  | .pathAckReceive p frame => Sys2Proof.Machine.execPathAckReceive p frame s
  | .pathAckSend endpoint vc => Sys2Proof.Machine.execPathAckSend endpoint vc s
  | .pathRetry endpoint vc number => Sys2Proof.Machine.execPathRetry endpoint vc number s
  | .pfcReceive p frame => Sys2Proof.Machine.execPfcReceive p frame s
  | .pauseReceive p => Sys2Proof.Machine.execPauseReceive p s
  | .loopbackResult p pass => Sys2Proof.Machine.execLoopbackResult p pass s
  | .retrain via p v => Sys2Proof.Machine.execRetrain via p v s
  | .downHoldExpiry p => Sys2Proof.Machine.execDownHoldExpiry p s
  | .frameStart p => Sys2Proof.Machine.execFrameStart p s
  | .gateUnit p => Sys2Proof.Machine.execGateUnit p s
  | .statisticsSample => Sys2Proof.Machine.execStatisticsSample s
  | .histClear via v => Sys2Proof.Machine.execHistClear via v s
  | .cmdDoorbell v frame => Sys2Proof.Machine.execCmdDoorbell v frame s
  | .space4Read addr len => Sys2Proof.Machine.execSpace4Read addr len s
  | .sqTailDoorbell session v => Sys2Proof.Machine.execSqTailDoorbell session v s
  | .mailboxFetch => Sys2Proof.Machine.execMailboxFetch s
  | .hostReplyWrite => Sys2Proof.Machine.execHostReplyWrite s
  | .dmaTailDoorbell vf v => Sys2Proof.Machine.execDmaTailDoorbell vf v s
  | .dmaDescriptor vf desc => Sys2Proof.Machine.execDmaDescriptor vf desc s
  | .attestGo vf v => Sys2Proof.Machine.execAttestGo vf v s
  | .flrVf vf => Sys2Proof.Machine.execFlrVf vf s
  | .flrF0 => Sys2Proof.Machine.execFlrF0 s
  | .hostLinkDown => Sys2Proof.Machine.execHostLinkDown s
  | .hostReadTimeout => Sys2Proof.Machine.execHostReadTimeout s
  | .hostPortReset => Sys2Proof.Machine.execHostPortReset s
  | .slowPortError p kind => Sys2Proof.Machine.execSlowPortError p kind s
  | .rescan via v => Sys2Proof.Machine.execRescan via v s
  | .sliceBind via value => Sys2Proof.Machine.execSliceBind via value s
  | .sessionOpen via value => Sys2Proof.Machine.execSessionOpen via value s
  | .sessionClose via value => Sys2Proof.Machine.execSessionClose via value s
  | .sliceRelease via v => Sys2Proof.Machine.execSliceRelease via v s
  | .drainBound slice => Sys2Proof.Machine.execDrainBound slice s
  | .scrubEnd slice => Sys2Proof.Machine.execScrubEnd slice s
  | .preCopy => Sys2Proof.Machine.execPreCopy s
  | .moveReceive src bytes => Sys2Proof.Machine.execMoveReceive src bytes s
  | .moveTimeout seq => Sys2Proof.Machine.execMoveTimeout seq s
  | .epochAdmissionEnd => Sys2Proof.Machine.execEpochAdmissionEnd s
  | .drainTick => Sys2Proof.Machine.execDrainTick s
  | .roundHeaderReceive bytes => Sys2Proof.Machine.execRoundHeaderReceive bytes s
  | .headerWaitExpiry => Sys2Proof.Machine.execHeaderWaitExpiry s
  | .holdStop via v => Sys2Proof.Machine.execHoldStop via v s
  | .rejoin via v => Sys2Proof.Machine.execRejoin via v s
  | .quarantineKeep via value => Sys2Proof.Machine.execQuarantineKeep via value s
  | .quarantineYield via value => Sys2Proof.Machine.execQuarantineYield via value s
  | .quarantineDrop via value => Sys2Proof.Machine.execQuarantineDrop via value s
  | .keyInstall via value => Sys2Proof.Machine.execKeyInstall via value s
  | .keyRetire via value => Sys2Proof.Machine.execKeyRetire via value s
  | .keyRetirement slot => Sys2Proof.Machine.execKeyRetirement slot s
  | .fwStaged via image => Sys2Proof.Machine.execFwStaged via image s
  | .attestReq via value => Sys2Proof.Machine.execAttestReq via value s
  | .attestReportReady => Sys2Proof.Machine.execAttestReportReady s
  | .scanEntry => Sys2Proof.Machine.execScanEntry s
  | .oprootWrite value => Sys2Proof.Machine.execOprootWrite value s
  | .targetedTestStart kind unit => Sys2Proof.Machine.execTargetedTestStart kind unit s
  | .testResult kind unit pass addr bit => Sys2Proof.Machine.execTestResult kind unit pass addr bit s
  | .rowRepair stack channel bank row => Sys2Proof.Machine.execRowRepair stack channel bank row s
  | .repairRecordWrite => Sys2Proof.Machine.execRepairRecordWrite s
  | .stateLostMargin q => Sys2Proof.Machine.execStateLostMargin q s
  | .pageRestore page => Sys2Proof.Machine.execPageRestore page s
  | .pageRestoreTimeout page => Sys2Proof.Machine.execPageRestoreTimeout page s
  | .journalCut => Sys2Proof.Machine.execJournalCut s
  | .replReceive src bytes => Sys2Proof.Machine.execReplReceive src bytes s
  | .cutAckReceive src bytes => Sys2Proof.Machine.execCutAckReceive src bytes s
  | .rosterReceive src bytes => Sys2Proof.Machine.execRosterReceive src bytes s
  | .partnerSuspect => Sys2Proof.Machine.execPartnerSuspect s
  | .takeoverStart via value => Sys2Proof.Machine.execTakeoverStart via value s
  | .takeoverStop via value => Sys2Proof.Machine.execTakeoverStop via value s
  | .sequenceRestored seq => Sys2Proof.Machine.execSequenceRestored seq s
  | .takeoverTimeout => Sys2Proof.Machine.execTakeoverTimeout s
  | .selftestSliceStart => Sys2Proof.Machine.execSelftestSliceStart s
  | .selftestSliceEnd cls target pass addr bit => Sys2Proof.Machine.execSelftestSliceEnd cls target pass addr bit s
  | .selftestSliceStop => Sys2Proof.Machine.execSelftestSliceStop s
  | .cycleOverrun => Sys2Proof.Machine.execCycleOverrun s
  | .lockstepMismatch unit => Sys2Proof.Machine.execLockstepMismatch unit s
  | .testReq via value => Sys2Proof.Machine.execTestReq via value s
  | .discover ring frame => Sys2Proof.Machine.execDiscover ring frame s
  | .beaconSend => Sys2Proof.Machine.execBeaconSend s
  | .beaconReceive ring frame => Sys2Proof.Machine.execBeaconReceive ring frame s
  | .ringFrameForward ring frame => Sys2Proof.Machine.execRingFrameForward ring frame s
  | .read ring frame => Sys2Proof.Machine.execRead ring frame s
  | .write ring frame => Sys2Proof.Machine.execWrite ring frame s
  | .blockRead ring frame => Sys2Proof.Machine.execBlockRead ring frame s
  | .blockWrite ring frame => Sys2Proof.Machine.execBlockWrite ring frame s
  | .blockTimeout => Sys2Proof.Machine.execBlockTimeout s
  | .describe ring frame => Sys2Proof.Machine.execDescribe ring frame s
  | .commit ring frame => Sys2Proof.Machine.execCommit ring frame s
  | .awl ring frame => Sys2Proof.Machine.execAwl ring frame s
  | .ringKeyInstall via value => Sys2Proof.Machine.execRingKeyInstall via value s
  | .f0Unlock via value => Sys2Proof.Machine.execF0Unlock via value s
  | .f0Lock via v => Sys2Proof.Machine.execF0Lock via v s
  | .eyeletClose ring => Sys2Proof.Machine.execEyeletClose ring s
  | .eyeletOpen ring => Sys2Proof.Machine.execEyeletOpen ring s
  | .watchdogExpiry => Sys2Proof.Machine.execWatchdogExpiry s
  | .stateReqOperational via => Sys2Proof.Machine.execStateReqOperational via s
  | .stateReqPreop via => Sys2Proof.Machine.execStateReqPreop via s
  | .stateReqSafe via => Sys2Proof.Machine.execStateReqSafe via s
  | .sensorTrip m => Sys2Proof.Machine.execSensorTrip m s
  | .inputTrip => Sys2Proof.Machine.execInputTrip s
  | .coolantAlarm => Sys2Proof.Machine.execCoolantAlarm s
  | .powerLoss => Sys2Proof.Machine.execPowerLoss s
  | .powerUp => Sys2Proof.Machine.execPowerUp s
  | .moduleReset => Sys2Proof.Machine.execModuleReset s
  | .resetReq via v => Sys2Proof.Machine.execResetReq via v s
  | .ringPortDown ring east => Sys2Proof.Machine.execRingPortDown ring east s
  | .ringPortUp ring east => Sys2Proof.Machine.execRingPortUp ring east s
  | .hostLinkUp => Sys2Proof.Machine.execHostLinkUp s
  | .hostReadCompletion index bytes => Sys2Proof.Machine.execHostReadCompletion index bytes s
  | .ideKm value => Sys2Proof.Machine.execIdeKm value s
  | .mailboxEnable session v => Sys2Proof.Machine.execMailboxEnable session v s
  | .zeroizationComplete => Sys2Proof.Machine.execZeroizationComplete s
  | .moduleResetRelease => Sys2Proof.Machine.execModuleResetRelease s
  | .coolantAlarmRelease => Sys2Proof.Machine.execCoolantAlarmRelease s
  | .arbiterTimeout r cell => Sys2Proof.Machine.execArbiterTimeout r cell s

end Sys2Proof.Machine
end

