-- ==== Sys2Proof/Safety.lean ====
section
/-!
DEFINITION. What claims call safe: a step that neither faults nor refuses, and the invariant that every step keeps.
-/

namespace Sys2Proof.Machine

/-- A step that neither faults nor refuses. -/
def Steps (s t : State) : Prop := step s = .next t

/-- The invariant of the model: memory in its canonical form, and the tick count a 64-bit number (R34). -/
def State.Inv (s : State) : Prop := Memory.wf s.mem = true ∧ s.clock.tick < 2 ^ 64

/-! ### Words that claims use -/

/-- The state with one thread's record replaced: nothing else differs. -/
def State.withThread (s : State) (k : Nat) (u : Thread) : State := { s with node := s.node.setThread k u }

/-- The state with another node: nothing else differs. -/
def State.withNode (s : State) (n : Node) : State := { s with node := n }

/-- The node once the response OK of a write of one entry is kept and queued (R491, R493). -/
def Node.acked (n : Node) (via : Via) (vtype now : Nat) : Node :=
  (n.remember via.src via.seq.toNat now [0, 0, 0, 0]).respond via vtype [0, 0, 0, 0]

/-- An entry that is written by block transfer: a DOMAIN, or one too long for an item of a WRITE (R492, R495). -/
def blockEntry (index sub : Nat) : Bool := (Dict.entry index sub).any fun e => e.ty == .domain || decide (1424 < e.ty.bytes)

/-- A write of an entry that is served now for the first time with status OK (R489, R491, R494): the command `c` puts a node with `P` in place, and its
response is kept and queued; memory and the package record are as before. -/
def State.accepts (s : State) (c : Instr) (via : Via) (index sub : Nat) (value : Bytes) (P : Node → Prop) : Prop :=
  s.node.reachable via.src = true → s.node.seen via.src via.seq.toNat s.clock.tick = .fresh →
  (s.node.noteAwl via).writeStatus via (blockEntry index sub) index sub value = svOk →
  ∃ n, exec c s = .next (s.withNode (n.acked via (if blockEntry index sub then 0x13 else 0x11) s.clock.tick)) ∧ P n

/-- The entries whose writes take effect at the next round boundary (R61). -/
def nextRoundKeys : List Nat :=
  [Reg.holdoverLimit, Reg.beaconTicks, Reg.blockTimeout, Reg.deadlineMax, Reg.refetchTimeout, Reg.trainNativeMs, Reg.trainEthMs, Reg.reassemblyTicks,
   Reg.downHold, Reg.pathRetryTicks, Reg.slowNodeQuantum, Reg.headerWait, Reg.moveTicks, Reg.pageRestoreTicks, Reg.takeoverTicks, Reg.powerLimit]

/-- The entries of one value for the whole node that a commit brings (R53). -/
def stagedKeys : List Nat :=
  [Reg.cxlIdeEn, Reg.itemPages, Reg.deadlineMargin, Reg.sparePolicy, Reg.packMode, Reg.weightHold, Reg.inReserve, Reg.inReserveTv, Reg.q7Reserve,
   Reg.qbReserve, Reg.dtNum, Reg.pfcHeadroom, Reg.drainTicks, Reg.replicaMap]

/-- Those of a port. -/
def stagedPortKeys : List Nat :=
  (List.range 48).flatMap fun p => [Reg.portMode, Reg.mac, Reg.vlan, Reg.weights, Reg.gateMode].map fun k => linkKey p k

/-- The rows that are requests, each with the opcode and mode its row names (R63). -/
def requestRows : List ((Request → Instr) × (Request → Request)) :=
  [(.seqOpen, fun r => r.withOp opSeqOpen), (.seqFork, fun r => r.withOp opSeqFork), (.seqClose, fun r => r.withOp opSeqClose),
   (.append, fun r => r.withOp opAppend), (.attend, fun r => r.withOp opAttend), (.attendAppend, fun r => r.withOp opAttendAppend),
   (.backwardCompute, fun r => r.withMode opBackward 0), (.backwardFetch, fun r => r.withMode opBackward 1),
   (.backwardRelease, fun r => r.withMode opBackward 2), (.weightLoad, fun r => r.withOp opWeightLoad), (.searchIvf, fun r => r.withMode opSearch 0),
   (.searchTree, fun r => r.withMode opSearch 1), (.searchProbe, fun r => r.withMode opSearch 2), (.insert, fun r => r.withOp opInsert),
   (.delete, fun r => r.withOp opDelete), (.fold, fun r => r.withOp opFold)]

/-- A request as the pool takes it: it arrived before the boundary that is the present tick (R45, R69). -/
def waitingFor (now : Nat) (r : Request) : Waiting := { req := r, arrival := now - 1, deadline := r.deadlineTick (now - 1) }

/-- The node with a request as the one that is examined in the present tick (R70), the pool empty before it. -/
def Node.underExam (n : Node) (now : Nat) (r : Request) : Node :=
  let s := n.session r.sess
  let n := if s.state = 0 then n else n.setSession r.sess { s with lastActivity := now - 1 }
  { n with adm := { n.adm with pool := [waitingFor now r], examTick := now, examined := n.examinedIn now + 1 } }

/-- That node once the request has left the pool. -/
def Node.poolEmptied (n : Node) : Node := { n with adm := { n.adm with pool := [] } }

/-- A request comes, no other request behind it, in an ADMIT tick that examines it, and passes every check up to its placement (R70, R71, R94). -/
def State.examinesAlone (s : State) (r : Request) : Prop :=
  let now := s.clock.tick
  let m := s.node.underExam now r
  let q := m.draft now (waitingFor now r)
  s.pending.head?.any isRequest = false ∧ s.node.adm.pool = [] ∧ 0 < s.node.reg Reg.poolSize ∧ s.node.examinedIn now < s.node.reg Reg.examineRate ∧
  (∃ x w, s.node.windowAt now 1 0xFFFF = some (x, w) ∧ bitOf w.param (m.bucket r) = true) ∧ bitOf m.anyBucket (m.bucket r) = true ∧
  Node.hashing (waitingFor now r) = false ∧ ¬(s.node.st = stSafe ∧ s.node.reg Reg.stateTick = now) ∧
  m.first now (waitingFor now r) = .pass ∧ m.late now q = .pass ∧ m.poolEmptied.roundFull now q = false ∧
  ¬(m.time.holdover = true ∧ m.time.holdoverStart + m.time.limit < q.deadline)

/-! ### Frames of a ring -/

/-- The node once a frame is counted at the port it came in by (R484; which port that is, of two that are up, is free: log entry 107). -/
def Node.frameCounted (n : Node) (r : Nat) : Node :=
  let u := n.ringUnit r
  let m := (n.draw 1).2
  m.ringCount r (if u.eastUp && u.westUp then leNat (n.draw 1).1 % 2 == 1 else u.eastUp) 0

/-- How a frame's command comes to the dictionary (R488, R489). -/
def Voxley.via (f : Voxley) (ring : Ring) : Via :=
  { src := (match ring with | .a => .ringA (BitVec.ofNat 16 f.src) | .b => .ringB (BitVec.ofNat 16 f.src)), auth := bitOf f.flags 0,
    awl := bitOf f.flags 3, seq := BitVec.ofNat 32 f.seq }

/-- A sound frame of another station reaches this node on a ring that is not LOST, is for it alone, is no response, and opens under its key (R484, R488,
R489); its command has not been seen before (R491). -/
def State.hears (s : State) (ring : Ring) (frame : Bytes) (vtype : Nat) (f : Voxley) (p : Bytes) : Prop :=
  fieldB frame 15 1 = vtype ∧ s.node.ringState (ringNum ring) ≠ 2 ∧ voxleySound frame = true ∧ voxleyOf frame = some f ∧ f.src ≠ s.node.straps ∧ f.hops ≠ 0 ∧
  f.dst = s.node.straps ∧ s.node.voxleyPayload s.clock.tick f = some p ∧ bitOf f.flags 1 = false ∧
  s.node.seen (f.via ring).src (f.via ring).seq.toNat s.clock.tick = .fresh

/-- The command `c` is answered: the state `t` that its service leaves, with the response kept and queued (R488, R491), memory and package as `t` has them. -/
def State.answers (s : State) (c : Instr) (via : Via) (vtype : Nat) (P : State → Bytes → Prop) : Prop :=
  ∃ t out, exec c s = .next (t.withNode ((t.node.remember via.src via.seq.toNat s.clock.tick out).respond via vtype out)) ∧ P t out

end Sys2Proof.Machine
end

