-- ==== Sys2Proof/Certificates/Slice0/Obligations.lean ====
section
/-!
DEFINITION. The statements for the provers.
-/

open Sys2Proof Sys2Proof.Machine

/-! ### The machine -/

/-- The command at the front of the queue acts on the state with the queue's rest. -/
def Obligations.StepRunsFront : Prop :=
  ∀ (c : Instr) (s : State), step { s with pending := c :: s.pending } = exec c s

/-- What reset leaves (R34, R47, R547, Table 22-5, Table 20-12): the node boots, every scalar entry of the dictionary is at its default, the start-up last with
the windows of Table 22-5 is active, and every table is empty. That a byte of memory that nothing has written reads 0 is the model's choice (log entry 2). -/
def Obligations.ResetState : Prop :=
  State.reset.pending = [] ∧ State.reset.clock.tick = 0 ∧ State.reset.node.st = 1 ∧ (∀ k, State.reset.node.reg k = Dict.dflt k) ∧
  State.reset.node.reg Reg.roundLen = 2000 ∧ State.reset.node.reg Reg.lastId = 0 ∧
  (∀ r, r < 16 → State.reset.node.sched.active.windows.filter (fun w => w.target == r) =
    [⟨24, 1000, 2, 0, r⟩, ⟨24, 1000, 5, 4, r⟩, ⟨1024, 80, 3, 0, r⟩, ⟨1200, 40, 6, 1, r⟩, ⟨1240, 40, 6, 2, r⟩, ⟨1280, 40, 6, 3, r⟩, ⟨1320, 40, 6, 4, r⟩,
     ⟨1360, 40, 6, 5, r⟩]) ∧
  (State.reset.node.sched.active.windows.filter fun w => decide (16 ≤ w.target)) =
    [⟨0, 24, 1, 255, 0xFFFF⟩, ⟨1200, 40, 6, 6, 0xFFFF⟩, ⟨1240, 40, 6, 7, 0xFFFF⟩, ⟨1280, 40, 6, 8, 0xFFFF⟩] ∧
  (∀ p k, p < 48 → State.reset.node.session p = {} ∧ State.reset.node.portReg p Reg.portState = 0 ∧ State.reset.node.queue p k = []) ∧
  (∀ k, State.reset.node.thread k = {} ∧ State.reset.node.line k = {} ∧ (State.reset.node.seq k).state = .free ∧ (State.reset.node.page k).state = .free) ∧
  (∀ a, Memory.byte State.reset.mem a = 0)

/-- The invariant holds after reset. -/
def Obligations.ResetInv : Prop := State.reset.Inv

/-- Every step keeps the invariant: memory stays in its canonical form, and the tick count stays below 2^64. -/
def Obligations.StepKeepsInv : Prop := ∀ (s t : State), s.Inv → step s = .next t → t.Inv

/-- A read of memory after a write: inside the run the byte written, outside the byte before; and the canonical form is kept. -/
def Obligations.MemoryWrite : Prop :=
  ∀ (m : List Host.Cell) (off : Nat) (bs : Bytes), Memory.wf m = true →
    Memory.wf (Memory.write m off bs) = true ∧
    (∀ i, i < bs.length → Memory.byte (Memory.write m off bs) (off + i) = bs.getD i 0) ∧
    (∀ a, a < off ∨ off + bs.length ≤ a → Memory.byte (Memory.write m off bs) a = Memory.byte m a)

/-! ### Instructions of a thread -/

/-- SCALAR (R200): xRD takes the 64-bit result, the pc moves on by 8, and nothing else changes. A shift by 64 or more, the sign of SHR, MIN and MAX
and the extension of LI are free (log entry 116): the clauses state the rest. -/
def Obligations.ScalarResult : Prop :=
  ∀ (t : ThreadId) (f : Fields) (s : State), s.node.issues t.key = true →
    let th := s.node.thread t.key
    let a := th.getX f.ra.val
    let b := th.getX f.rb.val
    let done := fun (v : Nat) => (Host.Outcome.next (s.withThread t.key (th.setX f.rd.val v).next) : Host.Outcome State Fault Refusal)
    exec (.add t f) s = done ((a + b) % 2 ^ 64) ∧
    exec (.sub t f) s = done ((a + 2 ^ 64 - b) % 2 ^ 64) ∧
    exec (.mul t f) s = done (a * b % 2 ^ 64) ∧
    exec (.and t f) s = done (a &&& b) ∧
    exec (.or t f) s = done (a ||| b) ∧
    exec (.xor t f) s = done (a ^^^ b) ∧
    (∃ v, exec (.shl t f) s = done v ∧ (b < 64 → v = a * 2 ^ b % 2 ^ 64)) ∧
    (∃ v, exec (.shr t f) s = done v ∧ (b < 64 → a < 2 ^ 63 → v = a / 2 ^ b)) ∧
    (∃ v, exec (.min t f) s = done v ∧ (v = a ∨ v = b) ∧ (a < 2 ^ 63 → b < 2 ^ 63 → v = Nat.min a b)) ∧
    (∃ v, exec (.max t f) s = done v ∧ (v = a ∨ v = b) ∧ (a < 2 ^ 63 → b < 2 ^ 63 → v = Nat.max a b)) ∧
    (∃ v, exec (.li t f) s = done v ∧ v % 2 ^ 32 = f.imm.toNat ∧ (f.imm.toNat < 2 ^ 31 → v = f.imm.toNat))

/-- x0 reads 0 and writes to it are ignored; a write of another scalar register, or of a vector register lane by lane, is read back and changes that
register only (Table 7-1). -/
def Obligations.ThreadRegisters : Prop :=
  ∀ (th : Thread) (i j v : Nat) (lanes : List Nat),
    th.getX 0 = 0 ∧ th.setX 0 v = th ∧ (i ≠ 0 → (th.setX i v).getX i = v % 2 ^ 64) ∧ (j ≠ i → (th.setX i v).getX j = th.getX j) ∧
    (th.setX i v).pc = th.pc ∧ (th.setX i v).v = th.v ∧ (th.setX i v).acc = th.acc ∧
    (lanes.length = 64 → i < 16 → (th.setV i lanes).getV i = lanes ∧ (j ≠ i → (th.setV i lanes).getV j = th.getV j) ∧ (th.setV i lanes).x = th.x ∧
      (th.setV i lanes).pc = th.pc ∧ (th.setV i lanes).acc = th.acc)

/-- CONTROL (R200): BR and a taken BRC go to the branch's target, which is free (log entry 115), an untaken BRC to the next instruction; LOOP writes
at most its register and the pc. FENCE.L, FENCE.F and FENCE.N (R196): a fence whose accesses have completed lets the thread move on, and changes nothing
else; one whose accesses have not leaves the state as it is. -/
def Obligations.ControlAndFences : Prop :=
  ∀ (t : ThreadId) (f : Fields) (s : State), s.node.issues t.key = true →
    let th := s.node.thread t.key
    let on := (Host.Outcome.next (s.withThread t.key th.next) : Host.Outcome State Fault Refusal)
    exec (.br t f) s = .next (s.withThread t.key { th with pc := branchTarget th.pc f.imm.toNat }) ∧
    exec (.brc t f) s = .next (s.withThread t.key
      { th with pc := if branchTaken f.mod.val (th.getX f.ra.val) (th.getX f.rb.val) then branchTarget th.pc f.imm.toNat else (th.pc + 8) % 2 ^ 32 }) ∧
    (∃ v pc, pc < 2 ^ 32 ∧ exec (.loop t f) s = .next (s.withThread t.key { th.setX f.rd.val v with pc := pc })) ∧
    exec (.fenceL t f) s = on ∧
    (th.remoteOut = 0 → exec (.fenceF t f) s = on) ∧ (th.remoteOut ≠ 0 → exec (.fenceF t f) s = .next s) ∧
    (th.tokensOut = [] → exec (.fenceN t f) s = on) ∧ (th.tokensOut ≠ [] → exec (.fenceN t f) s = .next s)

/-- END (R186): the thread's state reads 0 again, its scratch window too; every byte outside the window is as before. Of a tenant item every row and
head must be written (R202). -/
def Obligations.EndResult : Prop :=
  ∀ (t : ThreadId) (f : Fields) (s : State), s.node.issues t.key = true →
    (∀ q it, s.node.itemOf (s.node.thread t.key) = some (q, it) → (s.node.thread t.key).program.isSome = true →
      ∀ e ∈ it.rowHeads q.req, e ∈ (s.node.thread t.key).written) →
    ∃ u m, exec (.endItem t f) s = .next { s with node := s.node.setThread t.key u, mem := m } ∧
      u.ended = true ∧ u.pc = 0 ∧ (∀ i, u.getX i = 0) ∧ (∀ r c, u.getAcc r c = 0) ∧ (∀ i, i < 16 → ∀ l ∈ u.getV i, l = 0) ∧
      (∀ a, threadWindow t ≤ a → a < threadWindow t + 8192 → Memory.byte m a = 0) ∧
      (∀ a, a < threadWindow t ∨ threadWindow t + 8192 ≤ a → Memory.byte m a = Memory.byte s.mem a)

/-- VECTOR (R200, R201): what each lane of vRD holds; the pc moves on by 8, and nothing else changes. -/
def Obligations.VectorResult : Prop :=
  ∀ (t : ThreadId) (f : Fields) (s : State), s.node.issues t.key = true →
    let th := s.node.thread t.key
    let a := th.getV f.ra.val
    let b := th.getV f.rb.val
    let d := th.getV f.rd.val
    let done := fun (v : List Nat) => (Host.Outcome.next (s.withThread t.key (th.setV f.rd.val v).next) : Host.Outcome State Fault Refusal)
    (∃ v, exec (.vadd t f) s = done v ∧ v.length = 64 ∧ ∀ l, l < 64 → v.getD l 0 = f32Add (a.getD l 0) (b.getD l 0)) ∧
    (∃ v, exec (.vmul t f) s = done v ∧ v.length = 64 ∧ ∀ l, l < 64 → v.getD l 0 = f32Mul (a.getD l 0) (b.getD l 0)) ∧
    (∃ v, exec (.vfma t f) s = done v ∧ v.length = 64 ∧ ∀ l, l < 64 → v.getD l 0 = f32Fma (a.getD l 0) (b.getD l 0) (d.getD l 0)) ∧
    (∃ v, exec (.vmax t f) s = done v ∧ v.length = 64 ∧ ∀ l, l < 64 → v.getD l 0 = f32Max (a.getD l 0) (b.getD l 0)) ∧
    (∃ v, exec (.vsel t f) s = done v ∧ v.length = 64 ∧ ∀ l, l < 64 → v.getD l 0 = a.getD l 0 ∨ v.getD l 0 = b.getD l 0) ∧
    (∃ v, exec (.vbcast t f) s = done v ∧ v.length = 64 ∧ ∀ l, l < 64 → v.getD l 0 = v.getD 0 0) ∧
    (∃ v, exec (.vredmax t f) s = done v ∧ v.length = 64 ∧ v.getD 0 0 = a.foldl f32Max f32NegInf) ∧
    (∃ v, exec (.vredsum t f) s = done v ∧ v.length = 64 ∧
      v.getD 0 0 = accumulate 0 (a.map f32Val) (List.replicate 64 (.fin false 1 0))) ∧
    (∃ v, exec (.vexp2 t f) s = done v ∧ v.length = 64 ∧ ∀ l, l < 64 → v.getD l 0 = f32Exp2 (a.getD l 0)) ∧
    (∃ v, exec (.vtanh t f) s = done v ∧ v.length = 64 ∧ ∀ l, l < 64 → v.getD l 0 = Config.tanh (a.getD l 0) % 2 ^ 32) ∧
    (∃ v, exec (.vcvt t f) s = done v ∧ v.length = 64 ∧ (f.fmt.val = 1 → ∀ l, l < 64 → v.getD l 0 = f32ToBf16 (a.getD l 0)))

/-- MATRIX (R200, R201): MMA adds to every element of ACC the accumulation of the products of a row of tRA and a row of tRB, in the formats for which R201
gives K; ACC.CLR leaves zeros; ACC.RD reads two rows, which two is free (log entry 118). -/
def Obligations.MatrixResult : Prop :=
  ∀ (t : ThreadId) (f : Fields) (s : State), s.node.issues t.key = true →
    let th := s.node.thread t.key
    (∃ u, exec (.mma t f) s = .next (s.withThread t.key u) ∧ u.x = th.x ∧ u.v = th.v ∧ u.pc = (th.pc + 8) % 2 ^ 32 ∧
      (1 ≤ f.fmt.val → f.fmt.val ≤ 4 → ∀ r c, r < 32 → c < 32 → u.getAcc r c =
        accumulate (th.getAcc r c) ((s.node.tile t.key f.ra.val).row f.fmt.val r) ((s.node.tile t.key f.rb.val).row f.fmt.val c))) ∧
    (∃ u, exec (.accClr t f) s = .next (s.withThread t.key u) ∧ u.x = th.x ∧ u.v = th.v ∧ u.pc = (th.pc + 8) % 2 ^ 32 ∧ ∀ r c, u.getAcc r c = 0) ∧
    (∃ p, p < 16 ∧ exec (.accRd t f) s = .next (s.withThread t.key
      (th.setV f.rd.val ((List.range 64).map fun l => th.getAcc (2 * p + l / 32) (l % 32))).next))

/-- LD, LDV and TLD.MEM (R200, R205) of on-die memory that Table 7-3 allows, aligned: the register takes the bytes at the address, and memory is as before.
How far a narrow LD extends is free (log entry 111), and so is the scale field that TLD.MEM leaves (log entry 114). -/
def Obligations.LoadResult : Prop :=
  ∀ (t : ThreadId) (f : Fields) (s : State) (off : Nat), s.node.issues t.key = true →
    let th := s.node.thread t.key
    let at_ := th.address f
    (at_ % ldBytes f.mod.val = 0 → s.node.reach t at_ (ldBytes f.mod.val) false = .mem off →
      exec (.ld t f) s = .next (s.withThread t.key (th.next.setX f.rd.val (ldExtend f.mod.val (Memory.read s.mem off (ldBytes f.mod.val)))))) ∧
    (at_ % 256 = 0 → s.node.reach t at_ 256 false = .mem off →
      ∃ v, exec (.ldv t f) s = .next (s.withThread t.key (th.next.setV f.rd.val v)) ∧ v.length = 64 ∧
        ∀ l, l < 64 → v.getD l 0 = leNat (Memory.read s.mem (off + 4 * l) 4)) ∧
    (at_ % 2048 = 0 → s.node.reach t at_ 2048 false = .mem off → f.rd.val < th.tiles.length →
      ∃ n, exec (.tldMem t f) s = .next (s.withNode n) ∧ (n.tile t.key f.rd.val).data = Memory.read s.mem off 2048 ∧
        n.thread t.key = th.next)

/-- ST, STV and TST (R200, R205) to on-die memory that Table 7-3 allows, aligned: the stored bytes are those of the register from the address on, every
other byte is as before, and the thread only moves on. -/
def Obligations.StoreResult : Prop :=
  ∀ (t : ThreadId) (f : Fields) (s : State) (off : Nat), s.node.issues t.key = true →
    let th := s.node.thread t.key
    let at_ := th.address f
    let stores := fun (c : Instr) (data : Bytes) =>
      ∃ m, exec c s = .next { s with node := s.node.setThread t.key th.next, mem := m } ∧
        (∀ i, i < data.length → Memory.byte m (off + i) = data.getD i 0) ∧
        (∀ a, a < off ∨ off + data.length ≤ a → Memory.byte m a = Memory.byte s.mem a)
    (at_ % ldBytes f.mod.val = 0 → s.node.reach t at_ (ldBytes f.mod.val) true = .mem off →
      stores (.st t f) (leBytes (ldBytes f.mod.val) (th.getX f.rb.val))) ∧
    (at_ % 256 = 0 → s.node.reach t at_ 256 true = .mem off → stores (.stv t f) ((th.getV f.rb.val).flatMap (leBytes 4))) ∧
    (at_ % 2048 = 0 → s.node.reach t at_ 2048 true = .mem off →
      stores (.tst t f) (padTo 2048 (s.node.tile t.key f.rb.val).data))

/-- Table 7-3 (R193): what an address of a tenant program's store or load may name on the own node is its scratch window, its item's payload (to read), or a
mailbox page of its session; of a built-in program on-die memory outside code areas, of its own region or in staging. -/
def Obligations.ReachTable : Prop :=
  ∀ (n : Node) (t : ThreadId) (addr len : Nat) (write : Bool), 0 < len →
    (∀ off, n.reach t addr len write = .mem off →
      off = addr % 2 ^ 51 ∧ addr / 2 ^ 51 % 8 = 3 ∧ addr / 2 ^ 54 % 1024 = n.straps ∧ inCode off = false ∧
      ((n.thread t.key).program.isSome = true → threadWindow t ≤ off ∧ off + len ≤ threadWindow t + 8192) ∧
      ((n.thread t.key).program.isSome = false → regionOf off = t.region.val ∨ areaOf off = 2)) ∧
    (∀ off, n.reach t addr len write = .payload off → write = false) ∧
    (∀ x b, n.reach t addr len write = .box x b → x = (n.thread t.key).session ∧ addr / 2 ^ 51 % 8 = 5) ∧
    (n.reach t addr len write = .away → addr / 2 ^ 54 % 1024 ≠ n.straps ∧
      ((n.thread t.key).program.isSome = true → addr / 2 ^ 51 % 8 = 5))

/-- A tenant program changes no byte of on-die memory outside its own scratch window (R193), by whichever instruction. -/
def Obligations.TenantWritesOwnWindow : Prop :=
  ∀ (t : ThreadId) (f : Fields) (errs : List LineErr) (op : BitVec 8) (a : NbArgs) (c : Instr) (s s' : State),
    c ∈ [Instr.st t f, .stv t f, .tst t f, .endItem t f, .ld t f, .ldv t f, .tldMem t f, .tldPage t f errs, .tldWeight t f errs,
         .nbc t f op a, .partWr t f, .iarg t f, .fenceL t f, .fenceF t f, .fenceN t f, .mma t f, .accClr t f, .accRd t f, .br t f, .brc t f,
         .loop t f, .add t f, .sub t f, .mul t f, .and t f, .or t f, .xor t f, .shl t f, .shr t f, .min t f, .max t f, .li t f, .vadd t f,
         .vmul t f, .vfma t f, .vmax t f, .vsel t f, .vbcast t f, .vredmax t f, .vredsum t f, .vexp2 t f, .vtanh t f, .vcvt t f] →
    (s.node.thread t.key).program.isSome = true → exec c s = .next s' →
    ∀ b, b < threadWindow t ∨ threadWindow t + 8192 ≤ b → Memory.byte s'.mem b = Memory.byte s.mem b

/-- A program fault (R213): a tenant item's misaligned access, one outside Table 7-3, and its NBC trap with FORMAT and DETAIL 0x40. -/
def Obligations.ProgramFault : Prop :=
  ∀ (t : ThreadId) (f : Fields) (op : BitVec 8) (a : NbArgs) (s : State), s.node.issues t.key = true →
    (s.node.thread t.key).program.isSome = true →
    let at_ := (s.node.thread t.key).address f
    let traps := fun (c : Instr) => exec c s = .next (s.withNode (s.node.trap s.clock.tick t.key 0x0701 0x40))
    (at_ % ldBytes f.mod.val ≠ 0 ∨ s.node.reach t at_ (ldBytes f.mod.val) false = .fault → traps (.ld t f)) ∧
    (at_ % ldBytes f.mod.val ≠ 0 ∨ s.node.reach t at_ (ldBytes f.mod.val) true = .fault → traps (.st t f)) ∧
    (at_ % 256 ≠ 0 ∨ s.node.reach t at_ 256 false = .fault → traps (.ldv t f)) ∧
    (at_ % 256 ≠ 0 ∨ s.node.reach t at_ 256 true = .fault → traps (.stv t f)) ∧
    traps (.nbc t f op a)

/-- TLD.PAGE (R203): the sixteen tokens of the page's part land in the rows of the half tile that MOD bit 0 names, tokens past those the view holds as zeros;
the other half's rows, and every register, are as before. `n1` and `rows` are what the operand port reads. Without TRANSPOSE; parts A and B. -/
def Obligations.TldPageResult : Prop :=
  ∀ (t : ThreadId) (f : Fields) (errs : List LineErr) (s : State) (q : Admitted) (it : Item) (v : ViewPage) (n1 : Node) (k : Nat) (rows : List Bytes),
    s.node.issues t.key = true →
    let th := s.node.thread t.key
    let sq := s.node.seq (seqLocal q.req.seqId)
    let elem := elemOf sq.format
    let d := s.node.page v.page
    let run := pageRun elem sq.aBytes sq.bBytes (f.imm.toNat % 4) (th.getX f.rb.val)
    let half := f.mod.val % 2
    s.node.itemOf th = some (q, it) → it.view[th.getX f.ra.val]? = some v →
    f.imm.toNat % 4 < 2 → f.fmt.val = elem → 1 ≤ elem → elem ≤ 4 → th.getX f.rb.val % tileK elem = 0 → bitOf f.mod.val 1 = false →
    f.rd.val < th.tiles.length → n1.thread t.key = th → (n1.tile t.key f.rd.val).data.length = 2048 →
    s.node.portLines s.clock.tick q.slice v.page (th.session, th.request) errs
      ((d.runLines run).map fun l => (l, d.t1.getD 0 * 256 + l)) = (.good, k, n1) →
    n1.runBytes d run = .ok rows →
    ∃ n, exec (.tldPage t f errs) s = .next (s.withNode n) ∧
      (∀ r, r < 16 → sliceB (n.tile t.key f.rd.val).data (64 * (r + 16 * half)) 64 =
        (widenRow elem (if r < v.tokens then rows.getD r [] else List.replicate (rows.getD r []).length 0)).1) ∧
      (∀ r, r < 16 → sliceB (n.tile t.key f.rd.val).data (64 * (r + 16 * (1 - half))) 64 =
        sliceB (n1.tile t.key f.rd.val).data (64 * (r + 16 * (1 - half))) 64) ∧
      (n.thread t.key).pc = (th.pc + 8) % 2 ^ 32 ∧ (n.thread t.key).x = th.x ∧ (n.thread t.key).v = th.v ∧ (n.thread t.key).acc = th.acc

/-- TLD.WEIGHT (R205) from a matrix in STATE READY that is resident: row r of the tile is vector xRA + r from element xRB on, with the vector layout of
R165 (the operands' places are log entry 121). In any other state the item ends with WEIGHT_LOST. -/
def Obligations.TldWeightResult : Prop :=
  ∀ (t : ThreadId) (f : Fields) (errs : List LineErr) (s : State) (q : Admitted) (it : Item),
    s.node.issues t.key = true →
    let th := s.node.thread t.key
    let m := s.node.model q.req.model
    let kind := f.imm.toNat % 4
    let di := m.descIndex q.req.lay kind
    let w := s.node.weight di
    s.node.itemOf th = some (q, it) → m.latent = true → kind = 1 ∨ kind = 2 →
    (w.state ≠ 2 → exec (.tldWeight t f errs) s = .next (s.withNode (s.node.endWithNotice s.clock.tick q.req.key 0x0400 4))) ∧
    (w.state = 2 → w.res = 1 → f.fmt.val = w.wformat → th.getX f.rb.val % tileK w.wformat = 0 →
      let count := if kind = 1 then m.dQk else m.dLat
      let vb := vecBytes w.wformat count
      let lo := vecBytes w.wformat (th.getX f.rb.val)
      let len := vecBytes w.wformat (Nat.min (th.getX f.rb.val + tileK w.wformat) count) - lo
      let lines := ((List.range 32).flatMap fun r =>
        let o := (th.getX f.ra.val + r) * vb + lo
        (List.range ((o + len - 1) / 64 + 1 - o / 64)).map fun i => o / 64 + i).eraseDups
      th.getX f.ra.val + 32 ≤ m.qHeads * (if kind = 1 then m.dLat else m.dV) → th.getX f.rb.val < count →
      ∀ (n1 : Node) (k : Nat),
        s.node.portLines s.clock.tick w.slice di (th.session, th.request) errs
          (lines.map fun l => (l, w.slots.getD (l / 256) 0 * 256 + l % 256)) = (.good, k, n1) →
        ∃ n x, exec (.tldWeight t f errs) s = .next (s.withNode n) ∧ n = (n1.retire t.key id).setTile t.key f.rd.val x ∧
          x = (((n1.tile t.key f.rd.val).landRows w.wformat 0 false
                ((List.range 16).map fun r => n1.weightData w ((th.getX f.ra.val + r) * vb + lo) len) []).landRows w.wformat 1 false
                ((List.range 16).map fun r => n1.weightData w ((th.getX f.ra.val + (16 + r)) * vb + lo) len) []))

/-- IARG (R202): xRD takes the field of Table 7-8 that IMM names. PART.WR (R202, R178): a row and head of the item that is not yet written gets its partial,
with m and l the first two lanes of vRD (log entry 123); written twice by a tenant program it is a program fault (R213). -/
def Obligations.ItemInstructions : Prop :=
  (∀ (t : ThreadId) (f : Fields) (s : State) (q : Admitted) (it : Item), s.node.issues t.key = true →
    s.node.itemOf (s.node.thread t.key) = some (q, it) →
    let th := s.node.thread t.key
    let i := f.imm.toNat
    ∃ v, exec (.iarg t f) s = .next (s.withThread t.key (th.setX f.rd.val v).next) ∧
      (i = 0 → v = it.num) ∧ (i = 1 → v = it.view.length) ∧
      (i = 2 → v = ((it.view.filter fun p => p.state == PState.code .tail).map fun p => p.tokens).sum) ∧
      (i = 3 → v = if q.req.op = opAttendAppend ∧ it.last then q.tokens else 0) ∧
      (i = 4 → v = q.req.rows) ∧ (i = 5 → v = it.head0) ∧ (i = 6 → v = it.heads) ∧ (i = 7 → v = it.track) ∧ (i = 8 → v = it.pos) ∧
      (i = 9 → v = it.budget) ∧ (i = 11 → q.req.tenantProg = false → v = 0) ∧
      (∀ p, 16 ≤ i → it.view[i - 16]? = some p → v = (s.node.seq (seqLocal q.req.seqId)).spanBase + 16 * p.index)) ∧
  (∀ (t : ThreadId) (f : Fields) (s : State) (q : Admitted) (it : Item), s.node.issues t.key = true →
    let th := s.node.thread t.key
    let e := (th.getX f.ra.val, th.getX f.rb.val)
    s.node.itemOf th = some (q, it) → e ∈ it.rowHeads q.req →
    (e ∉ th.written →
      ∃ p : Partial, p.row = e.1 ∧ p.head = e.2 ∧ p.m = (th.getV f.rd.val).getD 0 0 ∧ p.l = (th.getV f.rd.val).getD 1 0 ∧
        p.o.length = (s.node.model q.req.model).dAcc ∧
        exec (.partWr t f) s = .next (s.withNode ((s.node.setItem q.req.key it.num fun i => { i with partials := i.partials ++ [p] }).retire t.key
          fun th => { th with written := th.written ++ [e] }))) ∧
    (e ∈ th.written → th.program.isSome = true →
      exec (.partWr t f) s = .next (s.withNode (s.node.trap s.clock.tick t.key 0x0701 0x40))))

/-- NBC (R263): a built-in item's command that Table 10-6 allows enters the queue of every channel that its lines touch, behind what waits there, and the
thread waits for one token more. -/
def Obligations.NbcResult : Prop :=
  ∀ (t : ThreadId) (f : Fields) (op : BitVec 8) (a : NbArgs) (s : State), s.node.issues t.key = true →
    (s.node.thread t.key).program = none → nbAllowed op.toNat a = true →
    ∃ n, exec (.nbc t f op a) s = .next (s.withNode n) ∧
      (n.thread t.key).tokensOut = (s.node.thread t.key).tokensOut ++ [s.node.stk.cmdNext] ∧
      (n.thread t.key).pc = ((s.node.thread t.key).pc + 8) % 2 ^ 32 ∧ n.stk.lines = s.node.stk.lines ∧
      ∀ ch ∈ nbChannels a, ∃ c : NbCommand, c.op = op.toNat ∧ c.args = a ∧ c.id = s.node.stk.cmdNext ∧ c.done = 0 ∧
        Map.get [] n.stk.queues (a.stack.val * 32 + ch) = Map.get [] s.node.stk.queues (a.stack.val * 32 + ch) ++ [c]

/-! ### Near-bank units -/

/-- The near-bank rows with their OP and the ARG their row fixes (Table 10-6). -/
def Sys2Proof.nbRows : List ((NbArgs → Instr) × Nat × (NbArgs → NbArgs)) :=
  [(.nbZero, 1, fun c => { c with arg := 0 }), (.nbZeroSlot, 1, fun c => { c with arg := 1 }), (.nbZeroChannel, 1, fun c => { c with arg := 2 }),
   (.nbFill, 2, id), (.nbCopy, 3, id), (.nbAdd, 4, id), (.nbMul, 5, id), (.nbAxpy, 6, id), (.nbActRelu, 7, fun c => { c with arg := 0 }),
   (.nbActSilu, 7, fun c => { c with arg := 1 }), (.nbActGeluTanh, 7, fun c => { c with arg := 2 }), (.nbActSigmoid, 7, fun c => { c with arg := 3 }),
   (.nbActExp2, 7, fun c => { c with arg := 4 }), (.nbActSoftcap, 7, fun c => { c with arg := 5 }), (.nbConvert, 8, id), (.nbRotatePair, 9, id)]

/-- A near-bank command (R264, R270): allowed, with every source line in its domain, it writes its lines, returns its fence token with STATUS 0, or 1 where poison
was written, and counts in COMMANDS; memory and threads are as before. One whose formats or ARG differ from Table 10-6 is refused at the queue: STATUS 4,
and no line is written. -/
def Obligations.NbCommands : Prop :=
  ∀ e ∈ nbRows, ∀ (c : NbArgs) (s : State), s.node.stopped = false →
    let a := e.2.2 c
    let r := ({ s.node with stk := { s.node.stk with cmdNext := s.node.stk.cmdNext + 1 } } : Node).nbRun e.2.1 a (List.range c.lines.toNat)
    (nbAllowed e.2.1 a = true → r.stopped = none →
      ∃ n tk, exec (e.1 c) s = .next (s.withNode n) ∧ n.stk.lines = r.node.stk.lines ∧ n.stk.fills = r.node.stk.fills ∧
        tk ∈ n.stk.tokens ∧ tk.fenceId = a.fenceId.toNat ∧ tk.status = (if r.poisoned then 1 else 0) ∧ tk.linesDone = r.done ∧
        n.cells = r.node.cells ∧ n.reg Reg.commands = (r.node.reg Reg.commands + 1) % 2 ^ 64) ∧
    (nbAllowed e.2.1 a = false →
      ∃ n tk, exec (e.1 c) s = .next (s.withNode n) ∧ n.stk.lines = s.node.stk.lines ∧ n.stk.fills = s.node.stk.fills ∧
        tk ∈ n.stk.tokens ∧ tk.fenceId = a.fenceId.toNat ∧ tk.status = 4 ∧ tk.linesDone = 0)

/-- What one line of each element operation gives where its sources are good (R264, R265): the destination `d`, the source `x`. -/
def Obligations.NbLineResult : Prop :=
  ∀ (n : Node) (a : NbArgs) (i : Nat) (d x : BitVec 512),
    let base := a.stack.val * 2 ^ 30
    let bf := a.sfmt.toNat == 1
    let sc := a.scalar.toNat
    n.nbLine 2 a i = .ok (fillLine sc, false) ∧ n.nbLine 1 a i = .ok (0, false) ∧
    (n.nbSource a (base + (a.dst.toNat + i) % 2 ^ 30) = .data d false →
      (a.src.toNat = 0xFFFFFFFE → n.nbLine 5 a i = .ok (mapLine bf d 0 (fun y _ => f32Mul y sc), false)) ∧
      (a.src.toNat < 2 ^ 30 → n.nbSource a (base + (a.src.toNat + i) % 2 ^ 30) = .data x false →
        n.nbLine 4 a i = .ok (mapLine bf d x f32Add, false) ∧ n.nbLine 5 a i = .ok (mapLine bf d x f32Mul, false) ∧
        n.nbLine 6 a i = .ok (mapLine bf d x (fun y z => f32Fma sc z y), false))) ∧
    (a.src.toNat < 2 ^ 30 → n.nbSource a (base + (a.src.toNat + i) % 2 ^ 30) = .data x false →
      n.nbLine 3 a i = .ok (x, false) ∧ n.nbLine 7 a i = .ok (mapLine bf x 0 (fun y _ => nbAct a.arg.toNat y sc), false))

/-- FILL and ZERO reach every line of their run and no other (R264): each line of the run holds the pattern, or zeros, with the TAG's fields of R266. -/
def Obligations.NbFillLines : Prop :=
  ∀ (c : NbArgs) (s : State), s.node.stopped = false →
    let base := c.stack.val * 2 ^ 30
    let fills := fun (i : Instr) (d : BitVec 512) =>
      ∃ n, exec i s = .next (s.withNode n) ∧
        (∀ l, l < c.lines.toNat → (n.line (base + (c.dst.toNat + l) % 2 ^ 30)).data = d) ∧
        (∀ k, (∀ l, l < c.lines.toNat → k ≠ base + (c.dst.toNat + l) % 2 ^ 30) → n.line k = s.node.line k)
    (nbAllowed 2 c = true → fills (.nbFill c) (fillLine c.scalar.toNat)) ∧
    (nbAllowed 1 { c with arg := 0 } = true → fills (.nbZero c) 0)

/-- STROKE_END (R268, R269): the next command of the channel, of class W before M, runs at most 64 more of its lines in the channel; while lines of it are left
it stays queued, and after its last line its token returns. REFRESH_BURST (R274): at a boundary of the stack's schedule the burst is run and counted, once; at any
other boundary nothing happens. -/
def Obligations.StrokesAndBursts : Prop :=
  (∀ (st : Fin 16) (ch : Fin 32) (s : State) (c : NbCommand), s.node.stopped = false →
    s.node.stk.queues = [(st.val * 32 + ch.val, [c])] → c.op = 2 → c.args.stack = st → c.issuer < 2 ^ 52 →
    nbChannels c.args = [ch.val] → nbAllowed 2 c.args = true → c.done ≤ c.args.lines.toNat → (nbLinesIn c.args ch.val).length = c.args.lines.toNat →
    ∃ n, exec (.strokeEnd st ch) s = .next (s.withNode n) ∧
      (∀ l ∈ ((nbLinesIn c.args ch.val).drop c.done).take 64, (n.line (st.val * 2 ^ 30 + (c.args.dst.toNat + l) % 2 ^ 30)).data = fillLine c.args.scalar.toNat) ∧
      (c.done + 64 < c.args.lines.toNat → n.stk.queues = [(st.val * 32 + ch.val, [{ c with done := c.done + 64 }])]) ∧
      (c.args.lines.toNat ≤ c.done + 64 → n.stk.queues = [] ∧
        ∃ tk ∈ n.stk.tokens, tk.fenceId = c.args.fenceId.toNat ∧ tk.linesDone = c.args.lines.toNat ∧ tk.status = if c.poisoned then 1 else 0)) ∧
  (∀ (st : Fin 16) (s : State),
    let due := 2 * st.val ≤ s.clock.tick ∧ (s.clock.tick - 2 * st.val) % 36 = 0
    (due → Map.get 0 s.node.stk.lastBurst st.val ≠ s.clock.tick + 1 →
      ∃ n, exec (.refreshBurst st) s = .next (s.withNode n) ∧ n.reg Reg.bursts = (s.node.reg Reg.bursts + 1) % 2 ^ 64 ∧ n.stk.lines = s.node.stk.lines ∧
        exec (.refreshBurst st) (s.withNode n) = .next (s.withNode n)) ∧
    (¬due → exec (.refreshBurst st) s = .next s))

/-! ### Time and rounds -/

/-- TICK_EDGE (R30 to R34): an invalid pulse, or one within 950 ns of the last, changes nothing of the time unit; a Marker starts a frame; each pulse
behind it brings one bit; an edge that ends no frame changes its input only; the first two agreeing frames set the count, 64 ticks on from the number. -/
def Obligations.TickEdges : Prop :=
  ∀ (i : TickIn) (ns width : Nat) (s : State),
    let ti := s.node.time.input i
    let e := ti.edge ns width (s.clock.countAt ns)
    let near := ∀ l, ti.lastEdge = some l → l + 950 ≤ ns ∧ ns ≤ l + 1050
    (e.2 = none → ∃ n, exec (.tickEdge i ns width) s = .next (s.withNode n) ∧ n.time = s.node.time.setInput i e.1 ∧ n.adm = s.node.adm) ∧
    (pulseOf width = .invalid ∨ (∃ l, ti.lastEdge = some l ∧ ns < l + 950) → e = (ti, none)) ∧
    (pulseOf width = .marker → near → e.2 = none ∧ e.1.inFrame = true ∧ e.1.pos = 0 ∧ e.1.lastEdge = some ns ∧ e.1.missed = 0) ∧
    (∀ b, (pulseOf width = .short ∧ b = 0) ∨ (pulseOf width = .long ∧ b = 1) → near → ti.inFrame = true → ti.pos < 64 →
      e.1.bits = 2 * ti.bits + b ∧ e.1.pos = ti.pos + 1 ∧ e.2 = if ti.pos = 63 then some (2 * ti.bits + b) else none) ∧
    (∀ v, s.node.time.counted = false → e.2 = some v → e.1.prevFrame = some ((v + 2 ^ 64 - 4096) % 2 ^ 64) →
      ∃ n, exec (.tickEdge i ns width) s = .next { s with node := n, clock := { tick := (v + 64) % 2 ^ 64, boundaryNs := ns } } ∧
        n.time.counted = true ∧ n.time.selected = tickNum i ∧ (n.time.input i).locked = true)

/-- MISSED_TICK, INPUT_LOST (R36), HOLDOVER_LIMIT (R38) and TICK_PRIMARY_WRITE (R37). -/
def Obligations.TickLoss : Prop :=
  ∀ (i : TickIn) (s : State),
    let ti := s.node.time.input i
    let other := s.node.time.input (otherTick i)
    (s.node.time.switchPending = none → ∃ n, exec (.missedTick i) s = .next (s.withNode n) ∧ (n.time.input i).missed = ti.missed + 1 ∧
      (n.time.input i).prevFrame = none ∧ n.time.input (otherTick i) = other ∧ n.time.selected = s.node.time.selected ∧ n.regs = s.node.regs) ∧
    (9 ≤ ti.missed → ti.locked = true →
      ∃ n, exec (.inputLost i) s = .next (s.withNode n) ∧ (n.time.input i).locked = false ∧
        (s.node.time.selected ≠ tickNum i → n.time.selected = s.node.time.selected ∧ n.time.holdover = s.node.time.holdover) ∧
        (s.node.time.selected = tickNum i → other.locked = true → s.node.skewed = false →
          n.time.switchPending = some (otherTick i) ∧ n.time.selected = tickNum i) ∧
        (s.node.time.selected = tickNum i → other.locked = false → n.time.selected = 0 ∧ n.time.holdover = true ∧
          n.time.holdoverStart = s.clock.tick ∧ n.time.limit = s.node.reg Reg.holdoverLimit)) ∧
    (s.node.time.holdover = true → s.node.time.holdoverStart + s.node.time.limit ≤ s.clock.tick → s.node.inRounds = true →
      s.node.st = stPreop ∨ s.node.st = stOperational → (s.node.adm.admitted.map fun q => q.req.key).Nodup →
      ∃ n, exec .holdoverLimit s = .next (s.withNode n) ∧ n.st = stHold ∧ n.reg Reg.outOfRounds = 1 ∧ n.unfinished = []) ∧
    (∀ (via : Via) (v : BitVec 8), s.accepts (.tickPrimaryWrite via v) via 0x1100 4 [v] fun n =>
      n.reg Reg.tickPrimary = v.toNat ∧
      (s.node.time.selected ≠ v.toNat → s.node.time.selected ≠ 0 → s.node.time.a.locked = true → s.node.time.b.locked = true → s.node.skewed = false →
        n.time.switchPending = some (if v.toNat = 1 then .a else .b)))

/-- TICK_BOUNDARY (R43): the count advances by 1 modulo 2^64, the boundary by 1,000 ns, and a tick input that waits for the boundary takes over (R36).
ROUND_BOUNDARY (R47): every next-round entry takes its pending value and no other of them changes (R61); at a tick that begins no round nothing happens. -/
def Obligations.Boundaries : Prop :=
  ∀ (m : Sensors) (s : State),
    (∃ n, exec (.tickBoundary m) s = .next { s with clock := { tick := (s.clock.tick + 1) % 2 ^ 64, boundaryNs := s.clock.boundaryNs + 1000 }, node := n } ∧
      (∀ i, s.node.time.switchPending = some i → (s.node.time.input i).locked = true →
        n.time.selected = tickNum i ∧ n.time.switchPending = none)) ∧
    (s.node.isRound s.clock.tick = true → (s.node.nextRound.map (·.1)).Nodup →
      ∃ t, exec .roundBoundary s = .next t ∧ t.clock.tick = s.clock.tick ∧ t.mem = s.mem ∧ t.node.nextRound = [] ∧
        t.node.power.round = s.node.roundAt s.clock.tick ∧
        ∀ k ∈ nextRoundKeys, t.node.reg k = (Map.find s.node.nextRound k).getD (s.node.reg k)) ∧
    (s.node.isRound s.clock.tick = false → exec .roundBoundary s = .next s)

/-! ### The dictionary and staged changes -/

/-- OBJECT_WRITE of an entry of one value (R53, R61, R493, R501): an immediate entry holds the value, a next-round or RWS entry holds it pending or
staged and keeps its active value, a W1C entry clears the bits written. A write with another status than OK changes no entry, and is answered with it. -/
def Obligations.EntryWrite : Prop :=
  ∀ (via : Via) (index : BitVec 16) (sub : BitVec 8) (value : Bytes) (e : Entry) (s : State),
    let k := dkey index.toNat sub.toNat
    let now := s.clock.tick
    let st := (s.node.noteAwl via).writeStatus via false index.toNat sub.toNat value
    s.node.reachable via.src = true → s.node.seen via.src via.seq.toNat now = .fresh →
    (st = svOk → Dict.entry index.toNat sub.toNat = some e → k ≠ Reg.fwStaged → k ≠ Reg.resetReq → k ≠ Reg.commitState →
      (s.node.noteAwl via).commandA now via.throughAwl k value = none → (s.node.noteAwl via).commandB now k value = none →
      ∃ n : Node, exec (.objectWrite via index sub value) s = .next (s.withNode (n.acked via 0x11 now)) ∧
        (e.access = .rw → e.eff ≠ .nextRound → n.reg k = leNat value) ∧
        (e.access = .rw → e.eff = .nextRound → n.reg k = s.node.reg k ∧ Map.find n.nextRound k = some (leNat value)) ∧
        (e.access = .rws → n.reg k = s.node.reg k ∧ Map.find n.staged k = some (leNat value) ∧
          (s.node.reg Reg.commitState = 0 → n.reg Reg.commitState = 1)) ∧
        (e.access = .w1c → n.reg k = s.node.reg k &&& (256 ^ e.ty.bytes - 1 - leNat value)) ∧
        (∀ j, j ≠ k → j ≠ Reg.commitState → n.reg j = s.node.reg j)) ∧
    (st ≠ svOk → ∃ n, exec (.objectWrite via index sub value) s = .next (s.withNode n) ∧
      (∀ j, j ≠ Reg.framesRefused → n.reg j = s.node.reg j) ∧ n.staged = s.node.staged ∧ n.nextRound = s.node.nextRound)

/-- A command that comes a second time within DEDUP_TICKS is answered from the cache and changes no entry but DUPLICATES (R491); one over a ring that is
LOST, or through function 0 with its link down, does not come (R485, R529). -/
def Obligations.CommandOnce : Prop :=
  ∀ (via : Via) (index : BitVec 16) (sub : BitVec 8) (value : Bytes) (s : State) (p : Bytes),
    (s.node.reachable via.src = false → exec (.objectWrite via index sub value) s = .next s) ∧
    (s.node.reachable via.src = true → s.node.seen via.src via.seq.toNat s.clock.tick = .again p →
      exec (.objectWrite via index sub value) s = .next (s.withNode ((s.node.bump Reg.duplicates).respond via 0x11 p))) ∧
    (∀ n : Node, (n.mgmt.cache.filter fun e => e.1 == via.src.station).length < 64 → (n.acked via 0x11 s.clock.tick).regs = n.regs ∧ (n.acked via 0x11 s.clock.tick).seqs = n.seqs ∧ (n.acked via 0x11 s.clock.tick).adm = n.adm ∧
      ((∃ st, via.src = .ringA st ∨ via.src = .ringB st) →
        (n.acked via 0x11 s.clock.tick).seen via.src via.seq.toNat s.clock.tick = .again [0, 0, 0, 0]))

/-- LAST_LOAD, ARM, DISARM and DISCARD (R51, R54, R55, R58). -/
def Obligations.StagedChange : Prop :=
  ∀ (via : Via) (s : State),
    let n0 := s.node
    let now := s.clock.tick
    let c := n0.reg Reg.commitTick
    (∀ image l, Last.parse image = .ok l → s.accepts (.lastLoad via image) via 0x1110 5 image fun n =>
      n.sched.staged = some l ∧ n.sched.active = n0.sched.active ∧ n.reg Reg.lastLoadStatus = 0 ∧ n.reg Reg.commitState ≠ 0) ∧
    (∀ image k, Last.parse image = .error k → s.accepts (.lastLoad via image) via 0x1110 5 image fun n =>
      n.sched.staged = none ∧ n.sched.active = n0.sched.active ∧ n.reg Reg.lastLoadStatus = k ∧ n.reg Reg.commitState = n0.reg Reg.commitState) ∧
    (n0.reg Reg.commitState ≠ 2 → n0.reg Reg.commitState ≠ 3 →
      s.accepts (.arm via) via 0x1120 2 [1] fun n =>
        (n0.isRound c = true → now + n0.reg Reg.armLead ≤ c →
          n.reg Reg.commitState = 2 ∧ n.reg Reg.armResult = 0 ∧ n.sched.arming.armTick = c ∧ n.sched.staged = n0.sched.staged) ∧
        (n0.isRound c = false → n.reg Reg.commitState = 4 ∧ n.reg Reg.armResult = 1 * 65536) ∧
        (n0.isRound c = true → c < now + n0.reg Reg.armLead → n.reg Reg.commitState = 4 ∧ n.reg Reg.armResult = 2 * 65536)) ∧
    (n0.reg Reg.commitState = 2 → now ≤ n0.armDeadlineTick → s.accepts (.disarm via) via 0x1120 2 [2] fun n =>
      n.reg Reg.commitState = 4 ∧ n.reg Reg.armResult = 6 * 65536 ∧ n.adm.armed = []) ∧
    (n0.reg Reg.commitState = 1 ∨ n0.reg Reg.commitState = 4 → s.accepts (.discard via) via 0x1120 2 [3] fun n =>
      n.reg Reg.commitState = 0 ∧ n.staged = [] ∧ n.sched.staged = none ∧ n.comp.stagedMap = none ∧ n.tiers.stagedQuota = none ∧
      n.sched.active = n0.sched.active)

/-- REGION_ARM_REPORT, ARM_DEADLINE (R56) and COMMIT_APPLY (R59). -/
def Obligations.ArmedChange : Prop :=
  ∀ (s : State),
    let n0 := s.node
    let now := s.clock.tick
    let a := n0.sched.arming
    (∀ (r : Fin 16) (holds : Bool), n0.reg Reg.commitState = 2 → now ≤ n0.armDeadlineTick → bitOf a.affected r.val = true → bitOf a.reported r.val = false →
      ∃ n, exec (.regionArmReport r holds) s = .next (s.withNode n) ∧ bitOf n.sched.arming.reported r.val = true ∧
        (holds = true → n0.placements.2 = [] → n0.changeReasons = [] →
          (setBit a.reported r.val true = a.affected → n.reg Reg.commitState = 3 ∧ n.adm.armed = n0.placements.1) ∧
          (setBit a.reported r.val true ≠ a.affected → n.reg Reg.commitState = 2)) ∧
        (holds = false → n.reg Reg.commitState = 4)) ∧
    (∀ r, r < 16 → bitOf a.affected r = true → bitOf a.reported r = false → n0.reg Reg.commitState = 2 → n0.armDeadlineTick ≤ now →
      ∃ n, exec .armDeadline s = .next (s.withNode n) ∧ n.reg Reg.commitState = 4 ∧ n.reg Reg.armResult / 65536 = 5 ∧ bitOf (n.reg Reg.armResult) r = true) ∧
    (∀ l, n0.reg Reg.commitState = 3 → a.armTick ≤ now → n0.sched.staged = some l → (n0.staged.map (·.1)).Nodup →
      (∀ e ∈ n0.staged, e.1 ∈ stagedKeys ∨ e.1 ∈ stagedPortKeys) →
      ∃ n, exec .commitApply s = .next (s.withNode n) ∧ n.reg Reg.commitState = 0 ∧ n.sched.active = l ∧ n.sched.staged = none ∧ n.reg Reg.lastId = l.id ∧
        n.reg Reg.roundLen = l.roundLen ∧ n.reg Reg.roundBase = a.armTick ∧ n.reg Reg.lastCommitTick = a.armTick ∧ n.staged = [] ∧
        n.reg Reg.configGen = (if n0.reg Reg.genTarget = 0 then (n0.reg Reg.configGen + 1) % 2 ^ 32 else n0.reg Reg.genTarget) ∧
        ∀ k ∈ stagedKeys, n.reg k = (Map.find n0.staged k).getD (n0.reg k))

/-! ### Requests -/

/-- DEADLINE (R65): the full tick number D that a request takes is the one whose low 40 bits are DEADLINE and that lies from A − 2^39 to A + 2^39 − 1, A its
arrival timestamp; it is the only such tick. -/
def Obligations.DeadlineResolved : Prop :=
  ∀ (r : Request) (a : Nat),
    (∀ d, d % 2 ^ 40 = r.hdr.deadline.toNat → a ≤ d + 2 ^ 39 → d ≤ a + 2 ^ 39 - 1 → r.deadlineTick a = d) ∧
    (2 ^ 39 ≤ a → r.deadlineTick a % 2 ^ 40 = r.hdr.deadline.toNat ∧ a ≤ r.deadlineTick a + 2 ^ 39 ∧ r.deadlineTick a ≤ a + 2 ^ 39 - 1) ∧
    (waitingFor (a + 1) r).deadline = r.deadlineTick a

/-- The length bucket (R72): of a request that reads a sequence's pages (an attention request, or BACKWARD in COMPUTE mode) by the largest TOKENS among the
tracks that it names; of any other request 0. -/
def Obligations.LengthBucket : Prop :=
  ∀ (n : Node) (r : Request),
    let tokens := fun (i : Nat) => ((n.seq (seqLocal r.seqId)).track i).tokens
    ((r.isAtt || r.isBackward 0) = true →
      ∀ i ∈ n.tracksOf r, (∀ j ∈ n.tracksOf r, tokens j ≤ tokens i) →
        (tokens i < 1024 → n.bucket r = 0) ∧
        (∀ k, 1024 ≤ tokens i → 2 ^ k ≤ tokens i → tokens i < 2 ^ (k + 1) → n.bucket r = Nat.min 7 (k - 9))) ∧
    ((r.isAtt || r.isBackward 0) = false → n.bucket r = 0)

/-- A request of every opcode (R63, R69, R70) enters the pool in its place by arrival where no ADMIT window is open, and is refused with NOT_ADMITTED and
DETAIL 0x31 where the pool is full; nothing else is admitted or changed. ABORT (R87) ends the open request it names, and does not enter the pool. The port that takes a status entry is the model's reading where
REPLY_PORT is not in service (log entry 131). -/
def Obligations.RequestArrives : Prop :=
  (∀ e ∈ requestRows, ∀ (r : Request) (s : State), s.node.windowAt s.clock.tick 1 0xFFFF = none → s.node.adm.pool.length < s.node.reg Reg.poolSize →
    ∃ n, exec (e.1 r) s = .next (s.withNode n) ∧ n.adm.pool = insertBy poolBefore (waitingFor s.clock.tick (e.2 r)) s.node.adm.pool ∧
      n.adm.admitted = s.node.adm.admitted ∧ n.regs = s.node.regs ∧ n.links = s.node.links ∧ n.seqs = s.node.seqs) ∧
  (∀ e ∈ requestRows, ∀ (r : Request) (s : State), s.node.windowAt s.clock.tick 1 0xFFFF = none → s.node.reg Reg.poolSize ≤ s.node.adm.pool.length →
    s.node.replyPort (e.2 r) < 48 →
    let p := s.node.statusPort (s.node.replyPort (e.2 r)) (s.node.session (e.2 r).sess).slice
    ∃ n m rep, exec (e.1 r) s = .next (s.withNode n) ∧ n.adm.pool = s.node.adm.pool ∧ n.adm.admitted = s.node.adm.admitted ∧
      n.reg Reg.refused = (s.node.reg Reg.refused + 1) % 2 ^ 64 ∧
      n.queue p 7 = s.node.queue p 7 ++ [m] ∧ m.reply = some rep ∧ rep.status = stNotAdmitted ∧
      rep.detail = 0x31 ∧ rep.requestId = r.hdr.requestId.toNat ∧ rep.body = []) ∧
  (∀ (r : Request) (s : State) (q : Admitted),
    let a := r.withOp opAbort
    let key := reqKey a.sess (a.arg 32 4)
    s.node.abortCheck a = none → s.node.adm.pool.any (fun w => w.req.key == key) = false → s.node.admitted? key = some q → q.phase < 2 →
    ∃ n, exec (.abort r) s = .next (s.withNode n) ∧ n.adm.pool = s.node.adm.pool ∧ ∀ x ∈ n.adm.admitted, x.req.key = key → x.phase = 2)

/-- In an ADMIT tick a request that passes its checks and finds its places is admitted (R70 to R76), and has the effect of its opcode at that boundary: SEQ_OPEN
opens a sequence (R106), SEQ_FORK makes a FORKING child (R107), SEQ_CLOSE takes the descriptor to CLOSING (R110), RELEASE frees the gradient records (R232), the
first part of a WEIGHT_LOAD enters LOADING (R299), and a FOLD holds the slots of its new versions (R328). ADMIT_TICK does the same with a pool that holds it.
That the last of a run of requests has the pool examined is the model's reading (log entry 130). -/
def Obligations.RequestAdmitted : Prop :=
  ∀ e ∈ requestRows, ∀ (r0 : Request) (s : State),
    let r := e.2 r0
    let now := s.clock.tick
    let m := (s.node.underExam now r).poolEmptied
    let q := (s.node.underExam now r).draft now (waitingFor now r)
    let k := seqLocal r.seqId
    s.examinesAlone r →
    let admits := fun (P : Node → Prop) => ∃ n, exec (e.1 r0) s = .next (s.withNode n) ∧ n.adm.pool = [] ∧ P n
    let enters := fun (n : Node) => (∃ a ∈ n.adm.admitted, a.req = r) ∧ n.reg Reg.admitted = (s.node.reg Reg.admitted + 1) % 2 ^ 64
    (∀ q', r.op = opAppend ∨ r.isBackward 1 = true ∨ r.isBackward 2 = true → m.place now (m.workOf now q 0) q = .ok q' →
      admits fun n => enters n ∧ (r.isBackward 2 = true → ∀ g ∈ n.grads, g.2.seq ≠ k) ∧
        (r.op = opAppend → q.tracks.Nodup → ∀ t ∈ q.tracks, t < (m.seq k).tracks.length →
          ((n.seq k).track t).booked = ((m.seq k).track t).booked + r.tokenCount)) ∧
    (∀ q', r.op = opSearch ∨ r.op = opInsert ∨ r.op = opDelete →
      (r.op = opInsert ∨ r.op = opDelete → (m.vindex q.target).sideCount + m.pendingSide q.target + r.arg 36 2 ≤ (m.vindex q.target).sideMax) →
      (r.op = opSearch → r.arg 32 1 ≠ 1 → (m.vindex q.target).unassigned = 0) →
      m.place now (m.workOf now { q with tokenBase := (m.vindex q.target).gen } 0) { q with tokenBase := (m.vindex q.target).gen } = .ok q' → admits enters) ∧
    (∀ c m1 q', r.op = opSeqOpen → m.openSeq now q = some (c, m1) →
      m.place now (m.workOf now { q with home := (m1.seq c).home, target := c } 0) { q with home := (m1.seq c).home, target := c } = .ok q' →
      admits fun n => enters n ∧ (n.seq c).state = .opened ∧ (n.seq c).id = seqTenant r.seqId * 2 ^ 20 + c ∧ (n.seq c).tracks.length = r.arg 34 2 * r.arg 36 1) ∧
    (∀ c m1 q', r.op = opSeqFork → m.forkSeq now q = some (c, m1) →
      m.place now (m.workOf now { q with target := c, home := (m1.seq c).home } 0) { q with target := c, home := (m1.seq c).home } = .ok q' →
      admits fun n => enters n ∧ (n.seq c).state = .forking ∧ (n.seq c).parent = (m.seq k).id) ∧
    (∀ q', r.op = opSeqClose → m.place now (m.workOf now q 0) q = .ok q' → admits fun n => enters n ∧ (n.seq k).state = .closing) ∧
    (∀ q', r.op = opWeightLoad → r.arg 36 4 ≠ 0 →
      m.place now (m.workOf now { q with home := ((m.weight q.target).t1.getD 0) / 2 ^ 22 } 0) { q with home := ((m.weight q.target).t1.getD 0) / 2 ^ 22 } = .ok q' →
      admits enters) ∧
    (∀ st gs m1 q', r.op = opWeightLoad → r.arg 36 4 = 0 →
      (m.tiers.weights.map fun e => if e.1 = q.target then 0 else e.2.slotCount).sum + ceilDiv (r.arg 40 4) 16384 ≤ m.reg Reg.weightTilesMax →
      let m0 := m.foldl (m.weight q.target).slots fun n g => n.dropSlot g
      m0.mostFree q.slice = some st → m0.takeLowest q.slice st (ceilDiv (r.arg 40 4) 16384) = some (gs, m1) →
      m0.place now (m0.workOf now { q with home := st } 0) { q with home := st } = .ok q' →
      admits fun n => enters n ∧ (n.weight q.target).state = 1 ∧ (n.weight q.target).slots = gs ∧ (n.weight q.target).digest = r.payload.take 64) ∧
    (∀ gs m1 q', r.op = opFold → m.takeListSlots q.slice (m.vindex q.target) ((m.vindex q.target).foldPlan now).1 = some (gs, m1) →
      m.place now (m.workOf now q 0) q = .ok q' → admits fun n => enters n ∧ ∃ a ∈ n.adm.admitted, a.req = r ∧ a.slots = gs) ∧
    (∀ wr m1 m2 q', r.isAtt = true ∨ r.isBackward 0 = true → (∀ d ∈ q.needs, (m.weight d).state = 2 ∨ (m.weight d).state = 3) →
      (r.tenantProg = true → (m.prog (r.arg 36 1)).state ≠ 1) →
      m.bookReads q.slice now q.deadline r.key (m.attPages q) = some m1 →
      ((m1.bookWeights q.slice q.home now q.deadline q.needs 0).bind fun e =>
        (e.2.reserveGrads now k q.slice (m.seq k).gradSlots (m.gradsMissing q)).map fun x => (e.1, x)) = some (wr, m2) →
      m2.place now (m2.workOf now q wr) q = .ok q' → admits enters) ∧
    (exec (e.1 r0) s = exec .admitTick (s.withNode { s.node.underExam now r with adm := { (s.node.underExam now r).adm with
      examTick := s.node.adm.examTick, examined := s.node.adm.examined } }))

/-- HASH_CHAIN (R132), FORK_COPY_DONE (R108), SEQUENCE_FREE (R110), WEIGHT_DIGEST_CHECK (R300), GENERATION_RECLAIM (R329) and BALL_TREE_BUILD (R331). -/
def Obligations.RequestEvents : Prop :=
  ∀ (s : State),
    let n0 := s.node
    let now := s.clock.tick
    (∃ n : Node, exec .hashChain s = .next (s.withNode n) ∧ n.adm.admitted = n0.adm.admitted ∧ n.adm.pool.length = n0.adm.pool.length ∧
      ∀ (i : Nat) (w : Waiting), n0.adm.pool[i]? = some w → ∃ w' : Waiting, n.adm.pool[i]? = some w' ∧ w'.req = w.req ∧ (Node.hashing w = false → w' = w) ∧
        (Node.hashing w = true → w'.hashed = Nat.max w.hashed (Nat.min w.req.prefixPages (n0.reg Reg.hashRate * (now - (w.arrival + 1)))))) ∧
    (∀ (child : BitVec 20) (q : Admitted),
      n0.adm.admitted.find? (fun q => q.req.op == opSeqFork && q.target == child.toNat && decide (q.phase < 2)) = some q →
      (n0.seq child.toNat).state = .forking → q.items.any Item.open = false →
      ∃ n, exec (.forkCopyDone child) s = .next (s.withNode n) ∧ (n.seq child.toNat).state = .opened ∧ (n.seq child.toNat).tracks = (n0.seq child.toNat).tracks) ∧
    (∀ (seq : BitVec 20), (n0.seq seq.toNat).state = .closing → (∀ t, t < (n0.seq seq.toNat).tracks.length → n0.readers seq.toNat t = 0) →
      ∃ n, exec (.sequenceFree seq) s = .next (s.withNode n) ∧ n.seq seq.toNat = {} ∧ seq.toNat ∈ n.seqs.released ∧ ∀ g ∈ n.grads, g.2.seq ≠ seq.toNat) ∧
    (∀ (d : BitVec 16) (se id : Nat),
      let w := n0.weight d.toNat
      w.lastPart = some (se, id) → w.state = 1 → w.loaded = w.bytes → (∀ q, n0.admitted? (reqKey se id) = some q → q.items.any Item.open = false) →
      let image := (List.range w.slotCount).flatMap fun t => n0.slotBytes (w.slots.getD t 0) 0 (w.tileBytes t)
      ∃ n, exec (.weightDigestCheck d) s = .next (s.withNode n) ∧
        (sha3_512 image = w.digest → (n.weight d.toNat).state = 2 ∧ (n.weight d.toNat).loadTick = now ∧ (n.weight d.toNat).slots = w.slots) ∧
        (sha3_512 image ≠ w.digest → n.weight d.toNat = {})) ∧
    (∀ (i : BitVec 8), (n0.vindex i.toNat).state ≠ 0 → (∀ q ∈ n0.unfinished, ¬(q.req.op = opSearch ∧ q.target = i.toNat)) →
      ∃ n, exec (.generationReclaim i) s = .next (s.withNode n) ∧ (n.vindex i.toNat).lists = (n0.vindex i.toNat).lists.filter (fun l => l.toGen.isNone) ∧
        (n.vindex i.toNat).side = (n0.vindex i.toNat).side.filter (fun e => e.foldGen == 0) ∧ (n.vindex i.toNat).gen = (n0.vindex i.toNat).gen) ∧
    (∀ (i : BitVec 8), (n0.vindex i.toNat).state ≠ 0 →
      ∃ n, exec (.ballTreeBuild i) s = .next (s.withNode n) ∧ n.vindex i.toNat = { n0.vindex i.toNat with treeGen := some (n0.vindex i.toNat).gen } ∧
        n.regs = n0.regs ∧ n.seqs = n0.seqs ∧ n.adm = n0.adm)

/-! ### Work items -/

/-- COMPUTE_WINDOW_OPEN (R188): every item booked in the window is issued and queued on its cell. ITEM_START: the item at the head of a cell's queue starts on a
free thread with its tile registers, the thread and its scratch window reading 0. ITEM_COMPLETION (R197) of a built-in attention item: its partials, and the
thread free. -/
def Obligations.ItemEvents : Prop :=
  ∀ (s : State),
    let n0 := s.node
    let now := s.clock.tick
    (∀ (r : Fin 16), n0.stopped = false → n0.inRounds = true → (n0.windowOpens now 2 r.val).isSome = true →
      (n0.adm.admitted.map fun q => q.req.key).Nodup → (∀ q ∈ n0.unfinished, (q.items.map fun i => i.num).Nodup) →
      (∀ q ∈ n0.unfinished, ∀ i ∈ q.items, (∀ v ∈ n0.viewOf q i, (n0.page v.page).state ≠ .poisoned ∧ (n0.page v.page).state ≠ .quarantined) ∧
        ∀ g ∈ n0.itemGrads q i, ∀ x, Map.find n0.grads g = some x → x.state ≠ 3) →
      ∃ n, exec (.computeWindowOpen r) s = .next (s.withNode n) ∧
        ∀ q ∈ n0.unfinished, ∀ i ∈ q.items, i.state = 0 → i.region = r.val → i.winStart = now →
          (∃ a ∈ n.adm.admitted, a.req = q.req ∧ ∃ j ∈ a.items, j.num = i.num ∧ j.state = 1) ∧
          (q.req.sess, q.req.hdr.requestId.toNat, i.num) ∈ Map.get [] n.cells.queues (cellNum i.region i.cell)) ∧
    (∀ (r : Fin 16) (cell : Fin 256) (se id num : Nat) (rest : List (Nat × Nat × Nat)) (q : Admitted) (it : Item) (t : Nat),
      Map.get [] n0.cells.queues (cellNum r.val cell.val) = (se, id, num) :: rest → n0.admitted? (reqKey se id) = some q →
      q.items.find? (fun i => i.num == num) = some it → n0.freeThreadOf r.val cell.val = some t →
      n0.tilesFor q it ≤ (n0.freeTiles r.val cell.val).length → n0.unitUp .cell (cellNum r.val cell.val) = true →
      ∃ n m, exec (.itemStart r cell) s = .next { s with node := n, mem := m } ∧
        let u := n.thread (cellNum r.val cell.val * 16 + t)
        u.running = true ∧ u.session = se ∧ u.request = id ∧ u.item = num ∧ u.tiles = (n0.freeTiles r.val cell.val).take (n0.tilesFor q it) ∧
        (∀ i, u.getX i = 0) ∧ (∀ i j, u.getAcc i j = 0) ∧ Map.get [] n.cells.queues (cellNum r.val cell.val) = rest ∧
        (∀ b, windowBase r.val cell.val t ≤ b → b < windowBase r.val cell.val t + 8192 → Memory.byte m b = 0) ∧
        (∀ b, b < windowBase r.val cell.val t ∨ windowBase r.val cell.val t + 8192 ≤ b → Memory.byte m b = Memory.byte s.mem b)) ∧
    (∀ (t : ThreadId) (q : Admitted) (it : Item) (keys : List KeyTok), (n0.thread t.key).ready = true → n0.itemOf (n0.thread t.key) = some (q, it) →
      it.kind = .attn → it.program q = none → q.phase < 2 → q.held = false → q.stateLost = false → q.req.op ≠ opFold → n0.readView q it.view = .keys keys →
      ∃ n m, exec (.itemCompletion t) s = .next { s with node := n, mem := m } ∧ (n.thread t.key).running = false ∧
        (∃ a ∈ n.adm.admitted, a.req = q.req ∧ ∃ j ∈ a.items, j.num = it.num ∧ j.state = 3 ∧
          j.partials = (n0.itemPartials q.req it (keys ++ n0.payloadKeys q it)).1) ∧
        (∀ b, b < threadWindow t ∨ threadWindow t + 8192 ≤ b → Memory.byte m b = Memory.byte s.mem b))

/-- PHASE2_START and PHASE2_COMPLETE (R180), BUDGET_TRAP (R207), BUILTIN_OVERRUN (R208) and ARBITER_TIMEOUT (R444). The port of
a status entry whose own port is not in service is the model's reading (log entry 131). -/
def Obligations.ItemEnds : Prop :=
  ∀ (s : State),
    let n0 := s.node
    let now := s.clock.tick
    (∀ (q : ReqRef) (a : Admitted), n0.stopped = false → n0.inRounds = true → n0.admitted? q.key = some a → a.phase = 0 →
      a.items.any Item.open = false → a.held = false → a.stateLost = false → a.red.winStart ≤ now → (a.req.isWrite = true → a.tokenWritten = true) →
      ∃ n, exec (.phase2Start q) s = .next (s.withNode n) ∧ n.admitted? q.key = some { a with phase := 1 } ∧ n.links = n0.links) ∧
    (∀ (q : ReqRef) (a : Admitted), n0.stopped = false → n0.admitted? q.key = some a → a.phase = 1 → a.req.isAtt = true → a.send.port < 48 →
      let body := (n0.attBody a).1
      let queue := if body = [] then 7 else 6
      let p := if body = [] then n0.statusPort a.send.port (n0.session a.req.sess).slice else a.send.port
      ∃ n m rep, exec (.phase2Complete q) s = .next (s.withNode n) ∧ n.queue p queue = n0.queue p queue ++ [m] ∧ m.reply = some rep ∧
        rep.status = stDone ∧ rep.body = body ∧ rep.requestId = a.req.hdr.requestId.toNat ∧ rep.final = true ∧
        ∀ x ∈ n.adm.admitted, x.req.key = q.key → x.phase = 2) ∧
    (∀ (t : ThreadId) (p : Nat) (a : Admitted),
      let th := n0.thread t.key
      th.running = true → th.program = some p → th.ended = false → n0.admitted? (reqKey th.session th.request) = some a → a.phase < 2 →
      ∃ n, exec (.budgetTrap t) s = .next (s.withNode n) ∧ n.thread t.key = {} ∧ n.reg Reg.budgetTraps = (n0.reg Reg.budgetTraps + 1) % 2 ^ 64 ∧
        (n.prog p).traps = Nat.min ((n0.prog p).traps + 1) 0xFFFFFFFF ∧ ∀ x ∈ n.adm.admitted, x.req.key = reqKey th.session th.request → x.phase = 2) ∧
    (∀ (t : ThreadId), (n0.thread t.key).running = true → (n0.thread t.key).program = none →
      ∃ n, exec (.builtinOverrun t) s = .next (s.withNode n) ∧ n.reg Reg.builtinOverruns = (n0.reg Reg.builtinOverruns + 1) % 2 ^ 32 ∧
        n.unitUp .thread t.key = false ∧ ∃ e, n.rcv.log.getLast? = some e ∧ e.kind = .thread ∧ e.unit = t.key) ∧
    (∀ (r : Fin 16) (cell : Fin 256),
      ∃ n, exec (.arbiterTimeout r cell) s = .next (s.withNode n) ∧ n.unitUp .cell (r.val * 256 + cell.val) = false ∧
        ∃ e, n.rcv.log.getLast? = some e ∧ e.tick = now ∧ e.level = 2 ∧ e.kind = .cell ∧ e.unit = r.val * 256 + cell.val)

/-! ### Pages and tiers -/

/-- APPEND_WRITE (R113, R114): on every track of the request TOKENS rises and BOOKED falls by TOKEN_COUNT. REFILL_ATTEMPT (R120): the first track that lacks a
spare is given one, present REFILL_BOUND ticks on, or the slice's refill has failed where its quota is used up. -/
def Obligations.TokenWrites : Prop :=
  ∀ (s : State),
    let now := s.clock.tick
    let n1 := s.node.settleTracks now
    let n2 : Node := { n1 with tiers := { n1.tiers with quotas := Map.norm {} n1.tiers.quotas fun _ q => { q with refillFailed := false } } }
    (∀ (q : ReqRef) (a : Admitted), n1.admitted? q.key = some a → a.writeReady = true → n1.stopped = false → a.tracks.Nodup →
      let k := seqLocal a.req.seqId
      ∃ n, exec (.appendWrite q) s = .next (s.withNode n) ∧ (n.seq k).lastAppend = now - 1 ∧
        (∀ t ∈ a.tracks, t < (n1.seq k).tracks.length → ((n.seq k).track t).tokens = ((n1.seq k).track t).tokens + a.tokens ∧
          ((n.seq k).track t).booked = ((n1.seq k).track t).booked - a.tokens) ∧
        (∀ t, t ∉ a.tracks → (n.seq k).track t = (n1.seq k).track t) ∧
        (∃ x ∈ n.adm.admitted, x.req = a.req ∧ x.tokenWritten = true)) ∧
    (∀ k t rest g, n2.refillOrder = (k, t) :: rest → (k, t) ∉ rest → t < (n2.seq k).tracks.length → n2.t1Used (n2.seq k).slice < (n2.quota (n2.seq k).slice).t1Slots →
      (n2.spareStack (n2.seq k).slice (n2.reg Reg.sparePolicy) (n2.pageRegion ((n2.seq k).track t).tail)).bind (n2.lowestSlot (n2.seq k).slice) = some g →
      ∃ n, exec .refillAttempt s = .next (s.withNode n) ∧
        ((n.seq k).track t).refill = some (n2.freePage, now + n2.reg Reg.refillBound) ∧ Map.find n.seqs.slots g = some (n2.seq k).slice) ∧
    (∀ k t rest, n2.refillOrder = (k, t) :: rest → (n2.quota (n2.seq k).slice).t1Slots ≤ n2.t1Used (n2.seq k).slice →
      ∃ n, exec .refillAttempt s = .next (s.withNode n) ∧ (n.quota (n2.seq k).slice).refillFailed = true)

/-- PAGE_RECLAIM (R149), PAGE_REWRITE_START (R145), PACKER_START (R243) and PAGE_COMPRESSED (R246). -/
def Obligations.PageEvents : Prop :=
  ∀ (s : State),
    let n0 := s.node
    let now := s.clock.tick
    (∀ (page : BitVec 32) (g : Nat),
      let d := n0.page page.toNat
      d.state = .released → d.ref = 0 → d.pin = 0 → d.t1 = some g → (∀ r ∈ n0.tiers.reads, r.page = page.toNat → r.started = false) →
      ∃ n, exec (.pageReclaim page) s = .next (s.withNode n) ∧ n.page page.toNat = {} ∧ Map.find n.seqs.slots g = none ∧
        n.reg Reg.reclaimed = (n0.reg Reg.reclaimed + 1) % 2 ^ 64 ∧ ∀ p, p ≠ page.toNat → n.page p = n0.page p) ∧
    (∀ (w : Rewrite),
      let q := n0.seq w.seq.toNat
      let p := (q.track w.track).pages.getD w.page 0xFFFFFFFF
      let d := n0.page p
      q.state = .opened → w.page < (q.track w.track).pages.length → d.state = .sealed ∨ d.state = .compressed →
      (∀ x ∈ n0.seqs.rewrites, ¬(x.seq = w.seq.toNat ∧ x.track = w.track ∧ x.index = w.page)) →
      (d.ref = 1 → d.pin = 0 → (∀ h, d.node = some h → (Map.find n0.share.nodes h).isSome = true) → ∃ n, exec (.pageRewriteStart w) s = .next (s.withNode n) ∧ (n.page p).node = none ∧ (∀ e ∈ n.packOrder, e.2 ≠ p) ∧
        n.seqs.rewrites = n0.seqs.rewrites ++ [{ seq := w.seq.toNat, track := w.track, index := w.page, page := p, copy := none, op := w.op.toNat,
                                                 scalar := w.scalar.toNat }]) ∧
      (∀ g, d.ref ≠ 1 → n0.t1Used q.slice < (n0.quota q.slice).t1Slots →
        (n0.spareStack q.slice 0 (d.t1.getD 0 / 2 ^ 22)).bind (n0.lowestSlot q.slice) = some g →
        ∃ n np, exec (.pageRewriteStart w) s = .next (s.withNode n) ∧ (n.page np).t1 = some g ∧ Map.find n.seqs.slots g = some q.slice ∧
          n.seqs.rewrites = n0.seqs.rewrites ++ [{ seq := w.seq.toNat, track := w.track, index := w.page, page := p, copy := some np, op := w.op.toNat,
                                                   scalar := w.scalar.toNat }]) ∧
      (d.ref = 1 → d.pin ≠ 0 → exec (.pageRewriteStart w) s = .next s)) ∧
    (∀ (r : Fin 16) (p a b : Nat) (rest : List Nat) (img : Bytes), n0.stopped = false → n0.packable r.val = p :: rest → p ∉ rest → 0 < n0.freePackers r.val →
      n0.recordOf p = some (a, b) → n0.pageImage p (elemOf (n0.page p).format) a b = .ok img →
      ∃ n, exec (.packerStart r) s = .next (s.withNode n) ∧ (n.page p).pin = (n0.page p).pin + 1 ∧ (∀ e ∈ n.packOrder, e.2 ≠ p) ∧
        ∃ k ∈ n.packers, k.page = p ∧ k.region = r.val ∧ k.start = now ∧ k.raw = img) ∧
    (∀ (page : BitVec 32) (k : Packer) (g a b : Nat),
      let p := page.toNat
      let d := n0.page p
      let blocks := (List.range 4).map fun i => choosePack (n0.reg Reg.packMode) (sliceB (tileImage (elemOf d.format) a b k.raw) (4096 * i) 4096)
      n0.stopped = false → n0.packers.find? (fun k => k.page == p) = some k → k.start < now → d.t1 = some g → n0.recordOf p = some (a, b) →
      d.state = .sealed ∨ d.state = .compressed →
      ∃ n, exec (.pageCompressed page) s = .next (s.withNode n) ∧ (n.page p).state = .compressed ∧ (n.page p).blockLen = blocks.map (fun x => x.len) ∧
        (n.page p).pin = d.pin - 1 ∧ (∀ x ∈ n.packers, x.page ≠ p) ∧ n.reg Reg.pagesPacked = (n0.reg Reg.pagesPacked + 1) % 2 ^ 64)

/-- SPILL_START, SPILL_COMPLETE (R290, R122), PREFETCH_READ, PREFETCH_COMPLETE (R292, R123), SLOW_READ_COMPLETION (R297) and SLOW_READ_TIMEOUT (R533). -/
def Obligations.TierEvents : Prop :=
  ∀ (s : State),
    let n0 := s.node
    let now := s.clock.tick
    (∀ r rs c cs k g, n0.stopped = false → n0.inRounds = true → n0.slowPresent = true → (List.range 16).filter (fun r => n0.maintAt now r 0) = r :: rs →
      n0.spillCands r = c :: cs → c.isPage = true → (∀ x ∈ cs, x.isPage = true → x.num ≠ c.num) →
      (n0.page c.num).state = .compressed → (n0.page c.num).dirty = true → (n0.page c.num).slow = none → n0.slowFree 1 = some k → (n0.page c.num).t1 = some g →
      n0.writesIn now < n0.reg Reg.writeSlotsTick → n0.writesOn now (n0.slowPortOf k) < 3 →
      ∃ n, exec .spillStart s = .next (s.withNode n) ∧ (n.page c.num).moving = true ∧ (n.page c.num).slow = some k ∧ (c.num, k, now) ∈ n.tiers.spillsNow) ∧
    (∀ (slot : BitVec 32) (p t g : Nat), n0.tiers.spillsNow.find? (fun e => e.2.1 == slot.toNat && decide (e.2.2 < now)) = some (p, slot.toNat, t) →
      p < 2 ^ 40 → (n0.page p).moving = true → (n0.page p).t1 = some g →
      ∃ n, exec (.spillComplete slot) s = .next (s.withNode n) ∧ (n.page p).state = .spilled ∧ (n.page p).t1 = none ∧ (n.page p).moving = false ∧
        Map.find n.seqs.slots g = none ∧ n.reg Reg.spills = (n0.reg Reg.spills + 1) % 2 ^ 64) ∧
    (n0.stopped = false → n0.inRounds = true →
      ∃ n : Node, exec .prefetchRead s = .next (s.withNode n) ∧ ∀ (i : Nat) (r : PageRead), n0.tiers.reads[i]? = some r → r.tick = now →
        n.tiers.reads[i]? = some { r with started := true }) ∧
    (∀ (page : BitVec 32) (r : PageRead),
      let p := page.toNat
      n0.tiers.reads.find? (fun r => r.page == p && r.started) = some r → ((n0.page p).units.all fun u => r.arrived.contains u) = true →
      (n0.page p).state = .prefetching →
      ∃ n, exec (.prefetchComplete page) s = .next (s.withNode n) ∧ (n.page p).state = .compressed ∧ (n.page p).dirty = false ∧ (n.page p).t1 = (n0.page p).t1 ∧
        ∀ x ∈ n.tiers.reads, x.page ≠ p) ∧
    (∀ (slot : BitVec 32) (unit : BitVec 16) (data : Bytes) (r : PageRead), unit.toNat < 64 →
      n0.tiers.reads.find? (fun r => (n0.page r.page).slow == some slot.toNat && r.started) = some r →
      ∃ n, exec (.slowReadCompletion slot unit data true false) s = .next (s.withNode n) ∧
        n.slotBytes r.dest (256 * unit.toNat) 256 = sliceB data 0 256 ∧ ∃ x ∈ n.tiers.reads, x.page = r.page ∧ unit.toNat ∈ x.arrived) ∧
    (∀ (slot : BitVec 32) (r : PageRead), n0.tiers.reads.find? (fun r => (n0.page r.page).slow == some slot.toNat) = some r → r.started = true →
      r.tick + n0.reg Reg.pfLat ≤ now → (n0.page r.page).state = .prefetching → (∀ q ∈ n0.unfinished, ∀ i ∈ q.items, ∀ v ∈ i.view, v.page ≠ r.page) →
      ∃ n, exec (.slowReadTimeout slot) s = .next (s.withNode n) ∧ (n.page r.page).state = .poisoned ∧
        n.reg Reg.cxlTimeouts = (n0.reg Reg.cxlTimeouts + 1) % 2 ^ 64 ∧ (r.page, now + n0.reg Reg.pageRestoreTicks) ∈ n.rcv.restores)

/-- REFETCH_TIMEOUT, TILE_RESPONSE and TILE_REQUEST_SERVE (R306), WEIGHT_HOLD_EXPIRY and HELD_DEADLINE_MARGIN (R308). The port of a status entry whose own
port is not in service is the model's reading (log entry 131). -/
def Obligations.WeightHolds : Prop :=
  ∀ (s : State),
    let n0 := s.node
    let now := s.clock.tick
    (∀ (d tile : BitVec 16) (i asked : Nat),
      let w := n0.weight d.toNat
      w.state = 3 → w.poisoned.find? (fun e => e.1 == tile.toNat) = some (tile.toNat, i, asked) → asked + n0.reg Reg.refetchTimeout ≤ now →
      (∀ code node, (w.sources n0.straps)[i + 1]? = some (code, node) →
        ∃ n, exec (.refetchTimeout d tile) s = .next (s.withNode n) ∧ (n.weight d.toNat).source = code ∧ (n.weight d.toNat).state = 3 ∧
          (tile.toNat, i + 1, now) ∈ (n.weight d.toNat).poisoned) ∧
      ((w.sources n0.straps)[i + 1]? = none → ∃ n, exec (.refetchTimeout d tile) s = .next (s.withNode n) ∧ (n.weight d.toNat).state = 4)) ∧
    (∀ (d tile : BitVec 16) (bytes : Bytes) (i asked : Nat),
      let w := n0.weight d.toNat
      let g := w.slots.getD tile.toNat 0
      w.state = 3 → w.poisoned.find? (fun e => e.1 == tile.toNat) = some (tile.toNat, i, asked) → sha3_512 bytes = w.tileDigests.getD tile.toNat [] →
      bytes.length = w.tileBytes tile.toNat →
      ∃ n c, exec (.tileResponse d tile bytes) s = .next (s.withNode n) ∧
        Map.get [] n.stk.queues (g / 2 ^ 22 * 32 + g % 32) = Map.get [] n0.stk.queues (g / 2 ^ 22 * 32 + g % 32) ++ [c] ∧ c.op = 3 ∧
        c.args.stream = (List.range 256).map (fun l => BitVec.ofNat 512 (leNat (sliceB bytes (64 * l) 64))) ∧ c.args.lines = 256) ∧
    (∀ (src model layer : BitVec 16) (kind : BitVec 8) (tile : BitVec 16) (digest : Bytes) (d p : Nat) (w : Weight),
      n0.tiers.weights.find? (fun e => e.2.model == model.toNat && e.2.layer == layer.toNat && e.2.kind == kind.toNat && e.2.state == 2 && e.2.digest == digest) =
        some (d, w) → tile.toNat < w.slotCount → w.res = 1 → n0.route src.toNat = some p →
      ∃ n m, exec (.tileRequestServe src model layer kind tile digest) s = .next (s.withNode n) ∧ n.queue p 5 = n0.queue p 5 ++ [m] ∧ m.dst = src.toNat ∧
        m.ftype = 4 ∧ m.bytes = tileMessage w tile.toNat (n0.slotBytes (w.slots.getD tile.toNat 0) 0 (w.tileBytes tile.toNat))) ∧
    (∀ (d : BitVec 16), (n0.weight d.toNat).state = 3 → (n0.weight d.toNat).holdTick + n0.reg Reg.weightHold ≤ now →
      (n0.adm.admitted.map fun q => q.req.key).Nodup →
      ∃ n, exec (.weightHoldExpiry d) s = .next (s.withNode n) ∧ (n.weight d.toNat).state = 4 ∧
        n.reg Reg.weightLosses = (n0.reg Reg.weightLosses + 1) % 2 ^ 64 ∧
        ∀ x ∈ n.adm.admitted, x.held = true → x.needs.contains d.toNat = true → 2 ≤ x.phase) ∧
    (∀ (q : ReqRef) (a : Admitted), n0.admitted? q.key = some a → a.held = true → a.phase < 2 → a.lateSent = false → a.send.port < 48 →
      n0.marginPassed now a = true →
      let p := n0.statusPort a.send.port (n0.session a.req.sess).slice
      ∃ n m1 m2 r1 r2, exec (.heldDeadlineMargin q) s = .next (s.withNode n) ∧ n.queue p 7 = n0.queue p 7 ++ [m1, m2] ∧
        m1.reply = some r1 ∧ r1.status = stLateNotice ∧ r1.detail = 4 ∧ m2.reply = some r2 ∧ r2.status = stWeightLost ∧ r2.final = true)

/-! ### Objects -/

/-- DOMAIN_CREATE, DOMAIN_DESTROY (R126, R127, R130), MODEL_DEF, MODEL_RETIRE, MODEL_FREE (R155, R185) and QUOTA_SET (R285): the result code, the lowest of those
that hold, and the object. -/
def Obligations.DomainsAndModels : Prop :=
  ∀ (via : Via) (s : State),
    let n0 := s.node
    let now := s.clock.tick
    (∀ (value : Bytes),
      let v := forceOp 1 value
      let d := fieldB v 4 4
      let t := fieldB v 8 4 % 2 ^ 28
      let sl := fieldB v 12 1
      s.accepts (.domainCreate via value) via 0x2204 1 v fun n =>
        (Map.find n0.share.domains d = none → n0.share.domains.length < n0.reg Reg.domainMax → (n0.noteAwl via).freeKeySlot.isSome = true → d ≠ 0 →
          n0.bound sl t = true → n.reg Reg.domainResult = 0 ∧ ∃ x, Map.find n.share.domains d = some x ∧ x.tenant = t ∧ x.slice = sl ∧ x.created = now ∧
            (n.keySlot x.keySlot).state = 1 ∧ (n.keySlot x.keySlot).key = x.key) ∧
        ((Map.find n0.share.domains d).isSome = true → n.reg Reg.domainResult = 1 ∧ n.share = n0.share) ∧
        (Map.find n0.share.domains d = none → n0.reg Reg.domainMax ≤ n0.share.domains.length → n.reg Reg.domainResult = 2 ∧ n.share = n0.share)) ∧
    (∀ (value : Bytes),
      let d := fieldB (forceOp 2 value) 4 4
      s.accepts (.domainDestroy via value) via 0x2204 1 (forceOp 2 value) fun n =>
        (∀ x, Map.find n0.share.domains d = some x → n.reg Reg.domainResult = 0 ∧ Map.find n.share.domains d = none ∧ (∀ e ∈ n.share.nodes, e.2.domain ≠ d) ∧
          (((n0.noteAwl via).keySlot x.keySlot).state = 1 → (n.keySlot x.keySlot).state = 2 ∧ (n.keySlot x.keySlot).key = [])) ∧
        (Map.find n0.share.domains d = none → n.reg Reg.domainResult = 3 ∧ n.share = n0.share)) ∧
    (∀ (value : Bytes) (run : Nat),
      let k := fieldB value 0 2
      let m := Model.ofBytes value
      s.accepts (.modelDef via value) via 0x2304 1 value fun n =>
        ((n0.model k).state = 0 → (if m.layout = 2 then n0.freeRun (2 * m.layerCount) else some 0xFFFFFFFF) = some run →
          modelValid (n0.reg Reg.pageFixFloor) value = true → n0.tenantBound m.tenant = true →
          n.reg Reg.modelResult = 0 ∧ n.model k = { m with state := 1, weightDir := run }) ∧
        ((n0.model k).state ≠ 0 → n.reg Reg.modelResult = 1 ∧ n.models = n0.models)) ∧
    (∀ (v : BitVec 16), s.accepts (.modelRetire via v) via 0x2304 2 (leBytes 2 v.toNat) fun n =>
      ((n0.model v.toNat).state = 1 → v.toNat ≤ 255 → n.reg Reg.modelResult = 0 ∧ (n.model v.toNat).state = 2) ∧
      ((n0.model v.toNat).state = 0 → n.reg Reg.modelResult = 3 ∧ n.models = n0.models)) ∧
    (∀ (k : BitVec 8),
      let m := n0.model k.toNat
      m.state = 2 → m.freeFrom ≤ now → (∀ q ∈ n0.unfinished, q.req.namesModel k.toNat = false) →
      ∃ n, exec (.modelFree k) s = .next (s.withNode n) ∧ n.model k.toNat = {} ∧
        (m.weightDir ≠ 0xFFFFFFFF → ∀ i, i < 2 * m.layerCount → n.weight (m.weightDir + i) = {})) ∧
    (∀ (value : Bytes),
      let sl := fieldB value 0 1
      s.accepts (.quotaSet via value) via 0x2704 1 value fun n =>
        n.tiers.quotas = n0.tiers.quotas ∧
        (sl < 64 → (n0.slice sl).state = .bound → fieldB value 2 1 < fieldB value 1 1 → fieldB value 1 1 ≤ 100 →
          n.reg Reg.quotaResult = 0 ∧ n.tiers.stagedQuota = some value) ∧
        (64 ≤ sl ∨ (n0.slice sl).state ≠ .bound → n.reg Reg.quotaResult = 1 ∧ n.tiers.stagedQuota = n0.tiers.stagedQuota))

/-- PROG_LOAD, PROG_READY, PROG_UNLOAD, PROG_SLOT_FREE (R212), INDEX_DEF, CENTROID_LOAD, INDEX_RETIRE and INDEX_FREE (R314 to R318). -/
def Obligations.ProgramsAndIndexes : Prop :=
  ∀ (via : Via) (s : State),
    let n0 := s.node
    let now := s.clock.tick
    (∀ (image : Bytes),
      let slot := fieldB image 0 1
      let head := sliceB (image.drop 16) 0 64
      let code := (image.drop 16).drop 64
      s.accepts (.progLoad via image) via 0x2404 1 image fun n =>
        (slot < 32 → (n0.prog slot).state = 0 → (n0.progs.map fun e => e.2.code.length).sum + code.length ≤ n0.reg Reg.progArea → progHeaderOk head code = true →
          codeBad code = false → n0.tenantBound (fieldB image 4 4 % 2 ^ 28) = true → n0.hasUnit 4 = true →
          n.reg Reg.progResult = 0 ∧ (n.prog slot).state = 1 ∧ (n.prog slot).code = code ∧ (n.prog slot).digest = sha3_512 (image.drop 16)) ∧
        (slot < 32 → (n0.prog slot).state ≠ 0 → n.reg Reg.progResult = 1 ∧ n.progs = n0.progs)) ∧
    (∀ (slot : BitVec 8), (n0.prog slot.toNat).state = 1 → n0.isRound now = true → (n0.prog slot.toNat).readyAfter ≤ now →
      ∃ n, exec (.progReady slot) s = .next (s.withNode n) ∧ n.prog slot.toNat = { n0.prog slot.toNat with state := 2 } ∧ n.regs = n0.regs) ∧
    (∀ (slot : BitVec 8), s.accepts (.progUnload via slot) via 0x2404 2 [slot] fun n =>
      (slot.toNat < 32 → (n0.prog slot.toNat).state = 1 ∨ (n0.prog slot.toNat).state = 2 → n.reg Reg.progResult = 0 ∧ (n.prog slot.toNat).state = 3) ∧
      (32 ≤ slot.toNat ∨ (n0.prog slot.toNat).state = 0 → n.reg Reg.progResult = 7 ∧ n.progs = n0.progs)) ∧
    (∀ (slot : BitVec 8), (n0.prog slot.toNat).state = 3 → (n0.prog slot.toNat).readyAfter ≤ now →
      (∀ q ∈ n0.unfinished, ¬(q.req.isAtt = true ∧ q.req.tenantProg = true ∧ q.target = slot.toNat)) →
      ∃ n, exec (.progSlotFree slot) s = .next (s.withNode n) ∧ n.prog slot.toNat = {} ∧ n.regs = n0.regs) ∧
    (∀ (value : Bytes) (slots : List Nat) (m1 : Node),
      let k := fieldB value 0 2
      let d := VIndex.ofBytes value
      s.accepts (.indexDef via value) via 0x2804 1 value fun n =>
        ((n0.vindex k).state = 0 → indexFieldsOk value = true → n0.bound d.slice d.tenant = true →
          (∀ r, r < 16 → bitOf d.regionMask r = true ∨ r = d.home → n0.regionServes d.slice r = true) →
          n0.t1Used d.slice + d.baseSlots ≤ (n0.quota d.slice).t1Slots → (n0.noteAwl via).takeLowest d.slice d.home d.baseSlots = some (slots, m1) →
          n.reg Reg.indexResult = 0 ∧ n.vindex k = { d with slots := slots } ∧ n.seqs.slots = m1.seqs.slots) ∧
        ((n0.vindex k).state ≠ 0 → n.reg Reg.indexResult = 1 ∧ n.indexes = n0.indexes)) ∧
    (∀ (image : Bytes),
      let k := fieldB image 0 2
      let d := n0.vindex k
      s.accepts (.centroidLoad via image) via 0x2804 3 image fun n =>
        (k ≤ 255 → d.state = 1 → d.centroidTab = [] → (image.drop 8).length = d.centroids * d.crec →
          n.reg Reg.indexResult = 0 ∧ (n.vindex k).loadDue = some (now + 1) ∧
          (n.vindex k).centroidTab = (List.range d.centroids).map (fun i => sliceB (image.drop 8) (i * d.crec) d.crec)) ∧
        (d.state = 0 → n.reg Reg.indexResult = 7 ∧ n.indexes = n0.indexes)) ∧
    (∀ (value : Bytes),
      let k := fieldB (forceOp 1 value) 2 2
      s.accepts (.indexRetire via value) via 0x2804 2 (forceOp 1 value) fun n =>
        ((n0.vindex k).state = 1 ∨ (n0.vindex k).state = 2 → n.reg Reg.indexResult = 0 ∧ (n.vindex k).state = 3 ∧ (n.vindex k).slots = (n0.vindex k).slots) ∧
        ((n0.vindex k).state = 0 → n.reg Reg.indexResult = 7 ∧ n.indexes = n0.indexes)) ∧
    (∀ (i : BitVec 8), (n0.vindex i.toNat).state = 3 → (n0.vindex i.toNat).freeFrom ≤ now →
      (∀ q ∈ n0.unfinished, ¬(q.req.isVector = true ∧ q.target = i.toNat)) →
      ∃ n, exec (.indexFree i) s = .next (s.withNode n) ∧ n.vindex i.toNat = {} ∧ ∀ g ∈ (n0.vindex i.toNat).slots, Map.find n.seqs.slots g = none)


/-! ### Link ports -/

/-- LANE_LOCK_LOSS, PEER_SILENT, TRAIN_TIMEOUT, REPLAY_ACK_TIMEOUT (R359, Table 13-8), CREDIT_STALL, LOOPBACK_RESULT (R359), RETRAIN (R361),
DOWN_HOLD_EXPIRY (R362), HELLO_SEND and HELLO_RECEIVE (R357): which state a port takes, its reason, and what is counted. -/
def Obligations.PortStates : Prop :=
  ∀ (p : Fin 48) (s : State),
    let n0 := s.node
    let now := s.clock.tick
    let l := n0.port p.val
    let st := n0.portReg p.val Reg.portState
    let falls := fun (c : Instr) (reason : Nat) => st ≠ 0 → st ≠ 4 → ∃ n : Node, exec c s = .next (s.withNode n) ∧ n.portReg p.val Reg.portState = 4 ∧
      n.portReg p.val Reg.downReason = reason ∧ (n.port p.val).downTick = now ∧ (n.port p.val).testing = true ∧
      n.reg Reg.downEvents = (n0.reg Reg.downEvents + 1) % 2 ^ 64
    falls (.laneLockLoss p) 1 ∧
    (l.lastRx + 8 ≤ now → falls (.peerSilent p) 8) ∧ (now < l.lastRx + 8 → exec (.peerSilent p) s = .next s) ∧
    (st = 1 → l.trainStart + n0.trainBound p.val ≤ now → falls (.trainTimeout p) 5) ∧ (st ≠ 1 → exec (.trainTimeout p) s = .next s) ∧
    (∀ t q, l.replayStart = some (t, q) → (t + 1 ≤ now → falls (.replayAckTimeout p) 3) ∧ (now ≤ t → exec (.replayAckTimeout p) s = .next s)) ∧
    (l.replayStart = none → exec (.replayAckTimeout p) s = .next s) ∧
    (∀ (vc : Fin 8) (t : Nat), Map.find l.stalledSince vc.val = some t →
      (t + 10000 ≤ now → ∃ n, exec (.creditStall p vc) s = .next (s.withNode n) ∧
        n.portReg p.val Reg.creditStalls = (n0.portReg p.val Reg.creditStalls + 1) % 2 ^ 64 ∧ Map.find (n.port p.val).stalledSince vc.val = none) ∧
      (now < t + 10000 → exec (.creditStall p vc) s = .next s)) ∧
    (l.testing = true →
      (∃ n, exec (.loopbackResult p true) s = .next (s.withNode n) ∧ (n.port p.val).testing = false ∧
        (st = 4 → n0.portReg p.val Reg.autoRetrain = 1 → n.portReg p.val Reg.portState = 1 ∧ (n.port p.val).trainStart = now) ∧
        (n0.portReg p.val Reg.autoRetrain ≠ 1 → n.portReg p.val Reg.portState = st)) ∧
      (∃ n, exec (.loopbackResult p false) s = .next (s.withNode n) ∧ (n.port p.val).testing = false ∧ n.retired .port p.val = true ∧
        n.reg Reg.lasting = (n0.reg Reg.lasting + 1) % 2 ^ 64)) ∧
    (∀ (via : Via) (v : BitVec 8), s.accepts (.retrain via p v) via (0x5000 + p.val * 0x40) 6 [v] fun n =>
      (v = 1 → st = 4 → n0.retired .port p.val = false → n0.portReg p.val Reg.portMode ≠ 0 →
        n.portReg p.val Reg.portState = 1 ∧ (n.port p.val).trainStart = now) ∧
      (v ≠ 1 ∨ st ≠ 4 → n.portReg p.val Reg.portState = st)) ∧
    (st ≠ 0 → st ≠ 3 → l.downTick + n0.reg Reg.downHold ≤ now →
      ∃ n, exec (.downHoldExpiry p) s = .next (s.withNode n) ∧ (∀ q, q < 8 → n.queue p.val q = []) ∧
        n.portReg p.val Reg.heldDiscards =
          (n0.portReg p.val Reg.heldDiscards + ((List.range 8).map fun q => (n0.queue p.val q).length).sum) % 2 ^ 64) ∧
    (st = 1 → ∃ n, exec (.helloSend p) s = .next (s.withNode n) ∧
      n.portReg p.val Reg.framesTx = (n0.portReg p.val Reg.framesTx + 1) % 2 ^ 64 ∧ fieldB (n.port p.val).txFrame 1 1 = 8 ∧
      (n.port p.val).txFrame.drop 32 = n0.helloPayload now p.val) ∧
    (∀ (v : Bytes), st = 1 →
      let peer := fieldB v 0 2
      let expect := n0.portReg p.val Reg.peerExpect
      (expect = 0xFFFF ∨ expect = peer → fieldB v 8 8 ≤ now → now ≤ fieldB v 8 8 + 2 →
        ∃ n, exec (.helloReceive p v) s = .next (s.withNode n) ∧ n.portReg p.val Reg.portState = 2 ∧ n.portReg p.val Reg.peer = peer ∧
          n.portReg p.val Reg.peerPort = fieldB v 2 1) ∧
      (expect ≠ 0xFFFF → expect ≠ peer → falls (.helloReceive p v) 4))

/-- FLIT_RECEIVE (R339, R340), CAMRIS_FRAME_RECEIVE (R342, R344, R354), ETH_FRAME_RECEIVE (R351, R353), PATH_ACK_RECEIVE, PATH_ACK_SEND (R352), PATH_RETRY (R351) and
REASSEMBLY_TIMEOUT (R344): what comes in, what is kept of it, what is counted, and what is dropped. -/
def Obligations.LinkReceive : Prop :=
  ∀ (p : Fin 48) (s : State),
    let n0 := s.node
    let now := s.clock.tick
    let l := n0.port p.val
    let counts := fun (n : Node) (k d : Nat) => n.portReg p.val k = (n0.portReg p.val k + d) % 2 ^ 64
    (∀ (flit : Bytes), n0.portReg p.val Reg.portMode = 1 → n0.receives p.val = true →
      (flitDecode flit = none → ∃ n, exec (.flitReceive p flit) s = .next (s.withNode n) ∧ counts n Reg.flitErrors 1 ∧ (n.port p.val).nakOwed = true ∧
        (n.port p.val).rxSeq = l.rxSeq ∧ (n.port p.val).rxStream = l.rxStream) ∧
      (∀ f c left, flitDecode flit = some (f, c) →
        let h := fieldB f 0 8
        h / 2 ^ 60 % 16 = 1 → h / 2 ^ 48 % 4096 = (l.rxSeq + 1) % 4096 → bitOf h 35 = false →
        cutFrames (n0.reg Reg.camrisVersion) ((l.rxStream ++ f.drop 8).length / 32 + 1) (l.rxStream ++ f.drop 8) = ([], left) →
        ∃ n, exec (.flitReceive p flit) s = .next (s.withNode n) ∧ counts n Reg.fecCorrected c ∧ (n.port p.val).rxSeq = (l.rxSeq + 1) % 4096 ∧
          (n.port p.val).rxStream = left ∧ (n.port p.val).lastRx = now ∧
          (h / 2 ^ 20 % 4096 ≠ 0 → h / 2 ^ 32 % 8 ≤ 5 →
            Map.get 0 (n.port p.val).credits (h / 2 ^ 32 % 8) = Map.get 0 l.credits (h / 2 ^ 32 % 8) + h / 2 ^ 20 % 4096)) ∧
      (∀ f c e rest, flitDecode flit = some (f, c) →
        let h := fieldB f 0 8
        h / 2 ^ 60 % 16 = 0 → bitOf h 35 = true → (l.acknowledge (h / 2 ^ 36 % 4096)).unacked = e :: rest →
        (l.replayTicks.filter fun t => decide (now < t + n0.reg Reg.replaySpan)).length < n0.reg Reg.replayLimit →
        ∃ n, exec (.flitReceive p flit) s = .next (s.withNode n) ∧ counts n Reg.replays 1 ∧ (n.port p.val).replayStart = some (now, e.1) ∧
          (n.port p.val).unacked = e :: rest)) ∧
    (∀ (f : Bytes), n0.receives p.val = true →
      (n0.frameOk p.val f = false → ∃ n, exec (.camrisFrameReceive p f) s = .next (s.withNode n) ∧ counts n Reg.framesDropped 1 ∧ n.adm = n0.adm) ∧
      (∀ k data, n0.frameOk p.val f = true → fieldB f 1 1 = 1 → n0.slotOf 1 (fieldB f 18 2) = some k →
        gcmOpen (n0.keySlot k).key
          (linkNonce (fieldB f 4 2) (if n0.isNative p.val then n0.portReg p.val Reg.peerPort else Config.open 92 (fieldB f 4 2) % 256) (fieldB f 20 8))
          (sliceB f 0 32) (sliceB f 32 (fieldB f 16 2 + 16)) = some data →
        n0.cellsFor p.val (fieldB f 2 1) (frameCells (fieldB f 16 2) true) = true → data ≠ [] →
        (∀ m ∈ Map.get [] n0.links.inbound p.val, ¬(m.src = fieldB f 4 2 ∧ m.msgId = fieldB f 8 4 ∧ m.vc = fieldB f 2 1)) → fieldB f 12 4 = 0 →
        (n0.isNative p.val = true ∨ fieldB f 2 1 < 3 ∨
          (Map.get ({} : Path) n0.links.rx (pathKey (fieldB f 4 2) (fieldB f 2 1))).fresh (fieldB f 28 4) = true) →
        (fieldB f 3 1 / 4 % 2 = 0 → ∃ n, exec (.camrisFrameReceive p f) s = .next (s.withNode n) ∧ counts n Reg.framesRx 1 ∧ n.adm = n0.adm ∧
          ∃ m ∈ Map.get [] n.links.inbound p.val, m.src = fieldB f 4 2 ∧ m.msgId = fieldB f 8 4 ∧ m.parts = [(0, data)] ∧ m.lastTick = now) ∧
        (fieldB f 3 1 / 4 % 2 = 1 → ∃ n : Node, exec (.camrisFrameReceive p f) s = .next (s.withNode (n.requestArrives now p.val (fieldB f 4 2) k data)) ∧
          counts n Reg.framesRx 1 ∧ n.adm = n0.adm ∧ Map.get [] n.links.inbound p.val = Map.get [] n0.links.inbound p.val))) ∧
    (∀ (f : Bytes), n0.isNative p.val = false → n0.receives p.val = true →
      let be := fun (o : Nat) => fieldB f o 1 * 256 + fieldB f (o + 1) 1
      let right := fcs (f.take (f.length - 4)) = leNat (f.drop (f.length - 4))
      (¬right → ∃ n, exec (.ethFrameReceive p f) s = .next (s.withNode n) ∧ counts n Reg.fcsErrors 1 ∧ n.links = n0.links) ∧
      (right → 18 ≤ f.length → be 12 = 0x88B6 → fieldB f 0 6 = n0.portReg p.val Reg.mac →
        ∃ n : Node, exec (.ethFrameReceive p f) s = .next ((s.withNode n).frameIn p.val (sliceB f 14 (f.length - 18))) ∧ (n.port p.val).lastRx = now ∧
          Map.find (n.port p.val).destMac (fieldB (sliceB f 14 (f.length - 18)) 4 2) = some (fieldB f 6 6) ∧ n.adm = n0.adm ∧ n.regs = n0.regs)) ∧
    (∀ (f : Bytes), n0.isNative p.val = false → fieldB f 1 1 = 10 → fieldB f 0 1 = 1 →
      let k := pathKey (fieldB f 4 2) (fieldB (f.drop 32) 0 1)
      let cum := fieldB (f.drop 32) 4 4
      ∃ n, exec (.pathAckReceive p f) s = .next (s.withNode n) ∧
        (∀ e ∈ (Map.get ({} : Path) n.links.tx k).unacked, e ∈ (Map.get ({} : Path) n0.links.tx k).unacked ∧ seqBefore e.1 cum = false) ∧
        (∀ e ∈ (Map.get ({} : Path) n0.links.tx k).unacked, e.1 = cum →
          e ∈ (Map.get ({} : Path) n.links.tx k).unacked)) ∧
    (∀ (endpoint : BitVec 16) (vc : Fin 8) (t q : Nat),
      let k := pathKey endpoint.toNat vc.val
      (Map.get ({} : Path) n0.links.rx k).owedSince = some t → n0.ethPort endpoint.toNat = some q →
      ∃ n m, exec (.pathAckSend endpoint vc) s = .next (s.withNode n) ∧ n.queue q 7 = n0.queue q 7 ++ [m] ∧ m.ftype = 10 ∧ m.dst = endpoint.toNat ∧
        m.bytes = (Map.get ({} : Path) n0.links.rx k).ack vc.val ∧ (Map.get ({} : Path) n.links.rx k).owedSince = none) ∧
    (∀ (endpoint : BitVec 16) (vc : Fin 8) (num : BitVec 32) (sent times : Nat) (frame : Bytes),
      let k := pathKey endpoint.toNat vc.val
      (Map.get ({} : Path) n0.links.tx k).unacked.find? (fun e => e.1 == num.toNat) = some (num.toNat, sent, times, frame) → sent + n0.reg Reg.pathRetryTicks ≤ now →
      (∀ q, times < 4 → n0.ethPort endpoint.toNat = some q →
        ∃ n, exec (.pathRetry endpoint vc num) s = .next (s.withNode n) ∧ (n.port q).txFrame = frame ∧
          n.portReg q Reg.pathResends = (n0.portReg q Reg.pathResends + 1) % 2 ^ 64 ∧
          (num.toNat, now, times + 1, frame) ∈ (Map.get ({} : Path) n.links.tx k).unacked) ∧
      (4 ≤ times → ∃ n, exec (.pathRetry endpoint vc num) s = .next (s.withNode n) ∧ ∀ e ∈ (Map.get ({} : Path) n.links.tx k).unacked, e.1 ≠ num.toNat)) ∧
    (∀ (src : BitVec 16) (id : BitVec 32) (m : InMsg) (e : Nat × Bytes),
      (Map.get [] n0.links.inbound p.val).find? (fun (m : InMsg) => m.src == src.toNat && m.msgId == id.toNat && m.ftype == 1 &&
        decide (m.lastTick + n0.reg Reg.reassemblyTicks ≤ now)) = some m →
      m.parts.find? (fun e => e.1 == 0 && decide (64 ≤ e.2.length)) = some e →
      ∃ n, exec (.reassemblyTimeout p src id) s = .next (s.withNode n) ∧ counts n Reg.reassemblyDrops 1 ∧
        (∀ x ∈ Map.get [] n.links.inbound p.val, x ≠ m) ∧ n.reg Reg.refused = (n0.reg Reg.refused + 1) % 2 ^ 64 ∧ n.adm.pool = n0.adm.pool)

/-- FRAME_START (R366), GATE_UNIT (R369), STATISTICS_SAMPLE, HIST_CLEAR (R383), PFC_RECEIVE (R350) and PAUSE_RECEIVE (R338): Q7 goes before Q6, the frame that
starts leaves its queue, and every histogram gets one sample of each queue. -/
def Obligations.LinkSend : Prop :=
  ∀ (p : Fin 48) (s : State),
    let n0 := s.node
    let now := s.clock.tick
    let sh := n0.shaper p.val
    let ps := Nat.max (sh.unit * 15625) sh.busy
    (∀ q m k, n0.inService p.val = true → n0.st ≠ stFault → n0.st ≠ stSafe → ps < 1000000 →
      (q = 7 ∧ n0.mayStart p.val 7 now ps = some m) ∨ (q = 6 ∧ n0.mayStart p.val 7 now ps = none ∧ n0.mayStart p.val 6 now ps = some m) →
      (if m.enc then n0.keyFor m else some 0) = some k → m.sent = 0 → m.message.length ≤ 4096 →
      ∃ n, exec (.frameStart p) s = .next (s.withNode n) ∧ n.queue p.val q = (n0.queue p.val q).erase m ∧
        n.portReg p.val Reg.framesTx = (n0.portReg p.val Reg.framesTx + 1) % 2 ^ 64 ∧ fieldB (n.port p.val).txFrame 1 1 = m.ftype % 256 ∧
        (m.enc = false → (n.port p.val).txFrame.drop 32 = m.message) ∧ (m.enc = true → (n.keySlot k).nonce = (n0.keySlot k).nonce + 1)) ∧
    (n0.inService p.val = false → exec (.frameStart p) s = .next s) ∧
    (∃ n, exec (.gateUnit p) s = .next (s.withNode n) ∧ (n.shaper p.val).unit = Nat.min 63 (sh.unit + 1) ∧
      n.portReg p.val Reg.gateState = n0.gatesAt p.val now (Nat.min 63 (sh.unit + 1)) ∧ n.links.queues = n0.links.queues) ∧
    (now % n0.reg Reg.histPeriod = 0 → ∃ n, exec .statisticsSample s = .next (s.withNode n) ∧ n.links.queues = n0.links.queues ∧
      ∀ i, i < 384 →
        (n0.queue (i / 8) (i % 8) = [] → ∀ k ∈ [i * 32, i * 32 + 16], Map.get 0 n.links.hist k = Nat.min 0xFFFFFFFF (Map.get 0 n0.links.hist k + 1)) ∧
        (∀ m ms, n0.queue (i / 8) (i % 8) = m :: ms →
          ∀ k ∈ [i * 32 + histBucket 1 (((m :: ms).map OutMsg.cells).sum), i * 32 + 16 + histBucket 2 (now - m.queuedAt)],
            Map.get 0 n.links.hist k = Nat.min 0xFFFFFFFF (Map.get 0 n0.links.hist k + 1))) ∧
    (now % n0.reg Reg.histPeriod ≠ 0 → exec .statisticsSample s = .next s) ∧
    (∀ (via : Via) (v : BitVec 8), s.accepts (.histClear via v) via 0x3101 5 [v] fun n => n.links.hist = if v = 1 then [] else n0.links.hist) ∧
    (∀ (f : Bytes),
      let be := fun (o : Nat) => fieldB f o 1 * 256 + fieldB f (o + 1) 1
      n0.isNative p.val = false → be 12 = 0x8808 → be 14 = 0x0101 →
      ∃ n, exec (.pfcReceive p f) s = .next (s.withNode n) ∧ n.portReg p.val Reg.pfcRx = (n0.portReg p.val Reg.pfcRx + 1) % 2 ^ 64 ∧
        ∀ v, v < 6 → bitOf (n.port p.val).paused v = if bitOf (be 16) v then be (18 + 2 * v) != 0 else bitOf (n0.port p.val).paused v) ∧
    (∃ n, exec (.pauseReceive p) s = .next (s.withNode n) ∧ n.portReg p.val Reg.pauseIgnored = (n0.portReg p.val Reg.pauseIgnored + 1) % 2 ^ 64 ∧
      n.links = n0.links)

/-! ### The host port -/

/-- MAILBOX_ENABLE, SQ_TAIL_DOORBELL (R522), MAILBOX_FETCH, HOST_READ_COMPLETION (R526), HOST_READ_TIMEOUT (R438) and HOST_REPLY_WRITE (R380, R527). Ring sizes that
the driver has not written by a command of the table are free (log entry 93), and so are the completions it has consumed. -/
def Obligations.HostMailboxes : Prop :=
  ∀ (s : State),
    let n0 := s.node
    let now := s.clock.tick
    let drops := fun (c : Instr) => ∃ n, exec c s = .next (s.withNode n) ∧ n.reg Reg.registerDrops = (n0.reg Reg.registerDrops + 1) % 2 ^ 64 ∧ n.host = n0.host
    (∀ (x : BitVec 16) (v : BitVec 32), n0.boxSlice x.toNat = none → drops (.mailboxEnable x v) ∧ drops (.sqTailDoorbell x v)) ∧
    (∀ (x : BitVec 16) (v : BitVec 32) (sl : Nat), n0.boxSlice x.toNat = some sl →
      (∃ n, exec (.sqTailDoorbell x v) s = .next (s.withNode n) ∧ n.box x.toNat = { n0.box x.toNat with sqTail := v.toNat } ∧ n.regs = n0.regs) ∧
      (v.toNat % 2 = 1 → ∃ n, exec (.mailboxEnable x v) s = .next (s.withNode n) ∧ (n.box x.toNat).enable = true ∧ (n.box x.toNat).mstatus = 1 ∧
        (n.box x.toNat).sqSize ≠ 0 ∧ (n.box x.toNat).cqSize ≠ 0 ∧
        ((n0.box x.toNat).sqSize ≠ 0 → (n0.box x.toNat).cqSize ≠ 0 → n.box x.toNat = { n0.box x.toNat with enable := true, mstatus := 1 })) ∧
      (v.toNat % 2 = 0 → ∃ n, exec (.mailboxEnable x v) s = .next (s.withNode n) ∧ n.box x.toNat = { n0.box x.toNat with enable := false, mstatus := 0 })) ∧
    (∀ x sl, n0.host.linkUp = true → Map.keys n0.host.boxes = [x] → n0.boxSlice x = some sl → (n0.box x).waiting = true →
      2 * (n0.openRequests x + 1) ≤ (n0.box x).cqFree →
      ∃ n, exec .mailboxFetch s = .next (s.withNode n) ∧ (n.box x).sqHead = ((n0.box x).sqHead + 1) % (n0.box x).sqSize ∧
        n.reg Reg.entriesFetched = (n0.reg Reg.entriesFetched + 1) % 2 ^ 64 ∧
        n.host.reads = n0.host.reads ++ [{ owner := x, index := (n0.box x).sqHead % (n0.box x).sqSize, issued := now, slice := sl }]) ∧
    (n0.host.linkUp = false → exec .mailboxFetch s = .next s) ∧
    (∀ (i : Nat) (bytes : Bytes) (rd : HostRead), n0.host.reads[i]? = some rd →
      let d := rd.data ++ bytes
      let entry := d.take 32
      let len := fieldB entry 8 4
      let msg := sliceB d 32 len
      let key := n0.keySlot (n0.session rd.owner).keySlot
      let opened := gcmOpen key.key (linkNonce (fieldB (sliceB msg 0 32) 4 2) 0xFF (fieldB (sliceB msg 0 32) 20 8)) (sliceB msg 0 32) (msg.drop 32)
      let whole := 32 ≤ d.length ∧ fieldB d 12 4 = 0 ∧ fieldB d 28 4 = 0 ∧ 112 ≤ fieldB d 8 4 ∧ 112 ≤ len ∧ 32 + fieldB d 8 4 ≤ d.length ∧
        hostHeaderOk (sliceB msg 0 32) = true ∧ key.state = 1 ∧ key.keyId = fieldB (sliceB msg 0 32) 18 2
      (n0.boxSlice rd.owner ≠ some rd.slice → ∃ n, exec (.hostReadCompletion i bytes) s = .next (s.withNode n) ∧
        n.reg Reg.drainDiscards = (n0.reg Reg.drainDiscards + 1) % 2 ^ 64 ∧ n.host.reads = n0.host.reads.eraseIdx i ∧ n.adm = n0.adm) ∧
      (n0.boxSlice rd.owner = some rd.slice → d.length < 32 →
        ∃ n, exec (.hostReadCompletion i bytes) s = .next (s.withNode n) ∧ n.host.reads = n0.host.reads.set i { rd with data := d }) ∧
      (n0.boxSlice rd.owner = some rd.slice → whole → opened = none →
        ∃ n, exec (.hostReadCompletion i bytes) s = .next (s.withNode n) ∧ n.host.reads = n0.host.reads.eraseIdx i ∧
          n.reg Reg.dmaTagFailures = (n0.reg Reg.dmaTagFailures + 1) % 2 ^ 64 ∧ n.adm = n0.adm) ∧
      (∀ v, n0.boxSlice rd.owner = some rd.slice → whole → opened = some v →
        let r := Request.ofBytes v (65 + rd.slice)
        ∃ (n : Node) (bad : Bool), exec (.hostReadCompletion i bytes) s = .next (s.withNode (n.arrive now r bad)) ∧
          n.host.reads = n0.host.reads.eraseIdx i ∧ n.adm = n0.adm ∧
          Map.find n.host.replyAddr r.key = some (fieldB entry 16 8, fieldB entry 24 4, rd.index) ∧
          (bad = false ↔ n.largestReply now r ≤ fieldB entry 24 4 ∧ len = 112 + r.hdr.payloadLen.toNat))) ∧
    (∃ n : Node, exec .hostReadTimeout s = .next (s.withNode n) ∧ ∀ r, r ∈ n.host.reads ↔ r ∈ n0.host.reads ∧ now < r.issued + 50) ∧
    (∀ m r,
      let ready := n0.host.out.filter fun m => match m.reply with | some r => decide (0 < (n0.box r.session).cqSize) | none => false
      let status := ready.filter fun m => match m.reply with | some r => r.body.isEmpty | none => false
      let b := n0.box r.session
      n0.host.linkUp = true → headOf 7 status = some m → m.reply = some r →
      ∃ n w, exec .hostReplyWrite s = .next (s.withNode n) ∧ n.host.out = n0.host.out.erase m ∧ n.host.writes = n0.host.writes ++ [w] ∧
        w.func = m.dst - 0x100 ∧ w.addr = b.cqBase + 64 * b.cqTail ∧ w.bytes.length = 64 ∧ fieldB w.bytes 0 1 = 1 ∧
        fieldB w.bytes 1 1 = (if b.phase then 1 else 0) ∧ sliceB w.bytes 32 32 = padTo 32 r.bytes ∧
        (n.box r.session).cqTail = if b.cqTail + 1 = b.cqSize then 0 else b.cqTail + 1)

/-- DMA_TAIL_DOORBELL, DMA_DESCRIPTOR, ATTEST_GO (R528): a function whose slice is not BOUND drops the write; a descriptor advances the ring's head, and is
refused with its DSTATUS or cut into messages that hold the bytes read. -/
def Obligations.HostRings : Prop :=
  ∀ (vf : Fin 64) (s : State),
    let n0 := s.node
    let f := n0.func vf.val
    let sl := n0.slice vf.val
    (∀ (v : BitVec 32), sl.state ≠ .bound → ∀ c ∈ [Instr.dmaTailDoorbell vf v, .attestGo vf v],
      ∃ n, exec c s = .next (s.withNode n) ∧ n.reg Reg.registerDrops = (n0.reg Reg.registerDrops + 1) % 2 ^ 64 ∧ n.host = n0.host) ∧
    (∀ (v : BitVec 32), sl.state = .bound →
      ∃ n, exec (.dmaTailDoorbell vf v) s = .next (s.withNode n) ∧ (n.func vf.val).dmaTail = v.toNat ∧ (n.func vf.val).dmaEnable = true ∧
        (n.func vf.val).dmaSize ≠ 0 ∧ (f.dmaSize ≠ 0 → n.func vf.val = { f with dmaTail := v.toNat, dmaEnable := true })) ∧
    (∀ (v : BitVec 32), sl.state = .bound →
      (v.toNat % 256 ≠ 1 → exec (.attestGo vf v) s = .next s) ∧
      (v.toNat % 256 = 1 → n0.reg Reg.attestState ≠ 1 → n0.reg Reg.attestState ≠ 3 →
        ∃ n a, exec (.attestGo vf v) s = .next (s.withNode n) ∧ n.reg Reg.attestState = 1 ∧ n.sec.attestTenant = sl.tenant ∧
          n.sec.attestDest = some (vf.val, a) ∧ (n.func vf.val).astatus = 1 ∧ (f.nonce ≠ [] → n.sec.attestNonce = f.nonce ∧ a = f.reportAddr))) ∧
    (∀ (v : Bytes), sl.state = .bound → f.dmaEnable = true → f.dmaSize ≠ 0 → f.dmaTail % f.dmaSize ≠ f.dmaHead % f.dmaSize →
      let i := f.dmaHead % f.dmaSize
      let m := n0.setFunc vf.val { f with dmaHead := (i + 1) % f.dmaSize }
      let src := fieldB v 0 8 % 2 ^ 51
      let len := fieldB v 16 4
      let x := fieldB v 20 2
      let ok := sl.sessFirst ≤ x ∧ x < sl.sessFirst + sl.sessCount ∧ (n0.session x).state = 1
      let done := fun (st : Nat) => ∃ n, exec (.dmaDescriptor vf v) s = .next (s.withNode n) ∧ (n.func vf.val).dmaHead = (i + 1) % f.dmaSize ∧
        n.host.writes = n0.host.writes ++ [{ func := vf.val + 1, addr := f.dmaBase + 32 * i + 23, bytes := [BitVec.ofNat 8 st] }] ∧ n.host.dma = n0.host.dma
      (fieldB v 24 8 ≠ 0 → done 5) ∧ (fieldB v 24 8 = 0 → fieldB v 22 1 ≠ 0 → done 1) ∧ (fieldB v 24 8 = 0 → fieldB v 22 1 = 0 → ¬ok → done 3) ∧
      (∀ data all, fieldB v 24 8 = 0 → fieldB v 22 1 = 0 → ok → len ≠ 0 → len ≤ 1048576 → fieldB v 0 8 / 2 ^ 51 % 8 = 0 →
        (∀ p, src / 16384 ≤ p → p ≤ (src + len - 1) / 16384 → (n0.page p).slice = vf.val ∧ (n0.page p).state ≠ .free) →
        m.readRun 65 src len = (data, all) →
        ∃ n parts, exec (.dmaDescriptor vf v) s = .next (s.withNode n) ∧ (n.func vf.val).dmaHead = (i + 1) % f.dmaSize ∧
          n.host.dma = n0.host.dma ++ parts ∧ (parts.map fun d => d.data).flatten = data ∧ (∀ d ∈ parts, d.session = x ∧ d.func = vf.val + 1 ∧ d.data.length ≤ 65536) ∧
          (parts.getLast?.bind fun d => d.last) = some (i, if all then 0 else 4)))

/-- FLR_VF, FLR_F0 (Table 21-5), HOST_LINK_DOWN, HOST_LINK_UP (R529), HOST_PORT_RESET (R549), IDE_KM (R521), SLOW_PORT_ERROR (R533), RESCAN (R531), CMD_DOORBELL
(R523) and SPACE4_READ (R525). What a port's enumeration finds is free (log entry 97), and so is the width the host link trains to (log entry 95). -/
def Obligations.HostLink : Prop :=
  ∀ (s : State),
    let n0 := s.node
    let now := s.clock.tick
    (∀ (vf : Fin 64),
      let sl := n0.slice vf.val
      ∃ n, exec (.flrVf vf) s = .next (s.withNode n) ∧ (n.func vf.val).dmaEnable = false ∧ (∀ m ∈ n.host.out, m.dst ≠ 0x101 + vf.val) ∧
        (∀ d ∈ n.host.dma, d.func ≠ vf.val + 1) ∧ (∀ r ∈ n.host.reads, r.slice ≠ vf.val) ∧
        (∀ x, sl.sessFirst ≤ x → x < sl.sessFirst + sl.sessCount → (n.box x).enable = false ∧ (n.box x).mstatus = 0) ∧
        (∀ w ∈ n.adm.pool, (n0.session w.req.sess).state = 0 ∨ (n0.session w.req.sess).replyPort ≠ 0x101 + vf.val)) ∧
    (∃ n, exec .flrF0 s = .next (s.withNode n) ∧ n.host.unlocked = false ∧ n.host.cmdOpen = false ∧ n.host.eventQueue = [] ∧ n.host.eqHead = n.host.eqTail ∧
      n.regs = n0.regs ∧ n.host.boxes = n0.host.boxes) ∧
    (n0.host.linkUp = true → ∃ n, exec .hostLinkDown s = .next (s.withNode n) ∧ n.host.linkUp = false ∧ n.host.out = [] ∧ n.reg Reg.hostSendBytes = 0) ∧
    (n0.host.linkUp = false → exec .hostLinkDown s = .next s) ∧
    (n0.host.linkUp = false → ∃ n, exec .hostLinkUp s = .next (s.withNode n) ∧ n.host.linkUp = true ∧
      (n.reg Reg.hostSendBytes = 64000 ∨ n.reg Reg.hostSendBytes = 32000 ∨ n.reg Reg.hostSendBytes = 0)) ∧
    (n0.host.linkUp = true → exec .hostLinkUp s = .next s) ∧
    (∃ n, exec .hostPortReset s = .next (s.withNode n) ∧ n.host.linkUp = false ∧ n.host.unlocked = false ∧ n.host.cmdOpen = false ∧ n.host.out = [] ∧
      n.reg Reg.hostSendBytes = 0) ∧
    (∀ (v : Bytes), fieldB v 0 1 ≤ 4 → ∃ n, exec (.ideKm v) s = .next (s.withNode n) ∧ Map.find n.host.ideKeys (fieldB v 0 1) = some (v.drop 1) ∧
      ∀ k, k ≠ fieldB v 0 1 → Map.find n.host.ideKeys k = Map.find n0.host.ideKeys k) ∧
    (∀ (p : Fin 8) (kind : BitVec 8), p.val < 2 →
      (kind.toNat ≤ 2 → n0.octet Reg.slowPortState p.val = 1 → ∃ n, exec (.slowPortError p kind) s = .next (s.withNode n) ∧
        n.octet Reg.slowPortState p.val = 3 ∧ ∀ d, Map.find n.slow p.val = some d → d.up = false) ∧
      (2 < kind.toNat → ∃ n, exec (.slowPortError p kind) s = .next (s.withNode n) ∧ n.reg Reg.cxlCorrected = (n0.reg Reg.cxlCorrected + 1) % 2 ^ 64)) ∧
    (∀ (via : Via) (v : BitVec 8), s.accepts (.rescan via v) via 0x1220 4 [v] fun n =>
      (v = 1 → (∀ e ∈ n0.tiers.slow, e.2.used = false) → ∀ p, p < 2 → n0.hasUnit (1 + p) = true →
        ∃ d, Map.find n.slow p = some d ∧ d.up = (d.present && decide (d.latencyNs ≤ 1500) && decide (51000 ≤ d.bandwidth)) ∧
          n.octet Reg.slowPortState p = if d.up then 1 else if d.present then 2 else 0) ∧
      (v ≠ 1 ∨ (∃ e ∈ n0.tiers.slow, e.2.used = true) → n.slow = n0.slow ∧ n.regs = n0.regs)) ∧
    (∀ (v : BitVec 32) (frame : Bytes), n0.reachable .f0 = true →
      let flags := fieldB frame 1 1
      let via : Via := { src := .f0, auth := n0.host.unlocked, awl := bitOf flags 3, seq := v }
      let m := ({ n0 with host := { n0.host with cmdDoorbell := v.toNat, command := frame, cmdOpen := true } } : Node).noteAwl via
      (n0.host.cmdOpen = true → ∃ n, exec (.cmdDoorbell v frame) s = .next (s.withNode n) ∧
        n.reg Reg.registerDrops = (n0.reg Reg.registerDrops + 1) % 2 ^ 64 ∧ n.host = n0.host) ∧
      (∀ items, n0.host.cmdOpen = false → fieldB frame 4 4 = v.toNat → 16 + fieldB frame 8 4 ≤ frame.length → fieldB frame 0 1 = 0x10 →
        readPairs (sliceB frame 16 (fieldB frame 8 4)) = some items →
        ∃ n, exec (.cmdDoorbell v frame) s = .next (s.withNode n) ∧ n.host.rspSeq = v.toNat ∧ n.host.cmdOpen = false ∧ (0, 0) ∈ n.host.msix ∧
          n.host.response.drop 16 = (m.readItems now via 65536 items []).2)) ∧
    (∀ (a : BitVec 35) (len : Nat), n0.reachable .f0 = true →
      ∃ n, exec (.space4Read a len) s = .next (s.withNode n) ∧ n.regs = n0.regs ∧
        n.host = { n0.host with space4Data := s.space4 n0.host.space4 (a.toNat / 2 ^ 27) (a.toNat % 2 ^ 27) (Nat.min len 4096) } ∧
        (n0.host.unlocked = false → openRead n0.host.space4 (a.toNat / 2 ^ 27) = false → n.host.space4Data = List.replicate (Nat.min len 4096) 0))

/-! ### Slices and composition -/

/-- SLICE_BIND (R389, R391, R392), SESSION_OPEN, SESSION_CLOSE (R393), SLICE_RELEASE (R394, R436), DRAIN_BOUND (R438) and SCRUB_END (R440): a slice goes FREE, BOUND,
RELEASING, SCRUBBING, FREE; the on-die memory of its blocks reads 0 from the drain bound on, and every other byte is as before. What a SCRUBBING slice keeps of its
sessions is the model's reading (log entry 135). -/
def Obligations.SliceLife : Prop :=
  ∀ (s : State),
    let n0 := s.node
    let now := s.clock.tick
    (∀ (via : Via) (v : Bytes),
      let k := fieldB v 0 1
      let b := Slice.ofBytes v
      s.accepts (.sliceBind via v) via 0x3204 1 v fun n =>
        n.reg Reg.bindResult = n0.bindCode false v ∧
        (n0.bindCode false v = 0 → (n0.slice k).state = .free →
          n.slice k = { b with state := .bound, stateTick := now, bindGen := ((n0.slice k).bindGen + 1) % 256 } ∧
          (n.quota k).t1Slots = fieldB v 116 4 ∧ (n.quota k).high = fieldB v 126 1 ∧ (n.quota k).low = fieldB v 127 1) ∧
        (n0.bindCode false v = 0 → (n0.slice k).state ≠ .free → n.slice k = { n0.slice k with pendingBind := some v }) ∧
        (n0.bindCode false v ≠ 0 → n.comp = n0.comp)) ∧
    (∀ (via : Via) (v : Bytes),
      let w := sessionValue 1 v
      let x := fieldB w 0 2
      s.accepts (.sessionOpen via v) via 0x3204 4 w fun n =>
        (∀ k b, n0.sliceOfSession x = some (k, b) → fieldB w 3 1 = 0 → fieldB w 12 4 = 0 → n0.replyPortOk k (fieldB w 4 2) = true →
          n0.sessionKey k (fieldB w 6 2) = true →
          n.reg Reg.sessionResult = 0 ∧ (n.session x).state = 1 ∧ (n.session x).slice = k ∧ (n.session x).tenant = (n0.slice k).tenant ∧
          (n.session x).replyPort = fieldB w 4 2 ∧ (n.session x).keySlot = fieldB w 6 2 ∧ (n.session x).quantum = fieldB w 8 4) ∧
        (n0.sliceOfSession x = none → n.reg Reg.sessionResult = 1 ∧ n.adm = n0.adm)) ∧
    (∀ (via : Via) (v : Bytes),
      let w := sessionValue 2 v
      let x := fieldB w 0 2
      s.accepts (.sessionClose via v) via 0x3204 4 w fun n =>
        (∀ e, n0.sliceOfSession x = some e → fieldB w 3 1 = 0 → fieldB w 12 4 = 0 → (n0.session x).state = 1 → (n0.adm.admitted.map fun q => q.req.key).Nodup →
          n.reg Reg.sessionResult = 0 ∧ n.session x = {} ∧ (∀ q ∈ n.adm.pool, q.req.sess ≠ x) ∧ (∀ q ∈ n.adm.admitted, q.req.sess = x → 2 ≤ q.phase) ∧
          ∀ d ∈ n.host.dma, d.session ≠ x) ∧
        (∀ e, n0.sliceOfSession x = some e → fieldB w 3 1 = 0 → fieldB w 12 4 = 0 → (n0.session x).state ≠ 1 → n.reg Reg.sessionResult = 5 ∧ n.adm = n0.adm)) ∧
    (∀ (via : Via) (v : BitVec 8),
      let k := v.toNat
      let b := n0.slice k
      s.accepts (.sliceRelease via v) via 0x3204 3 [v] fun n =>
        (k ≤ 63 → b.state = .bound →
          (n.slice k).state = .releasing ∧ (n.slice k).drainTick = now + n0.reg Reg.drainTicks ∧ (n.slice k).bindGen = b.bindGen ∧
          (∀ x, b.sessFirst ≤ x → x < b.sessFirst + b.sessCount → (n0.session x).state = 1 → (n.session x).state = 2) ∧
          (∀ j, (n.keySlot j).slice = k → (n.keySlot j).state ≠ 1) ∧
          (∀ q ∈ n.adm.pool, ¬(b.sessFirst ≤ q.req.sess ∧ q.req.sess < b.sessFirst + b.sessCount)) ∧ (∀ d ∈ n.host.dma, d.func ≠ k + 1)) ∧
        (63 < k ∨ b.state ≠ .bound → n.comp = n0.comp ∧ n.adm = n0.adm)) ∧
    (∀ (sl : Fin 64),
      let b := n0.slice sl.val
      (b.state = .releasing → b.drainTick ≤ now →
        ∃ n m, exec (.drainBound sl) s = .next { s with node := n, mem := m } ∧ (n.slice sl.val).state = .scrubbing ∧
          (n.slice sl.val).scrubEnd = now + n0.scrubTicks sl.val ∧ (∀ e ∈ n.cells.threads, bitOf b.blocks (e.1 / 16 / 16) = false) ∧
          (∀ x, b.sessFirst ≤ x → x < b.sessFirst + b.sessCount → n.box x = {} ∧
            n.session x = { state := (n0.session x).state, slice := (n0.session x).slice, tenant := (n0.session x).tenant,
                            replyPort := (n0.session x).replyPort }) ∧
          (∀ a, inBlocks b.blocks a = true → Memory.byte m a = 0) ∧ (∀ a, inBlocks b.blocks a = false → Memory.byte m a = Memory.byte s.mem a)) ∧
      (b.state ≠ .releasing ∨ now < b.drainTick → exec (.drainBound sl) s = .next s) ∧
      (b.state = .scrubbing → b.scrubEnd = now →
        ∃ n, exec (.scrubEnd sl) s = .next (s.withNode n) ∧
          n.slice sl.val = { bindGen := b.bindGen, pendingBind := b.pendingBind, stateTick := now } ∧
          n.reg Reg.scrubs = (n0.reg Reg.scrubs + 1) % 2 ^ 64 ∧ (∀ e ∈ n.seqs.pages, e.2.slice ≠ sl.val) ∧ (∀ e ∈ n.indexes, e.2.slice ≠ sl.val) ∧
          (n.quota sl.val).t1Slots = 0 ∧ (∀ x, b.sessFirst ≤ x → x < b.sessFirst + b.sessCount → n.session x = {})) ∧
      (b.state ≠ .scrubbing ∨ b.scrubEnd ≠ now → exec (.scrubEnd sl) s = .next s))

/-- PRE_COPY (R401), MOVE_RECEIVE (R403, R453), MOVE_TIMEOUT (R403), EPOCH_ADMISSION_END and DRAIN_TICK (R399). The layout of MOVE messages is the model's (log
entry 78), and so is the reason of MOVE_TIMEOUT's report (log entry 84). -/
def Obligations.EpochsAndMoves : Prop :=
  ∀ (s : State),
    let n0 := s.node
    let now := s.clock.tick
    (n0.comp.stagedMap = none → exec .preCopy s = .next s) ∧
    (∀ m sl dest p q, n0.comp.stagedMap = some m → n0.reg Reg.commitState ≠ 0 → n0.reg Reg.commitState ≠ 4 → m.slicesIn 2 = [(sl, dest)] →
      n0.movePages sl = [p] → p ∉ n0.comp.preCopied → n0.copyWindow now p dest = true → n0.route dest = some q →
      ∃ n x, exec .preCopy s = .next (s.withNode n) ∧ n.queue q 3 = n0.queue q 3 ++ [x] ∧ x.ftype = 6 ∧ x.dst = dest ∧ x.bytes = n0.movePage sl p ∧
        n.comp.preCopied = n0.comp.preCopied ++ [p] ∧ n.seqs = n0.seqs) ∧
    (∀ (src : BitVec 16) (v : Bytes),
      let page := fieldB v 1 4
      let id := fieldB (v.drop 14) 0 6
      (∀ r q, fieldB v 0 1 = 1 → n0.replicaOf src.toNat page = some r → n0.route src.toNat = some q →
        ∃ n x, exec (.moveReceive src v) s = .next (s.withNode n) ∧ n.queue q 3 = n0.queue q 3 ++ [x] ∧ x.ftype = 6 ∧ x.dst = src.toNat ∧
          x.bytes = leBytes 1 2 ++ leBytes 4 page ++ n0.replicaPart r ∧ n.seqs = n0.seqs) ∧
      (fieldB v 0 1 = 4 → n0.rcv.incoming = [] → (n0.slice (fieldB v 1 1)).state = .bound → (n0.seq (seqLocal id)).state = .free →
        (fieldB v 2 2 ≠ 0xFFFF → ∃ n c, exec (.moveReceive src v) s = .next (s.withNode n) ∧ Map.find n.rcv.incoming id = some c ∧ c.source = src.toNat ∧
          c.slice = fieldB v 1 1 ∧ c.image = v.drop 14 ∧ c.lost = some (fieldB v 2 2) ∧ c.cutTick = fieldB v 4 8 ∧ seqLocal id ∈ n.comp.moving ∧
          n.seqs = n0.seqs) ∧
        (∀ m, fieldB v 2 2 = 0xFFFF → (n0.moveSeqIn src.toNat v).openIncoming now id = some m →
          ∃ n, exec (.moveReceive src v) s = .next (s.withNode n) ∧ (n.seq (seqLocal id)).state = .opened ∧ Map.find n.rcv.incoming id = none))) ∧
    (∀ (sq : BitVec 20) (id : Nat) (c : Incoming), n0.rcv.incoming.find? (fun e => seqLocal e.1 == sq.toNat && e.2.lost.isNone) = some (id, c) →
      (n0.comp.moveDue ≤ now → ∃ n, exec (.moveTimeout sq) s = .next (s.withNode n) ∧ Map.find n.rcv.incoming id = none ∧
        ∃ r ∈ n.rcv.losses, r.seqId = id ∧ r.reason = 2 ∧ r.tick = now) ∧
      (now < n0.comp.moveDue → exec (.moveTimeout sq) s = .next s)) ∧
    (∀ t, n0.comp.admissionEnd = some t →
      (t ≤ now → n0.reg Reg.epochState = 1 → ∃ n, exec .epochAdmissionEnd s = .next (s.withNode n) ∧ n.reg Reg.epochState = 2 ∧
        n.reg Reg.drainTick = t + n0.comp.prevLead ∧ n.adm = n0.adm) ∧
      (now < t → exec .epochAdmissionEnd s = .next s)) ∧
    (n0.reg Reg.epochState = 2 → n0.reg Reg.drainTick ≤ now → (n0.adm.admitted.map fun q => q.req.key).Nodup →
      ∃ n, exec .drainTick s = .next (s.withNode n) ∧ n.reg Reg.epochState = 0 ∧ n.reg Reg.prevEpoch = 0 ∧ n.comp.previous = none ∧
        (∀ q ∈ n.adm.admitted, q.req.hdr.epoch.toNat = n0.reg Reg.prevEpoch → 2 ≤ q.phase) ∧
        (∀ m, n0.comp.current = some m → ∀ e ∈ m.slicesIn 2, (n0.slice e.1).state = .bound → (n.slice e.1).state = .releasing)) ∧
    (n0.reg Reg.epochState ≠ 2 ∨ now < n0.reg Reg.drainTick → exec .drainTick s = .next s)

/-- ROUND_HEADER_RECEIVE, HEADER_WAIT_EXPIRY (R408), HOLD_STOP (R409), REJOIN (R410), QUARANTINE_KEEP, QUARANTINE_YIELD and QUARANTINE_DROP (R412). -/
def Obligations.GroupAndDisputes : Prop :=
  ∀ (s : State),
    let n0 := s.node
    let now := s.clock.tick
    (∀ (h : Bytes),
      let node := fieldB h 2 2 % 1024
      let hears := h.length = 80 ∧ fieldB h 0 1 = 1 ∧ node ≠ n0.straps ∧ n0.inRounds = true
      (hears → n0.time.counted = true → n0.headerSplit now h = true →
        ∃ n, exec (.roundHeaderReceive h) s = .next (s.withNode n) ∧ n.reg Reg.outOfRounds = 1 ∧ n.comp.outCause = 2) ∧
      (hears → (n0.time.counted && n0.headerSplit now h) = false → node ∈ n0.members → Map.find n0.comp.headers node = none →
        fieldB h 16 8 = n0.roundAt (now - 1) → n0.offset (now - 1) ≤ n0.reg Reg.headerWait →
        ∃ n p, exec (.roundHeaderReceive h) s = .next (s.withNode n) ∧ Map.find n.comp.headers node = some p ∧ p.raw = h ∧
          p.matched = (sliceB h 40 32 == n0.digest) ∧ node ∉ n.comp.silent ∧
          (sliceB h 40 32 = n0.digest → n.regs = n0.regs) ∧
          (sliceB h 40 32 ≠ n0.digest → n.reg Reg.groupState = 1 ∧ n.reg Reg.digestMismatches = (n0.reg Reg.digestMismatches + 1) % 2 ^ 64))) ∧
    (n0.inRounds = true → n0.reg Reg.roundBase ≤ now → n0.reg Reg.headerWait < n0.offset now →
      ∃ n, exec .headerWaitExpiry s = .next (s.withNode n) ∧ (∀ x ∈ n0.comp.silent, x ∈ n.comp.silent) ∧
        ∀ x ∈ n0.members, (∀ p, Map.find n0.comp.headers x = some p → p.round ≠ n0.roundAt now) → x ∈ n.comp.silent) ∧
    (∀ (via : Via) (v : BitVec 8), s.accepts (.holdStop via v) via 0x3204 7 [v] fun n =>
      (v = 1 → n0.reg Reg.groupState = 1 → (n0.adm.admitted.map fun q => q.req.key).Nodup → n.unfinished = []) ∧
      (v ≠ 1 ∨ n0.reg Reg.groupState ≠ 1 → n.adm = n0.adm ∧ n.regs = n0.regs)) ∧
    (∀ (via : Via) (v : BitVec 8), s.accepts (.rejoin via v) via 0x3204 8 [v] fun n =>
      (v = 1 → n0.inRounds = false → n0.rejoinInput.isSome = true → n.comp.rejoinPending = true ∧ n.regs = n0.regs) ∧
      (v = 1 → n0.inRounds = true ∨ n0.rejoinInput = none →
        n.reg Reg.rejoinRefused = (n0.reg Reg.rejoinRefused + 1) % 2 ^ 32 ∧ n.comp = n0.comp)) ∧
    (∀ (via : Via) (v : Bytes),
      let id := fieldB (forceOp 1 v) 2 6
      let k := seqLocal id
      s.accepts (.quarantineKeep via v) via 0x3204 6 (forceOp 1 v) fun n =>
        (n0.seq k).state = .quarantined → (n0.seq k).id = id → (n0.disputed k).Nodup → n0.disputed k ≠ [] →
          (∀ p ∈ n0.disputed k, (n0.page p).prior ≠ .quarantined) →
          (n.seq k).state = .opened ∧ ∀ p ∈ n0.disputed k, (n.page p).state = (n0.page p).prior ∧ (n.page p).replicated = false) ∧
    (∀ (via : Via) (v : Bytes),
      let id := fieldB (forceOp 2 v) 2 6
      let k := seqLocal id
      s.accepts (.quarantineYield via v) via 0x3204 6 (forceOp 2 v) fun n =>
        ∀ w ws p q, (n0.seq k).state = .quarantined → (n0.seq k).id = id → n0.partners = w :: ws → n0.disputed k = [p] → n0.route w = some q →
          n.seqs = n0.seqs ∧ ∃ x, n.queue q 3 = n0.queue q 3 ++ [x] ∧ x.dst = w ∧ x.bytes = leBytes 1 1 ++ leBytes 4 p) ∧
    (∀ (via : Via) (v : Bytes),
      let id := fieldB (forceOp 3 v) 2 6
      let k := seqLocal id
      s.accepts (.quarantineDrop via v) via 0x3204 6 (forceOp 3 v) fun n =>
        (n0.seq k).state = .quarantined → (n0.seq k).id = id →
          (n.seq k).state = .lost ∧ (∀ t ∈ (n.seq k).tracks, t.pages = [] ∧ t.spare = none) ∧
          ∃ r ∈ n.rcv.losses, r.seqId = id ∧ r.reason = 1 ∧ r.tick = now)

/-! ### Security -/

/-- KEY_INSTALL (R418, R419), KEY_RETIRE (R420), KEY_RETIREMENT (R421): the result code; an installed key is LIVE with its fields, a retired one is zeroized. -/
def Obligations.Keys : Prop :=
  ∀ (s : State),
    let n0 := s.node
    let now := s.clock.tick
    (∀ (via : Via) (v : Bytes),
      let key := unwrapKey n0.sec.kemPrivate (sliceB v 16 1568) (sliceB v 0 16) "UHLELLE KEY WRAP" (sliceB v 1584 48)
      s.accepts (.keyInstall via v) via 0x3404 1 v fun n =>
        n.reg Reg.keyResult = n0.installCode v key ∧
        (n0.installCode v key = 0 → n.keySlot (fieldB v 0 2) = { state := 1, ktype := fieldB v 2 1, tenant := fieldB v 4 4 % 2 ^ 28, slice := fieldB v 8 1,
                                                                 keyId := fieldB v 10 2, liveTick := now, key := key.getD [] } ∧
          n.sec.usedIds = n0.sec.usedIds ++ [fieldB v 10 2] ∧ n.reg Reg.keyInstalls = (n0.reg Reg.keyInstalls + 1) % 2 ^ 64) ∧
        (n0.installCode v key ≠ 0 → n.sec.keys = n0.sec.keys ∧ n.reg Reg.keyRefusals = (n0.reg Reg.keyRefusals + 1) % 2 ^ 64) ∧
        (key = none → n0.installCode v key ≠ 0)) ∧
    (∀ (via : Via) (v : Bytes),
      let k := fieldB v 0 2
      let d := n0.keySlot k
      let free := ∀ e ∈ n0.adm.sessions, e.2.state = 1 → e.2.keySlot ≠ k
      s.accepts (.keyRetire via v) via 0x3404 2 v fun n =>
        (fieldB v 2 2 = 0 → fieldB v 12 4 = 0 → d.state = 1 → d.ktype < 3 → free →
          n.reg Reg.keyResult = 0 ∧
          (fieldB v 4 8 ≤ now → n.keySlot k = { d with state := 2, key := [], retireAt := none } ∧
            n.reg Reg.keysRetired = (n0.reg Reg.keysRetired + 1) % 2 ^ 64) ∧
          (now < fieldB v 4 8 → n.keySlot k = { d with retireAt := some (fieldB v 4 8) })) ∧
        (fieldB v 2 2 = 0 → fieldB v 12 4 = 0 → d.state ≠ 1 ∨ 3 ≤ d.ktype → n.reg Reg.keyResult = 8 ∧ n.sec.keys = n0.sec.keys) ∧
        (fieldB v 2 2 = 0 → fieldB v 12 4 = 0 → d.state = 1 → d.ktype < 3 → ¬free → n.reg Reg.keyResult = 9 ∧ n.sec.keys = n0.sec.keys)) ∧
    (∀ (slot : BitVec 16) (t : Nat), (n0.keySlot slot.toNat).retireAt = some t →
      (t ≤ now → (n0.keySlot slot.toNat).state = 1 → ∃ n, exec (.keyRetirement slot) s = .next (s.withNode n) ∧
        n.keySlot slot.toNat = { n0.keySlot slot.toNat with state := 2, key := [], retireAt := none }) ∧
      (now < t → exec (.keyRetirement slot) s = .next s)) ∧
    (∀ (slot : BitVec 16), (n0.keySlot slot.toNat).retireAt = none → exec (.keyRetirement slot) s = .next s)

/-- FW_STAGED (R428, R560), ATTEST_REQ, ATTEST_REPORT_READY (R429, R430), OPROOT_WRITE (R561), SCAN_ENTRY and ZEROIZATION_COMPLETE (R480): what the package record takes,
what a report holds, and what scan leaves of secrets, cells, links and on-die memory. -/
def Obligations.FirmwareAndScan : Prop :=
  ∀ (s : State),
    let n0 := s.node
    let now := s.clock.tick
    (∀ (via : Via) (v : Bytes), n0.reachable via.src = true → n0.seen via.src via.seq.toNat now = .fresh →
      (n0.noteAwl via).writeStatus via (blockEntry 0x3404 6) 0x3404 6 v = svOk →
      ∃ (n : Node) (p : Package), exec (.fwStaged via v) s = .next { s with node := n.acked via (if blockEntry 0x3404 6 then 0x13 else 0x11) now, pkg := p } ∧
        n.reg Reg.fwResult = imageCode s.pkg v ∧
        (imageCode s.pkg v ≠ 0 → p = s.pkg) ∧
        (imageCode s.pkg v = 0 → p.current.bank = 1 - s.pkg.current.bank ∧ p.image (fieldB v 2 1) = v ∧ p.current.svnMin = s.pkg.current.svnMin ∧
          p.current.opRoot = s.pkg.current.opRoot ∧ p.repairs = s.pkg.repairs)) ∧
    (∀ (via : Via) (v : Bytes), s.accepts (.attestReq via v) via 0x3404 4 v fun n =>
      (n0.reg Reg.attestState ≠ 1 → n0.reg Reg.attestState ≠ 3 → n.reg Reg.attestState = 1 ∧ n.sec.attestTenant = fieldB v 0 4 ∧
        n.sec.attestNonce = sliceB v 8 64 ∧ n.sec.attestDest = none) ∧
      (n0.reg Reg.attestState = 1 → n.regs = n0.regs ∧ n.sec.attestIgnored = n0.sec.attestIgnored + 1 ∧ n.sec.attestNonce = n0.sec.attestNonce)) ∧
    (n0.reg Reg.attestState = 1 → ∃ n snap, exec .attestReportReady s = .next (s.withNode n) ∧ n.reg Reg.attestState = 2 ∧
      n.sec.report = snap ++ padTo 4627 (Config.sign n0.sec.dikPrivate snap) ∧ (n0.sec.attestSnap ≠ [] → snap = n0.sec.attestSnap) ∧
      (∀ f a, n0.sec.attestDest = some (f, a) → n.host.writes = n0.host.writes ++ [{ func := f, addr := a, bytes := n.sec.report }])) ∧
    (n0.reg Reg.attestState ≠ 1 → exec .attestReportReady s = .next s) ∧
    (∀ (v : Bytes), ∃ n p, exec (.oprootWrite v) s = .next { s with node := n, pkg := p } ∧ n.sec.jtagUsed = true ∧ n.sec.awlUsed = true ∧ n.regs = n0.regs ∧
      (v.length = 64 → (∀ e ∈ n0.comp.slices, e.2.state ≠ .bound) → p.current.opRoot = v ∧ p.current.bank = s.pkg.current.bank ∧ p.banks = s.pkg.banks) ∧
      (v.length ≠ 64 ∨ (∃ e ∈ n0.comp.slices, e.2.state = .bound) → p = s.pkg)) ∧
    (n0.reg Reg.scanState = 0 → n0.st ≠ 0 → ∃ n, exec .scanEntry s = .next { s with node := n, mem := [] } ∧ n.reg Reg.scanState = 1 ∧ n.reg Reg.attestState = 3 ∧
      n.st = stFault ∧ n.sec.kemPrivate = [] ∧ n.sec.dikPrivate = [] ∧ (∀ k, (n.keySlot k).key = [] ∧ (n.keySlot k).state ≠ 1) ∧ n.cells = {} ∧ n.links = {} ∧
      n.sec.jtagUsed = true) ∧
    (n0.reg Reg.scanState ≠ 0 ∨ n0.st = 0 → exec .scanEntry s = .next s) ∧
    (n0.reg Reg.scanState = 1 → ∃ n, exec .zeroizationComplete s = .next (s.withNode n) ∧ n.reg Reg.scanState = 2 ∧ n.sec = n0.sec) ∧
    (n0.reg Reg.scanState ≠ 1 → exec .zeroizationComplete s = .next s)

/-! ### Errors, tests and recovery -/

/-- TARGETED_TEST_START, TEST_RESULT (R445, R446), ROW_REPAIR (R278), REPAIR_RECORD_WRITE (R478), LOCKSTEP_MISMATCH (R470), STATE_LOST_MARGIN (R450),
SELFTEST_SLICE_START, SELFTEST_SLICE_END, SELFTEST_SLICE_STOP (R468, R474), CYCLE_OVERRUN (R473) and TEST_REQ (R479). The port of a status entry whose own port is not in
service is the model's reading (log entry 131). -/
def Obligations.ErrorsAndTests : Prop :=
  ∀ (s : State),
    let n0 := s.node
    let now := s.clock.tick
    (∀ (kind : BitVec 8) (num : BitVec 32) (k : UnitKind) (u : UnitState), unitKindOf kind.toNat = some k → n0.unitState? k num.toNat = some u →
      u.retired = false → u.started = false →
      ∃ n, exec (.targetedTestStart kind num) s = .next (s.withNode n) ∧ n.unitState? k num.toNat = some { u with started := true } ∧
        n.reg Reg.targetedRun = (n0.reg Reg.targetedRun + 1) % 2 ^ 64) ∧
    (∀ (kind : BitVec 8) (num addr : BitVec 32) (bit : BitVec 16) (k : UnitKind) (u : UnitState), unitKindOf kind.toNat = some k → k ≠ .port →
      n0.unitState? k num.toNat = some u → u.retired = false → u.onDemand = false →
      (∃ n, exec (.testResult kind num true addr bit) s = .next (s.withNode n) ∧ n.unitState? k num.toNat = none ∧
        n.reg Reg.transients = (n0.reg Reg.transients + 1) % 2 ^ 64) ∧
      (repairRow k num.toNat addr.toNat = none →
        ∃ n, exec (.testResult kind num false addr bit) s = .next (s.withNode n) ∧ n.reg Reg.lasting = (n0.reg Reg.lasting + 1) % 2 ^ 64 ∧
          (k ≠ .chip → n.retired k num.toNat = true) ∧ (k = .chip → n.st = stFault)) ∧
      (∀ r, repairRow k num.toNat addr.toNat = some r → Map.get 0 n0.test.spares r.key < r.spares →
        ∃ n, exec (.testResult kind num false addr bit) s = .next (s.withNode n) ∧ n.reg Reg.lasting = (n0.reg Reg.lasting + 1) % 2 ^ 64 ∧
          n.unitState? k num.toNat = none ∧ Map.get 0 n.test.spares r.key = Map.get 0 n0.test.spares r.key + 1)) ∧
    (∀ (st : Fin 16) (ch : Fin 32) (bank : BitVec 8) (row : BitVec 16) (r : List Nat),
      n0.stk.repairs.find? (fun (r : List Nat) => r.take 3 == [st.val, ch.val, bank.toNat] && r.getD 4 0 == row.toNat) = some r →
      (n0.maintAt now st.val 2 = true → ∃ n, exec (.rowRepair st ch bank row) s = .next (s.withNode n) ∧ n.stk.rowMap = n0.stk.rowMap ++ [r] ∧
        r ∉ n.stk.repairs ∧ n.reg Reg.rowsRepaired = (n0.reg Reg.rowsRepaired + 1) % 2 ^ 32 ∧ n.stk.lines = n0.stk.lines) ∧
      (n0.maintAt now st.val 2 = false → exec (.rowRepair st ch bank row) s = .next s)) ∧
    (∀ f t rest, n0.test.pendingRepairs = (f, t) :: rest →
      ∃ n p, exec .repairRecordWrite s = .next { s with node := n, pkg := p } ∧ n.test.pendingRepairs = rest ∧
        (s.pkg.repairs.length < n0.reg Reg.repairRecordsMax → p.repairs = s.pkg.repairs ++ [repairRecord f t] ∧
          n.reg Reg.repairRecordsUsed = s.pkg.repairs.length + 1) ∧
        (n0.reg Reg.repairRecordsMax ≤ s.pkg.repairs.length → p = s.pkg ∧ n.reg Reg.coverageStatus = n0.reg Reg.coverageStatus ||| 2)) ∧
    (∀ (num : BitVec 8), n0.retired .chip num.toNat = false → ∃ n r, exec (.lockstepMismatch num) s = .next (s.withNode n) ∧
      (n.unitState? .chip num.toNat).isSome = true ∧ n.rcv.log.getLast? = some r ∧ r.tick = now ∧ r.kind = .chip ∧ r.unit = num.toNat) ∧
    (∀ (q : ReqRef) (a : Admitted), n0.admitted? q.key = some a → a.stateLost = true → a.phase < 2 → a.lateSent = false → a.writeReady = false →
      a.send.port < 48 → n0.marginPassed now a = true →
      let p := n0.statusPort a.send.port (n0.session a.req.sess).slice
      ∃ n m1 m2 r1 r2, exec (.stateLostMargin q) s = .next (s.withNode n) ∧ n.queue p 7 = n0.queue p 7 ++ [m1, m2] ∧
        m1.reply = some r1 ∧ r1.status = stLateNotice ∧ r1.detail = 5 ∧ m2.reply = some r2 ∧ r2.status = stStateLost ∧ r2.final = true) ∧
    (∀ w p, n0.inRounds = true → n0.reg Reg.roundBase ≤ now → n0.st = stPreop ∨ n0.st = stOperational ∨ n0.st = stHold →
      (n0.sched.active.windows.filter fun w => w.kind == 6 && w.start == n0.offset now) = [w] → n0.test.demand = [] → n0.test.running = [] →
      let t := if w.param ≤ 5 then w.target else 16
      n0.nextPlace w.param t (classSlices w.param) (Map.get 0 n0.test.cursor (classKey w.param t)) = some p →
      n0.unitUp (sliceUnit w.param t p 0xFFFFFFFF).1 (sliceUnit w.param t p 0xFFFFFFFF).2 = true →
      ∃ n, exec .selftestSliceStart s = .next (s.withNode n) ∧
        n.test.running = [{ cls := w.param, target := t, place := p, start := now, winEnd := now + Nat.min w.length 40, onDemand := false }]) ∧
    (∀ (cls target : BitVec 8) (pass : Bool) (addr : BitVec 32) (bit : BitVec 16) (x : RunSlice),
      n0.test.running.find? (fun x => x.cls == cls.toNat && (decide (6 ≤ x.cls) || x.target == target.toNat)) = some x →
      (x.winEnd < now → exec (.selftestSliceEnd cls target pass addr bit) s = .next s) ∧
      (now ≤ x.winEnd → ∃ n, exec (.selftestSliceEnd cls target pass addr bit) s = .next (s.withNode n) ∧ x ∉ n.test.running ∧
        n.reg Reg.slicesRun = (n0.reg Reg.slicesRun + 1) % 2 ^ 64 ∧
        (pass = true → n.reg Reg.slicesFailed = n0.reg Reg.slicesFailed ∧ n.rcv = n0.rcv) ∧
        (pass = false → n.reg Reg.slicesFailed = (n0.reg Reg.slicesFailed + 1) % 2 ^ 64 ∧
          (x.cls ≠ 5 → (n.unitState? (sliceUnit x.cls x.target x.place addr.toNat).1 (sliceUnit x.cls x.target x.place addr.toNat).2).isSome = true)))) ∧
    (∃ n, exec .selftestSliceStop s = .next (s.withNode n) ∧ ∀ x, x ∈ n.test.running ↔ x ∈ n0.test.running ∧ now < x.winEnd) ∧
    (n0.test.started = true → n0.test.overrun = false → n0.reg Reg.cycleStart + n0.reg Reg.cycleTicks < now →
      ∃ n, exec .cycleOverrun s = .next (s.withNode n) ∧ n.test.overrun = true ∧ n.reg Reg.coverageStatus = n0.reg Reg.coverageStatus ||| 1) ∧
    (now ≤ n0.reg Reg.cycleStart + n0.reg Reg.cycleTicks → exec .cycleOverrun s = .next s) ∧
    (∀ (via : Via) (v : Bytes), s.accepts (.testReq via v) via 0x3604 1 v fun n =>
      let num := fieldB v 2 2
      (unitKindOf (fieldB v 0 1) = none → n.reg Reg.testResult = 3 ∧ n.test = n0.test) ∧
      (unitKindOf (fieldB v 0 1) = some .port → num < 48 →
        (n0.portReg num Reg.portState ≠ 0 → n0.portReg num Reg.portState ≠ 4 → n.reg Reg.testResult = 2 ∧ n.links = n0.links) ∧
        (n0.portReg num Reg.portState = 0 ∨ n0.portReg num Reg.portState = 4 → (n0.port num).testing = false → n0.retired .port num = false →
          n.reg Reg.testResult = 1 ∧ (n.port num).testing = true ∧ n.reg Reg.targetedRun = (n0.reg Reg.targetedRun + 1) % 2 ^ 64)) ∧
      (∀ k, unitKindOf (fieldB v 0 1) = some k → unitKnown k num = true → k ≠ .port → n.reg Reg.testResult = 1 ∧ (k, num) ∈ n.test.demand))

/-- JOURNAL_CUT, REPL_RECEIVE, CUT_ACK_RECEIVE (R455), ROSTER_RECEIVE (R456), PARTNER_SUSPECT (R457), PAGE_RESTORE, PAGE_RESTORE_TIMEOUT (R453), TAKEOVER_START,
TAKEOVER_STOP (R460), SEQUENCE_RESTORED (R461) and TAKEOVER_TIMEOUT (R462). The layout of REPL messages is the model's (log entry 78), and whether the slice is
BOUND on the spare is free (log entry 82). -/
def Obligations.Recovery : Prop :=
  ∀ (s : State),
    let n0 := s.node
    let now := s.clock.tick
    (n0.inRounds = true → n0.reg Reg.roundBase ≤ now → n0.partners ≠ [] → n0.cutOffset = some (n0.offset now) → n0.rcv.cutRound ≠ some (n0.roundAt now) →
      ∃ n, exec .journalCut s = .next (s.withNode n) ∧ n.rcv.cutRound = some (n0.roundAt now) ∧ n.rcv.journal = [] ∧
        n.reg Reg.cutsSent = (n0.reg Reg.cutsSent + 1) % 2 ^ 64 ∧
        (n0.rcv.journal = [] → (∀ e ∈ n0.seqs.pages, e.2.state ≠ .compressed ∧ e.2.state ≠ .spilled) → n.reg Reg.lastAckedCut = now) ∧
        (n0.rcv.journal ≠ [] → ∃ c ∈ n.rcv.cuts, c.round = n0.roundAt now ∧ c.tick = now ∧ c.waiting = n0.partners)) ∧
    (n0.rcv.cutRound = some (n0.roundAt now) ∨ n0.partners = [] → exec .journalCut s = .next s) ∧
    (∀ (src : BitVec 16) (v : Bytes),
      let round := fieldB v 1 8
      let tick := fieldB v 9 8
      (∀ e q, fieldB v 0 1 = 1 → fieldB v 17 4 ≤ 1 → entriesOf v.length (v.drop 22) = [e] → e.kind = 1 →
        (∀ c ∈ n0.rcv.cutsIn, ¬(c.source = src.toNat ∧ c.round = round)) → n0.route src.toNat = some q →
        ∃ n x, exec (.replReceive src v) s = .next (s.withNode n) ∧
          n.rcv.heldJournal = n0.rcv.heldJournal ++ [{ source := src.toNat, round := round, tick := tick, entry := e }] ∧
          Map.find n.rcv.cutsHeld src.toNat = some (round, tick) ∧ n.queue q 4 = n0.queue q 4 ++ [x] ∧ x.ftype = 5 ∧ x.dst = src.toNat ∧
          x.bytes = leBytes 1 7 ++ leBytes 8 round) ∧
      (∀ m, fieldB v 0 1 = 2 → (n0.slice (fieldB v 21 1)).state = .bound →
        n0.storeReplica src.toNat (fieldB v 22 4) (fieldB v 21 1) (v.drop 26) = some m →
        ∃ n r, exec (.replReceive src v) s = .next (s.withNode n) ∧ n.replicaOf src.toNat (fieldB v 22 4) = some r ∧ r.slice = fieldB v 21 1 ∧
          r.tokens = fieldB v 27 2 ∧ r.format = fieldB v 29 1) ∧
      (∀ c, n0.rcv.cuts.find? (fun c => c.round == round && c.waiting.contains src.toNat) = some c → c.waiting = [src.toNat] →
        ∃ n, exec (.cutAckReceive src v) s = .next (s.withNode n) ∧ n.reg Reg.lastAckedCut = c.tick ∧ c ∉ n.rcv.cuts) ∧
      (∀ c, n0.rcv.cuts.find? (fun c => c.round == round && c.waiting.contains src.toNat) = some c → (∃ w ∈ c.waiting, w ≠ src.toNat) →
        ∃ n, exec (.cutAckReceive src v) s = .next (s.withNode n) ∧ n.reg Reg.lastAckedCut = n0.reg Reg.lastAckedCut ∧
          { c with waiting := c.waiting.filter fun w => w != src.toNat } ∈ n.rcv.cuts) ∧
      (v.length = 16 → ∃ n, exec (.rosterReceive src v) s = .next (s.withNode n) ∧ n.regs = n0.regs ∧
        n.rcv.rosters = n0.rcv.rosters ++ [{ seqId := fieldB v 0 6, session := fieldB v 6 2, host := fieldB v 8 2, node := fieldB v 10 2 % 1024, op := fieldB v 12 1 }])) ∧
    (∀ m c, n0.comp.current = some m → c ∈ n0.rcv.cuts → c.round < n0.roundAt now → n0.reg Reg.roundBase ≤ now →
      ∃ n, exec .partnerSuspect s = .next (s.withNode n) ∧ (m.weltA ∈ c.waiting → n.octet Reg.partnerState 0 ≠ 0)) ∧
    (∀ (page : BitVec 32) (r : Replica), n0.rcv.arrivedPages.find? (fun r => r.page == page.toNat) = some r →
      (n0.page page.toNat).state = .poisoned ∨ (n0.page page.toNat).state = .quarantined →
      ∃ n, exec (.pageRestore page) s = .next (s.withNode n) ∧
        (n.page page.toNat).state = (if r.tokens < 16 ∨ r.state = PState.tail.code then .tail else .compressed) ∧ (n.page page.toNat).tokens = r.tokens ∧
        n.reg Reg.pagesRestored = (n0.reg Reg.pagesRestored + 1) % 2 ^ 64 ∧ (∀ x ∈ n.rcv.arrivedPages, x.page ≠ page.toNat) ∧
        ∀ x ∈ n.rcv.restores, x.1 ≠ page.toNat) ∧
    (∀ (page : BitVec 32) (d : Nat), (page.toNat, d) ∈ n0.rcv.restores → d ≤ now → (n0.page page.toNat).state = .poisoned →
      ∃ n, exec (.pageRestoreTimeout page) s = .next (s.withNode n) ∧ (∀ x ∈ n.rcv.restores, x.1 ≠ page.toNat) ∧
        ∀ k ∈ n0.seqsWith page.toNat, (n0.seq k).state = .opened → (n.seq k).state = .lost ∧ ∃ x ∈ n.rcv.losses, x.seqId = (n0.seq k).id ∧ x.reason = 3) ∧
    (∀ (via : Via) (v : Bytes),
      let w := forceOp 1 v
      let lost := fieldB w 2 2 % 1024
      let spare := fieldB w 4 2 % 1024
      s.accepts (.takeoverStart via v) via 0x3504 1 w fun n =>
        (Map.find n0.rcv.cutsHeld lost = none → n.reg Reg.takeoverResult = 1) ∧
        ((Map.find n0.rcv.cutsHeld lost).isSome = true → n0.directPorts spare = [] → n.reg Reg.takeoverResult = 2 ∨ n.reg Reg.takeoverResult = 3) ∧
        ((Map.find n0.rcv.cutsHeld lost).isSome = true → n0.directPorts spare ≠ [] → n.reg Reg.takeoverResult = 0 ∨ n.reg Reg.takeoverResult = 2) ∧
        (n.reg Reg.takeoverResult = 0 → n.rcv.takeovers = n0.rcv.takeovers ++ [{ lost := lost, spare := spare, slice := fieldB w 6 1, spareSlice := fieldB w 7 1,
                                                                                  left := n0.takeoverOrder lost (fieldB w 6 1) }]) ∧
        (n.reg Reg.takeoverResult ≠ 0 → n.rcv = n0.rcv)) ∧
    (∀ (via : Via) (v : Bytes),
      let w := forceOp 2 v
      s.accepts (.takeoverStop via v) via 0x3504 1 w fun n =>
        n.regs = n0.regs ∧ ∀ t, t ∈ n.rcv.takeovers ↔ t ∈ n0.rcv.takeovers ∧ ¬(t.lost = fieldB w 2 2 % 1024 ∧ t.slice = fieldB w 6 1)) ∧
    (∀ (id : BitVec 48) (c : Incoming) (m : Node), Map.find n0.rcv.incoming id.toNat = some c → c.lost.isSome = true → n0.openIncoming now id.toNat = some m →
      ∃ n, exec (.sequenceRestored id) s = .next (s.withNode n) ∧ (n.seq (seqLocal id.toNat)).state = .opened ∧ Map.find n.rcv.incoming id.toNat = none) ∧
    (∀ t, n0.rcv.takeoverDue = some t →
      (now < t → exec .takeoverTimeout s = .next s) ∧
      (∀ x r, t ≤ now → n0.rcv.takeoverNodes = [x] → n0.rosterOpen x = [r] →
        ∃ n, exec .takeoverTimeout s = .next (s.withNode n) ∧ n.rcv.takeoverDue = none ∧ n.rcv.takeoverNodes = [] ∧
          ∃ l ∈ n.rcv.losses, l.seqId = r.seqId ∧ l.reason = 2))

/-! ### The rings -/

/-- READ, WRITE (R492), DISCOVER (R488), BLOCK_READ, BLOCK_WRITE (R495), DESCRIBE (R498), COMMIT (R496) and AWL (R499) of a frame for this node: what the service changes and
what it answers; and RING_FRAME_FORWARD (R484): a frame for another station goes on with HOPS one less, and is not consumed. -/
def Obligations.RingServices : Prop :=
  ∀ (ring : Ring) (frame : Bytes) (f : Voxley) (p : Bytes) (s : State),
    let now := s.clock.tick
    let via := f.via ring
    let c0 := s.node.frameCounted (ringNum ring)
    let m := c0.noteAwl via
    let sm := s.withNode m
    let index := fieldB p 0 2
    let sub := fieldB p 2 1
    (s.hears ring frame 0x10 f p → ∀ items, readPairs p = some items → s.answers (.read ring frame) via 0x10 fun t out =>
      t = s.withNode t.node ∧ (∀ k, k ≠ Reg.framesRefused → t.node.reg k = s.node.reg k) ∧ t.node.staged = s.node.staged ∧ t.node.adm = s.node.adm ∧
      out = (m.readItems now via 1440 items []).2 ∧
      (∀ e, items = [(index, sub)] → s.node.authentic via = true ∨ openRead index sub = true → m.hasIndex index = true → sub ≠ 0 → sub < 0x80 →
        Dict.entry index sub = some e → e.ty ≠ .domain → e.ty.bytes ≤ 1424 →
        out = leBytes 1 0 ++ leBytes 1 e.ty.code ++ leBytes 2 e.ty.bytes ++ pad4 (m.valueBytes now index e false))) ∧
    (s.hears ring frame 0x11 f p → ∀ i j v, writeTriples 32 p = some [(i, j, v)] → i < 2 ^ 16 → j < 2 ^ 8 →
      exec (.write ring frame) s = exec (.objectWrite via (BitVec.ofNat 16 i) (BitVec.ofNat 8 j) v) (s.withNode c0)) ∧
    (s.hears ring frame 0x01 f p → s.answers (.discover ring frame) { via with awl := false } 1 fun t out =>
      t = s.withNode c0 ∧ out = leBytes 32 (s.node.reg Reg.identity) ++ leBytes 2 s.node.straps ++ leBytes 1 s.node.st ++ leBytes 1 (129 - f.hops)) ∧
    (s.hears ring frame 0x12 f p → p.length = 12 → fieldB p 8 2 ≠ 0 → fieldB p 8 2 ≤ 1424 → s.answers (.blockRead ring frame) via 0x12 fun t out =>
      let b := sm.blockRead via index sub (fieldB p 4 4) (fieldB p 8 2)
      t = s.withNode t.node ∧ t.node.staged = s.node.staged ∧ t.node.adm = s.node.adm ∧ out = leBytes 1 b.1 ++ leBytes 3 0 ++ leBytes 4 b.2.1 ++ b.2.2) ∧
    (s.hears ring frame 0x13 f p → 13 ≤ p.length → p.length ≤ 1436 → (p.length - 12) % 65536 = fieldB p 8 2 → m.blockGate via index sub = svOk →
      (∀ x ∈ s.node.mgmt.blocks, x.key = dkey index sub → x.source = via.src.number ∨ x.discarded = true) → fieldB p 4 4 = 0 →
      (bitOf f.flags 2 = false → s.answers (.blockWrite ring frame) via 0x13 fun t out =>
        t = s.withNode t.node ∧ t.node.regs = s.node.regs ∧ out = [0, 0, 0, 0] ∧
        ({ source := via.src.number, key := dkey index sub, data := p.drop 12, lastTick := now } : BlockWrite) ∈ t.node.mgmt.blocks) ∧
      (bitOf f.flags 2 = true → m.writeStatus via true index sub (p.drop 12) = svOk → s.answers (.blockWrite ring frame) via 0x13 fun t out =>
        t = (s.withNode (m.dropBlock via.src.number (dkey index sub))).applyWrite via index sub (p.drop 12) ∧ out = [0, 0, 0, 0])) ∧
    (s.hears ring frame 0x14 f p → p.length = 4 → m.hasIndex index = true → sub ≠ 0 → s.answers (.describe ring frame) via 0x14 fun t out =>
      t = sm ∧ (∀ e, Dict.entry index sub = some e → out = leBytes 1 0 ++ leBytes 3 0 ++ sm.descriptor index e) ∧
      (Dict.entry index sub = none → out = leBytes 1 svNoSub ++ leBytes 3 0 ++ leBytes 64 0)) ∧
    (s.hears ring frame 0x18 f p → p.length = 16 → fieldB p 0 1 ≠ 0 → fieldB p 0 1 ≤ 3 →
      (fieldB p 2 2 = 0xFFFF ∨ (∀ x, s.node.comp.current = some x → x.group = fieldB p 2 2) →
        m.writeStatus via false 0x1120 2 (leBytes 1 (fieldB p 0 1)) = svOk → s.answers (.commit ring frame) via 0x18 fun t out =>
        t = s.withNode t.node ∧ (fieldB p 0 1 = 1 → t.node.reg Reg.commitTick = fieldB p 8 8 ∧ t.node.reg Reg.genTarget = fieldB p 4 4) ∧
        out = leBytes 1 0 ++ leBytes 1 (t.node.reg Reg.commitState) ++ leBytes 2 0 ++ leBytes 4 (t.node.reg Reg.armResult)) ∧
      (∀ x, fieldB p 2 2 ≠ 0xFFFF → s.node.comp.current = some x → x.group ≠ fieldB p 2 2 → exec (.commit ring frame) s = .next sm)) ∧
    (s.hears ring frame 0x40 f p → s.node.authentic via = true → fieldB p 4 4 ≠ 0 → fieldB p 4 4 ≤ 1024 → fieldB p 8 8 / 2 ^ 54 = s.node.straps →
      fieldB p 8 8 / 2 ^ 51 % 8 = 3 →
      let off := fieldB p 8 8 % 2 ^ 51
      let len := fieldB p 4 4
      runOk off len = true → s.node.slicesOver off SliceState.goes = [] →
      (fieldB p 0 1 = 1 → 16 ≤ p.length → s.answers (.awl ring frame) via 0x40 fun t out =>
        t.mem = s.mem ∧ t.node.sec.awlUsed = true ∧ out = leBytes 1 0 ++ leBytes 3 0 ++ Memory.read s.mem off len) ∧
      (fieldB p 0 1 = 2 → p.length = 16 + len → s.answers (.awl ring frame) via 0x40 fun t out =>
        t.node.sec.awlUsed = true ∧ out = leBytes 1 0 ++ leBytes 3 0 ∧ (∀ i, i < len → Memory.byte t.mem (off + i) = p.getD (16 + i) 0) ∧
        ∀ a, a < off ∨ off + len ≤ a → Memory.byte t.mem a = Memory.byte s.mem a)) ∧
    (s.node.ringState (ringNum ring) ≠ 2 → voxleySound frame = true → voxleyOf frame = some f → f.src ≠ s.node.straps → knownVtype f.vtype = true →
      f.hops ≠ 0 → f.dst ≠ s.node.straps → f.dst ≠ 0xFFFF → (s.node.ringUnit (ringNum ring)).eastUp = true → (s.node.ringUnit (ringNum ring)).westUp = true →
      ∃ n x, exec (.ringFrameForward ring frame) s = .next (s.withNode n) ∧ n.mgmt.out = s.node.mgmt.out ++ [x] ∧ x.ring = ringNum ring ∧
        x.payload = forwarded frame ∧ x.hops + 1 = f.hops ∧ n.regs = s.node.regs ∧ n.adm = s.node.adm) ∧
    (s.node.ringState (ringNum ring) = 2 ∨ fieldB frame 15 1 ≠ 0x10 → exec (.read ring frame) s = .next s)

/-- BEACON_SEND, BEACON_RECEIVE, RING_PORT_DOWN, RING_PORT_UP (R485, R487), EYELET_CLOSE, EYELET_OPEN, WATCHDOG_EXPIRY (R486), BLOCK_TIMEOUT (R495), RING_KEY_INSTALL
(R490), F0_UNLOCK and F0_LOCK (R504). Whether a port's loss is a fault of the node's own PHY is free (log entry 100). -/
def Obligations.RingUnits : Prop :=
  ∀ (s : State),
    let n0 := s.node
    let now := s.clock.tick
    (n0.ringState 0 ≠ 2 → n0.mgmt.a.beaconSeq = 0 ∨ n0.mgmt.a.lastBeacon + n0.reg Reg.beaconTicks ≤ now →
      ∃ n, exec .beaconSend s = .next (s.withNode n) ∧ n.mgmt.a.beaconSeq = (n0.mgmt.a.beaconSeq + 1) % 2 ^ 32 ∧ n.mgmt.a.lastBeacon = now ∧
        n.mgmt.a.eyelet = n0.mgmt.a.eyelet ∧ n.adm = n0.adm) ∧
    (n0.ringState 0 = 2 → n0.ringState 1 = 2 → exec .beaconSend s = .next s) ∧
    (∀ (ring : Ring) (frame : Bytes) (f : Voxley),
      let r := ringNum ring
      let u := n0.ringUnit r
      fieldB frame 15 1 = 2 → n0.ringState r ≠ 2 → voxleySound frame = true → voxleyOf frame = some f → f.src = n0.straps → fieldB f.payload 0 2 = n0.straps →
      fieldB f.payload 2 1 = r → fieldB f.payload 4 4 = u.beaconSeq → now ≤ u.lastBeacon + n0.reg Reg.beaconTicks →
      ∃ n, exec (.beaconReceive ring frame) s = .next (s.withNode n) ∧ (n.ringUnit r).lastReturn = some now ∧ n.ringState r = (n.ringUnit r).state ∧
        (u.eyelet = true → u.eastUp = true → u.westUp = true → n.ringState r = 0)) ∧
    (∀ (ring : Ring) (east : Bool),
      let r := ringNum ring
      let u := n0.ringUnit r
      (∃ n, exec (.ringPortDown ring east) s = .next (s.withNode n) ∧ (n.ringUnit r).eastUp = (u.eastUp && !east) ∧ (n.ringUnit r).westUp = (u.westUp && east) ∧
        (n.ringUnit r).lastReturn = none ∧ n.ringState r ≠ 0) ∧
      (∃ n, exec (.ringPortUp ring east) s = .next (s.withNode n) ∧ (n.ringUnit r).eastUp = (u.eastUp || east) ∧ (n.ringUnit r).westUp = (u.westUp || !east) ∧
        (n.ringUnit r).linkTest = true ∧ (n.ringUnit r).eyelet = u.eyelet) ∧
      (u.eyelet = true → (n0.eyeletMay r && n0.mgmt.watchdogOk) = false →
        ∃ n, exec (.eyeletClose ring) s = .next (s.withNode n) ∧ (n.ringUnit r).eyelet = false ∧ n.ringState r = 2) ∧
      (u.eyelet = false ∨ (n0.eyeletMay r && n0.mgmt.watchdogOk) = true → exec (.eyeletClose ring) s = .next s) ∧
      (u.eyelet = false → n0.eyeletMay r = true →
        ∃ n, exec (.eyeletOpen ring) s = .next (s.withNode n) ∧ (n.ringUnit r).eyelet = true ∧ n.mgmt.watchdogOk = true ∧
          (u.eastUp = true ∨ u.westUp = true → n.ringState r = 1)) ∧
      (u.eyelet = true ∨ n0.eyeletMay r = false → exec (.eyeletOpen ring) s = .next s)) ∧
    (∃ n, exec .watchdogExpiry s = .next (s.withNode n) ∧ n.mgmt.watchdogOk = false ∧ n.mgmt.a.eyelet = false ∧ n.mgmt.b.eyelet = false ∧
      n.ringState 0 = 2 ∧ n.ringState 1 = 2) ∧
    (∃ n, exec .blockTimeout s = .next (s.withNode n) ∧ n.mgmt.blocks.length = n0.mgmt.blocks.length ∧ n.regs = n0.regs ∧
      (∀ b ∈ n.mgmt.blocks, b.discarded = false → b ∈ n0.mgmt.blocks ∧ now < b.lastTick + n0.reg Reg.blockTimeout)) ∧
    (∀ (via : Via) (v : Bytes), s.accepts (.ringKeyInstall via v) via 0x1204 1 v fun n =>
      n.reg Reg.authResult = (n0.ringKeyCode v).1 ∧
      ((n0.ringKeyCode v).1 = 0 → n.mgmt.ringKey = some (fieldB v 0 2, (n0.ringKeyCode v).2) ∧ n.mgmt.prevKey = n0.mgmt.ringKey ∧
        n.reg Reg.ringKeyId = fieldB v 0 2 ∧ n.mgmt.ringNonce = 0) ∧
      ((n0.ringKeyCode v).1 ≠ 0 → n.mgmt = n0.mgmt)) ∧
    (∀ (via : Via) (v : Bytes),
      let op := sliceB v 0 2592
      let signed := Config.verify op (nameBytes "UHLELLE F0 UNLOCK") (leBytes 32 (n0.reg Reg.unlockNonce)) (sliceB v 2592 4627)
      s.accepts (.f0Unlock via v) via 0x1204 2 v fun n =>
        (v.length = 7219 → opRootSet n0.sec.opRoot = true → sha3_512 op = n0.sec.opRoot → signed = true → n.host.unlocked = true ∧ n.reg Reg.authResult = 0) ∧
        (v.length = 7219 → opRootSet n0.sec.opRoot = true → sha3_512 op = n0.sec.opRoot → signed = false → n.host = n0.host ∧ n.reg Reg.authResult = 2) ∧
        (v.length = 7219 → opRootSet n0.sec.opRoot = false ∨ sha3_512 op ≠ n0.sec.opRoot → n.host = n0.host ∧ n.reg Reg.authResult = 1)) ∧
    (∀ (via : Via) (v : BitVec 8), s.accepts (.f0Lock via v) via 0x1204 3 [v] fun n =>
      n.host.unlocked = (if v = 1 then false else n0.host.unlocked) ∧ n.regs = n0.regs)

/-! ### Power and start-up -/

/-- STATE_REQ_OPERATIONAL, STATE_REQ_PREOP, STATE_REQ_SAFE (R542, R544, R548), SENSOR_TRIP, INPUT_TRIP (R542, R543), COOLANT_ALARM, COOLANT_ALARM_RELEASE (R555),
POWER_LOSS (R537), POWER_UP (R545), MODULE_RESET, MODULE_RESET_RELEASE (R549, R555) and RESET_REQ (R549). Which units fail the tests of boot is free (log entry
101). -/
def Obligations.PowerStates : Prop :=
  ∀ (s : State),
    let n0 := s.node
    let now := s.clock.tick
    let runs := n0.st ≠ 0 ∧ n0.st ≠ stFault ∧ n0.st ≠ stSafe
    let tripped := fun (n : Node) (cause : Nat) => n.st = stSafe ∧ n.reg Reg.tripCause = cause ∧ n.reg Reg.trips = (n0.reg Reg.trips + 1) % 2 ^ 32 ∧
      n.reg Reg.thermalState = 2 ∧ n.cells = {} ∧ n.power.stacksOff = (cause == 2)
    let boots := fun (c : Instr) => ∃ t, exec c s = .next t ∧ t.pkg = s.pkg ∧ t.mem = [] ∧ t.clock.tick = 0 ∧ t.pending = s.pending ∧ t.node.pins = n0.pins ∧
      t.node.power.inReset = false ∧ (t.node.st = stBoot ∨ t.node.st = stFault) ∧ (s.pkg.headerOk = false → t.node.st = stFault) ∧
      (t.node.st = stBoot → t.node.power.stage = 4 ∧ t.node.straps = n0.pins % 1024 ∧ t.node.reg Reg.fwVersion = fieldB (s.pkg.image 2) 3 2 ∧
        s.pkg.imageOk 1 = true ∧ s.pkg.imageOk 2 = true ∧ s.pkg.imageOk 3 = true)
    (∀ (via : Via), s.accepts (.stateReqOperational via) via 0x1030 4 [1] fun n =>
      (n0.mayOperate = true → n.power.toOperational = true ∧ n.regs = n0.regs) ∧
      (n0.mayOperate = false → n.power = n0.power ∧ n.reg Reg.reqRefused = (n0.reg Reg.reqRefused + 1) % 2 ^ 32)) ∧
    (∀ (via : Via), s.accepts (.stateReqPreop via) via 0x1030 4 [2] fun n =>
      (n0.st = stOperational → n.power.draining = true ∧ n.regs = n0.regs) ∧
      (n0.st = stSafe → via.throughAwl = true → n0.reg Reg.safeClearTicks ≤ n0.power.quiet →
        n.st = stPreop ∧ n.reg Reg.admitCap = n0.reg Reg.capFloor ∧ n.power.stacksOff = false) ∧
      (n0.st ≠ stOperational → n0.st ≠ stSafe → n.power = n0.power ∧ n.reg Reg.reqRefused = (n0.reg Reg.reqRefused + 1) % 2 ^ 32)) ∧
    (∀ (via : Via), s.accepts (.stateReqSafe via) via 0x1030 4 [3] fun n =>
      (runs → tripped n 7) ∧ (n0.st = 0 ∨ n0.st = stFault → n.power = n0.power ∧ n.reg Reg.reqRefused = (n0.reg Reg.reqRefused + 1) % 2 ^ 32)) ∧
    (∀ (m : Sensors), (sensorCause m = 0 → exec (.sensorTrip m) s = .next s) ∧
      (sensorCause m ≠ 0 → runs → ∃ n, exec (.sensorTrip m) s = .next (s.withNode n) ∧ tripped n (sensorCause m)) ∧
      (sensorCause m ≠ 0 → n0.st = stSafe → ∃ n, exec (.sensorTrip m) s = .next (s.withNode n) ∧ n.power.quiet = 0 ∧ n.regs = n0.regs)) ∧
    (runs → ∃ n, exec .inputTrip s = .next (s.withNode n) ∧ tripped n (if inputWorks (n0.reg Reg.inputV) then 5 else 4)) ∧
    (runs → ∃ n, exec .coolantAlarm s = .next (s.withNode n) ∧ tripped n 6 ∧ n.power.alarmLow = true) ∧
    (∃ n, exec .coolantAlarmRelease s = .next (s.withNode n) ∧ n.power = { n0.power with alarmLow := false } ∧ n.regs = n0.regs) ∧
    (∃ n, exec .powerLoss s = .next { s with node := n, mem := [], clock := { s.clock with tick := 0 } } ∧ n.st = 0 ∧ n.pins = n0.pins ∧
      (∀ k, k ≠ Reg.nodeState → n.reg k = Dict.dflt k) ∧ n.seqs.seqs = [] ∧ n.sec.keys = [] ∧ n.power.stage = 0) ∧
    (n0.st = 0 → boots .powerUp) ∧ (n0.st ≠ 0 → n0.power.stage ≠ 0 → exec .powerUp s = .next s) ∧
    (n0.st ≠ 0 → ∃ n, exec .moduleReset s = .next { s with node := n, mem := [], clock := { s.clock with tick := 0 } } ∧ n.st = stBoot ∧ n.power.inReset = true ∧
      n.power.stage = 0 ∧ n.pins = n0.pins ∧ n.seqs.seqs = []) ∧
    (n0.st = 0 → exec .moduleReset s = .next s) ∧
    (n0.power.inReset = true → boots .moduleResetRelease) ∧ (n0.power.inReset = false → exec .moduleResetRelease s = .next s) ∧
    (∀ (via : Via) (v : BitVec 8), n0.reachable via.src = true → n0.seen via.src via.seq.toNat now = .fresh →
      (n0.noteAwl via).writeStatus via false 0x3704 1 [v] = svOk →
      (v = 1 → boots (.resetReq via v)) ∧
      (v ≠ 1 → ∃ n : Node, exec (.resetReq via v) s = .next (s.withNode (n.acked via 0x11 now)) ∧ n.regs = n0.regs ∧ n.power = n0.power))
end

