-- ==== Sys2Proof/Laws/Map.lean ====
section
/-!
SUPPORT. Laws of the sparse tables: what a read gives after a write, and that every write keeps the canonical form; the same for memory.
-/

namespace Sys2Proof.Machine

/-! ### Reads after writes -/

@[simp] theorem Map.get_nil {α : Type} (d : α) (k : Nat) : Map.get d [] k = d := rfl

@[simp] theorem Map.find_nil {α : Type} (k : Nat) : Map.find ([] : Map α) k = none := rfl

theorem Map.get_erase {α : Type} (d : α) (m : Map α) (k j : Nat) :
    Map.get d (Map.erase m k) j = if j = k then d else Map.get d m j := by
  induction m with
  | nil => simp [Map.erase]
  | cons e t ih =>
    obtain ⟨a, v⟩ := e
    simp only [Map.erase] at ih
    by_cases h : a = k
    · subst h
      by_cases hj : j = a
      · subst hj; simp_all [Map.erase, Map.get]
      · simp_all [Map.erase, Map.get, Ne.symm hj]
    · by_cases hj : a = j <;> simp_all [Map.erase, Map.get]

theorem Map.get_insert {α : Type} (d : α) (k : Nat) (v : α) (m : Map α) (hk : ∀ e ∈ m, e.1 ≠ k) (j : Nat) :
    Map.get d (Map.insert k v m) j = if j = k then v else Map.get d m j := by
  induction m with
  | nil => simp only [Map.insert, Map.get, eq_comm (a := k)]
  | cons e t ih =>
    obtain ⟨a, w⟩ := e
    have ha : a ≠ k := hk (a, w) (by simp)
    have ih := ih (fun e he => hk e (by simp [he]))
    simp only [Map.insert]
    split
    · by_cases h : j = k
      · simp [Map.get, h]
      · simp [Map.get, h, Ne.symm h]
    · by_cases h : a = j
      · subst h; simp [Map.get, ha]
      · simp [Map.get, h, ih]

theorem Map.erase_ne {α : Type} (m : Map α) (k : Nat) : ∀ e ∈ Map.erase m k, e.1 ≠ k := by
  intro e he
  simp [Map.erase] at he
  exact he.2

/-- A write of one key leaves what every other key reads as, whatever an unlisted key reads as. -/
theorem Map.get_set_ne {α : Type} [DecidableEq α] (d e : α) (m : Map α) (k j : Nat) (v : α) (h : j ≠ k) :
    Map.get e (Map.set d m k v) j = Map.get e m j := by
  unfold Map.set
  split
  · rw [Map.get_erase, if_neg h]
  · rw [Map.get_insert e k v _ (Map.erase_ne m k), Map.get_erase, if_neg h, if_neg h]

/-- A read after a write. -/
@[simp] theorem Map.get_set {α : Type} [DecidableEq α] (d : α) (m : Map α) (k j : Nat) (v : α) :
    Map.get d (Map.set d m k v) j = if j = k then v else Map.get d m j := by
  unfold Map.set
  split
  · next h => rw [Map.get_erase]; split <;> simp_all
  · rw [Map.get_insert d k v _ (Map.erase_ne m k), Map.get_erase]
    split <;> simp_all

theorem Map.find_erase {α : Type} (m : Map α) (k j : Nat) :
    Map.find (Map.erase m k) j = if j = k then none else Map.find m j := by
  induction m with
  | nil => simp [Map.erase]
  | cons e t ih =>
    obtain ⟨a, v⟩ := e
    simp only [Map.erase] at ih
    by_cases h : a = k
    · subst h
      by_cases hj : j = a
      · subst hj; simp_all [Map.erase, Map.find]
      · simp_all [Map.erase, Map.find, Ne.symm hj]
    · by_cases hj : a = j <;> simp_all [Map.erase, Map.find]

theorem Map.find_insert {α : Type} (k : Nat) (v : α) (m : Map α) (hk : ∀ e ∈ m, e.1 ≠ k) (j : Nat) :
    Map.find (Map.insert k v m) j = if j = k then some v else Map.find m j := by
  induction m with
  | nil => simp only [Map.insert, Map.find, eq_comm (a := k)]
  | cons e t ih =>
    obtain ⟨a, w⟩ := e
    have ha : a ≠ k := hk (a, w) (by simp)
    have ih := ih (fun e he => hk e (by simp [he]))
    simp only [Map.insert]
    split
    · by_cases h : j = k
      · simp [Map.find, h]
      · simp [Map.find, h, Ne.symm h]
    · by_cases h : a = j
      · subst h; simp [Map.find, ha]
      · simp [Map.find, h, ih]

/-- An entry after it or another is put. -/
@[simp] theorem Map.find_put {α : Type} (m : Map α) (k j : Nat) (v : α) :
    Map.find (Map.put m k v) j = if j = k then some v else Map.find m j := by
  unfold Map.put
  rw [Map.find_insert k v _ (Map.erase_ne m k), Map.find_erase]
  split <;> simp_all

/-- A read after an entry is put. -/
@[simp] theorem Map.get_put {α : Type} (d : α) (m : Map α) (k j : Nat) (v : α) :
    Map.get d (Map.put m k v) j = if j = k then v else Map.get d m j := by
  unfold Map.put
  rw [Map.get_insert d k v _ (Map.erase_ne m k), Map.get_erase]
  split <;> simp_all

/-! ### The canonical form -/

/-- The canonical form as a property of pairs and of entries. -/
theorem Map.wf_iff {α : Type} [DecidableEq α] (d : Nat → α) (m : Map α) :
    Map.wf d m = true ↔ m.Pairwise (fun a b => a.1 < b.1) ∧ ∀ e ∈ m, e.2 ≠ d e.1 := by
  induction m with
  | nil => simp [Map.wf]
  | cons e t ih =>
    obtain ⟨k, v⟩ := e
    cases t with
    | nil => simp [Map.wf]
    | cons e' t' =>
      obtain ⟨k', v'⟩ := e'
      simp only [Map.wf, Bool.and_eq_true, ih, decide_eq_true_eq, bne_iff_ne, ne_eq, List.pairwise_cons, List.mem_cons]
      constructor
      · rintro ⟨⟨hv, hk⟩, ⟨h1, h2⟩, h3⟩
        refine ⟨⟨?_, h1, h2⟩, ?_⟩
        · rintro a (rfl | ha)
          · exact hk
          · exact lt_trans hk (h1 a ha)
        · rintro a (rfl | ha)
          · exact hv
          · exact h3 a ha
      · rintro ⟨⟨h0, h1, h2⟩, h3⟩
        exact ⟨⟨h3 _ (.inl rfl), h0 _ (.inl rfl)⟩, ⟨h1, h2⟩, fun a ha => h3 a (.inr ha)⟩

theorem Map.wf_filter {α : Type} [DecidableEq α] (d : Nat → α) (m : Map α) (p : Nat × α → Bool) (h : Map.wf d m = true) :
    Map.wf d (m.filter p) = true := by
  rw [Map.wf_iff] at h ⊢
  exact ⟨h.1.filter _, fun e he => h.2 e (List.mem_of_mem_filter he)⟩

theorem Map.mem_insert {α : Type} (k : Nat) (v : α) (m : Map α) (e : Nat × α) :
    e ∈ Map.insert k v m ↔ e = (k, v) ∨ e ∈ m := by
  induction m with
  | nil => simp [Map.insert]
  | cons a t ih =>
    obtain ⟨k', v'⟩ := a
    simp only [Map.insert]
    split
    · simp
    · simp only [List.mem_cons, ih]; tauto

theorem Map.wf_insert {α : Type} [DecidableEq α] (d : Nat → α) (m : Map α) (k : Nat) (v : α) (h : Map.wf d m = true)
    (hk : ∀ e ∈ m, e.1 ≠ k) (hv : v ≠ d k) : Map.wf d (Map.insert k v m) = true := by
  rw [Map.wf_iff] at h ⊢
  refine ⟨?_, fun e he => ?_⟩
  · have hs := h.1
    clear h hv
    induction m with
    | nil => simp [Map.insert]
    | cons a t ih =>
      obtain ⟨k', v'⟩ := a
      have hk' : k' ≠ k := hk (k', v') (by simp)
      rw [List.pairwise_cons] at hs
      simp only [Map.insert]
      split
      · next hlt =>
        rw [List.pairwise_cons, List.pairwise_cons]
        refine ⟨?_, hs⟩
        intro b hb
        rcases List.mem_cons.mp hb with rfl | hb
        · exact hlt
        · exact lt_trans hlt (hs.1 b hb)
      · next hlt =>
        rw [List.pairwise_cons]
        refine ⟨?_, ih (fun e he => hk e (by simp [he])) hs.2⟩
        intro b hb
        rcases (Map.mem_insert k v t b).mp hb with rfl | hb
        · show k' < k
          omega
        · exact hs.1 b hb
  · rcases (Map.mem_insert k v m e).mp he with rfl | he
    · exact hv
    · exact h.2 e he

/-- A write keeps the canonical form. -/
theorem Map.wf_set {α : Type} [DecidableEq α] (d : Nat → α) (m : Map α) (k : Nat) (v : α) (h : Map.wf d m = true) :
    Map.wf d (Map.set (d k) m k v) = true := by
  unfold Map.set
  split
  · exact Map.wf_filter d m _ h
  · next hv => exact Map.wf_insert d _ k v (Map.wf_filter d m _ h) (Map.erase_ne m k) hv

/-! ### Memory -/

/-- A byte after a byte is written. -/
@[simp] theorem Memory.byte_setByte (m : List Host.Cell) (a b : Nat) (v : Byte) :
    Memory.byte (Memory.setByte m a v) b = if b = a then v else Memory.byte m b := by
  unfold Memory.byte Memory.setByte
  exact Map.get_set (0 : Byte) m a b v

/-- A byte after a run is written: that of the run inside it, the old one outside. -/
theorem Memory.byte_write (bs : Bytes) (m : List Host.Cell) (a b : Nat) :
    Memory.byte (Memory.write m a bs) b = if a ≤ b ∧ b < a + bs.length then bs.getD (b - a) 0 else Memory.byte m b := by
  induction bs generalizing m a with
  | nil => simp [Memory.write]
  | cons x t ih =>
    simp only [Memory.write, ih, Memory.byte_setByte, List.length_cons]
    by_cases h1 : b = a
    · subst h1; simp
    · by_cases h2 : a + 1 ≤ b ∧ b < a + 1 + t.length
      · have e : b - a = (b - (a + 1)) + 1 := by omega
        have h3 : a ≤ b ∧ b < a + (t.length + 1) := by omega
        rw [if_pos h2, if_pos h3, e]
        simp
      · have h3 : ¬(a ≤ b ∧ b < a + (t.length + 1)) := by omega
        rw [if_neg h2, if_neg h3, if_neg h1]

/-- Every memory write keeps the canonical form. -/
theorem Memory.wf_setByte (m : List Host.Cell) (a : Nat) (v : Byte) (h : Memory.wf m = true) : Memory.wf (Memory.setByte m a v) = true :=
  Map.wf_set (fun _ => (0 : Byte)) m a v h

theorem Memory.wf_write (bs : Bytes) (m : List Host.Cell) (a : Nat) (h : Memory.wf m = true) : Memory.wf (Memory.write m a bs) = true := by
  induction bs generalizing m a with
  | nil => exact h
  | cons x t ih => exact ih _ _ (Memory.wf_setByte m a x h)

theorem Memory.wf_filter (m : List Host.Cell) (p : Host.Cell → Bool) (h : Memory.wf m = true) : Memory.wf (m.filter p) = true :=
  Map.wf_filter (fun _ => (0 : Byte)) m p h

/-- A read's bytes are those of its addresses. -/
theorem Memory.read_getD (m : List Host.Cell) (a len i : Nat) (h : i < len) : (Memory.read m a len).getD i 0 = Memory.byte m (a + i) := by
  induction len generalizing a i with
  | zero => omega
  | succ n ih =>
    cases i with
    | zero => simp [Memory.read]
    | succ j =>
      have := ih (a + 1) j (by omega)
      simp [Memory.read] at this ⊢
      rw [this]; congr 1; omega

@[simp] theorem Memory.read_length (m : List Host.Cell) (a len : Nat) : (Memory.read m a len).length = len := by
  induction len generalizing a with
  | zero => rfl
  | succ n ih => simp [Memory.read, ih]

end Sys2Proof.Machine
end

