-- ==== Sys2Proof/Laws/State.lean ====
section
/-!
SUPPORT. Laws of the updates of State and Node: one lemma per field per update, so that no proof unfolds a record update; what dictionary values, events
and queued frames change.
-/

namespace Sys2Proof.Machine

/-! ### The state -/

@[simp] theorem State.put_pending (s : State) (n : Node) : (s.put n).pending = s.pending := rfl
@[simp] theorem State.put_clock (s : State) (n : Node) : (s.put n).clock = s.clock := rfl
@[simp] theorem State.put_mem (s : State) (n : Node) : (s.put n).mem = s.mem := rfl
@[simp] theorem State.put_pkg (s : State) (n : Node) : (s.put n).pkg = s.pkg := rfl
@[simp] theorem State.put_node (s : State) (n : Node) : (s.put n).node = n := rfl
@[simp] theorem State.withNode_pending (s : State) (n : Node) : (s.withNode n).pending = s.pending := rfl
@[simp] theorem State.withNode_clock (s : State) (n : Node) : (s.withNode n).clock = s.clock := rfl
@[simp] theorem State.withNode_mem (s : State) (n : Node) : (s.withNode n).mem = s.mem := rfl
@[simp] theorem State.withNode_pkg (s : State) (n : Node) : (s.withNode n).pkg = s.pkg := rfl
@[simp] theorem State.withNode_node (s : State) (n : Node) : (s.withNode n).node = n := rfl
@[simp] theorem State.withThread_pending (s : State) (k : Nat) (u : Thread) : (s.withThread k u).pending = s.pending := rfl
@[simp] theorem State.withThread_clock (s : State) (k : Nat) (u : Thread) : (s.withThread k u).clock = s.clock := rfl
@[simp] theorem State.withThread_mem (s : State) (k : Nat) (u : Thread) : (s.withThread k u).mem = s.mem := rfl
@[simp] theorem State.withThread_pkg (s : State) (k : Nat) (u : Thread) : (s.withThread k u).pkg = s.pkg := rfl
@[simp] theorem State.withThread_node (s : State) (k : Nat) (u : Thread) : (s.withThread k u).node = s.node.setThread k u := rfl
theorem State.on_eq (s : State) (n : Node) : s.on n = .next (s.withNode n) := rfl

/-! ### Dictionary values -/

@[simp] theorem Node.setReg_staged (n : Node) (k v : Nat) : (n.setReg k v).staged = n.staged := rfl
@[simp] theorem Node.setReg_nextRound (n : Node) (k v : Nat) : (n.setReg k v).nextRound = n.nextRound := rfl
@[simp] theorem Node.setReg_time (n : Node) (k v : Nat) : (n.setReg k v).time = n.time := rfl
@[simp] theorem Node.setReg_sched (n : Node) (k v : Nat) : (n.setReg k v).sched = n.sched := rfl
@[simp] theorem Node.setReg_adm (n : Node) (k v : Nat) : (n.setReg k v).adm = n.adm := rfl
@[simp] theorem Node.setReg_seqs (n : Node) (k v : Nat) : (n.setReg k v).seqs = n.seqs := rfl
@[simp] theorem Node.setReg_share (n : Node) (k v : Nat) : (n.setReg k v).share = n.share := rfl
@[simp] theorem Node.setReg_models (n : Node) (k v : Nat) : (n.setReg k v).models = n.models := rfl
@[simp] theorem Node.setReg_progs (n : Node) (k v : Nat) : (n.setReg k v).progs = n.progs := rfl
@[simp] theorem Node.setReg_cells (n : Node) (k v : Nat) : (n.setReg k v).cells = n.cells := rfl
@[simp] theorem Node.setReg_grads (n : Node) (k v : Nat) : (n.setReg k v).grads = n.grads := rfl
@[simp] theorem Node.setReg_packers (n : Node) (k v : Nat) : (n.setReg k v).packers = n.packers := rfl
@[simp] theorem Node.setReg_packOrder (n : Node) (k v : Nat) : (n.setReg k v).packOrder = n.packOrder := rfl
@[simp] theorem Node.setReg_stk (n : Node) (k v : Nat) : (n.setReg k v).stk = n.stk := rfl
@[simp] theorem Node.setReg_tiers (n : Node) (k v : Nat) : (n.setReg k v).tiers = n.tiers := rfl
@[simp] theorem Node.setReg_indexes (n : Node) (k v : Nat) : (n.setReg k v).indexes = n.indexes := rfl
@[simp] theorem Node.setReg_links (n : Node) (k v : Nat) : (n.setReg k v).links = n.links := rfl
@[simp] theorem Node.setReg_comp (n : Node) (k v : Nat) : (n.setReg k v).comp = n.comp := rfl
@[simp] theorem Node.setReg_sec (n : Node) (k v : Nat) : (n.setReg k v).sec = n.sec := rfl
@[simp] theorem Node.setReg_rcv (n : Node) (k v : Nat) : (n.setReg k v).rcv = n.rcv := rfl
@[simp] theorem Node.setReg_test (n : Node) (k v : Nat) : (n.setReg k v).test = n.test := rfl
@[simp] theorem Node.setReg_mgmt (n : Node) (k v : Nat) : (n.setReg k v).mgmt = n.mgmt := rfl
@[simp] theorem Node.setReg_host (n : Node) (k v : Nat) : (n.setReg k v).host = n.host := rfl
@[simp] theorem Node.setReg_slow (n : Node) (k v : Nat) : (n.setReg k v).slow = n.slow := rfl
@[simp] theorem Node.setReg_power (n : Node) (k v : Nat) : (n.setReg k v).power = n.power := rfl
@[simp] theorem Node.setReg_straps (n : Node) (k v : Nat) : (n.setReg k v).straps = n.straps := rfl
@[simp] theorem Node.setReg_pins (n : Node) (k v : Nat) : (n.setReg k v).pins = n.pins := rfl
@[simp] theorem Node.setReg_tops (n : Node) (k v : Nat) : (n.setReg k v).tops = n.tops := rfl
@[simp] theorem Node.setReg_freeCount (n : Node) (k v : Nat) : (n.setReg k v).freeCount = n.freeCount := rfl

@[simp] theorem Node.reg_setReg (n : Node) (k v j : Nat) : (n.setReg k v).reg j = if j = k then v else n.reg j := by
  simp only [Node.reg, Node.setReg]
  by_cases h : j = k
  · subst h; simp
  · simp [h, Map.get_set_ne]

/-- Two nodes with the same listed values read the same entries. -/
theorem Node.reg_congr {n m : Node} (h : n.regs = m.regs) (k : Nat) : n.reg k = m.reg k := by simp [Node.reg, h]

/-! ### Frames and events -/

/-- A frame queued on a ring changes what the management unit holds, and nothing else. -/
theorem Node.ringCount_eq (n : Node) (r : Nat) (e : Bool) (k : Nat) : ∃ m, n.ringCount r e k = { n with mgmt := m } := ⟨_, rfl⟩

theorem Node.ringOut_eq (n : Node) (f : RingOut) : ∃ m, n.ringOut f = { n with mgmt := m } := by
  unfold Node.ringOut
  split
  · exact ⟨n.mgmt, rfl⟩
  · dsimp only
    split <;> split <;> exact ⟨_, rfl⟩

theorem Node.ringSend_eq (n : Node) (f : RingOut) : ∃ m, n.ringSend f = { n with mgmt := m } := by
  unfold Node.ringSend
  split
  · exact ⟨n.mgmt, rfl⟩
  · dsimp only
    split
    · obtain ⟨m, h⟩ := Node.ringOut_eq { n with mgmt := { n.mgmt with ringNonce := (n.mgmt.ringNonce + 1) % 2 ^ 64 } }
        { f with src := n.straps, keyId := (n.mgmt.ringKey.map (·.1)).getD 0, ctr := n.mgmt.ringNonce }
      exact ⟨m, h⟩
    · exact Node.ringOut_eq _ _

theorem Node.ringSendBoth_eq (n : Node) (vtype dst : Nat) (payload : Bytes) : ∃ m, n.ringSendBoth vtype dst payload = { n with mgmt := m } := by
  unfold Node.ringSendBoth
  dsimp only
  obtain ⟨m, h⟩ := Node.ringSend_eq { n with mgmt := { n.mgmt with outSeq := (n.mgmt.outSeq + 1) % 2 ^ 32 } }
    { ring := 0, vtype := vtype, flags := if n.ringKeyLive && vtype != 1 && vtype != 2 then 1 else 0, dst := dst, seq := n.mgmt.outSeq,
      payload := payload, auth := (if n.ringKeyLive && vtype != 1 && vtype != 2 then 1 else 0) == 1 }
  rw [h]
  exact Node.ringSend_eq _ _

theorem Node.eventQueueWrite_eq (n : Node) (p : Bytes) : ∃ h, n.eventQueueWrite p = { n with host := h } := by
  unfold Node.eventQueueWrite
  dsimp only
  split <;> exact ⟨_, rfl⟩

/-- An event changes EVENT_SEQ, what the management unit holds and what the host port holds, and nothing else (R497, R503). -/
theorem Node.event_eq (n : Node) (c : Nat) (d : Bytes) :
    ∃ m h, n.event c d = { n.setReg Reg.eventSeq ((n.reg Reg.eventSeq + 1) % 2 ^ 32) with mgmt := m, host := h } := by
  unfold Node.event
  dsimp only
  generalize hl : ((n.mgmt.events ++ _).drop _) = l
  obtain ⟨m, h⟩ := Node.ringSendBoth_eq
    { n.setReg Reg.eventSeq ((n.reg Reg.eventSeq + 1) % 2 ^ 32) with mgmt := { (n.setReg Reg.eventSeq ((n.reg Reg.eventSeq + 1) % 2 ^ 32)).mgmt with events := l } }
    0x20 0xFFFF (leBytes 4 ((n.reg Reg.eventSeq + 1) % 2 ^ 32) ++ leBytes 2 c ++ leBytes 2 d.length ++ d)
  rw [h]
  obtain ⟨h', e⟩ := Node.eventQueueWrite_eq _ _
  exact ⟨m, h', e⟩

@[simp] theorem Node.reg_event (n : Node) (c : Nat) (d : Bytes) (k : Nat) :
    (n.event c d).reg k = if k = Reg.eventSeq then (n.reg Reg.eventSeq + 1) % 2 ^ 32 else n.reg k := by
  obtain ⟨m, h, e⟩ := Node.event_eq n c d
  rw [e]
  exact Node.reg_setReg n _ _ k

@[simp] theorem Node.event_staged (n : Node) (c : Nat) (d : Bytes) : (n.event c d).staged = n.staged := by
  obtain ⟨m, h, e⟩ := Node.event_eq n c d; rw [e]; rfl
@[simp] theorem Node.event_nextRound (n : Node) (c : Nat) (d : Bytes) : (n.event c d).nextRound = n.nextRound := by
  obtain ⟨m, h, e⟩ := Node.event_eq n c d; rw [e]; rfl
@[simp] theorem Node.event_time (n : Node) (c : Nat) (d : Bytes) : (n.event c d).time = n.time := by
  obtain ⟨m, h, e⟩ := Node.event_eq n c d; rw [e]; rfl
@[simp] theorem Node.event_sched (n : Node) (c : Nat) (d : Bytes) : (n.event c d).sched = n.sched := by
  obtain ⟨m, h, e⟩ := Node.event_eq n c d; rw [e]; rfl
@[simp] theorem Node.event_adm (n : Node) (c : Nat) (d : Bytes) : (n.event c d).adm = n.adm := by
  obtain ⟨m, h, e⟩ := Node.event_eq n c d; rw [e]; rfl
@[simp] theorem Node.event_seqs (n : Node) (c : Nat) (d : Bytes) : (n.event c d).seqs = n.seqs := by
  obtain ⟨m, h, e⟩ := Node.event_eq n c d; rw [e]; rfl
@[simp] theorem Node.event_share (n : Node) (c : Nat) (d : Bytes) : (n.event c d).share = n.share := by
  obtain ⟨m, h, e⟩ := Node.event_eq n c d; rw [e]; rfl
@[simp] theorem Node.event_models (n : Node) (c : Nat) (d : Bytes) : (n.event c d).models = n.models := by
  obtain ⟨m, h, e⟩ := Node.event_eq n c d; rw [e]; rfl
@[simp] theorem Node.event_progs (n : Node) (c : Nat) (d : Bytes) : (n.event c d).progs = n.progs := by
  obtain ⟨m, h, e⟩ := Node.event_eq n c d; rw [e]; rfl
@[simp] theorem Node.event_cells (n : Node) (c : Nat) (d : Bytes) : (n.event c d).cells = n.cells := by
  obtain ⟨m, h, e⟩ := Node.event_eq n c d; rw [e]; rfl
@[simp] theorem Node.event_grads (n : Node) (c : Nat) (d : Bytes) : (n.event c d).grads = n.grads := by
  obtain ⟨m, h, e⟩ := Node.event_eq n c d; rw [e]; rfl
@[simp] theorem Node.event_packers (n : Node) (c : Nat) (d : Bytes) : (n.event c d).packers = n.packers := by
  obtain ⟨m, h, e⟩ := Node.event_eq n c d; rw [e]; rfl
@[simp] theorem Node.event_packOrder (n : Node) (c : Nat) (d : Bytes) : (n.event c d).packOrder = n.packOrder := by
  obtain ⟨m, h, e⟩ := Node.event_eq n c d; rw [e]; rfl
@[simp] theorem Node.event_stk (n : Node) (c : Nat) (d : Bytes) : (n.event c d).stk = n.stk := by
  obtain ⟨m, h, e⟩ := Node.event_eq n c d; rw [e]; rfl
@[simp] theorem Node.event_tiers (n : Node) (c : Nat) (d : Bytes) : (n.event c d).tiers = n.tiers := by
  obtain ⟨m, h, e⟩ := Node.event_eq n c d; rw [e]; rfl
@[simp] theorem Node.event_indexes (n : Node) (c : Nat) (d : Bytes) : (n.event c d).indexes = n.indexes := by
  obtain ⟨m, h, e⟩ := Node.event_eq n c d; rw [e]; rfl
@[simp] theorem Node.event_links (n : Node) (c : Nat) (d : Bytes) : (n.event c d).links = n.links := by
  obtain ⟨m, h, e⟩ := Node.event_eq n c d; rw [e]; rfl
@[simp] theorem Node.event_comp (n : Node) (c : Nat) (d : Bytes) : (n.event c d).comp = n.comp := by
  obtain ⟨m, h, e⟩ := Node.event_eq n c d; rw [e]; rfl
@[simp] theorem Node.event_sec (n : Node) (c : Nat) (d : Bytes) : (n.event c d).sec = n.sec := by
  obtain ⟨m, h, e⟩ := Node.event_eq n c d; rw [e]; rfl
@[simp] theorem Node.event_rcv (n : Node) (c : Nat) (d : Bytes) : (n.event c d).rcv = n.rcv := by
  obtain ⟨m, h, e⟩ := Node.event_eq n c d; rw [e]; rfl
@[simp] theorem Node.event_test (n : Node) (c : Nat) (d : Bytes) : (n.event c d).test = n.test := by
  obtain ⟨m, h, e⟩ := Node.event_eq n c d; rw [e]; rfl
@[simp] theorem Node.event_slow (n : Node) (c : Nat) (d : Bytes) : (n.event c d).slow = n.slow := by
  obtain ⟨m, h, e⟩ := Node.event_eq n c d; rw [e]; rfl
@[simp] theorem Node.event_power (n : Node) (c : Nat) (d : Bytes) : (n.event c d).power = n.power := by
  obtain ⟨m, h, e⟩ := Node.event_eq n c d; rw [e]; rfl
@[simp] theorem Node.event_straps (n : Node) (c : Nat) (d : Bytes) : (n.event c d).straps = n.straps := by
  obtain ⟨m, h, e⟩ := Node.event_eq n c d; rw [e]; rfl
@[simp] theorem Node.event_pins (n : Node) (c : Nat) (d : Bytes) : (n.event c d).pins = n.pins := by
  obtain ⟨m, h, e⟩ := Node.event_eq n c d; rw [e]; rfl
@[simp] theorem Node.event_tops (n : Node) (c : Nat) (d : Bytes) : (n.event c d).tops = n.tops := by
  obtain ⟨m, h, e⟩ := Node.event_eq n c d; rw [e]; rfl
@[simp] theorem Node.event_freeCount (n : Node) (c : Nat) (d : Bytes) : (n.event c d).freeCount = n.freeCount := by
  obtain ⟨m, h, e⟩ := Node.event_eq n c d; rw [e]; rfl

/-- Queuing a response changes what the management unit and the host port hold, and nothing else. -/
theorem Node.respond_eq (n : Node) (via : Via) (vt : Nat) (p : Bytes) : ∃ m h, n.respond via vt p = { n with mgmt := m, host := h } := by
  unfold Node.respond
  split
  · exact ⟨n.mgmt, n.host, rfl⟩
  · exact ⟨n.mgmt, _, rfl⟩
  · dsimp only
    obtain ⟨m, h⟩ := Node.ringSend_eq n _
    rw [h]
    exact ⟨m, n.host, rfl⟩

/-- Keeping a response changes what the management unit holds, and nothing else. -/
theorem Node.remember_eq (n : Node) (src : Source) (seq now : Nat) (p : Bytes) : ∃ m, n.remember src seq now p = { n with mgmt := m } := by
  unfold Node.remember
  split
  · exact ⟨n.mgmt, rfl⟩
  · exact ⟨_, rfl⟩

/-! ### Writes of one entry -/

/-- What keeping and queuing a response changes: the management unit and the host port. -/
theorem Node.acked_eq (n : Node) (via : Via) (vt now : Nat) : ∃ m h, n.acked via vt now = { n with mgmt := m, host := h } := by
  unfold Node.acked
  obtain ⟨m, e⟩ := Node.remember_eq n via.src via.seq.toNat now [0, 0, 0, 0]
  obtain ⟨m', h, e'⟩ := Node.respond_eq (n.remember via.src via.seq.toNat now [0, 0, 0, 0]) via vt [0, 0, 0, 0]
  rw [e', e]
  exact ⟨m', h, rfl⟩

@[simp] theorem Node.reg_acked (n : Node) (via : Via) (vt now k : Nat) : (n.acked via vt now).reg k = n.reg k := by
  obtain ⟨m, h, e⟩ := Node.acked_eq n via vt now
  rw [e]; rfl

/-- Noting the awl changes what the security unit keeps of it, and no entry. -/
theorem Node.noteAwl_eq (n : Node) (via : Via) : ∃ c, n.noteAwl via = { n with sec := c } := by
  unfold Node.noteAwl
  split
  · exact ⟨_, rfl⟩
  · exact ⟨n.sec, rfl⟩

@[simp] theorem Node.reg_noteAwl (n : Node) (via : Via) (k : Nat) : (n.noteAwl via).reg k = n.reg k := by
  obtain ⟨c, e⟩ := Node.noteAwl_eq n via
  rw [e]; rfl

@[simp] theorem Node.noteAwl_regs (n : Node) (via : Via) : (n.noteAwl via).regs = n.regs := by
  obtain ⟨c, e⟩ := Node.noteAwl_eq n via; rw [e]
@[simp] theorem Node.noteAwl_staged (n : Node) (via : Via) : (n.noteAwl via).staged = n.staged := by
  obtain ⟨c, e⟩ := Node.noteAwl_eq n via; rw [e]
@[simp] theorem Node.noteAwl_nextRound (n : Node) (via : Via) : (n.noteAwl via).nextRound = n.nextRound := by
  obtain ⟨c, e⟩ := Node.noteAwl_eq n via; rw [e]
@[simp] theorem Node.noteAwl_time (n : Node) (via : Via) : (n.noteAwl via).time = n.time := by
  obtain ⟨c, e⟩ := Node.noteAwl_eq n via; rw [e]
@[simp] theorem Node.noteAwl_sched (n : Node) (via : Via) : (n.noteAwl via).sched = n.sched := by
  obtain ⟨c, e⟩ := Node.noteAwl_eq n via; rw [e]
@[simp] theorem Node.noteAwl_adm (n : Node) (via : Via) : (n.noteAwl via).adm = n.adm := by
  obtain ⟨c, e⟩ := Node.noteAwl_eq n via; rw [e]
@[simp] theorem Node.noteAwl_seqs (n : Node) (via : Via) : (n.noteAwl via).seqs = n.seqs := by
  obtain ⟨c, e⟩ := Node.noteAwl_eq n via; rw [e]
@[simp] theorem Node.noteAwl_share (n : Node) (via : Via) : (n.noteAwl via).share = n.share := by
  obtain ⟨c, e⟩ := Node.noteAwl_eq n via; rw [e]
@[simp] theorem Node.noteAwl_models (n : Node) (via : Via) : (n.noteAwl via).models = n.models := by
  obtain ⟨c, e⟩ := Node.noteAwl_eq n via; rw [e]
@[simp] theorem Node.noteAwl_progs (n : Node) (via : Via) : (n.noteAwl via).progs = n.progs := by
  obtain ⟨c, e⟩ := Node.noteAwl_eq n via; rw [e]
@[simp] theorem Node.noteAwl_cells (n : Node) (via : Via) : (n.noteAwl via).cells = n.cells := by
  obtain ⟨c, e⟩ := Node.noteAwl_eq n via; rw [e]
@[simp] theorem Node.noteAwl_grads (n : Node) (via : Via) : (n.noteAwl via).grads = n.grads := by
  obtain ⟨c, e⟩ := Node.noteAwl_eq n via; rw [e]
@[simp] theorem Node.noteAwl_packers (n : Node) (via : Via) : (n.noteAwl via).packers = n.packers := by
  obtain ⟨c, e⟩ := Node.noteAwl_eq n via; rw [e]
@[simp] theorem Node.noteAwl_packOrder (n : Node) (via : Via) : (n.noteAwl via).packOrder = n.packOrder := by
  obtain ⟨c, e⟩ := Node.noteAwl_eq n via; rw [e]
@[simp] theorem Node.noteAwl_stk (n : Node) (via : Via) : (n.noteAwl via).stk = n.stk := by
  obtain ⟨c, e⟩ := Node.noteAwl_eq n via; rw [e]
@[simp] theorem Node.noteAwl_tiers (n : Node) (via : Via) : (n.noteAwl via).tiers = n.tiers := by
  obtain ⟨c, e⟩ := Node.noteAwl_eq n via; rw [e]
@[simp] theorem Node.noteAwl_indexes (n : Node) (via : Via) : (n.noteAwl via).indexes = n.indexes := by
  obtain ⟨c, e⟩ := Node.noteAwl_eq n via; rw [e]
@[simp] theorem Node.noteAwl_links (n : Node) (via : Via) : (n.noteAwl via).links = n.links := by
  obtain ⟨c, e⟩ := Node.noteAwl_eq n via; rw [e]
@[simp] theorem Node.noteAwl_comp (n : Node) (via : Via) : (n.noteAwl via).comp = n.comp := by
  obtain ⟨c, e⟩ := Node.noteAwl_eq n via; rw [e]
@[simp] theorem Node.noteAwl_rcv (n : Node) (via : Via) : (n.noteAwl via).rcv = n.rcv := by
  obtain ⟨c, e⟩ := Node.noteAwl_eq n via; rw [e]
@[simp] theorem Node.noteAwl_test (n : Node) (via : Via) : (n.noteAwl via).test = n.test := by
  obtain ⟨c, e⟩ := Node.noteAwl_eq n via; rw [e]
@[simp] theorem Node.noteAwl_mgmt (n : Node) (via : Via) : (n.noteAwl via).mgmt = n.mgmt := by
  obtain ⟨c, e⟩ := Node.noteAwl_eq n via; rw [e]
@[simp] theorem Node.noteAwl_host (n : Node) (via : Via) : (n.noteAwl via).host = n.host := by
  obtain ⟨c, e⟩ := Node.noteAwl_eq n via; rw [e]
@[simp] theorem Node.noteAwl_slow (n : Node) (via : Via) : (n.noteAwl via).slow = n.slow := by
  obtain ⟨c, e⟩ := Node.noteAwl_eq n via; rw [e]
@[simp] theorem Node.noteAwl_power (n : Node) (via : Via) : (n.noteAwl via).power = n.power := by
  obtain ⟨c, e⟩ := Node.noteAwl_eq n via; rw [e]
@[simp] theorem Node.noteAwl_straps (n : Node) (via : Via) : (n.noteAwl via).straps = n.straps := by
  obtain ⟨c, e⟩ := Node.noteAwl_eq n via; rw [e]
@[simp] theorem Node.noteAwl_pins (n : Node) (via : Via) : (n.noteAwl via).pins = n.pins := by
  obtain ⟨c, e⟩ := Node.noteAwl_eq n via; rw [e]
@[simp] theorem Node.noteAwl_tops (n : Node) (via : Via) : (n.noteAwl via).tops = n.tops := by
  obtain ⟨c, e⟩ := Node.noteAwl_eq n via; rw [e]
@[simp] theorem Node.noteAwl_freeCount (n : Node) (via : Via) : (n.noteAwl via).freeCount = n.freeCount := by
  obtain ⟨c, e⟩ := Node.noteAwl_eq n via; rw [e]

/-- A write served now with status OK: the effect on the node, then the response (R491, R493). -/
theorem State.command_eq (s : State) (via : Via) (index sub : Nat) (value : Bytes) (f : Node → Node) (hr : s.node.reachable via.src = true)
    (hf : s.node.seen via.src via.seq.toNat s.clock.tick = .fresh)
    (hs : (s.node.noteAwl via).writeStatus via (blockEntry index sub) index sub value = svOk) :
    s.command via index sub value f =
      .next (s.withNode ((f (s.node.noteAwl via)).acked via (if blockEntry index sub then 0x13 else 0x11) s.clock.tick)) := by
  have hs' : (s.put (s.node.noteAwl via)).node.writeStatus via
      ((Dict.entry index sub).any fun e => e.ty == .domain || decide (1424 < e.ty.bytes)) index sub value = svOk := hs
  unfold State.command State.write State.serve
  simp only [hr, hf, Bool.not_true, Bool.false_eq_true, if_false, hs', if_true]
  rfl

/-- A row that is a write of one entry accepts it with the node its effect gives. -/
theorem State.accepts_of (s : State) (c : Instr) (via : Via) (index sub : Nat) (value : Bytes) (f : Node → Node) (P : Node → Prop)
    (hc : exec c s = s.command via index sub value f) (h : P (f (s.node.noteAwl via))) : s.accepts c via index sub value P := by
  intro hr hf hs
  exact ⟨_, by rw [hc, State.command_eq s via index sub value f hr hf hs], h⟩

end Sys2Proof.Machine
end

