-- ==== Sys2Proof/Laws/Threads.lean ====
section
/-!
SUPPORT. Laws of threads: what an instruction that issues answers, registers after a write, threads after one is put, and memory after a run is cleared.
-/

namespace Sys2Proof.Machine

/-! ### Issue -/

/-- An instruction over registers of a thread that issues: the thread's record is changed, its pc moves on, and nothing else differs. -/
theorem State.issue_eq (s : State) (t : ThreadId) (g : Thread → Thread) (h : s.node.issues t.key = true) :
    s.issue t g = .next (s.withThread t.key (g (s.node.thread t.key)).next) := by
  simp [State.issue, h, State.on, Node.retire, State.withThread]

/-- An instruction that sets the pc itself. -/
theorem State.jump_eq (s : State) (t : ThreadId) (g : Thread → Thread) (h : s.node.issues t.key = true) :
    s.jump t g = .next (s.withThread t.key (g (s.node.thread t.key))) := by
  simp [State.jump, h, State.on, State.withThread]

/-- An instruction of a thread that cannot issue changes nothing. -/
theorem State.issue_idle (s : State) (t : ThreadId) (g : Thread → Thread) (h : s.node.issues t.key = false) : s.issue t g = .next s := by
  simp [State.issue, h, State.on]

theorem State.scalar_eq (s : State) (t : ThreadId) (f : Fields) (op : Nat → Nat → Nat) (h : s.node.issues t.key = true) :
    s.scalar t f op = .next (s.withThread t.key ((s.node.thread t.key).setX f.rd.val
      (op ((s.node.thread t.key).getX f.ra.val) ((s.node.thread t.key).getX f.rb.val))).next) := by
  simp only [State.scalar, State.issue_eq s t _ h]

theorem State.vector_eq (s : State) (t : ThreadId) (f : Fields) (op : Thread → List Nat) (h : s.node.issues t.key = true) :
    s.vector t f op = .next (s.withThread t.key ((s.node.thread t.key).setV f.rd.val (op (s.node.thread t.key))).next) := by
  simp only [State.vector, State.issue_eq s t _ h]

/-! ### Threads -/

@[simp] theorem Node.thread_setThread (n : Node) (k j : Nat) (u : Thread) : (n.setThread k u).thread j = if j = k then u else n.thread j := by
  simp [Node.setThread, Node.thread]

theorem Map.erase_insert {α : Type} (m : Map α) (k : Nat) (v : α) (h : ∀ e ∈ m, e.1 ≠ k) : Map.erase (Map.insert k v m) k = m := by
  have he : m.filter (fun e => e.1 != k) = m := List.filter_eq_self.mpr fun e hm => by simpa using h e hm
  unfold Map.erase
  clear he
  induction m with
  | nil => simp [Map.insert]
  | cons a t ih =>
    obtain ⟨x, y⟩ := a
    have hx : x ≠ k := h (x, y) (by simp)
    have ht : ∀ e ∈ t, e.1 ≠ k := fun e he => h e (by simp [he])
    have hf : t.filter (fun e => e.1 != k) = t := List.filter_eq_self.mpr fun e hm => by simpa using ht e hm
    simp only [Map.insert]
    split
    · simp [hx, hf]
    · simp [hx, ih ht]

theorem Map.erase_erase {α : Type} (m : Map α) (k : Nat) : Map.erase (Map.erase m k) k = Map.erase m k := by
  simp [Map.erase]

/-- The later of two writes of one key stands. -/
theorem Map.set_set {α : Type} [DecidableEq α] (d : α) (m : Map α) (k : Nat) (u v : α) : Map.set d (Map.set d m k u) k v = Map.set d m k v := by
  have : Map.erase (Map.set d m k u) k = Map.erase m k := by
    unfold Map.set
    split
    · exact Map.erase_erase m k
    · exact Map.erase_insert _ k u (Map.erase_ne m k)
  unfold Map.set at this ⊢
  rw [this]

/-- A thread put twice is the later one. -/
@[simp] theorem Node.setThread_setThread (n : Node) (k : Nat) (u v : Thread) : (n.setThread k u).setThread k v = n.setThread k v := by
  simp [Node.setThread, Map.set_set]

@[simp] theorem Node.setThread_regs (n : Node) (k : Nat) (u : Thread) : (n.setThread k u).regs = n.regs := rfl
@[simp] theorem Node.setThread_stk (n : Node) (k : Nat) (u : Thread) : (n.setThread k u).stk = n.stk := rfl
@[simp] theorem Node.setThread_seqs (n : Node) (k : Nat) (u : Thread) : (n.setThread k u).seqs = n.seqs := rfl
@[simp] theorem Node.setThread_adm (n : Node) (k : Nat) (u : Thread) : (n.setThread k u).adm = n.adm := rfl
@[simp] theorem Node.setThread_tiles (n : Node) (k : Nat) (u : Thread) : (n.setThread k u).cells.tiles = n.cells.tiles := rfl

/-! ### Registers -/

@[simp] theorem Thread.getX_zero (t : Thread) : t.getX 0 = 0 := rfl

theorem Thread.getX_setX (t : Thread) (i j v : Nat) : (t.setX i v).getX j = if j = i ∧ i ≠ 0 then v % 2 ^ 64 else t.getX j := by
  by_cases hj : j = 0 <;> by_cases hi : i = 0 <;> simp_all [Thread.getX, Thread.setX]
  omega

@[simp] theorem Thread.setX_pc (t : Thread) (i v : Nat) : (t.setX i v).pc = t.pc := by unfold Thread.setX; split <;> rfl
@[simp] theorem Thread.setX_v (t : Thread) (i v : Nat) : (t.setX i v).v = t.v := by unfold Thread.setX; split <;> rfl
@[simp] theorem Thread.setX_acc (t : Thread) (i v : Nat) : (t.setX i v).acc = t.acc := by unfold Thread.setX; split <;> rfl
@[simp] theorem Thread.setX_tiles (t : Thread) (i v : Nat) : (t.setX i v).tiles = t.tiles := by unfold Thread.setX; split <;> rfl
@[simp] theorem Thread.setV_pc (t : Thread) (i : Nat) (v : List Nat) : (t.setV i v).pc = t.pc := by unfold Thread.setV; split <;> rfl
@[simp] theorem Thread.setV_x (t : Thread) (i : Nat) (v : List Nat) : (t.setV i v).x = t.x := by unfold Thread.setV; split <;> rfl
@[simp] theorem Thread.setV_acc (t : Thread) (i : Nat) (v : List Nat) : (t.setV i v).acc = t.acc := by unfold Thread.setV; split <;> rfl

/-- A value and its low 64 bits write the same. -/
theorem Thread.setX_mod (t : Thread) (i v : Nat) : t.setX i (v % 2 ^ 64) = t.setX i v := by simp [Thread.setX]

@[simp] theorem Thread.getV_length (t : Thread) (i : Nat) : (t.getV i).length = 64 := by unfold Thread.getV; split <;> simp

theorem zipWith_getD (g : Nat → Nat → Nat) (a b : List Nat) (ha : a.length = 64) (hb : b.length = 64) (l : Nat) (hl : l < 64) :
    (List.zipWith g a b).getD l 0 = g (a.getD l 0) (b.getD l 0) := by
  simp [List.getD, ha, hb, hl]

/-! ### Memory -/

/-- A byte after a run is cleared: 0 inside it, the old one outside. -/
theorem Memory.byte_clearMem (m : List Host.Cell) (b len a : Nat) :
    Memory.byte (clearMem m b len) a = if b ≤ a ∧ a < b + len then 0 else Memory.byte m a := by
  unfold Memory.byte clearMem
  induction m with
  | nil => simp
  | cons e t ih =>
    obtain ⟨k, v⟩ := e
    simp only [List.filter_cons, decide_eq_true_eq]
    by_cases hk : k = a
    · subst hk
      split
      · next h => rw [Map.get, if_pos rfl, if_neg (by omega), Map.get, if_pos rfl]
      · next h => rw [ih, if_pos (by omega), if_pos (by omega)]
    · split
      · rw [Map.get, if_neg hk, ih, Map.get, if_neg hk]
      · rw [ih, Map.get, if_neg hk]

theorem Memory.wf_clearMem (m : List Host.Cell) (b len : Nat) (h : Memory.wf m = true) : Memory.wf (clearMem m b len) = true :=
  Memory.wf_filter m _ h

/-! ### Loads and stores -/

/-- What a store can do: nothing, a program fault, a write of on-die memory, of a mailbox page, or a remote access. -/
theorem State.storeFrom_cases (s : State) (t : ThreadId) (f : Fields) (data : Bytes) (aligned : Bool) :
    (∃ n, s.storeFrom t f data aligned = .next (s.withNode n)) ∨
    (∃ off, s.node.reach t ((s.node.thread t.key).address f) data.length true = .mem off ∧
      s.storeFrom t f data aligned = .next { s with node := s.node.retire t.key id, mem := Memory.write s.mem off data }) := by
  unfold State.storeFrom
  simp only
  split
  · exact .inl ⟨_, rfl⟩
  · split
    · exact .inl ⟨_, rfl⟩
    · split
      · next off h => exact .inr ⟨off, h, rfl⟩
      all_goals exact .inl ⟨_, rfl⟩

/-- A load changes the node only. -/
theorem State.loadTo_cases (s : State) (t : ThreadId) (f : Fields) (kind len : Nat) (aligned : Bool) :
    ∃ n, s.loadTo t f kind len aligned = .next (s.withNode n) := by
  unfold State.loadTo
  simp only
  split
  · exact ⟨_, rfl⟩
  · split
    · exact ⟨_, rfl⟩
    · split <;> exact ⟨_, rfl⟩

end Sys2Proof.Machine
end

