-- ==== Sys2Proof/WellFormed.lean ====
section
/-!
DEFINITION. When a command is well formed: what a sender can send at all, from the fixed lengths and number ranges of the
manual. A meaning does not depend on it.
-/

namespace Sys2Proof

/-- A source number of Table 2-3 that a request can come from: a link port, or a host function (64 + its number). -/
def sourceOk (n : Nat) : Bool := decide (n < 48) || (decide (64 ≤ n) && decide (n ≤ 128))

/-- A request message as received: its source exists. -/
def Request.wellFormed (r : Request) : Bool := sourceOk r.source

/-- A side-band finding: at most the 80 symbols of a line (R259). -/
def LineErr.wellFormed (e : LineErr) : Bool := decide (e.symbols ≤ 80)

/-- A station number of a management ring (R483). -/
def Via.wellFormed (v : Via) : Bool :=
  match v.src with
  | .ringA s | .ringB s => decide (s.toNat < 1024)
  | .f0 | .jtag => true

/-- Well-formed commands. -/
def Instr.wellFormed : Instr → Bool
  | .flitReceive _ flit => decide (flit.length = 256)
  | .seqOpen r | .seqFork r | .seqClose r | .append r | .attend r | .attendAppend r | .backwardCompute r
  | .backwardFetch r | .backwardRelease r | .weightLoad r | .searchIvf r | .searchTree r | .searchProbe r | .insert r
  | .delete r | .fold r | .abort r => r.wellFormed
  | .tldPage _ _ errs => errs.all fun e => decide (e.line < 256) && e.wellFormed
  | .tldWeight _ _ errs => errs.all LineErr.wellFormed
  | .tickPrimaryWrite v _ | .lastLoad v _ | .objectWrite v _ _ _ | .arm v | .disarm v | .discard v | .domainCreate v _ |
    .domainDestroy v _ | .modelDef v _ | .modelRetire v _ | .progLoad v _ | .progUnload v _ | .quotaSet v _ | .indexDef v _ |
    .centroidLoad v _ | .indexRetire v _ | .retrain v _ _ | .histClear v _ | .rescan v _ | .sliceBind v _ | .sessionOpen v _ |
    .sessionClose v _ | .sliceRelease v _ | .holdStop v _ | .rejoin v _ | .quarantineKeep v _ | .quarantineYield v _ |
    .quarantineDrop v _ | .keyInstall v _ | .keyRetire v _ | .fwStaged v _ | .attestReq v _ | .takeoverStart v _ |
    .takeoverStop v _ | .testReq v _ | .ringKeyInstall v _ | .f0Unlock v _ | .f0Lock v _ | .stateReqOperational v |
    .stateReqPreop v | .stateReqSafe v | .resetReq v _ => v.wellFormed
  | .tickEdge _ _ _ | .missedTick _ | .inputLost _ | .holdoverLimit | .tickBoundary _ | .roundBoundary | .regionArmReport _ _ | .armDeadline
  | .commitApply | .admitTick | .hashChain | .forkCopyDone _ | .sequenceFree _ | .weightDigestCheck _ | .generationReclaim _ | .ballTreeBuild _
  | .reassemblyTimeout _ _ _ | .computeWindowOpen _ | .itemStart _ _ | .itemCompletion _ | .phase2Start _ | .phase2Complete _ | .budgetTrap _
  | .builtinOverrun _ | .br _ _ | .brc _ _ | .loop _ _ | .endItem _ _ | .add _ _ | .sub _ _ | .mul _ _ | .and _ _ | .or _ _ | .xor _ _ | .shl _ _
  | .shr _ _ | .min _ _ | .max _ _ | .li _ _ | .vadd _ _ | .vmul _ _ | .vfma _ _ | .vmax _ _ | .vsel _ _ | .vbcast _ _ | .vredmax _ _ | .vredsum _ _
  | .vexp2 _ _ | .vtanh _ _ | .vcvt _ _ | .mma _ _ | .accClr _ _ | .accRd _ _ | .tldMem _ _ | .tst _ _ | .ld _ _ | .st _ _ | .ldv _ _ | .stv _ _
  | .fenceL _ _ | .fenceF _ _ | .fenceN _ _ | .iarg _ _ | .partWr _ _ | .nbc _ _ _ _ | .nbZero _ | .nbZeroSlot _ | .nbZeroChannel _ | .nbFill _
  | .nbCopy _ | .nbAdd _ | .nbMul _ | .nbAxpy _ | .nbActRelu _ | .nbActSilu _ | .nbActGeluTanh _ | .nbActSigmoid _ | .nbActExp2 _ | .nbActSoftcap _
  | .nbConvert _ | .nbRotatePair _ | .strokeEnd _ _ | .refreshBurst _ | .appendWrite _ | .refillAttempt | .pageReclaim _ | .pageRewriteStart _
  | .packerStart _ | .pageCompressed _ | .spillStart | .spillComplete _ | .prefetchRead | .prefetchComplete _ | .slowReadCompletion _ _ _ _ _
  | .slowReadTimeout _ | .refetchTimeout _ _ | .tileResponse _ _ _ | .tileRequestServe _ _ _ _ _ _ | .weightHoldExpiry _ | .heldDeadlineMargin _
  | .modelFree _ | .progReady _ | .progSlotFree _ | .indexFree _ | .replayAckTimeout _ | .laneLockLoss _ | .peerSilent _ | .trainTimeout _
  | .creditStall _ _ | .helloReceive _ _ | .helloSend _ | .camrisFrameReceive _ _ | .ethFrameReceive _ _ | .pathAckReceive _ _ | .pathAckSend _ _
  | .pathRetry _ _ _ | .pfcReceive _ _ | .pauseReceive _ | .loopbackResult _ _ | .downHoldExpiry _ | .frameStart _ | .gateUnit _ | .statisticsSample
  | .cmdDoorbell _ _ | .space4Read _ _ | .sqTailDoorbell _ _ | .mailboxFetch | .hostReplyWrite | .dmaTailDoorbell _ _ | .dmaDescriptor _ _
  | .attestGo _ _ | .flrVf _ | .flrF0 | .hostLinkDown | .hostReadTimeout | .hostPortReset | .slowPortError _ _ | .drainBound _ | .scrubEnd _
  | .preCopy | .moveReceive _ _ | .moveTimeout _ | .epochAdmissionEnd | .drainTick | .roundHeaderReceive _ | .headerWaitExpiry | .keyRetirement _
  | .attestReportReady | .scanEntry | .oprootWrite _ | .targetedTestStart _ _ | .testResult _ _ _ _ _ | .rowRepair _ _ _ _ | .repairRecordWrite
  | .stateLostMargin _ | .pageRestore _ | .pageRestoreTimeout _ | .journalCut | .replReceive _ _ | .cutAckReceive _ _ | .rosterReceive _ _
  | .partnerSuspect | .sequenceRestored _ | .takeoverTimeout | .selftestSliceStart | .selftestSliceEnd _ _ _ _ _ | .selftestSliceStop | .cycleOverrun
  | .lockstepMismatch _ | .discover _ _ | .beaconSend | .beaconReceive _ _ | .ringFrameForward _ _ | .read _ _ | .write _ _ | .blockRead _ _
  | .blockWrite _ _ | .blockTimeout | .describe _ _ | .commit _ _ | .awl _ _ | .eyeletClose _ | .eyeletOpen _ | .watchdogExpiry | .sensorTrip _
  | .inputTrip | .coolantAlarm | .powerLoss | .powerUp | .moduleReset | .ringPortDown _ _ | .ringPortUp _ _ | .hostLinkUp | .hostReadCompletion _ _
  | .ideKm _ | .mailboxEnable _ _ | .zeroizationComplete | .moduleResetRelease | .coolantAlarmRelease | .arbiterTimeout _ _ => true

end Sys2Proof
end

