-- ==== Sys2Proof/Tests/Slice0.lean ====
section
/-!
SUPPORT. Tests: for each statement a small state that meets its hypotheses, clause by clause at the bounds, and checks of well-formedness and of the standard
functions against their published examples.
-/

namespace Sys2Proof.Tests

open Sys2Proof.Machine

set_option Elab.async false

/-! ### Small states -/

/-- The node after reset. -/
def node0 : Node := State.reset.node

/-- A state at a tick with a node, the rest as after reset. -/
def stAt (now : Nat) (n : Node) : State := { State.reset with node := n, clock := { tick := now } }

/-- The first thread of the node, and its instruction fields: xRD x1 (v1, t1), xRA x2, xRB x3. -/
def th0 : ThreadId := ⟨0, 0, 0⟩
def fl : Fields := ⟨1, 2, 3, 1, 0, 0⟩

/-- A header of an opcode, session 0, request 1. -/
def hdr (op : BitVec 8) (oparg : BitVec 128) : Header := ⟨op, 0, 0, 1, 0, 0, 0, 1, 0, 0, 0, 0, oparg, 0⟩
def req (op : BitVec 8) (oparg : BitVec 128) : Request := ⟨hdr op oparg, [], 0⟩

/-- An attention request of one row (byte 33 of the header), with one item of one head and one page view. -/
def itA : Item := { kind := .attn, heads := 1, state := 2, view := [{ page := 0, index := 0, tokens := 16, state := 3 }] }
def qA : Admitted := { req := req 0x11 0x100, items := [itA] }

/-- The node where thread 0 runs that item with registers `t`. -/
def running (q : Admitted) (t : Thread) : Node :=
  { node0 with adm := { node0.adm with admitted := [q] } }.setThread 0 { t with running := true, request := 1 }

/-- The address of a byte of this node's on-die memory (Table 7-2). -/
def addr3 (off : Nat) : Nat := 1023 * 2 ^ 54 + 3 * 2 ^ 51 + off

/-! ### Instructions -/

/-- ScalarResult: a shift by 63, numbers below 2^63, an immediate below 2^31. -/
theorem witness_scalar :
    let n := running qA { x := [(2, 5), (3, 63)] }
    n.issues th0.key = true ∧ (n.thread th0.key).getX 3 < 64 ∧ (n.thread th0.key).getX 2 < 2 ^ 63 ∧ fl.imm.toNat < 2 ^ 31 := by decide

/-- ThreadRegisters: the last vector register, another one, 64 lanes. -/
theorem witness_registers : (List.replicate 64 1).length = 64 ∧ 15 < 16 ∧ (0 : Nat) ≠ 15 := by decide

/-- ControlAndFences, VectorResult, MatrixResult: nothing out, and one access and one command out. -/
theorem witness_fences :
    let n := running qA {}
    let m := running qA { remoteOut := 1, tokensOut := [7] }
    n.issues th0.key = true ∧ (n.thread th0.key).remoteOut = 0 ∧ (n.thread th0.key).tokensOut = [] ∧
    m.issues th0.key = true ∧ (m.thread th0.key).remoteOut ≠ 0 ∧ (m.thread th0.key).tokensOut ≠ [] ∧ fl.fmt.val = 1 := by decide

/-- EndResult: a tenant item whose one row and head is written. -/
theorem witness_end :
    let n := running qA { program := some 0, written := [(0, 0)] }
    n.issues th0.key = true ∧ n.itemOf (n.thread th0.key) = some (qA, itA) ∧ ∀ e ∈ itA.rowHeads qA.req, e ∈ (n.thread th0.key).written := by decide

theorem ldBytes_cases (m : Nat) : ldBytes m = 1 ∨ ldBytes m = 2 ∨ ldBytes m = 4 ∨ ldBytes m = 8 := by
  unfold ldBytes
  have h := Nat.mod_lt (Config.open 111 m) (show 0 < 4 by decide)
  interval_cases Config.open 111 m % 4 <;> simp

/-- A read that is longer than the item's payload reaches what a write does. -/
theorem reach_read (n : Node) (t : ThreadId) (a len : Nat) (q : Admitted) (it : Item) (hi : n.itemOf (n.thread t.key) = some (q, it))
    (h : q.req.payload.length < len) : n.reach t a len false = n.reach t a len true := by
  unfold Node.reach
  simp only [hi]
  have (b o : Nat) : ¬(b ≤ o ∧ o + len ≤ b + q.req.payload.length) := by omega
  simp [this]

/-- LoadResult and StoreResult: staging byte 0 of region 0, for a built-in program. -/
theorem witness_load_store :
    let off := 2 * 2 ^ 25
    let n := running qA { x := [(2, addr3 off)], tiles := [0, 1] }
    let at_ := (n.thread th0.key).address fl
    n.issues th0.key = true ∧ at_ % 2048 = 0 ∧ at_ % 256 = 0 ∧ at_ % ldBytes fl.mod.val = 0 ∧ fl.rd.val < (n.thread th0.key).tiles.length ∧
    ∀ w, w = false ∨ w = true → n.reach th0 at_ 256 w = .mem off ∧ n.reach th0 at_ 2048 w = .mem off ∧ n.reach th0 at_ (ldBytes fl.mod.val) w = .mem off := by
  have r := fun len h => reach_read (running qA { x := [(2, addr3 (2 * 2 ^ 25))], tiles := [0, 1] }) th0
    (((running qA { x := [(2, addr3 (2 * 2 ^ 25))], tiles := [0, 1] }).thread th0.key).address fl) len qA itA (by decide) h
  rcases ldBytes_cases fl.mod.val with h | h | h | h <;> rw [h] <;>
    refine ⟨by decide, by decide, by decide, by decide, by decide, ?_⟩ <;> rintro w (rfl | rfl) <;>
    first | decide | (rw [r _ (by decide), r _ (by decide), r _ (by decide)]; decide)

/-- ReachTable: the last byte of a tenant's window, its item's payload, the last byte of its session's mailbox page, and another node's. -/
theorem witness_reach :
    let q : Admitted := { qA with req := { qA.req with payload := [1, 2] } }
    let n := running q { program := some 0 }
    n.reach th0 (addr3 8191) 1 true = .mem 8191 ∧
    n.reach th0 (1023 * 2 ^ 54 + 5 * 2 ^ 51 + 4095) 1 true = .box 0 4095 ∧ n.reach th0 (5 * 2 ^ 51) 1 true = .away ∧
    n.reach th0 (addr3 8191) 2 true = .fault := by decide

/-- ReachTable: the item's payload, where it lies in staging. -/
theorem witness_payload :
    let q : Admitted := { qA with req := { qA.req with payload := [1, 2] } }
    (running q { program := some 0 }).reach th0 (addr3 (payloadBase 0 q)) 2 false = .payload 0 := by
  intro q
  have hi : (running q { program := some 0 }).itemOf ((running q { program := some 0 }).thread th0.key) = some (q, itA) := by decide
  have hb : payloadBase 0 q < 2 ^ 27 := by
    unfold payloadBase
    have := Nat.mod_lt (Config.open 130 q.req.key) (show 0 < 2 ^ 22 by decide)
    omega
  have h1 : addr3 (payloadBase 0 q) / 2 ^ 51 % 8 = 3 := by unfold addr3; omega
  have h2 : addr3 (payloadBase 0 q) % 2 ^ 51 = payloadBase 0 q := by unfold addr3; omega
  have h3 : addr3 (payloadBase 0 q) / 2 ^ 54 % 1024 = 1023 := by unfold addr3; omega
  have h4 : (running q { program := some 0 }).straps = 1023 := rfl
  have h5 : th0.region.val = 0 := rfl
  have h6 : q.req.payload.length = 2 := rfl
  unfold Node.reach
  simp only [hi, h1, h2, h3, h4, h5, h6]
  simp

/-- TenantWritesOwnWindow: a tenant's ST. -/
theorem witness_tenant : ∃ s', exec (.st th0 fl) (stAt 0 (running qA { program := some 0 })) = .next s' := by
  unfold exec execSt State.storeFrom
  simp only
  repeat' split
  all_goals exact ⟨_, rfl⟩

/-- ProgramFault: a tenant's access outside its window. -/
theorem witness_fault :
    let n := running qA { program := some 0, x := [(2, 1)] }
    n.issues th0.key = true ∧ (n.thread th0.key).program.isSome = true ∧ (n.thread th0.key).address fl % 256 ≠ 0 ∧
    n.reach th0 ((n.thread th0.key).address fl) 256 true = .fault := by decide

/-- The node of a tile load: sequence 0 holds one BF16 element per token in part A; page 0 stands in slot 0, whose line 0 holds its sixteen tokens. -/
def nodeP : Node :=
  let n := (running qA { tiles := [0, 1] }).setSeq 0 { state := .opened, format := 1, aBytes := 2, bBytes := 0 }
  let n := n.setPage 0 { state := .sealed, format := 1, tokens := 16, t1 := some 0 }
  let n := n.setLine 0 (mkLine 0x0403_0201 0 0 (mkTag false kindPage 0 0))
  { n with cells := { n.cells with tiles := [(1, { data := List.replicate 2048 7 })] } }

/-- TldPageResult: its part A, with no error on its line. -/
theorem witness_tld_page :
    let th := nodeP.thread th0.key
    let run := pageRun 1 2 0 0 0
    nodeP.issues th0.key = true ∧ nodeP.itemOf th = some (qA, itA) ∧ itA.view[th.getX fl.ra.val]? = some { page := 0, index := 0, tokens := 16, state := 3 } ∧
    fl.imm.toNat % 4 < 2 ∧ fl.fmt.val = elemOf (nodeP.seq 0).format ∧ th.getX fl.rb.val % tileK 1 = 0 ∧ bitOf fl.mod.val 1 = false ∧
    fl.rd.val < th.tiles.length ∧ (nodeP.tile th0.key fl.rd.val).data.length = 2048 ∧
    nodeP.portLines 5 0 0 (0, 1) [] (((nodeP.page 0).runLines run).map fun l => (l, ((nodeP.page 0).t1.getD 0) * 256 + l)) = (.good, 0, nodeP) ∧
    nodeP.runBytes (nodeP.page 0) run = .ok ([[1, 2], [3, 4]] ++ List.replicate 14 [0, 0]) := by decide +kernel

/-- The node of a weight load: model 0 is latent with 64 rows of one element in each matrix, whose descriptor 0 is READY and resident in slot 0. -/
def nodeW (k : Nat) : Node :=
  let n := running qA { tiles := [0, 1] }
  let n := { n with models := [(0, { state := 1, layout := 2, qHeads := 32, dQk := 32, dLat := 32, dV := 32, layerCount := 1, weightDir := 0 })] }
  (n.setWeight 0 { state := k, wformat := 1, bytes := 65536, res := 1, t1 := some 0, slots := [0, 1, 2, 3] }).fillSlot 0 0 (mkTag false kindWeight 0 0)

/-- TldWeightResult: from READY, the first vectors of kind 1 (IMM 1), and in LOST. -/
theorem witness_tld_weight :
    let n := nodeW 2
    let th := n.thread th0.key
    let m := n.model 0
    let lines := ((List.range 32).flatMap fun r =>
        let o := (th.getX fl.ra.val + r) * vecBytes 1 32
        (List.range ((o + 63) / 64 + 1 - o / 64)).map fun i => o / 64 + i).eraseDups
    n.issues th0.key = true ∧ n.itemOf th = some (qA, itA) ∧ m.latent = true ∧ m.descIndex 0 1 = 0 ∧ (n.weight 0).state = 2 ∧ (n.weight 0).res = 1 ∧
    fl.fmt.val = (n.weight 0).wformat ∧ th.getX fl.rb.val % tileK 1 = 0 ∧ th.getX fl.ra.val + 32 ≤ m.qHeads * m.dLat ∧ th.getX fl.rb.val < m.dQk ∧
    n.portLines 5 0 0 (0, 1) [] (lines.map fun l => (l, (n.weight 0).slots.getD (l / 256) 0 * 256 + l % 256)) = (.good, 0, n) ∧
    ((nodeW 4).weight 0).state ≠ 2 ∧ (nodeW 4).issues th0.key = true := by decide +kernel

/-- ItemInstructions: the item's one row and head, not yet written and written by a tenant program; field 16 of IARG. -/
theorem witness_item :
    let n := running qA {}
    let m := running qA { program := some 0, written := [(0, 0)] }
    n.issues th0.key = true ∧ n.itemOf (n.thread th0.key) = some (qA, itA) ∧ (0, 0) ∈ itA.rowHeads qA.req ∧ (0, 0) ∉ (n.thread th0.key).written ∧
    m.issues th0.key = true ∧ (0, 0) ∈ (m.thread th0.key).written ∧ (m.thread th0.key).program.isSome = true ∧
    itA.view[16 - 16]? = some { page := 0, index := 0, tokens := 16, state := 3 } := by decide

/-- A near-bank command on stack 0 from line 0 on. -/
def nb (lines : BitVec 32) : NbArgs :=
  { stack := 0, sfmt := 0, dfmt := 0, arg := 0, dst := 0, src := 0, lines := lines, scalar := 5, owner := 0, tag := 0, model := 0, fenceId := 3, stream := [] }

/-- NbcResult, NbCommands and NbFillLines: FILL of the longest run, ZERO, and a FILL of no lines, which Table 10-6 refuses. -/
theorem witness_nb :
    (running qA {}).issues th0.key = true ∧ ((running qA {}).thread th0.key).program = none ∧ nbAllowed 2 (nb 1048576) = true ∧
    nbAllowed 1 { nb 1 with arg := 0 } = true ∧ nbAllowed 2 (nb 0) = false ∧ nbAllowed 2 (nb 1048577) = false ∧ node0.stopped = false ∧
    (({ node0 with stk := { node0.stk with cmdNext := 1 } } : Node).nbRun 2 (nb 2) (List.range 2)).stopped = none := by decide

/-- NbLineResult: sources that the slice of the TAG holds, for an element operation of one source and of two. -/
theorem witness_nb_line :
    let a : NbArgs := { nb 1 with src := 1, tag := BitVec.ofNat 32 (mkTag false kindPage 0 0) }
    let n := (node0.setLine 0 (mkLine 3 0 0 (mkTag false kindPage 0 0))).setLine 1 (mkLine 4 0 1 (mkTag false kindPage 0 0))
    n.nbSource a ((a.dst.toNat + 0) % 2 ^ 30) = .data 3 false ∧ n.nbSource a ((a.src.toNat + 0) % 2 ^ 30) = .data 4 false ∧ a.src.toNat < 2 ^ 30 := by
  decide +kernel

/-- StrokesAndBursts: a FILL of 65 lines in channel 0, of which one stroke takes 64, and of 64; and a burst of stack 1 at tick 38. -/
theorem witness_stroke :
    let c : NbCommand := { op := 2, args := nb 65 }
    nbChannels c.args = [0] ∧ nbAllowed 2 c.args = true ∧ c.done ≤ c.args.lines.toNat ∧ (nbLinesIn c.args 0).length = c.args.lines.toNat ∧
    c.done + 64 < c.args.lines.toNat ∧ (nbLinesIn (nb 64) 0).length = 64 ∧ (2 * (1 : Fin 16).val ≤ 38 ∧ (38 - 2 * (1 : Fin 16).val) % 36 = 0) ∧
    Map.get 0 node0.stk.lastBurst 1 ≠ 39 := by decide +kernel

/-! ### Time, rounds and staged changes -/

/-- A command over JTAG: it needs no ring and no tag. -/
def viaJ : Via := ⟨.jtag, false, true, 1⟩

/-- A write is served for the first time with status OK. -/
def served (n : Node) (via : Via) (now : Nat) (index sub : Nat) (value : Bytes) : Bool :=
  n.reachable via.src && decide (n.seen via.src via.seq.toNat now = .fresh) &&
  decide ((n.noteAwl via).writeStatus via (blockEntry index sub) index sub value = svOk)

/-- The node in OPERATIONAL. -/
def nodeO : Node := node0.setReg Reg.nodeState stOperational

/-- A tick input whose last edge was at 1,000 ns, in a frame at its last bit, whose last frame was numbered 5. -/
def tin : TickInput := { locked := false, lastEdge := some 1000, inFrame := true, pos := 63, bits := 2 ^ 62, prevFrame := some (2 ^ 63 + 1 - 4096), markCount := 9 }

/-- TickEdges: pulses at both ends of their widths and gaps, 949 ns, and the frame that agrees. -/
theorem witness_tick_edges :
    pulseOf 149 = .invalid ∧ pulseOf 350 = .invalid ∧ pulseOf 399 = .invalid ∧ pulseOf 600 = .invalid ∧ pulseOf 649 = .invalid ∧ pulseOf 850 = .invalid ∧
    pulseOf 150 = .short ∧ pulseOf 349 = .short ∧ pulseOf 400 = .long ∧ pulseOf 599 = .long ∧ pulseOf 650 = .marker ∧ pulseOf 849 = .marker ∧
    tin.lastEdge = some 1000 ∧ 1949 < 1000 + 950 ∧ 1000 + 950 ≤ 1950 ∧ 2050 ≤ 1000 + 1050 ∧ tin.pos < 64 ∧ node0.time.counted = false ∧
    (tin.edge 2000 500 0).2 = some (2 ^ 63 + 1) ∧ (tin.edge 2000 500 0).1.prevFrame = some ((2 ^ 63 + 1 + 2 ^ 64 - 4096) % 2 ^ 64) ∧
    ({ tin with pos := 62 }.edge 2000 500 0).2 = none := by decide

/-- The node with both inputs locked and A selected. -/
def nodeT (a b : TickInput) (h : Bool) : Node :=
  { nodeO with time := { a := a, b := b, counted := true, selected := 1, holdover := h, holdoverStart := 100, limit := 50 } }

/-- TickLoss: the ninth tick without an edge, both with another input that is locked and with one that is not; the limit reached; the write of TICK_PRIMARY. -/
theorem witness_tick_loss :
    let n := nodeT { locked := true, missed := 9 } { locked := true } false
    let m := nodeT { locked := true, missed := 9 } {} false
    let h := nodeT {} {} true
    n.time.switchPending = none ∧ 9 ≤ (n.time.input .a).missed ∧ (n.time.input .a).locked = true ∧ n.time.selected = tickNum .a ∧ n.time.selected ≠ tickNum .b ∧
    (n.time.input (otherTick .a)).locked = true ∧ n.skewed = false ∧ (m.time.input (otherTick .a)).locked = false ∧
    h.time.holdover = true ∧ h.time.holdoverStart + h.time.limit ≤ 150 ∧ h.inRounds = true ∧ h.st = stOperational ∧
    (h.adm.admitted.map fun q => q.req.key).Nodup ∧ served n viaJ 5 0x1100 4 [2] = true ∧ n.time.selected ≠ (2 : BitVec 8).toNat := by decide +kernel

/-- Boundaries: an input that waits for the boundary, a round's first tick with a value that waits for it, and a tick that begins no round. -/
theorem witness_boundaries :
    let n := { nodeO with time := { nodeO.time with switchPending := some .b, b := { locked := true } }, nextRound := [(Reg.beaconTicks, 7)] }
    n.time.switchPending = some .b ∧ (n.time.input .b).locked = true ∧ n.isRound 2000 = true ∧ (n.nextRound.map (·.1)).Nodup ∧ n.isRound 1999 = false := by
  decide +kernel

/-- EntryWrite: a write of an immediate entry, a next-round, a staged and a W1C entry, each no command, and one that is refused. -/
theorem witness_entry_write :
    (∀ e ∈ [(0x1120, 6, [0, 1, 0, 0]), (0x1100, 6, [0, 4, 0, 0]), (0x1220, 3, [1]), (0x1100, 7, [1, 0, 0, 0])], served nodeO viaJ 5 e.1 e.2.1 e.2.2 = true ∧
      dkey e.1 e.2.1 ≠ Reg.fwStaged ∧ dkey e.1 e.2.1 ≠ Reg.resetReq ∧ dkey e.1 e.2.1 ≠ Reg.commitState ∧
      (nodeO.noteAwl viaJ).commandA 5 viaJ.throughAwl (dkey e.1 e.2.1) e.2.2 = none ∧ (nodeO.noteAwl viaJ).commandB 5 (dkey e.1 e.2.1) e.2.2 = none) ∧
    (Dict.entry 0x1120 6).map (fun e => (e.access, e.eff)) = some (.rw, .immediate) ∧ (Dict.entry 0x1100 6).map (fun e => (e.access, e.eff)) = some (.rw, .nextRound) ∧
    (Dict.entry 0x1220 3).map (·.access) = some .rws ∧ (Dict.entry 0x1100 7).map (·.access) = some .w1c ∧
    (nodeO.noteAwl viaJ).writeStatus viaJ false 0x1120 6 [1] ≠ svOk := by decide +kernel

/-- CommandOnce: a ring that is LOST, and one whose station 9 has sent SEQ 1 before. -/
def viaR : Via := ⟨.ringA 9, true, false, 1⟩
theorem witness_command_once :
    let n := { nodeO.setReg Reg.ringState 0 with mgmt := { nodeO.mgmt with cache := [(viaR.src.station, 1, 5, [0, 0, 0, 0])] } }
    nodeO.reachable viaR.src = false ∧ n.reachable viaR.src = true ∧ n.seen viaR.src viaR.seq.toNat 6 = .again [0, 0, 0, 0] ∧
    (n.mgmt.cache.filter fun e => e.1 == viaR.src.station).length < 64 := by decide +kernel

/-- A last image without regions: one ADMIT window of 24 ticks in rounds of 2,000. -/
def lastImage (bad : Byte) : Bytes :=
  let w := leBytes 8 (0xFFFF + 255 * 2 ^ 16 + 1 * 2 ^ 28 + 24 * 2 ^ 32)
  [7, 0, 0, 0] ++ [2, 0] ++ leBytes 2 2000 ++ [0, 0] ++ [1, 0] ++ List.replicate 20 0 ++ (sha3_512 w).take 31 ++ [((sha3_512 w).getD 31 0) ^^^ bad] ++ w

/-- The node with an armed change at tick 4,000, all regions affected, in a COMMIT_STATE, with what has reported. -/
def nodeC (state reported : Nat) : Node :=
  { ((nodeO.setReg Reg.commitState state).setReg Reg.commitTick 4000) with
    sched := { nodeO.sched with arming := { armTick := 4000, affected := 0xFFFF, reported := reported } } }

/-- StagedChange: an image that holds and one of another digest; ARM for the first tick that ARM_LEAD allows, for one before, and for a tick that begins
no round; DISARM at the arm deadline; DISCARD from STAGED and from REFUSED. -/
theorem witness_staged_change :
    (Last.parse (lastImage 0)).toOption.isSome = true ∧ (Last.parse (lastImage 1)).toOption.isSome = false ∧
    served nodeO viaJ 5 0x1110 5 (lastImage 0) = true ∧ served nodeO viaJ 5 0x1110 5 (lastImage 1) = true ∧
    (nodeC 1 0).reg Reg.commitState ≠ 2 ∧ (nodeC 1 0).reg Reg.commitState ≠ 3 ∧ served (nodeC 1 0) viaJ 3000 0x1120 2 [1] = true ∧
    (nodeC 1 0).isRound ((nodeC 1 0).reg Reg.commitTick) = true ∧ 3000 + (nodeC 1 0).reg Reg.armLead ≤ (nodeC 1 0).reg Reg.commitTick ∧
    (nodeC 1 0).reg Reg.commitTick < 3001 + (nodeC 1 0).reg Reg.armLead ∧ ((nodeC 1 0).setReg Reg.commitTick 3999).isRound 3999 = false ∧
    (nodeC 2 0).reg Reg.commitState = 2 ∧ 3936 ≤ (nodeC 2 0).armDeadlineTick ∧ served (nodeC 2 0) viaJ 3936 0x1120 2 [2] = true ∧
    served (nodeC 4 0) viaJ 3936 0x1120 2 [3] = true ∧ (nodeC 4 0).reg Reg.commitState = 4 := by decide +kernel

/-- ArmedChange: the last region's report and an earlier one; the arm deadline with region 15 missing; the commit of a staged value. -/
theorem witness_armed_change :
    let n := nodeC 2 0x7FFF
    let m := { nodeC 3 0xFFFF with staged := [(Reg.cxlIdeEn, 1)], sched := { (nodeC 3 0xFFFF).sched with staged := some { id := 7 } } }
    n.reg Reg.commitState = 2 ∧ 3936 ≤ n.armDeadlineTick ∧ bitOf n.sched.arming.affected 15 = true ∧ bitOf n.sched.arming.reported 15 = false ∧
    n.placements.2 = [] ∧ n.changeReasons = [] ∧ setBit n.sched.arming.reported 15 true = n.sched.arming.affected ∧
    (nodeC 2 0x3FFF).placements.2 = [] ∧ (nodeC 2 0x3FFF).changeReasons = [] ∧
    setBit (nodeC 2 0x3FFF).sched.arming.reported 15 true ≠ (nodeC 2 0x3FFF).sched.arming.affected ∧ n.armDeadlineTick ≤ 3936 ∧
    m.reg Reg.commitState = 3 ∧ m.sched.arming.armTick ≤ 4000 ∧ m.sched.staged = some { id := 7 } ∧ (m.staged.map (·.1)).Nodup ∧
    ∀ e ∈ m.staged, e.1 ∈ stagedKeys ∨ e.1 ∈ stagedPortKeys := by decide +kernel

/-! ### Requests -/

/-- A small model of session 0's tenant: one GQA layer, one head of 32 elements, BF16. -/
def modelA : Model :=
  { state := 1, layout := 1, tenant := 1, layerFirst := 0, layerCount := 1, qHeads := 1, kvHeads := 1, groupKv := 1, format := 1, dQk := 32, dV := 32,
    pageFix := 1, pageRh := 1, outRh := 1 }

/-- An OPERATIONAL node with a tenant: slice 0 bound with every block and channel, session 0 open with replies to a host function, model 0, and
sequence 0 with one track: tail page 0 in slot 0, spare page 1 in slot 32. -/
def nodeQ : Node :=
  let n := ((nodeO.setReg Reg.hostSendBytes 4096).setReg Reg.capUnits 0xFF).setReg Reg.examineRate 4
  let n := n.setSlice 0 { state := .bound, tenant := 1, blocks := 2 ^ 256 - 1, channels := 2 ^ 512 - 1, sessCount := 1 }
  let n := n.setSession 0 { state := 1, tenant := 1, replyPort := 0x101, quantum := 4 }
  let n := { n with models := [(0, modelA)], tiers := { n.tiers with quotas := [(0, { t1Slots := 1000 })] } }
  let n := n.setSeq 0 { id := 2 ^ 20, state := .opened, layerCount := 1, groupCount := 1, format := 1, spanLimit := 4096, aBytes := 64, bBytes := 64,
                        tracks := [{ spare := some 1, pages := [0], chunks := [0] }] }
  let n := n.setPage 0 { state := .tail, format := 1, t1 := some 0, ref := 1 }
  let n := n.setPage 1 { state := .spare, format := 1, t1 := some 32, ref := 1 }
  { n with seqs := { n.seqs with slots := [(0, 0), (32, 0)], fresh := 100 } }

/-- A request of session 0 with OPARG, an opcode, one head, deadline tick 14,000. -/
def rq (op : BitVec 8) (oparg : Nat) (seq : BitVec 48) (heads : BitVec 16) (payload : Bytes) : Request :=
  ⟨⟨op, 0, 0, 7, seq, 0, 0, heads, 14000, 0, 0, BitVec.ofNat 32 payload.length, BitVec.ofNat 128 oparg, 0⟩, payload, 5⟩

/-- The parts of `examinesAlone` at tick 4,001, in the start-up last's ADMIT window. -/
def alone (n : Node) (r : Request) : Bool :=
  let m := n.underExam 4001 r
  let q := m.draft 4001 (waitingFor 4001 r)
  decide (n.adm.pool = []) && decide (0 < n.reg Reg.poolSize) && decide (n.examinedIn 4001 < n.reg Reg.examineRate) &&
  decide (n.windowAt 4001 1 0xFFFF = some (4000, ⟨0, 24, 1, 255, 0xFFFF⟩)) && bitOf 255 (m.bucket r) && bitOf m.anyBucket (m.bucket r) &&
  !Node.hashing (waitingFor 4001 r) && decide (n.st ≠ stSafe) && decide (m.first 4001 (waitingFor 4001 r) = .pass) && decide (m.late 4001 q = .pass) &&
  !m.poolEmptied.roundFull 4001 q && !m.time.holdover

theorem alone_examines {n : Node} {r : Request} (h : alone n r = true) : (stAt 4001 n).examinesAlone r := by
  simp only [alone, Bool.and_eq_true, decide_eq_true_eq, Bool.not_eq_true'] at h
  obtain ⟨⟨⟨⟨⟨⟨⟨⟨⟨⟨⟨h1, h2⟩, h3⟩, h4⟩, h5⟩, h6⟩, h7⟩, h8⟩, h9⟩, h10⟩, h11⟩, h12⟩ := h
  exact ⟨rfl, h1, h2, h3, ⟨_, _, h4, h5⟩, h6, h7, fun c => h8 c.1, h9, h10, h11, fun c => Bool.noConfusion (h12.symm.trans c.1)⟩

/-- A request is placed. -/
def placedOk : Placed → Bool
  | .ok _ => true
  | .fail _ _ _ => false

/-- A request under examination at tick 4,001: the node without it in the pool, and its draft. -/
def exam (n : Node) (r : Request) : Node × Admitted := ((n.underExam 4001 r).poolEmptied, (n.underExam 4001 r).draft 4001 (waitingFor 4001 r))

/-- It is placed with a draft that has `home` and `target`. -/
def placesAs (n : Node) (m : Node) (r : Request) (f : Admitted → Admitted) : Bool :=
  placedOk (m.place 4001 (m.workOf 4001 (f (exam n r).2) 0) (f (exam n r).2))

/-- A vector index of the tenant, with its centroids loaded. -/
def indexA : VIndex :=
  { state := 2, tenant := 1, elem := 1, dim := 32, centroids := 1, sideMax := 16, vecMax := 16, regionMask := 1, gen := 3, centroidTab := [List.replicate 64 0] }

/-- The same with a second, latent model, whose ABSORB weight has taken 64 bytes of 2,048, an index, and sequence 0 holding three tokens. -/
def nodeQ2 : Node :=
  let n := nodeQ.setSeq 0 { nodeQ.seq 0 with tracks := [{ spare := some 1, pages := [0], chunks := [0], tokens := 3 }] }
  let n := n.setPage 0 { n.page 0 with tokens := 3 }
  let n := { n with models := [(0, modelA), (1, { modelA with layout := 2, dLat := 32, weightDir := 0 })], indexes := [(0, indexA)] }
  n.setWeight 0 { model := 1, kind := 1, state := 1, wformat := 1, bytes := 2048, res := 1, t1 := some 64, slots := [64], loaded := 64 }

def rqAppend := rq 0x10 1 (2 ^ 20) 1 (List.replicate 132 0)
def rqFetch := rq 0x13 (1 + 2 ^ 64) (2 ^ 20) 1 []
def rqRelease := rq 0x13 2 (2 ^ 20) 1 []
def rqSearch := rq 0x30 (2 ^ 32 + 2 ^ 48) (2 ^ 20) 0 (List.replicate 49 0)
def rqTree := rq 0x30 (1 + 2 ^ 32) (2 ^ 20) 0 (List.replicate 49 0)
def rqInsert := rq 0x31 (2 ^ 32) (2 ^ 20) 0 (List.replicate 49 0)
def rqDelete := rq 0x32 (2 ^ 32) (2 ^ 20) 0 (List.replicate 8 0)
def rqFold := rq 0x33 0 (2 ^ 20) 0 []
def rqOpen := rq 0x01 (2 ^ 16 + 2 ^ 32 + 2 ^ 40 + 4096 * 2 ^ 96) (2 ^ 20) 0 []
def rqFork := rq 0x02 0 (2 ^ 20) 0 []
def rqClose := rq 0x03 0 (2 ^ 20) 0 []
def rqLoad := rq 0x20 (1 + 2 ^ 8 + 2 ^ 16 + 64 * 2 ^ 32 + 2048 * 2 ^ 64) (2 ^ 20) 0 (List.replicate 64 0)
def rqLoad0 := rq 0x20 (1 + 2 ^ 8 + 2 ^ 16 + 2048 * 2 ^ 64) (2 ^ 20) 0 (List.replicate 136 0)
def rqAttend := rq 0x11 (2 ^ 8) (2 ^ 20) 1 (List.replicate 49 0)

/-- RequestAdmitted: every request above is examined alone, and placed. -/
theorem witness_request_admitted :
    (∀ r ∈ [rqAppend, rqFetch, rqRelease, rqSearch, rqTree, rqInsert, rqDelete, rqFold, rqOpen, rqFork, rqClose, rqLoad, rqAttend],
      alone nodeQ2 r = true ∧ placesAs nodeQ2 (exam nodeQ2 r).1 r id = true) ∧
    rqAppend.withOp opAppend = rqAppend ∧ rqFetch.withMode opBackward 1 = rqFetch ∧ rqRelease.withMode opBackward 2 = rqRelease ∧
    rqSearch.withMode opSearch 0 = rqSearch ∧ rqOpen.withOp opSeqOpen = rqOpen ∧ rqAttend.withOp opAttend = rqAttend := by decide +kernel

theorem witness_examined : (stAt 4001 nodeQ2).examinesAlone rqAppend := alone_examines (by decide +kernel)

/-- RequestAdmitted: what the clauses of SEARCH, INSERT, SEQ_OPEN, SEQ_FORK, FOLD, WEIGHT_LOAD and ATTEND ask beside it. -/
theorem witness_request_admitted_parts :
    (let m := (exam nodeQ2 rqInsert).1; let q := (exam nodeQ2 rqInsert).2
     (m.vindex q.target).sideCount + m.pendingSide q.target + rqInsert.arg 36 2 ≤ (m.vindex q.target).sideMax ∧ (m.vindex q.target).unassigned = 0 ∧
     placesAs nodeQ2 m rqInsert (fun q => { q with tokenBase := (m.vindex q.target).gen }) = true ∧
     placesAs nodeQ2 m rqSearch (fun q => { q with tokenBase := (m.vindex q.target).gen }) = true) ∧
    (let e := exam nodeQ2 rqOpen
     (match e.1.openSeq 4001 e.2 with
     | some (c, m1) => placesAs nodeQ2 e.1 rqOpen (fun q => { q with home := (m1.seq c).home, target := c })
     | none => false) = true) ∧
    (let e := exam nodeQ2 rqFork
     (match e.1.forkSeq 4001 e.2 with
     | some (c, m1) => placesAs nodeQ2 e.1 rqFork (fun q => { q with target := c, home := (m1.seq c).home })
     | none => false) = true) ∧
    (let e := exam nodeQ2 rqFold; (e.1.takeListSlots e.2.slice (e.1.vindex e.2.target) ((e.1.vindex e.2.target).foldPlan 4001).1).isSome = true) ∧
    (rqLoad.arg 36 4 ≠ 0 ∧ placesAs nodeQ2 (exam nodeQ2 rqLoad).1 rqLoad (fun q => { q with home := 0 }) = true) ∧
    (let n := nodeQ2.setWeight 0 {}
     let m := (exam n rqLoad0).1
     alone n rqLoad0 = true ∧ rqLoad0.arg 36 4 = 0 ∧
     (m.tiers.weights.map fun e => if e.1 = 0 then 0 else e.2.slotCount).sum + ceilDiv (rqLoad0.arg 40 4) 16384 ≤ m.reg Reg.weightTilesMax ∧
     (match m.mostFree 0 with
     | some st => placesAs n m rqLoad0 (fun q => { q with home := st }) && (m.takeLowest 0 st (ceilDiv (rqLoad0.arg 40 4) 16384)).isSome
     | none => false) = true) ∧
    (let e := exam nodeQ2 rqAttend
     rqAttend.isAtt = true ∧ e.2.needs = [] ∧ rqAttend.tenantProg = false ∧
     (match e.1.bookReads 0 4001 e.2.deadline rqAttend.key (e.1.attPages e.2) with
     | some m1 => (m1.bookWeights 0 e.2.home 4001 e.2.deadline e.2.needs 0).isSome
     | none => false) = true) := by decide +kernel

/-- RequestArrives: no ADMIT window at offset 24; a pool with room, and a full one of a session that is not open; an ABORT of an open request. -/
theorem witness_request_arrives :
    let full := node0.setReg Reg.poolSize 0
    let ab := rq 0x7F 7 (2 ^ 20) 0 []
    let n := { nodeQ with adm := { nodeQ.adm with admitted := [{ req := rqAttend }] } }
    nodeQ.windowAt 24 1 0xFFFF = none ∧ nodeQ.adm.pool.length < nodeQ.reg Reg.poolSize ∧ full.windowAt 24 1 0xFFFF = none ∧
    full.reg Reg.poolSize ≤ full.adm.pool.length ∧ full.replyPort (rqAttend.withOp opAttend) < 48 ∧
    n.abortCheck (ab.withOp opAbort) = none ∧ n.adm.pool.any (fun w => w.req.key == reqKey (ab.withOp opAbort).sess ((ab.withOp opAbort).arg 32 4)) = false ∧
    n.admitted? (reqKey (ab.withOp opAbort).sess ((ab.withOp opAbort).arg 32 4)) = some { req := rqAttend } := by decide +kernel

/-- DeadlineResolved and LengthBucket: the last tick before and the first tick after the wrap of DEADLINE; TOKENS of 1,023 and 2,048. -/
theorem witness_deadline :
    (2 ^ 40 + 13999 + 1) % 2 ^ 40 = rqAttend.hdr.deadline.toNat ∧ (2 ^ 40 : Nat) ≤ (2 ^ 40 + 14000) + 2 ^ 39 ∧ 2 ^ 40 + 14000 ≤ 2 ^ 40 + 2 ^ 39 - 1 ∧
    (rqAttend.deadlineTick (2 ^ 40) = 2 ^ 40 + 14000) ∧
    (let n := fun (k : Nat) => nodeQ.setSeq 0 { nodeQ.seq 0 with tracks := [{ tokens := k }] }
     rqAttend.isAtt = true ∧ 0 ∈ (n 1023).tracksOf rqAttend ∧ (n 1023).bucket rqAttend = 0 ∧ (n 2048).bucket rqAttend = 2 ∧
     (rqSearch.isAtt || rqSearch.isBackward 0) = false) := by decide +kernel

/-- RequestEvents: a fork that has copied, a CLOSING sequence without readers, a weight whose bytes are whole, with its digest and another, an index. -/
theorem witness_request_events :
    let fk : Admitted := { req := rqFork, target := 1 }
    let n := (nodeQ2.setSeq 1 { state := .forking }).setSeq 2 { state := .closing, tracks := [{}] }
    let n := { n with adm := { n.adm with admitted := [fk] } }
    let w : Weight := { state := 1, loaded := 64, bytes := 64, lastPart := some (0, 9), slots := [64] }
    let m := n.setWeight 0 { w with digest := sha3_512 (List.replicate 64 0) }
    n.adm.admitted.find? (fun q => q.req.op == opSeqFork && q.target == 1 && decide (q.phase < 2)) = some fk ∧ (n.seq 1).state = .forking ∧
    fk.items.any Item.open = false ∧ (n.seq 2).state = .closing ∧ n.readers 2 0 = 0 ∧ (m.weight 0).lastPart = some (0, 9) ∧ (m.weight 0).state = 1 ∧
    (m.weight 0).loaded = (m.weight 0).bytes ∧ m.admitted? (reqKey 0 9) = none ∧
    sha3_512 ((List.range (m.weight 0).slotCount).flatMap fun t => m.slotBytes ((m.weight 0).slots.getD t 0) 0 ((m.weight 0).tileBytes t)) = (m.weight 0).digest ∧
    sha3_512 ((List.range (m.weight 0).slotCount).flatMap fun t => m.slotBytes ((m.weight 0).slots.getD t 0) 0 ((m.weight 0).tileBytes t)) ≠ [] ∧
    (n.vindex 0).state ≠ 0 ∧ ∀ q ∈ n.unfinished, ¬(q.req.op = opSearch ∧ q.target = 0) := by decide +kernel

/-! ### Work items, pages and tiers -/

/-- An attention request of `rqAttend` with one item over page 0 of sequence 0, in a window that opens at tick 4,024. -/
def itQ (state : Nat) : Item := { kind := .attn, heads := 1, pages := [0], state := state, winStart := 4024, cycles := 10, last := true }
def qQ (state : Nat) : Admitted := { req := rqAttend, deadline := 14000, tracks := [0], bases := [3], tokenBase := 3, items := [itQ state] }
def nodeI (q : Admitted) : Node := { nodeQ2 with adm := { nodeQ2.adm with admitted := [q] } }

/-- ItemEvents: the window that opens, an item at the head of its cell's queue, and one whose thread is ready. -/
theorem witness_item_events :
    (let n := nodeI (qQ 0)
     n.stopped = false ∧ n.inRounds = true ∧ (n.windowOpens 4024 2 0).isSome = true ∧ (n.adm.admitted.map fun q => q.req.key).Nodup ∧
     (∀ q ∈ n.unfinished, (q.items.map fun i => i.num).Nodup) ∧
     (∀ q ∈ n.unfinished, ∀ i ∈ q.items, (∀ v ∈ n.viewOf q i, (n.page v.page).state ≠ .poisoned ∧ (n.page v.page).state ≠ .quarantined) ∧ n.itemGrads q i = []) ∧
     ∀ q ∈ n.unfinished, ∀ i ∈ q.items, i.state = 0 ∧ i.region = 0 ∧ i.winStart = 4024) ∧
    (let n := { nodeI (qQ 1) with cells := { nodeQ.cells with queues := [(0, [(0, 7, 0)])] } }
     Map.get [] n.cells.queues (cellNum 0 0) = [(0, 7, 0)] ∧ n.admitted? (reqKey 0 7) = some (qQ 1) ∧ (qQ 1).items.find? (fun i => i.num == 0) = some (itQ 1) ∧
     n.freeThreadOf 0 0 = some 0 ∧ n.tilesFor (qQ 1) (itQ 1) ≤ (n.freeTiles 0 0).length ∧ n.unitUp .cell (cellNum 0 0) = true) ∧
    (let n := (nodeI (qQ 2)).setThread 0 { running := true, request := 7 }
     (n.thread th0.key).ready = true ∧ n.itemOf (n.thread th0.key) = some (qQ 2, itQ 2) ∧ (itQ 2).kind = .attn ∧ (itQ 2).program (qQ 2) = none ∧
     (match n.readView (qQ 2) (itQ 2).view with | .keys _ => true | _ => false) = true ∧
     (match n.readView (qQ 2) [{ page := 0, index := 0, tokens := 3, state := 2 }] with | .keys ks => ks.length == 3 | _ => false) = true) := by decide +kernel

/-- ItemEnds: every item done with the window open; phase 2 of a reply to a port; a tenant's thread and a built-in one. -/
theorem witness_item_ends :
    (let q := { qQ 3 with red := { winStart := 5024 } }
     let n := nodeI q
     n.admitted? (ReqRef.key ⟨0, 7⟩) = some q ∧ q.phase = 0 ∧ q.items ≠ [] ∧ q.items.any Item.open = false ∧ q.red.winStart ≤ 5024 ∧ q.req.isWrite = false ∧
     n.stopped = false ∧ n.inRounds = true) ∧
    (let q := { qQ 3 with phase := 1, send := { port := 5 } }
     (nodeI q).admitted? (ReqRef.key ⟨0, 7⟩) = some q ∧ q.req.isAtt = true ∧ q.send.port < 48) ∧
    (let n := ((nodeI (qQ 2)).setThread 0 { running := true, request := 7, program := some 3 }).setThread 1 { running := true, request := 7 }
     (n.thread 0).running = true ∧ (n.thread 0).program = some 3 ∧ (n.thread 0).ended = false ∧ n.admitted? (reqKey 0 7) = some (qQ 2) ∧
     (n.thread 1).running = true ∧ (n.thread 1).program = none) := by decide +kernel

/-- An APPEND of one token ready to write, on a track that holds `tokens` with one booked. -/
def nodeA (tokens : Nat) : Node :=
  let q : Admitted := { req := rqAppend, tokens := 1, tracks := [0], bases := [tokens], items := [{ kind := .append, state := 1, last := true }] }
  let n := nodeQ.setSeq 0 { nodeQ.seq 0 with tracks := [{ spare := some 1, pages := [0], chunks := [0], tokens := tokens, booked := 1 }] }
  { n.setPage 0 { n.page 0 with tokens := tokens } with adm := { n.adm with admitted := [q] } }

/-- TokenWrites: a token into an empty tail and the last one of a full page; a track that lacks a spare, in a slice with room and in one without. -/
theorem witness_token_writes :
    (∀ k ∈ [0, 15], ∃ a ∈ ((nodeA k).settleTracks 4100).adm.admitted, ((nodeA k).settleTracks 4100).admitted? (ReqRef.key ⟨0, 7⟩) = some a ∧
      a.writeReady = true ∧ ((nodeA k).settleTracks 4100).stopped = false ∧ a.tracks.Nodup ∧ ∀ t ∈ a.tracks, t < (nodeQ.seq 0).tracks.length) ∧
    (let n := nodeQ.setSeq 0 { nodeQ.seq 0 with tracks := [{ noSpare := true, pages := [0], chunks := [0] }] }
     n.settleTracks 4100 = n ∧ n.tiers.quotas = (Map.norm {} n.tiers.quotas fun _ q => { q with refillFailed := false }) ∧ n.refillOrder = [(0, 0)] ∧
     n.t1Used 0 < (n.quota 0).t1Slots ∧ ((n.spareStack 0 (n.reg Reg.sparePolicy) (n.pageRegion ((n.seq 0).track 0).tail)).bind (n.lowestSlot 0)).isSome = true ∧
     ((n.setQuota 0 { t1Slots := 2 }).quota 0).t1Slots ≤ n.t1Used 0) := by decide +kernel

/-- The node where page 0 of sequence 0 is `p`. -/
def nodeG (p : Page) : Node := nodeQ2.setPage 0 { p with t1 := some 0, format := 1 }

/-- PageEvents: a page to reclaim; pages to rewrite, read by one sequence, by two, and pinned; a page to pack, and one packed. -/
theorem witness_page_events :
    (let n := nodeG { state := .released }
     (n.page 0).state = .released ∧ (n.page 0).ref = 0 ∧ (n.page 0).pin = 0 ∧ (n.page 0).t1 = some 0 ∧ n.tiers.reads = []) ∧
    (let n := nodeG { state := .sealed, ref := 1, tokens := 16 }
     (n.seq 0).state = .opened ∧ 0 < ((n.seq 0).track 0).pages.length ∧ (n.page 0).state = .sealed ∧ n.seqs.rewrites = [] ∧ (n.page 0).pin = 0 ∧ (n.page 0).node = none) ∧
    (let n := nodeG { state := .sealed, ref := 2, tokens := 16 }
     (n.page 0).ref ≠ 1 ∧ n.t1Used 0 < (n.quota 0).t1Slots ∧ ((n.spareStack 0 0 0).bind (n.lowestSlot 0)).isSome = true) ∧
    ((nodeG { state := .sealed, ref := 1, pin := 1 }).page 0).pin ≠ 0 ∧
    (let n := { nodeG { state := .sealed, ref := 1, tokens := 16 } with packOrder := [(1, 0)] }
     n.stopped = false ∧ n.packable 0 = [0] ∧ 0 < n.freePackers 0 ∧ n.recordOf 0 = some (64, 64) ∧
     (match n.pageImage 0 (elemOf (n.page 0).format) 64 64 with | .ok _ => true | .error _ => false) = true) ∧
    (let k : Packer := { page := 0, region := 0, start := 9, raw := [] }
     let n := { nodeG { state := .sealed, ref := 1, pin := 1 } with packers := [k] }
     n.packers.find? (fun k => k.page == 0) = some k ∧ k.start < 10 ∧ (n.page 0).t1 = some 0 ∧ n.recordOf 0 = some (64, 64)) := by decide +kernel

/-- The node with slow-tier slots, in a last with a MAINT window that spills at offset 1,100. -/
def nodeS : Node :=
  let n := ((nodeG { state := .compressed, dirty := true, blockLen := [1, 0, 0, 0] }).setReg Reg.slowSlotCount 64).setQuota 0
    { t1Slots := 1000, slowSlots := 10, spilling := true }
  { n with sched := { n.sched with active := { startupLast with windows := startupLast.windows ++ [⟨1100, 80, 5, 3, 0⟩] } } }

/-- TierEvents: a page to spill; one whose spill has been written; a read that is due, one that has come, one outstanding, and one too late. -/
theorem witness_tier_events :
    (let n := nodeS
     n.stopped = false ∧ n.inRounds = true ∧ n.slowPresent = true ∧ (List.range 16).filter (fun r => n.maintAt 1110 r 0) = [0] ∧
     n.spillCands 0 = [{ isPage := true, num := 0, lastUse := 0 }] ∧ (n.page 0).slow = none ∧ n.slowFree 1 = some 0 ∧ n.writesIn 1110 < n.reg Reg.writeSlotsTick ∧
     n.writesOn 1110 (n.slowPortOf 0) < 3) ∧
    (let n := nodeS.setPage 0 { nodeS.page 0 with moving := true, slow := some 0 }
     let n := { n with tiers := { n.tiers with spillsNow := [(0, 0, 1110)] } }
     n.tiers.spillsNow.find? (fun e => e.2.1 == 0 && decide (e.2.2 < 1111)) = some (0, 0, 1110) ∧ (n.page 0).moving = true ∧ (n.page 0).t1 = some 0) ∧
    (let n := nodeS.setPage 0 { nodeS.page 0 with state := .prefetching, slow := some 0 }
     let r : PageRead := { page := 0, tick := 1110, started := true, dest := 0 }
     let m := fun (r : PageRead) => { n with tiers := { n.tiers with reads := [r] } }
     (m { r with started := false }).tiers.reads[0]? = some { r with started := false } ∧
     (m { r with arrived := [0] }).tiers.reads.find? (fun r => r.page == 0 && r.started) = some { r with arrived := [0] } ∧
     (((m { r with arrived := [0] }).page 0).units.all fun u => [0].contains u) = true ∧
     (m r).tiers.reads.find? (fun r => ((m r).page r.page).slow == some 0 && r.started) = some r ∧
     r.tick + (m r).reg Reg.pfLat ≤ 9000 ∧ ((m r).page 0).state = .prefetching ∧ (m r).unfinished = []) := by decide +kernel

/-- WeightHolds: a HOLD whose first source is late, with another source and without; the tile asked for; a tile that another node asks for; the end of the
hold; a held request at its margin. -/
theorem witness_weight_holds :
    (let w : Weight := { state := 3, bytes := 64, replicas := [5, 6], homeNode := 1023, poisoned := [(0, 0, 100)], slots := [64], holdTick := 100,
                         tileDigests := [sha3_512 (List.replicate 64 1)] }
     let n := nodeQ2.setWeight 0 w
     (n.weight 0).state = 3 ∧ (n.weight 0).poisoned.find? (fun e => e.1 == 0) = some (0, 0, 100) ∧ 100 + n.reg Reg.refetchTimeout ≤ 140 ∧
     (w.sources n.straps)[0 + 1]? = some (1, 6) ∧ ({ w with replicas := [5] }.sources n.straps)[0 + 1]? = none ∧
     sha3_512 (List.replicate 64 1) = w.tileDigests.getD 0 [] ∧ (List.replicate 64 1).length = w.tileBytes 0 ∧
     w.holdTick + n.reg Reg.weightHold ≤ 300 ∧ (n.adm.admitted.map fun q => q.req.key).Nodup) ∧
    (let w : Weight := { state := 2, bytes := 64, kind := 1, res := 1, slots := [64] }
     let n := nodeQ2.setWeight 0 w
     let n := { n with comp := { n.comp with current := some { raw := List.replicate 1424 3 } } }
     n.tiers.weights.find? (fun e => e.2.model == 0 && e.2.layer == 0 && e.2.kind == 1 && e.2.state == 2 && e.2.digest == []) = some (0, w) ∧ 0 < w.slotCount ∧
     n.route 5 = some 3) ∧
    (let q := { qQ 0 with held := true, needs := [0], send := { port := 5 } }
     (nodeI q).admitted? (ReqRef.key ⟨0, 7⟩) = some q ∧ q.held = true ∧ q.phase < 2 ∧ q.lateSent = false ∧ q.send.port < 48 ∧
     (nodeI q).marginPassed 13998 q = true ∧ (nodeI q).marginPassed 13997 q = false) := by decide +kernel

/-! ### Objects -/

/-- A DOMAIN_CMD value: an operation on domain `d` for tenant 1 and slice 0. -/
def domainValue (d : Nat) : Bytes := [0, 0, 0, 0] ++ leBytes 4 d ++ leBytes 4 1 ++ [0, 0, 0, 0]

/-- A MODEL_DEF value for model `k`: GQA, or LATENT with two weights. -/
def modelValue (k layout : Nat) : Bytes :=
  leBytes 2 k ++ [0] ++ leBytes 1 layout ++ leBytes 4 1 ++ leBytes 2 0 ++ leBytes 2 1 ++ leBytes 2 1 ++ leBytes 2 1 ++ [1, 1, 0, 0] ++ leBytes 2 32 ++ leBytes 2 0 ++
  leBytes 2 0 ++ leBytes 2 32 ++ leBytes 4 0 ++ leBytes 4 0x3F800000 ++ leBytes 4 0 ++ leBytes 4 0 ++ leBytes 4 1200 ++ leBytes 4 52 ++ leBytes 4 1 ++
  leBytes 4 0xFFFFFFFF ++ leBytes 4 0

/-- A QUOTA_SET value for a slice. -/
def quotaValue (sl : Nat) : Bytes := leBytes 1 sl ++ [95, 90] ++ List.replicate 13 0

/-- The node with share domain 9 and its key. -/
def nodeD : Node :=
  { nodeQ2 with share := { nodeQ2.share with domains := [(9, { tenant := 1, keySlot := 2, key := [1] })] },
                sec := { nodeQ2.sec with keys := [(2, { state := 1, ktype := 3, key := [1] })] } }

/-- DomainsAndModels: each command served, and each clause's case. -/
theorem witness_domains_models :
    (∀ d ∈ [9, 10], served nodeD viaJ 5 0x2204 1 (forceOp 1 (domainValue d)) = true ∧ served nodeD viaJ 5 0x2204 1 (forceOp 2 (domainValue d)) = true) ∧
    fieldB (forceOp 1 (domainValue 10)) 4 4 = 10 ∧ (Map.find nodeD.share.domains 9).isSome = true ∧ Map.find nodeD.share.domains 10 = none ∧
    nodeD.share.domains.length < nodeD.reg Reg.domainMax ∧ (nodeD.setReg Reg.domainMax 1).reg Reg.domainMax ≤ nodeD.share.domains.length ∧
    (nodeD.noteAwl viaJ).freeKeySlot.isSome = true ∧ nodeD.bound 0 1 = true ∧ ((nodeD.noteAwl viaJ).keySlot 2).state = 1 ∧
    served nodeQ2 viaJ 5 0x2304 1 (modelValue 5 1) = true ∧ served nodeQ2 viaJ 5 0x2304 1 (modelValue 0 1) = true ∧ (nodeQ2.model 5).state = 0 ∧
    (Model.ofBytes (modelValue 5 1)).layout ≠ 2 ∧ nodeQ2.freeRun 2 ≠ none ∧
    modelValid (nodeQ2.reg Reg.pageFixFloor) (modelValue 5 1) = true ∧ nodeQ2.tenantBound (Model.ofBytes (modelValue 5 1)).tenant = true ∧ (nodeQ2.model 0).state ≠ 0 ∧
    (∀ k ∈ [0, 5], served nodeQ2 viaJ 5 0x2304 2 (leBytes 2 k) = true) ∧ (nodeQ2.model 0).state = 1 ∧
    (let n := { nodeQ2 with models := [(0, { modelA with state := 2, freeFrom := 5 })] }
     (n.model 0).state = 2 ∧ (n.model 0).freeFrom ≤ 5 ∧ n.unfinished = [] ∧ ({ modelA with weightDir := 0 } : Model).weightDir ≠ 0xFFFFFFFF) ∧
    (∀ k ∈ [0, 63, 64], served nodeQ2 viaJ 5 0x2704 1 (quotaValue k) = true) ∧ (nodeQ2.slice 0).state = .bound ∧ (nodeQ2.slice 63).state ≠ .bound := by
  decide +kernel

/-- A program image for a slot: header and one vector word. -/
def progImage (slot : Nat) : Bytes :=
  leBytes 1 slot ++ [0, 0, 0] ++ leBytes 4 1 ++ List.replicate 8 0 ++ (leBytes 2 1 ++ [1, 0] ++ leBytes 4 8 ++ leBytes 4 0 ++ List.replicate 52 0) ++ leBytes 8 (0x10 * 2 ^ 56)

/-- An INDEX_DEF value for index `k`. -/
def indexValue (k : Nat) : Bytes :=
  leBytes 2 k ++ [0, 0] ++ leBytes 4 1 ++ [0, 1] ++ leBytes 2 32 ++ leBytes 4 1 ++ leBytes 4 1024 ++ leBytes 4 16 ++ leBytes 2 1 ++ [0, 0] ++ leBytes 4 0

/-- The node where index 0 is `d`, and program slot 3 is `p`. -/
def nodeV (d : VIndex) (p : Prog) : Node := { nodeQ2 with indexes := [(0, d)], progs := [(3, p)] }

/-- ProgramsAndIndexes: each command served, and each clause's case. -/
theorem witness_programs_indexes :
    (let n := nodeV indexA { state := 1, readyAfter := 2000 }
     (∀ k ∈ [0, 3], served n viaJ 5 0x2404 1 (progImage k) = true) ∧ (n.prog 0).state = 0 ∧ (n.prog 3).state ≠ 0 ∧
     (n.progs.map fun e => e.2.code.length).sum + 8 ≤ n.reg Reg.progArea ∧ progHeaderOk (sliceB ((progImage 0).drop 16) 0 64) (((progImage 0).drop 16).drop 64) = true ∧
     codeBad (((progImage 0).drop 16).drop 64) = false ∧ n.tenantBound (fieldB (progImage 0) 4 4 % 2 ^ 28) = true ∧ n.hasUnit 4 = true ∧
     (n.prog 3).state = 1 ∧ n.isRound 2000 = true ∧ (n.prog 3).readyAfter ≤ 2000 ∧ ∀ k ∈ [3, 4, 31, 32], served n viaJ 5 0x2404 2 [k] = true) ∧
    (let n := nodeV { indexA with state := 3, freeFrom := 5, slots := [32] } { state := 3, readyAfter := 5 }
     (n.prog 3).state = 3 ∧ (n.prog 3).readyAfter ≤ 5 ∧ n.unfinished = [] ∧ (n.vindex 0).state = 3 ∧ (n.vindex 0).freeFrom ≤ 5) ∧
    (let n := nodeV { indexA with state := 1, centroidTab := [] } {}
     let d := VIndex.ofBytes (indexValue 7)
     (∀ k ∈ [0, 7], served n viaJ 5 0x2804 1 (indexValue k) = true) ∧ (n.vindex 7).state = 0 ∧ (n.vindex 0).state ≠ 0 ∧ indexFieldsOk (indexValue 7) = true ∧
     n.bound d.slice d.tenant = true ∧ (∀ r ∈ List.range 16, bitOf d.regionMask r = true ∨ r = d.home → n.regionServes d.slice r = true) ∧
     n.t1Used d.slice + d.baseSlots ≤ (n.quota d.slice).t1Slots ∧ ((n.noteAwl viaJ).takeLowest d.slice d.home d.baseSlots).isSome = true ∧
     (∀ k ∈ [0, 7], served n viaJ 5 0x2804 3 (leBytes 2 k ++ List.replicate 70 0) = true) ∧ (n.vindex 0).state = 1 ∧ (n.vindex 0).centroidTab = [] ∧
     ((leBytes 2 0 ++ List.replicate 70 0).drop 8 : Bytes).length = (n.vindex 0).centroids * (n.vindex 0).crec ∧
     ∀ k ∈ [0, 7], served n viaJ 5 0x2804 2 (forceOp 1 ([0, 0] ++ leBytes 2 k)) = true) := by decide +kernel

/-! ### Links -/

/-- The tenant's node with port 3 in a state and mode, and a session and a slice-link key in slots 4 and 5. -/
def nodeL (st mode : Nat) (l : Port) : Node :=
  let n := ((nodeQ2.setPortReg 3 Reg.portState st).setPortReg 3 Reg.portMode mode).setPort 3 l
  let n := n.setSession 0 { n.session 0 with keySlot := 4, replyPort := 3 }
  { n with sec := { n.sec with keys := [(4, { state := 1, ktype := 1, keyId := 11, key := List.replicate 32 7 }), (5, { state := 1, ktype := 2, key := List.replicate 32 8 })] } }

/-- PortStates: a port in every state and at each bound. -/
theorem witness_port_states :
    (∀ k ∈ [1, 2, 3], (nodeL k 1 {}).portReg 3 Reg.portState ≠ 0 ∧ (nodeL k 1 {}).portReg 3 Reg.portState ≠ 4) ∧
    (let n := nodeL 1 1 { lastRx := 100, trainStart := 100, replayStart := some (100, 5), stalledSince := [(2, 100)], testing := true, downTick := 100 }
     (n.port 3).lastRx + 8 ≤ 108 ∧ 107 < (n.port 3).lastRx + 8 ∧ n.portReg 3 Reg.portState = 1 ∧ (n.port 3).trainStart + n.trainBound 3 ≤ 30100 ∧
     (n.port 3).replayStart = some (100, 5) ∧ Map.find (n.port 3).stalledSince 2 = some 100 ∧ (n.port 3).testing = true ∧
     (n.port 3).downTick + n.reg Reg.downHold ≤ 10100) ∧
    (let n := nodeL 4 1 { testing := true }
     n.portReg 3 Reg.portState = 4 ∧ n.portReg 3 Reg.autoRetrain = 1 ∧ served n viaJ 5 (0x5000 + 3 * 0x40) 6 [1] = true ∧ n.retired .port 3 = false ∧
     n.portReg 3 Reg.portMode ≠ 0 ∧ (nodeL 3 1 {}).portReg 3 Reg.portState = 3) ∧
    (let n := nodeL 1 1 {}
     let v := leBytes 2 6 ++ leBytes 6 0 ++ leBytes 8 5
     n.portReg 3 Reg.peerExpect = 0xFFFF ∧ fieldB v 8 8 ≤ 7 ∧ 7 ≤ fieldB v 8 8 + 2 ∧ (n.setPortReg 3 Reg.peerExpect 9).portReg 3 Reg.peerExpect ≠ fieldB v 0 2) := by
  decide +kernel

/-- A frame header to this node: request, FIRST, encrypted under KEY_ID 11, one payload byte. -/
def frameHead (last : Bool) : Bytes := camrisHeader 1 2 (if last then 7 else 3) 6 1023 77 0 1 11 9 0

/-- A DATA flit with SEQ 0 that returns 5 credits, its data all zero; an ACK flit that asks for a replay; their check symbols. -/
def flitOf (head check : Bytes) : Bytes := head ++ List.replicate 232 0 ++ check
def flitData : Bytes := flitOf [160, 247, 80, 0, 0, 0, 0, 16] [170, 228, 165, 121, 53, 232, 171, 211, 187, 54, 210, 28, 25, 121, 17, 18]
def flitNak : Bytes := flitOf [139, 128, 0, 0, 248, 255, 0, 0] [111, 111, 36, 189, 135, 141, 202, 127, 116, 28, 89, 43, 225, 7, 185, 111]

theorem crc_zeros (h : Bytes) (a b c d e : Nat) (ha : h.foldl crc16Step 0xFFFF = a) (hb : (List.replicate 58 (0 : Byte)).foldl crc16Step a = b)
    (hc : (List.replicate 58 (0 : Byte)).foldl crc16Step b = c) (hd : (List.replicate 58 (0 : Byte)).foldl crc16Step c = d)
    (he : (List.replicate 58 (0 : Byte)).foldl crc16Step d = e) : crc16 (h ++ List.replicate 232 0) = e := by
  have z : List.replicate 232 (0 : Byte) = List.replicate 58 0 ++ (List.replicate 58 0 ++ (List.replicate 58 0 ++ List.replicate 58 0)) := by decide +kernel
  rw [z, crc16, List.foldl_append, List.foldl_append, List.foldl_append, List.foldl_append, ha, hb, hc, hd, he]

/-- A flit whose symbols hold and whose CRC holds is taken as it is (R339). -/
theorem flit_taken (head check : Bytes) (hl : head.length = 8) (hc : check.length = 16) (b : Bytes)
    (h0 : rsCorrect (halfOf 0 (flitOf head check)) = some (halfOf 0 (flitOf head check), 0))
    (h1 : rsCorrect (halfOf 1 (flitOf head check)) = some (halfOf 1 (flitOf head check), 0))
    (hw : weave (halfOf 0 (flitOf head check)) (halfOf 1 (flitOf head check)) = flitOf head check)
    (hb : sliceB (flitOf head check) 2 6 ++ sliceB (flitOf head check) 8 232 = b ++ List.replicate 232 0)
    (hk : crc16 (b ++ List.replicate 232 0) = fieldB (flitOf head check) 0 2) :
    flitDecode (flitOf head check) = some (sliceB (flitOf head check) 0 240, 0) := by
  have l : (flitOf head check).length = 256 := by rw [flitOf, List.length_append, List.length_append, hl, hc, List.length_replicate]
  unfold flitDecode
  rw [if_neg (by rw [l]; decide), h0, h1]
  simp only [hw, hb, hk, if_true, Nat.add_zero]

theorem flit_data : flitDecode flitData = some (sliceB flitData 0 240, 0) :=
  flit_taken _ _ rfl rfl [80, 0, 0, 0, 0, 16] (by decide +kernel) (by decide +kernel) (by decide +kernel) (by decide +kernel)
    ((crc_zeros _ 27829 50377 18645 4695 63392 (by decide +kernel) (by decide +kernel) (by decide +kernel) (by decide +kernel) (by decide +kernel)).trans
      (by decide +kernel))

theorem flit_nak : flitDecode flitNak = some (sliceB flitNak 0 240, 0) :=
  flit_taken _ _ rfl rfl [0, 0, 248, 255, 0, 0] (by decide +kernel) (by decide +kernel) (by decide +kernel) (by decide +kernel)
    ((crc_zeros _ 56317 27700 4231 16442 32907 (by decide +kernel) (by decide +kernel) (by decide +kernel) (by decide +kernel) (by decide +kernel)).trans
      (by decide +kernel))

/-- LinkReceive, flits: one in error (its length), a DATA flit that follows the last, and an ACK flit that asks for a replay of SEQ 0. -/
theorem witness_flits :
    (let n := nodeL 3 1 { unacked := [(0, [])] }
     n.portReg 3 Reg.portMode = 1 ∧ n.receives 3 = true ∧ flitDecode [] = none ∧
     ((n.port 3).acknowledge 4095).unacked = [(0, [])] ∧ ((n.port 3).replayTicks.filter fun t => decide (5 < t + n.reg Reg.replaySpan)).length < n.reg Reg.replayLimit ∧
     (n.port 3).rxSeq = 4095) ∧
    (let h := fieldB (sliceB flitData 0 240) 0 8
     h / 2 ^ 60 % 16 = 1 ∧ h / 2 ^ 48 % 4096 = 0 ∧ bitOf h 35 = false ∧ h / 2 ^ 20 % 4096 = 5 ∧ h / 2 ^ 32 % 8 = 0 ∧
     cutFrames 1 9 ((sliceB flitData 0 240).drop 8) = ([], [])) ∧
    (let h := fieldB (sliceB flitNak 0 240) 0 8
     h / 2 ^ 60 % 16 = 0 ∧ bitOf h 35 = true ∧ h / 2 ^ 36 % 4096 = 4095) := by decide +kernel

/-- LinkReceive, frames: one that is not for this version, and one of a request, sealed, whole and not. -/
theorem witness_frames :
    (let n := nodeL 3 1 {}
     n.receives 3 = true ∧ n.frameOk 3 [9] = false ∧
     ∀ b ∈ [true, false], let h := frameHead b
      let f := h ++ gcmSeal (List.replicate 32 7) (linkNonce 6 (n.portReg 3 Reg.peerPort) 9) h [5]
      n.frameOk 3 f = true ∧ fieldB f 1 1 = 1 ∧ n.slotOf 1 (fieldB f 18 2) = some 4 ∧ n.isNative 3 = true ∧
      gcmOpen (n.keySlot 4).key (linkNonce (fieldB f 4 2) (n.portReg 3 Reg.peerPort) (fieldB f 20 8)) (sliceB f 0 32) (sliceB f 32 (fieldB f 16 2 + 16)) = some [5] ∧
      n.cellsFor 3 (fieldB f 2 1) (frameCells (fieldB f 16 2) true) = true ∧ Map.get [] n.links.inbound 3 = [] ∧ fieldB f 12 4 = 0 ∧
      fieldB f 3 1 / 4 % 2 = if b then 1 else 0) := by decide +kernel

/-- LinkReceive, Ethernet and paths: a frame whose FCS fails and one whose FCS holds, an acknowledgement, one owed, a resend, the last resend, a message left. -/
theorem witness_paths :
    (let n := (nodeL 3 2 { destMac := [(6, 1)] }).setPortReg 3 Reg.mac 0x060504030201
     let b : Bytes := [1, 2, 3, 4, 5, 6] ++ List.replicate 6 9 ++ [0x88, 0xB6] ++ List.replicate 46 0
     let f := b ++ leBytes 4 (fcs b)
     n.isNative 3 = false ∧ n.receives 3 = true ∧ fcs (f.take (f.length - 4)) = leNat (f.drop (f.length - 4)) ∧ 18 ≤ f.length ∧ fieldB f 0 6 = n.portReg 3 Reg.mac ∧
     fieldB f 12 1 * 256 + fieldB f 13 1 = 0x88B6 ∧ fcs (([0, 0, 0, 0, 1] : Bytes).take 1) ≠ leNat (([0, 0, 0, 0, 1] : Bytes).drop 1) ∧
     n.ethPort 6 = some 3) ∧
    (let a := camrisHeader 10 0 0 6 1023 0 0 8 0 0 0 ++ [2, 0, 0, 0] ++ leBytes 4 5
     fieldB a 1 1 = 10 ∧ fieldB a 0 1 = 1) ∧
    (let n := nodeL 3 2 { destMac := [(6, 1)] }
     let n := { n with links := { n.links with rx := [(pathKey 6 2, { owedSince := some 5 })], tx := [(pathKey 6 2, { unacked := [(7, 100, 3, [1]), (8, 100, 4, [1])] })] } }
     (Map.get ({} : Path) n.links.rx (pathKey 6 2)).owedSince = some 5 ∧ n.ethPort 6 = some 3 ∧
     (Map.get ({} : Path) n.links.tx (pathKey 6 2)).unacked.find? (fun e => e.1 == 7) = some (7, 100, 3, [1]) ∧
     (Map.get ({} : Path) n.links.tx (pathKey 6 2)).unacked.find? (fun e => e.1 == 8) = some (8, 100, 4, [1]) ∧ 100 + n.reg Reg.pathRetryTicks ≤ 164) ∧
    (let m : InMsg := { ftype := 1, src := 6, msgId := 77, vc := 0, parts := [(0, List.replicate 64 0)], lastTick := 100 }
     let n := nodeL 3 1 {}
     let n := { n with links := { n.links with inbound := [(3, [m])] } }
     (Map.get [] n.links.inbound 3).find? (fun (m : InMsg) => m.src == 6 && m.msgId == 77 && m.ftype == 1 &&
       decide (m.lastTick + n.reg Reg.reassemblyTicks ≤ 164)) = some m ∧
     m.parts.find? (fun e => e.1 == 0 && decide (64 ≤ e.2.length)) = some (0, List.replicate 64 0)) := by decide +kernel

/-- A reply in the queue: status-only, and with a body. -/
def outMsg (body : Bytes) : OutMsg := { ftype := 2, dst := 6, reply := some { status := 0, body := body } }

/-- LinkSend: a status entry, and a body reply with Q7 empty, on a port in service, the second one encrypted under the session's key; PFC and Pause. -/
theorem witness_link_send :
    (let n := (nodeL 3 1 {}).setQueue 3 7 [outMsg []]
     n.inService 3 = true ∧ n.st ≠ stFault ∧ n.st ≠ stSafe ∧ n.mayStart 3 7 5 0 = some (outMsg []) ∧ (outMsg []).enc = false ∧ (outMsg []).sent = 0 ∧
     (outMsg []).message.length ≤ 4096) ∧
    (let n := (nodeL 3 1 {}).setQueue 3 6 [outMsg [1]]
     let n := { n with sched := { n.sched with active := { startupLast with windows := startupLast.windows ++ [(⟨0, 24, 4, 0, 0x103⟩ : Window)] } } }
     n.mayStart 3 7 5 0 = none ∧ n.mayStart 3 6 5 0 = some (outMsg [1]) ∧ (outMsg [1]).enc = true ∧ n.keyFor (outMsg [1]) = some 4 ∧
     (outMsg [1]).message.length ≤ 4096) ∧
    (nodeL 4 1 {}).inService 3 = false ∧ 64 % node0.reg Reg.histPeriod = 0 ∧ 63 % node0.reg Reg.histPeriod ≠ 0 ∧
    (nodeL 3 1 {}).queue 3 7 = [] ∧ (∀ k ∈ [0, 1], served nodeQ2 viaJ 5 0x3101 5 [k] = true) ∧
    (let f : Bytes := List.replicate 12 0 ++ [0x88, 0x08, 1, 1, 0, 0x21, 0, 1] ++ List.replicate 14 0
     (nodeL 3 2 {}).isNative 3 = false ∧ fieldB f 12 1 * 256 + fieldB f 13 1 = 0x8808 ∧ fieldB f 14 1 * 256 + fieldB f 15 1 = 0x0101) := by decide +kernel

/-! ### The host port -/

/-- The tenant's node with a mailbox of session 0 and slice 0's function. -/
def nodeM (b : Mailbox) (f : VFunc) : Node :=
  let n := nodeQ2.setSession 0 { nodeQ2.session 0 with keySlot := 4 }
  { n with host := { n.host with boxes := [(0, b)], funcs := [(0, f)] },
           sec := { n.sec with keys := [(4, { state := 1, ktype := 1, keyId := 11, key := List.replicate 32 7 })] } }

def boxA : Mailbox := { sqSize := 16, cqSize := 16, sqTail := 1, enable := true, mstatus := 1 }

/-- A submission entry and its message: an ATTEND header of session 0 sealed under the session's key. -/
def hostHead : Bytes := camrisHeader 1 2 7 6 1023 77 0 0 11 9 0
def hostEntry : Bytes := List.replicate 8 0 ++ leBytes 4 112 ++ List.replicate 4 0 ++ leBytes 8 4096 ++ leBytes 4 256 ++ List.replicate 4 0
def hostData (good : Bool) : Bytes :=
  hostEntry ++ hostHead ++ (if good then gcmSeal (List.replicate 32 7) (linkNonce 6 0xFF 9) hostHead (rqClose.hdr.bytes) else List.replicate 80 0)

/-- HostMailboxes: a session of no slice, one of slice 0, an entry to fetch, a read of a slice that is gone, one that is not whole, one whose tag fails, one
that is whole, and a reply to write. -/
theorem witness_host_mailboxes :
    (let n := nodeM boxA {}
     n.boxSlice 1 = none ∧ n.boxSlice 0 = some 0 ∧ n.host.linkUp = true ∧ Map.keys n.host.boxes = [0] ∧ (n.box 0).waiting = true ∧
     2 * (n.openRequests 0 + 1) ≤ (n.box 0).cqFree ∧ (n.box 0).sqSize ≠ 0 ∧ (n.box 0).cqSize ≠ 0 ∧ (1 : BitVec 32).toNat % 2 = 1) ∧
    (let n := nodeM boxA {}
     let key := n.keySlot (n.session 0).keySlot
     (∀ g ∈ [true, false], let d := hostData g
      32 ≤ d.length ∧ fieldB d 12 4 = 0 ∧ fieldB d 28 4 = 0 ∧ fieldB (d.take 32) 8 4 = 112 ∧ 32 + fieldB d 8 4 ≤ d.length ∧
      hostHeaderOk (sliceB (sliceB d 32 112) 0 32) = true ∧ key.state = 1 ∧ key.keyId = fieldB (sliceB (sliceB d 32 112) 0 32) 18 2 ∧
      (gcmOpen key.key (linkNonce (fieldB (sliceB (sliceB d 32 112) 0 32) 4 2) 0xFF (fieldB (sliceB (sliceB d 32 112) 0 32) 20 8)) (sliceB (sliceB d 32 112) 0 32)
        ((sliceB d 32 112).drop 32)).isSome = g) ∧ n.boxSlice 0 ≠ some 1 ∧ ([] : Bytes).length < 32) ∧
    (let m : OutMsg := { ftype := 2, dst := 0x101, reply := some { status := 0 } }
     let n := nodeM boxA {}
     let n := { n with host := { n.host with out := [m] } }
     let ready := n.host.out.filter fun m => match m.reply with | some r => decide (0 < (n.box r.session).cqSize) | none => false
     headOf 7 (ready.filter fun m => match m.reply with | some r => r.body.isEmpty | none => false) = some m) := by decide +kernel

/-- A DMA descriptor: `len` bytes from space 0, session `x`, kind and the last bytes. -/
def dmaValue (len x kind rest : Nat) : Bytes := leBytes 8 0 ++ leBytes 8 8192 ++ leBytes 4 len ++ leBytes 2 x ++ leBytes 1 kind ++ [0] ++ leBytes 8 rest

/-- HostRings: a function whose slice is not bound, one whose slice is, with a descriptor of each kind. -/
theorem witness_host_rings :
    let n := nodeM boxA { dmaSize := 16, dmaTail := 1, nonce := [1] }
    (n.slice 63).state ≠ .bound ∧ (n.slice 0).state = .bound ∧ (n.func 0).dmaSize ≠ 0 ∧ (n.func 0).dmaEnable = true ∧ (n.func 0).nonce ≠ [] ∧
    (n.func 0).dmaTail % (n.func 0).dmaSize ≠ (n.func 0).dmaHead % (n.func 0).dmaSize ∧ n.reg Reg.attestState = 0 ∧
    fieldB (dmaValue 64 0 0 1) 24 8 ≠ 0 ∧ fieldB (dmaValue 64 0 1 0) 24 8 = 0 ∧ fieldB (dmaValue 64 0 1 0) 22 1 ≠ 0 ∧
    ¬((n.slice 0).sessFirst ≤ 1 ∧ 1 < (n.slice 0).sessFirst + (n.slice 0).sessCount) ∧
    ((n.slice 0).sessFirst ≤ 0 ∧ 0 < (n.slice 0).sessFirst + (n.slice 0).sessCount ∧ (n.session 0).state = 1) ∧
    (fieldB (dmaValue 64 0 0 0) 16 4 = 64 ∧ fieldB (dmaValue 64 0 0 0) 20 2 = 0 ∧ fieldB (dmaValue 64 0 0 0) 0 8 / 2 ^ 51 % 8 = 0) ∧
    (n.page 0).slice = 0 ∧ (n.page 0).state ≠ .free := by decide +kernel

/-- HostLink: the link up and down, keys of every stream, a slow-tier port's errors, a rescan with and without used slots, a READ through function 0, space 4. -/
theorem witness_host_link :
    (let n := nodeM boxA {}
     n.host.linkUp = true ∧ ({ n with host := { n.host with linkUp := false } } : Node).host.linkUp = false ∧ fieldB [4] 0 1 ≤ 4 ∧
     (n.setReg Reg.slowPortState 0x0101).octet Reg.slowPortState 1 = 1 ∧ (∀ k ∈ [0, 1], served n viaJ 5 0x1220 4 [k] = true) ∧ n.tiers.slow = [] ∧
     n.hasUnit 1 = true ∧ n.hasUnit 2 = true ∧
     (∃ e ∈ ([(0, { used := true })] : Map SlowSlot), e.2.used = true) ∧ n.reachable .f0 = true ∧ n.host.cmdOpen = false ∧ n.host.unlocked = false ∧
     openRead n.host.space4 7 = false) ∧
    (let f : Bytes := [0x10, 0, 0, 0] ++ leBytes 4 9 ++ leBytes 4 4 ++ leBytes 4 0 ++ leBytes 2 0x1000 ++ [1, 0]
     fieldB f 4 4 = 9 ∧ 16 + fieldB f 8 4 ≤ f.length ∧ fieldB f 0 1 = 0x10 ∧ (readPairs (sliceB f 16 (fieldB f 8 4))).isSome = true) := by decide +kernel

/-! ### Slices, composition -/

/-- A SLICE_BIND value: slice `k`, tenant 1, `blocks` and `channels` as masks, session `x` alone. -/
def bindValue (k blocks channels x : Nat) : Bytes :=
  [BitVec.ofNat 8 k, 0, 0, 0] ++ leBytes 4 1 ++ leBytes 32 blocks ++ leBytes 64 channels ++ List.replicate 6 0 ++ leBytes 2 x ++ leBytes 2 1 ++ [0, 0] ++ leBytes 4 1000 ++
  leBytes 4 0 ++ leBytes 2 0 ++ [95, 90]

/-- A SESSION_SET value: session `x`, a reply port, a key slot, quantum 4. -/
def sessValue (x port key : Nat) : Bytes := leBytes 2 x ++ [0, 0] ++ leBytes 2 port ++ leBytes 2 key ++ leBytes 4 4 ++ leBytes 4 0

/-- SliceLife: binds that are taken at once, wait, and are refused; sessions of a slice and of none; each state of a slice. -/
theorem witness_slice_life :
    (let n := nodeO.setSlice 5 { state := .releasing, drainTick := 10 }
     (∀ v ∈ [bindValue 4 1 1 3, bindValue 5 1 1 3, bindValue 4 0 1 3], served n viaJ 5 0x3204 1 v = true) ∧
     n.bindCode false (bindValue 4 1 1 3) = 0 ∧ (n.slice 4).state = .free ∧ n.bindCode false (bindValue 5 1 1 3) = 0 ∧ (n.slice 5).state ≠ .free ∧
     n.bindCode false (bindValue 4 0 1 3) ≠ 0 ∧ (n.slice 5).drainTick ≤ 10 ∧ 9 < (n.slice 5).drainTick ∧ (n.slice 4).state ≠ .releasing) ∧
    (let n := nodeM boxA {}
     (∀ x ∈ [0, 1], served n viaJ 5 0x3204 4 (sessionValue 1 (sessValue x 0x101 4)) = true ∧ served n viaJ 5 0x3204 4 (sessionValue 2 (sessValue x 0 0)) = true) ∧
     fieldB (sessionValue 1 (sessValue 0 0x101 4)) 0 2 = 0 ∧ n.sliceOfSession 0 = some (0, n.slice 0) ∧ n.sliceOfSession 1 = none ∧
     fieldB (sessionValue 1 (sessValue 0 0x101 4)) 3 1 = 0 ∧ fieldB (sessionValue 1 (sessValue 0 0x101 4)) 12 4 = 0 ∧ n.replyPortOk 0 0x101 = true ∧
     n.sessionKey 0 4 = true ∧ (n.session 0).state = 1 ∧ ((n.setSession 0 {}).session 0).state ≠ 1 ∧ (n.adm.admitted.map fun q => q.req.key).Nodup ∧
     (∀ k ∈ ([0, 63] : Bytes), served n viaJ 5 0x3204 3 [k] = true) ∧ (n.slice 0).state = .bound ∧ (n.slice 63).state ≠ .bound ∧ n.st = stOperational) ∧
    (let n := nodeO.setSlice 5 { state := .scrubbing, scrubEnd := 10 }
     (n.slice 5).state = .scrubbing ∧ (n.slice 5).scrubEnd = 10 ∧ (n.slice 4).state ≠ .scrubbing) := by decide +kernel

/-- The tenant's node in a group: this node a Primarius, nodes 5 and 6 members, 5 and 6 the partners, every route over port 3; and with a map staged that moves
slice 0 to node 5. -/
def nodeE : Node :=
  let m : CompMap := { raw := List.replicate 1424 3, role := 1, memberCount := 2, members := [5, 6], weltA := 5, weltB := 6 }
  let w : Window := ⟨1100, 80, 5, 0x103, 0⟩
  { nodeQ2 with comp := { nodeQ2.comp with current := some m }, sched := { nodeQ2.sched with active := { startupLast with windows := startupLast.windows ++ [w] } } }

/-- A staged map whose slice 0 goes to node 5. -/
def mapOut : CompMap := { raw := List.replicate 1168 0 ++ [2, 0, 5, 0] ++ List.replicate 252 0 }

/-- A sequence image without tracks. -/
def seqImage (id : Nat) : Bytes := leBytes 6 id ++ List.replicate 56 0

/-- EpochsAndMoves: no map staged; a page to copy; a page asked back; a descriptor of a takeover and of a move; a move's bound; the old epoch's end and drain. -/
theorem witness_epochs_moves :
    (let n := (nodeE.setReg Reg.commitState 1).setPage 0 { state := .compressed, t1 := some 0, ref := 1, tokens := 16, blockLen := [1, 0, 0, 0] }
     let n := { n with comp := { n.comp with stagedMap := some mapOut } }
     nodeE.comp.stagedMap = none ∧ n.comp.stagedMap = some mapOut ∧ n.reg Reg.commitState ≠ 0 ∧ n.reg Reg.commitState ≠ 4 ∧ mapOut.slicesIn 2 = [(0, 5)] ∧
     n.movePages 0 = [0] ∧ 0 ∉ n.comp.preCopied ∧ n.copyWindow 1100 0 5 = true ∧ n.copyWindow 1180 0 5 = false ∧ n.route 5 = some 3) ∧
    (let r : Replica := { source := 5, page := 9, slot := 64 }
     let n := { nodeE with rcv := { nodeE.rcv with replicas := [r] } }
     fieldB (leBytes 1 1 ++ leBytes 4 9) 0 1 = 1 ∧ n.replicaOf 5 (fieldB (leBytes 1 1 ++ leBytes 4 9) 1 4) = some r ∧ n.route 5 = some 3) ∧
    (let v := fun (lost : Nat) => [4, 0] ++ leBytes 2 lost ++ leBytes 8 77 ++ leBytes 2 0 ++ seqImage 7
     nodeE.rcv.incoming = [] ∧ (nodeE.slice 0).state = .bound ∧ (nodeE.seq (seqLocal (fieldB ((v 5).drop 14) 0 6))).state = .free ∧ fieldB (v 5) 2 2 ≠ 0xFFFF ∧
     fieldB (v 5) 0 1 = 4 ∧ fieldB (v 0xFFFF) 2 2 = 0xFFFF ∧ ((nodeE.moveSeqIn 5 (v 0xFFFF)).openIncoming 10 (fieldB ((v 0xFFFF).drop 14) 0 6)).isSome = true) ∧
    (let c : Incoming := { source := 5, slice := 0, image := seqImage 7 }
     let n := { nodeE with rcv := { nodeE.rcv with incoming := [(7, c)] }, comp := { nodeE.comp with moveDue := 50 } }
     n.rcv.incoming.find? (fun e => seqLocal e.1 == 7 && e.2.lost.isNone) = some (7, c) ∧ n.comp.moveDue ≤ 50 ∧ 49 < n.comp.moveDue) ∧
    (let n := { nodeE.setReg Reg.epochState 1 with comp := { nodeE.comp with admissionEnd := some 50 } }
     n.comp.admissionEnd = some 50 ∧ n.reg Reg.epochState = 1) ∧
    (let n := { (nodeE.setReg Reg.epochState 2).setReg Reg.drainTick 60 with comp := { nodeE.comp with current := some mapOut } }
     n.reg Reg.epochState = 2 ∧ n.reg Reg.drainTick ≤ 60 ∧ 59 < n.reg Reg.drainTick ∧ nodeE.reg Reg.epochState ≠ 2 ∧
     (n.adm.admitted.map fun q => q.req.key).Nodup ∧ n.comp.current = some mapOut ∧ (0, 5) ∈ mapOut.slicesIn 2 ∧ (n.slice 0).state = .bound) := by decide +kernel

/-- A round header of node `x` for the round of tick 4,000. -/
def roundHeader (x tick : Nat) (digest : Bytes) : Bytes :=
  [1, 0] ++ leBytes 2 x ++ leBytes 4 0 ++ leBytes 8 tick ++ leBytes 8 2 ++ leBytes 4 (nodeE.reg Reg.lastId) ++ List.replicate 12 0 ++ digest ++ List.replicate 8 0

/-- The group's node where sequence 0 and its page 0 are quarantined. -/
def nodeK2 : Node :=
  (nodeE.setSeq 0 { nodeE.seq 0 with state := .quarantined }).setPage 0 { nodeE.page 0 with state := .quarantined, prior := .tail }

/-- GroupAndDisputes: a header with the group's digest, another digest, and one that disagrees on time; a member silent; HOLD_STOP, REJOIN and each QUARANTINE. -/
theorem witness_group :
    (let h := roundHeader 5 4000
     (∀ d ∈ [nodeE.digest, List.replicate 32 0], (h d).length = 80 ∧ fieldB (h d) 0 1 = 1 ∧ fieldB (h d) 2 2 % 1024 = 5 ∧ nodeE.headerSplit 4005 (h d) = false ∧
       fieldB (h d) 16 8 = nodeE.roundAt 4004 ∧ sliceB (h d) 40 32 = d) ∧
     nodeE.digest ≠ List.replicate 32 0 ∧ 5 ≠ nodeE.straps ∧ nodeE.inRounds = true ∧ 5 ∈ nodeE.members ∧ Map.find nodeE.comp.headers 5 = none ∧
     nodeE.offset 4004 ≤ nodeE.reg Reg.headerWait ∧
     (let n := { nodeE with time := { nodeE.time with counted := true } }
      n.time.counted = true ∧ n.headerSplit 4005 (roundHeader 5 4005 []) = true ∧ (roundHeader 5 4005 (List.replicate 32 0)).length = 80)) ∧
    (nodeE.reg Reg.roundBase ≤ 5999 ∧ nodeE.reg Reg.headerWait < nodeE.offset 5999 ∧ nodeE.comp.headers = []) ∧
    (let n := nodeE.setReg Reg.groupState 1
     served n viaJ 5 0x3204 7 [1] = true ∧ n.reg Reg.groupState = 1 ∧ nodeE.reg Reg.groupState ≠ 1 ∧ (n.adm.admitted.map fun q => q.req.key).Nodup) ∧
    (let n := { nodeE.setReg Reg.outOfRounds 1 with time := { nodeE.time with a := { locked := true, lastEdge := some 5, prevFrame := some 9, markCount := 9 } } }
     served n viaJ 5 0x3204 8 [1] = true ∧ n.inRounds = false ∧ (nodeE.setReg Reg.outOfRounds 1).rejoinInput = none ∧ n.rejoinInput.isSome = true) ∧
    (let v := [0, 0] ++ leBytes 6 (2 ^ 20) ++ List.replicate 8 0
     (∀ k ∈ [1, 2, 3], served nodeK2 viaJ 5 0x3204 6 (forceOp k v) = true ∧ fieldB (forceOp k v) 2 6 = (nodeK2.seq 0).id) ∧ seqLocal (2 ^ 20) = 0 ∧
     (nodeK2.seq 0).state = .quarantined ∧ (nodeK2.disputed 0).Nodup ∧ nodeK2.disputed 0 = [0] ∧ (nodeK2.page 0).prior ≠ .quarantined ∧ nodeK2.partners = [5, 6] ∧
     nodeK2.route 5 = some 3) := by decide +kernel

/-! ### Security, tests -/

/-- The tenant's node with a live key in slot 2, of a type. -/
def nodeY (ktype : Nat) (retireAt : Option Nat) : Node :=
  { nodeQ2 with sec := { nodeQ2.sec with keys := [(2, { state := 1, ktype := ktype, tenant := 1, keyId := 11, key := [7], retireAt := retireAt })] } }

/-- A KEY_INSTALL value: slot 4, request keys, tenant 1, slice 0, KEY_ID 12. A KEY_RETIRE value: slot 2 at a tick. -/
def installValue : Bytes := leBytes 2 4 ++ [1, 0] ++ leBytes 4 1 ++ [0, 0] ++ leBytes 2 12 ++ List.replicate 1620 0
def retireValue (t : Nat) : Bytes := leBytes 2 2 ++ [0, 0] ++ leBytes 8 t ++ leBytes 4 0

/-- Keys: whatever the wrapped key opens to, an install that takes it, and one that takes none; a retirement now, later, of a slot that is not LIVE, and of one
that a session uses; a scheduled retirement. -/
theorem witness_keys :
    served nodeQ2 viaJ 5 0x3404 1 installValue = true ∧ (∀ key : Option Bytes, key.isSome = true → nodeQ2.installCode installValue key = 0) ∧
    nodeQ2.installCode installValue none ≠ 0 ∧
    (∀ t ∈ [5, 6], served (nodeY 1 none) viaJ 5 0x3404 2 (retireValue t) = true ∧ fieldB (retireValue t) 2 2 = 0 ∧ fieldB (retireValue t) 12 4 = 0 ∧
      fieldB (retireValue t) 4 8 = t) ∧
    ((nodeY 1 none).keySlot 2).state = 1 ∧ ((nodeY 1 none).keySlot 2).ktype < 3 ∧ 3 ≤ ((nodeY 3 none).keySlot 2).ktype ∧
    (∀ e ∈ (nodeY 1 none).adm.sessions, e.2.state = 1 → e.2.keySlot ≠ 2) ∧
    (∃ e ∈ ((nodeY 1 none).setSession 0 { state := 1, keySlot := 2 }).adm.sessions, e.2.state = 1 ∧ e.2.keySlot = 2) ∧
    ((nodeY 1 (some 9)).keySlot (2 : BitVec 16).toNat).retireAt = some 9 ∧ ((nodeY 1 none).keySlot (2 : BitVec 16).toNat).retireAt = none := by
  refine ⟨by decide +kernel, ?_, by decide +kernel, by decide +kernel, by decide +kernel, by decide +kernel, by decide +kernel, by decide +kernel, by decide +kernel,
    by decide +kernel, by decide +kernel⟩
  intro key h
  have e : key.isNone = false := by cases key <;> simp_all
  simp only [Node.installCode, e]
  decide +kernel

/-- A firmware image without a body. -/
def imageA : Bytes := ([1, 0, 2] ++ List.replicate 125 0) ++ (List.replicate 2592 0 ++ List.replicate 4627 0)

/-- An image that the ROM's signer signed is taken. -/
theorem image_taken (p : Package) (hs : p.romSigner = sha3_512 (sliceB imageA 128 2592)) (hm : p.current.svnMin = 0)
    (h : Config.verify (sliceB imageA 128 2592) [] (imageA.take (imageA.length - 4627)) (imageA.drop (imageA.length - 4627)) = true) : imageCode p imageA = 0 := by
  have l : imageA.length = 7347 := by simp only [imageA, List.length_append, List.length_replicate]; rfl
  have f : imageFormat imageA = true := by
    have a : fieldB imageA 0 2 = 1 ∧ fieldB imageA 2 1 = 2 ∧ imageBody imageA = 0 := by decide +kernel
    simp only [imageFormat, l, a.1, a.2.1, a.2.2]; decide
  simp only [imageCode, f, h, hs, hm]
  simp [firstCode]

/-- FirmwareAndScan: an image of another format; the attestation's states; scan entry; an operator root written with and without a bound slice. -/
theorem witness_firmware_scan :
    imageCode State.reset.pkg [] ≠ 0 ∧ node0.reachable viaJ.src = true ∧ node0.seen viaJ.src 1 5 = .fresh ∧
    served nodeO viaJ 5 0x3404 4 (List.replicate 72 0) = true ∧ nodeO.reg Reg.attestState ≠ 1 ∧ nodeO.reg Reg.attestState ≠ 3 ∧
    (nodeO.setReg Reg.attestState 1).reg Reg.attestState = 1 ∧ (∀ e ∈ nodeO.comp.slices, e.2.state ≠ .bound) ∧
    (∃ e ∈ nodeQ2.comp.slices, e.2.state = .bound) ∧ nodeO.reg Reg.scanState = 0 ∧ nodeO.st ≠ 0 ∧ (nodeO.setReg Reg.scanState 1).reg Reg.scanState = 1 := by
  decide +kernel

/-- The tenant's node with an unit out of service, in a last with a self-test window at offset 1,801 and a
maintenance window at offset 1,100. -/
def nodeX (k : UnitKind) (num : Nat) (u : UnitState) : Node :=
  { nodeQ2 with rcv := { nodeQ2.rcv with units := [(unitKey k num, u)] },
                stk := { nodeQ2.stk with repairs := [[0, 1, 2, 0, 9, 0]] },
                sched := { nodeQ2.sched with active := { startupLast with windows := startupLast.windows ++ [⟨1100, 80, 5, 4, 0⟩, ⟨1801, 60, 6, 1, 0⟩] } } }

/-- ErrorsAndTests: a unit of every kind under test; a row to repair inside and outside its window; a repair record with room and without; a lockstep fault; a
lost request at its margin; a slice to start, running, and past its window; a cycle that is over; each TEST_REQ. -/
theorem witness_errors_tests :
    (∀ k ∈ [UnitKind.thread, .cell, .block, .channel, .region, .chip], unitKindOf k.code = some k ∧ (nodeX k 1 {}).unitState? k 1 = some {} ∧ k ≠ .port ∧
      repairRow k 1 0xFFFFFFFF = none) ∧
    repairRow .cell 1 256 = some { memory := 2, region := 0, placeA := 0, placeB := 0, row := 1, spares := 32 } ∧ Map.get 0 nodeQ2.test.spares 999 < 32 ∧
    (let n := nodeX .cell 1 {}
     n.stk.repairs.find? (fun (r : List Nat) => r.take 3 == [0, 1, 2] && r.getD 4 0 == 9) = some [0, 1, 2, 0, 9, 0] ∧ n.maintAt 1100 0 2 = true ∧
     n.maintAt 1180 0 2 = false ∧ n.retired .chip 1 = false) ∧
    (let n := { nodeQ2 with test := { nodeQ2.test with pendingRepairs := [([1, 2], 5)] } }
     n.test.pendingRepairs = ([1, 2], 5) :: [] ∧ State.reset.pkg.repairs.length < n.reg Reg.repairRecordsMax ∧
     (n.setReg Reg.repairRecordsMax 0).reg Reg.repairRecordsMax ≤ State.reset.pkg.repairs.length) ∧
    (let q := { qQ 0 with stateLost := true, send := { port := 5 } }
     (nodeI q).admitted? (ReqRef.key ⟨0, 7⟩) = some q ∧ q.stateLost = true ∧ q.phase < 2 ∧ q.lateSent = false ∧ q.writeReady = false ∧ q.send.port < 48 ∧
     (nodeI q).marginPassed 13998 q = true) ∧
    (let n := nodeX .cell 1 {}
     n.inRounds = true ∧ n.reg Reg.roundBase ≤ 1801 ∧ n.st = stOperational ∧
     n.sched.active.windows.filter (fun w => w.kind == 6 && w.start == n.offset 1801) = [⟨1801, 60, 6, 1, 0⟩] ∧ n.test.demand = [] ∧ n.test.running = [] ∧
     n.nextPlace 1 0 (classSlices 1) (Map.get 0 n.test.cursor (classKey 1 0)) = some 0 ∧ n.unitUp (sliceUnit 1 0 0 0xFFFFFFFF).1 (sliceUnit 1 0 0 0xFFFFFFFF).2 = true) ∧
    (let x : RunSlice := { cls := 1, target := 0, place := 0, start := 1801, winEnd := 1841 }
     let n := { nodeQ2 with test := { nodeQ2.test with running := [x], started := true } }
     n.test.running.find? (fun x => x.cls == 1 && (decide (6 ≤ x.cls) || x.target == 0)) = some x ∧ x.cls ≠ 5 ∧ n.test.started = true ∧ n.test.overrun = false ∧
     n.reg Reg.cycleStart + n.reg Reg.cycleTicks < 10 ^ 12) ∧
    (∀ k ∈ [0, 2, 6], served nodeQ2 viaJ 5 0x3604 1 [BitVec.ofNat 8 k, 0, 3, 0] = true) ∧ unitKindOf 0 = none ∧ unitKnown .cell 3 = true ∧
    (∀ k ∈ [0, 3], ((nodeL k 1 {}).port 3).testing = false ∧ (nodeL k 1 {}).retired .port 3 = false ∧ (nodeL k 1 {}).portReg 3 Reg.portState = k) := by
  decide +kernel

/-! ### Recovery -/

/-- The group's node with a maintenance window for cuts over port 3 at offset 1,100, and port 3 in service to node 6. -/
def nodeRec (f : Recovery → Recovery) : Node :=
  let n := (nodeE.setPortReg 3 Reg.portState 3).setPortReg 3 Reg.peer 6
  { n with rcv := f n.rcv, sched := { n.sched with active := { startupLast with windows := startupLast.windows ++ [⟨1100, 80, 5, 8, 0x103⟩] } } }

/-- A REPL message of one journal entry (a token), the only part of the cut of round 4; one of a page; a sequence descriptor's journal entry. -/
def replToken : Bytes := [1] ++ leBytes 8 4 ++ leBytes 8 8100 ++ leBytes 4 1 ++ [0] ++ ([1] ++ leBytes 6 7 ++ leBytes 2 0 ++ leBytes 4 0 ++ leBytes 4 1 ++ [9])
def replPage : Bytes := [2] ++ leBytes 8 4 ++ leBytes 8 8100 ++ leBytes 4 2 ++ [0] ++ leBytes 4 9 ++ ([5, 16, 0, 1, 1, 0, 0, 0] ++ List.replicate 64 1)
def takeValue (op lost spare : Nat) : Bytes := forceOp op ([0, 0] ++ leBytes 2 lost ++ leBytes 2 spare ++ [2, 0] ++ List.replicate 8 0)

/-- Recovery: a cut with and without changes; each message of a cut; a cut that is late; a page whose bytes have come and one that is late; takeovers of a node
whose journal is held and of one whose is not, to a spare on a port and to one that is not; a sequence whose parts are whole; the bound of a takeover. -/
theorem witness_recovery :
    (let n := nodeRec fun r => r
     let m := nodeRec fun r => { r with journal := [⟨1, 7, 0, 0, [9], 0⟩] }
     n.inRounds = true ∧ n.reg Reg.roundBase ≤ 8100 ∧ n.partners ≠ [] ∧ n.cutOffset = some (n.offset 9100) ∧ n.rcv.cutRound ≠ some (n.roundAt 9100) ∧
     n.rcv.journal = [] ∧ (∀ e ∈ n.seqs.pages, e.2.state ≠ .compressed ∧ e.2.state ≠ .spilled) ∧ m.rcv.journal ≠ [] ∧ m.cutOffset = some (m.offset 9100) ∧
     nodeO.partners = [] ∧ fieldB replToken 0 1 = 1 ∧ fieldB replToken 17 4 ≤ 1 ∧
     entriesOf replToken.length (replToken.drop 22) = [⟨1, 7, 0, 0, [9], 64⟩] ∧ n.rcv.cutsIn = [] ∧ n.route 5 = some 3 ∧
     fieldB replPage 0 1 = 2 ∧ (n.slice (fieldB replPage 21 1)).state = .bound ∧
     (n.storeReplica 5 (fieldB replPage 22 4) (fieldB replPage 21 1) (replPage.drop 26)).isSome = true ∧
     (List.replicate 16 0 : Bytes).length = 16) ∧
    (∀ w ∈ [[5], [5, 6]], let c : Cut := { round := fieldB replToken 1 8, tick := 8100, pages := [], seqs := [], waiting := w }
      let n := nodeRec fun r => { r with cuts := [c] }
      n.rcv.cuts.find? (fun c => c.round == fieldB replToken 1 8 && c.waiting.contains 5) = some c ∧ c.round < n.roundAt 10100 ∧ n.reg Reg.roundBase ≤ 10100 ∧
      (n.comp.current.map fun m => c.waiting.contains m.weltA) = some true) ∧
    (let r : Replica := { source := 5, page := 0 }
     let n := (nodeRec fun x => { x with arrivedPages := [r], restores := [(0, 50)] }).setPage 0 { state := .poisoned, t1 := some 0 }
     n.rcv.arrivedPages.find? (fun r => r.page == 0) = some r ∧ (n.page 0).state = .poisoned ∧ (0, 50) ∈ n.rcv.restores ∧ 0 ∈ n.seqsWith 0 ∧
     (n.seq 0).state = .opened) ∧
    (let n := nodeRec fun r => { r with cutsHeld := [(5, (4, 8100))] }
     (∀ e ∈ [(5, 6), (5, 7), (6, 6)], served n viaJ 5 0x3504 1 (takeValue 1 e.1 e.2) = true ∧ served n viaJ 5 0x3504 1 (takeValue 2 e.1 e.2) = true) ∧
     fieldB (takeValue 1 5 6) 2 2 % 1024 = 5 ∧ fieldB (takeValue 1 5 6) 4 2 % 1024 = 6 ∧ (Map.find n.rcv.cutsHeld 5).isSome = true ∧ Map.find n.rcv.cutsHeld 6 = none ∧
     n.directPorts 6 ≠ [] ∧ n.directPorts 7 = []) ∧
    (let c : Incoming := { source := 5, slice := 0, image := seqImage 7, lost := some 5 }
     let n := nodeRec fun r => { r with incoming := [(7, c)] }
     Map.find n.rcv.incoming 7 = some c ∧ c.lost.isSome = true ∧ (n.openIncoming 10 7).isSome = true) ∧
    (let r : Roster := { seqId := 7, session := 0, host := 0, node := 5, op := 1 }
     let n := nodeRec fun x => { x with takeoverDue := some 50, takeoverNodes := [5], rosters := [r] }
     n.rcv.takeoverDue = some 50 ∧ n.rcv.takeoverNodes = [5] ∧ n.rosterOpen 5 = [r]) := by decide +kernel

/-! ### Rings -/

/-- The tenant's node on a ring that is not LOST, with the ring key 3. -/
def nodeR : Node :=
  let n := nodeM boxA {}
  let n := (n.setReg Reg.ringState 0).setSlice 0 { n.slice 0 with blocks := 2 ^ 255 }
  { n with mgmt := { n.mgmt with ringKey := some (3, List.replicate 32 5) } }

/-- A frame of a station with SEQ 1: its type, flags, HOPS, destination and payload, authenticated under key 3 where flag 0 is set. -/
def ringFrame (vtype flags hops dst : Nat) (p : Bytes) (src : Nat := 9) : Bytes :=
  let head := [1] ++ leBytes 1 vtype ++ leBytes 1 flags ++ leBytes 1 hops ++ leBytes 2 src ++ leBytes 2 dst ++ leBytes 4 1 ++ leBytes 2 3 ++ leBytes 2 p.length ++
    leBytes 8 4 ++ leBytes 8 0
  let body := List.replicate 12 0 ++ leBytes 2 0xB588 ++ head ++
    (if bitOf flags 0 then gcmSeal (List.replicate 32 5) (src + 4 * 2 ^ 32) (head.take 3 ++ [128] ++ head.drop 4) p else padTo 16 p)
  body ++ leBytes 4 (fcs body)

/-- A frame is heard with a payload (`State.hears`). -/
def heardAs (vtype flags : Nat) (p : Bytes) : Bool :=
  let frame := ringFrame vtype flags 128 1023 p
  match voxleyOf frame with
  | none => false
  | some f =>
    fieldB frame 15 1 == vtype && nodeR.ringState 0 != 2 && voxleySound frame && f.src != nodeR.straps && f.hops != 0 && f.dst == nodeR.straps &&
    nodeR.voxleyPayload 5 f == some p && !bitOf f.flags 1 && decide (nodeR.seen (f.via .a).src (f.via .a).seq.toNat 5 = .fresh)

/-- The sender's view of such a frame. -/
def viaOf (flags : Nat) : Via := ((voxleyOf (ringFrame 1 flags 128 1023 [])).map fun f => f.via .a).getD viaJ

def pRead : Bytes := leBytes 2 0x1000 ++ [1, 0]
def pWrite : Bytes := leBytes 2 0x1100 ++ [6, 0] ++ leBytes 2 4 ++ [0, 0] ++ leBytes 4 1024
def pBlockRead : Bytes := leBytes 2 0x1200 ++ [1, 0] ++ leBytes 4 0 ++ leBytes 2 4 ++ [0, 0]
def pBlockWrite : Bytes := leBytes 2 0x1110 ++ [5, 0] ++ leBytes 4 0 ++ leBytes 2 4 ++ [0, 0] ++ [1, 2, 3, 4]
def pCommit (group : Nat) : Bytes := [2, 0] ++ leBytes 2 group ++ leBytes 4 0 ++ leBytes 8 4000
def pAwl (op : Nat) (data : Bytes) : Bytes := leBytes 1 op ++ [0, 0, 0] ++ leBytes 4 4 ++ leBytes 8 (addr3 64) ++ data

/-- RingServices: a frame of every service for this node, plain and authenticated, and what each clause asks of its payload. -/
theorem witness_ring_services :
    (∀ e ∈ [(0x10, 0, pRead), (0x11, 0, pWrite), (0x01, 0, []), (0x12, 0, pBlockRead), (0x13, 1, pBlockWrite), (0x13, 5, pBlockWrite), (0x14, 0, pRead),
        (0x18, 1, pCommit 0xFFFF), (0x18, 1, pCommit 6), (0x40, 1, pAwl 1 []), (0x40, 1, pAwl 2 [1, 2, 3, 4])], heardAs e.1 e.2.1 e.2.2 = true) := by decide +kernel

theorem witness_ring_payloads :
    readPairs pRead = some [(0x1000, 1)] ∧ openRead 0x1000 1 = true ∧ (nodeR.noteAwl (viaOf 0)).hasIndex 0x1000 = true ∧
    ((Dict.entry 0x1000 1).map fun e => decide (e.ty ≠ .domain) && decide (e.ty.bytes ≤ 1424)) = some true ∧
    writeTriples 32 pWrite = some [(0x1100, 6, leBytes 4 1024)] ∧ pBlockRead.length = 12 ∧ fieldB pBlockRead 8 2 = 4 ∧
    13 ≤ pBlockWrite.length ∧ (pBlockWrite.length - 12) % 65536 = fieldB pBlockWrite 8 2 ∧ (nodeR.noteAwl (viaOf 1)).blockGate (viaOf 1) 0x1110 5 = svOk ∧
    (nodeR.noteAwl (viaOf 5)).blockGate (viaOf 5) 0x1110 5 = svOk ∧ nodeR.mgmt.blocks = [] ∧ fieldB pBlockWrite 4 4 = 0 ∧ bitOf 1 2 = false ∧ bitOf 5 2 = true ∧
    (nodeR.noteAwl (viaOf 5)).writeStatus (viaOf 5) true 0x1110 5 (pBlockWrite.drop 12) = svOk ∧ (Dict.entry 0x1000 0x7F).isNone = true := by decide +kernel

theorem witness_ring_commands :
    (pCommit 6).length = 16 ∧ fieldB (pCommit 0xFFFF) 2 2 = 0xFFFF ∧ fieldB (pCommit 6) 2 2 = 6 ∧
    (nodeR.noteAwl (viaOf 1)).writeStatus (viaOf 1) false 0x1120 2 [2] = svOk ∧ ({ group := 5 } : CompMap).group ≠ 6 ∧
    nodeR.authentic (viaOf 1) = true ∧ fieldB (pAwl 1 []) 8 8 / 2 ^ 54 = nodeR.straps ∧ fieldB (pAwl 1 []) 8 8 / 2 ^ 51 % 8 = 3 ∧
    runOk (fieldB (pAwl 1 []) 8 8 % 2 ^ 51) 4 = true ∧ nodeR.slicesOver (fieldB (pAwl 1 []) 8 8 % 2 ^ 51) SliceState.goes = [] ∧
    16 ≤ (pAwl 1 []).length ∧ (pAwl 2 [1, 2, 3, 4]).length = 16 + fieldB (pAwl 2 [1, 2, 3, 4]) 4 4 ∧
    (let frame := ringFrame 0x10 0 128 7 pRead
     voxleySound frame = true ∧ (voxleyOf frame).map (fun f => (f.src, knownVtype f.vtype, f.hops, f.dst)) = some (9, true, 128, 7) ∧
     (nodeR.ringUnit 0).eastUp = true ∧ (nodeR.ringUnit 0).westUp = true ∧ node0.ringState 0 = 2) := by decide +kernel

/-! ### Stations, power -/

/-- A beacon of this node with number 7. -/
def beacon : Bytes := ringFrame 2 0 128 0xFFFF (leBytes 2 1023 ++ [0, 0] ++ leBytes 4 7) 1023

/-- RingUnits: a ring that sends beacons and one that is LOST; a beacon that comes back in time; eyelets closed, open, and held open; an unlock and a lock. -/
theorem witness_ring_units :
    nodeR.ringState 0 ≠ 2 ∧ nodeR.mgmt.a.beaconSeq = 0 ∧ node0.ringState 0 = 2 ∧ node0.ringState 1 = 2 ∧
    (let u : RingUnit := { beaconSeq := 7, lastBeacon := 100, eyelet := true }
     let n := { nodeR with mgmt := { nodeR.mgmt with a := u, mgmtFwOk := true } }
     fieldB beacon 15 1 = 2 ∧ voxleySound beacon = true ∧ (voxleyOf beacon).map (fun f => (f.src, fieldB f.payload 0 2, fieldB f.payload 2 1, fieldB f.payload 4 4)) =
       some (n.straps, n.straps, 0, 7) ∧ n.ringState 0 ≠ 2 ∧ 110 ≤ (n.ringUnit 0).lastBeacon + n.reg Reg.beaconTicks ∧
     (n.eyeletMay 0 && n.mgmt.watchdogOk) = true ∧ (nodeR.eyeletMay 0 && nodeR.mgmt.watchdogOk) = false ∧ (nodeR.ringUnit 0).eyelet = false ∧
     ({ n with mgmt := { n.mgmt with a := {} } } : Node).eyeletMay 0 = true ∧ (n.ringUnit 0).eyelet = true) ∧
    served nodeR viaJ 5 0x1204 1 [] = true ∧ served nodeR viaJ 5 0x1204 2 [] = true ∧ (nodeR.ringKeyCode []).1 ≠ 0 ∧ opRootSet nodeR.sec.opRoot = false ∧
    (∀ v ∈ ([0, 1] : Bytes), served nodeR viaJ 5 0x1204 3 [v] = true) := by decide +kernel

theorem witness_unlock_length : (List.replicate 7219 (0 : Byte)).length = 7219 := List.length_replicate

/-- The node in a state. -/
def nodeZ (st : Nat) : Node := nodeO.setReg Reg.nodeState st

/-- PowerStates: each request in the states that take it and refuse it; sensors at their limit and below; OFF and every other state; a pin held low. -/
theorem witness_power_states :
    (let n := { (nodeZ stPreop).setReg Reg.lastId 1 with time := { nodeO.time with a := { locked := true } }, comp := { nodeO.comp with current := some {} } }
     n.mayOperate = true ∧ (nodeZ stPreop).mayOperate = false ∧ (∀ k ∈ ([1, 2, 3] : Bytes), served n viaJ 5 0x1030 4 [k] = true)) ∧
    (let n := { nodeZ stSafe with power := { nodeO.power with quiet := nodeO.reg Reg.safeClearTicks } }
     n.st = stSafe ∧ viaJ.throughAwl = true ∧ n.reg Reg.safeClearTicks ≤ n.power.quiet ∧ (∀ k ∈ ([1, 2, 3] : Bytes), served n viaJ 5 0x1030 4 [k] = true)) ∧
    (∀ k ∈ [stOperational, stPreop, stHold, stBoot], (nodeZ k).st = k ∧ k ≠ 0 ∧ k ≠ stFault ∧ k ≠ stSafe) ∧ (nodeZ stFault).st = stFault ∧ (nodeZ 0).st = 0 ∧
    sensorCause ⟨f32OfNat 115, 0, 0, 0, 0, 0⟩ = 1 ∧ sensorCause ⟨f32OfNat 114, f32OfNat 95, 0, 0, 0, 0⟩ = 2 ∧
    sensorCause ⟨f32OfNat 114, f32OfNat 94, 0, f32OfNat 70, 0, 0⟩ = 3 ∧ sensorCause ⟨f32OfNat 114, f32OfNat 94, 0, f32OfNat 69, 0, 0⟩ = 0 ∧
    (nodeZ stOperational).power.stage ≠ 1 ∧ ({ nodeZ stBoot with power := { nodeO.power with inReset := true } } : Node).power.inReset = true ∧
    nodeO.power.inReset = false ∧ ({ nodeO with power := { nodeO.power with stage := 4 } } : Node).power.stage ≠ 0 ∧
    (∀ k ∈ ([0, 1] : Bytes), served nodeO viaJ 5 0x3704 1 [k] = true) := by decide +kernel

/-! ### The invariant, memory, well-formed commands, known answers -/

/-- StepKeepsInv: the state after reset meets the invariant, and a step from it answers a next state. -/
theorem witness_inv : State.reset.Inv ∧ ∃ t, step State.reset = .next t := ⟨⟨by decide +kernel, by decide +kernel⟩, _, rfl⟩

/-- MemoryWrite: a memory in canonical form; one that lists a zero is not. -/
theorem witness_memory : Memory.wf [(5, 1), (9, 2)] = true ∧ Memory.wf [(5, 0)] = false ∧ Memory.wf [(9, 2), (5, 1)] = false ∧
    Memory.write [(5, 1), (9, 2)] 8 [3, 0] = [(5, 1), (8, 3)] := by decide +kernel

/-- Ill-formed commands are told from well-formed ones. -/
theorem test_wf_flit : Instr.wellFormed (.flitReceive 3 (List.replicate 255 0)) = false ∧ Instr.wellFormed (.flitReceive 3 (List.replicate 256 0)) = true := by
  decide +kernel
theorem test_wf_source : Instr.wellFormed (.attend { rqAttend with source := 48 }) = false ∧ Instr.wellFormed (.attend rqAttend) = true := by decide +kernel
theorem test_wf_page : Instr.wellFormed (.tldPage th0 fl [⟨256, 1⟩]) = false ∧ Instr.wellFormed (.tldPage th0 fl [⟨255, 81⟩]) = false ∧
    Instr.wellFormed (.tldPage th0 fl [⟨255, 80⟩]) = true := by decide +kernel
theorem test_wf_weight : Instr.wellFormed (.tldWeight th0 fl [⟨0, 81⟩]) = false ∧ Instr.wellFormed (.tldWeight th0 fl [⟨0, 80⟩]) = true := by decide +kernel
theorem test_wf_via : Instr.wellFormed (.arm ⟨.ringA 1024, false, false, 1⟩) = false ∧ Instr.wellFormed (.arm ⟨.ringB 1023, false, false, 1⟩) = true := by
  decide +kernel

/-- The head of SHA3-512 of "abc" (FIPS 202's example), which R102 and R406 use. -/
theorem test_sha3 : (sha3_512 [0x61, 0x62, 0x63]).take 4 = [0xb7, 0x51, 0x85, 0x0b] := by decide +kernel

/-- AES-256-GCM of no text under the zero key and nonce (test case 13 of the GCM submission). -/
theorem test_gcm : gcmSeal (List.replicate 32 0) 0 [] [] =
    [0x53, 0x0f, 0x8a, 0xfb, 0xc7, 0x45, 0x36, 0xb9, 0xa9, 0x63, 0xb4, 0xf1, 0xc4, 0xcb, 0x73, 0x8b] := by decide +kernel

/-- The frame check sequence of "123456789" (IEEE 802.3). -/
theorem test_fcs : fcs [0x31, 0x32, 0x33, 0x34, 0x35, 0x36, 0x37, 0x38, 0x39] = 0xCBF43926 := by decide +kernel

end Sys2Proof.Tests
end

section
/-!
PROOFS. Admission and deadlines: the full tick number of DEADLINE (R65) and the length bucket (R72).
-/

namespace Sys2Proof

/-! ### The full tick number of DEADLINE -/

/-- The tick taken is the first of the window plus the distance from it, modulo 2^40, to DEADLINE. -/
theorem Request.deadlineTick_eq (r : Request) (a : Nat) :
    r.deadlineTick a = ((a - 2 ^ 39 : Int) + ((r.hdr.deadline.toNat : Int) - (a - 2 ^ 39)) % 2 ^ 40).toNat := rfl

/-- R65's uniqueness: the window from A − 2^39 to A + 2^39 − 1 holds 2^40 ticks, so one at most ends in the 40 bits of DEADLINE. -/
theorem Request.deadlineTick_eq_of_window (r : Request) {a d : Nat} (hbits : d % 2 ^ 40 = r.hdr.deadline.toNat)
    (hlo : a ≤ d + 2 ^ 39) (hhi : d ≤ a + 2 ^ 39 - 1) : r.deadlineTick a = d := by
  rw [Request.deadlineTick_eq]
  omega

/-- R65's existence: where the window does not begin before tick 0, the tick that is taken is the window's first plus a remainder below 2^40, without
truncation. -/
theorem Request.deadlineTick_window (r : Request) {a : Nat} (ha : 2 ^ 39 ≤ a) :
    r.deadlineTick a % 2 ^ 40 = r.hdr.deadline.toNat ∧ a ≤ r.deadlineTick a + 2 ^ 39 ∧ r.deadlineTick a ≤ a + 2 ^ 39 - 1 := by
  have hlow : r.hdr.deadline.toNat < 2 ^ 40 := r.hdr.deadline.isLt
  rw [Request.deadlineTick_eq]
  omega

end Sys2Proof

namespace Sys2Proof.Machine

/-- A request applied at boundary `a + 1` arrived at tick `a` (R42), from which its deadline is resolved. -/
theorem waitingFor_succ_deadline (a : Nat) (r : Request) : (waitingFor (a + 1) r).deadline = r.deadlineTick a := rfl

/-- Settles O32: any tick of the window that ends in the bits of DEADLINE is the one taken, and the one taken is such a tick. -/
theorem deadlineResolved : Obligations.DeadlineResolved := by
  intro r a
  exact ⟨fun _ => r.deadlineTick_eq_of_window, r.deadlineTick_window, waitingFor_succ_deadline a r⟩

/-! ### The length bucket -/

/-- Folding `Nat.max` from 0 over the values of a list gives the value of any member that no other exceeds. -/
theorem foldl_max_map_eq {α : Type} {f : α → Nat} {l : List α} {i : α} (hi : i ∈ l) (hmax : ∀ j ∈ l, f j ≤ f i) :
    (l.map f).foldl Nat.max 0 = f i := by
  have hlargest : (l.map f).max? = some (f i) :=
    List.max?_eq_some_iff.mpr ⟨List.mem_map_of_mem hi, List.forall_mem_map.mpr hmax⟩
  calc (l.map f).foldl Nat.max 0 = max 0 ((l.map f).max?.getD 0) := List.foldl_max
    _ = f i := by simp [hlargest]

/-- A request that reads no sequence's pages takes bucket 0 (log entry 112). -/
theorem Node.bucket_of_reads_no_pages (n : Node) {r : Request} (hr : (r.isAtt || r.isBackward 0) = false) : n.bucket r = 0 := by
  simp [Node.bucket, hr]

/-- R72's formula on the TOKENS of the longest track `i` that a reading request names. -/
theorem Node.bucket_of_longest_track (n : Node) {r : Request} {i : Nat} (hr : (r.isAtt || r.isBackward 0) = true) (hi : i ∈ n.tracksOf r)
    (hmax : ∀ j ∈ n.tracksOf r, ((n.seq (seqLocal r.seqId)).track j).tokens ≤ ((n.seq (seqLocal r.seqId)).track i).tokens) :
    n.bucket r = if ((n.seq (seqLocal r.seqId)).track i).tokens < 1024 then 0
      else Nat.min 7 (Nat.log2 ((n.seq (seqLocal r.seqId)).track i).tokens - 9) := by
  have hlongest := foldl_max_map_eq (f := fun j => ((n.seq (seqLocal r.seqId)).track j).tokens) hi hmax
  simp only [Node.bucket, if_pos hr, hlongest]

/-- Settles O33: R72's formula on the longest track, whose logarithm is the power of two that its TOKENS reach; every request that is neither an attention
request nor BACKWARD in COMPUTE mode takes bucket 0, which for APPEND is the model's reading (log entry 112). -/
theorem lengthBucket : Obligations.LengthBucket := by
  intro n r
  refine ⟨fun hr i hi hmax => ?_, n.bucket_of_reads_no_pages⟩
  rw [n.bucket_of_longest_track hr hi hmax]
  refine ⟨fun hshort => if_pos hshort, fun k hlong hlo hhi => ?_⟩
  have hlog := (Nat.log2_eq_iff ((Nat.two_pow_pos k).trans_le hlo).ne').mpr ⟨hlo, hhi⟩
  rw [if_neg hlong.not_gt, hlog]

end Sys2Proof.Machine
end

section
/-!
Which commands change the node only: all but a short list of rows keep the clock, on-die memory and the package record.
-/

namespace Sys2Proof

/-- The rows whose effect reaches beyond the node: the clock, on-die memory or the package record. -/
def Instr.beyondNode : Instr → Bool
  | .tickEdge .. | .tickBoundary .. | .roundBoundary .. | .objectWrite .. | .itemStart .. | .itemCompletion .. | .endItem .. | .flitReceive .. |
  .camrisFrameReceive .. | .ethFrameReceive .. | .cmdDoorbell .. | .drainBound .. | .fwStaged .. | .scanEntry .. | .oprootWrite .. |
  .repairRecordWrite .. | .ringFrameForward .. | .powerLoss .. | .powerUp .. | .moduleReset .. | .resetReq .. | .moduleResetRelease .. | .st .. |
  .stv .. | .tst .. | .discover .. | .beaconReceive .. | .read .. | .write .. | .blockRead .. | .blockWrite .. | .describe .. | .commit .. | .awl .. => true
  | _ => false

end Sys2Proof

namespace Sys2Proof.Machine

/-! ### Commands that change the node only -/

/-- A served command whose service puts a node, whatever it answers, puts a node. -/
theorem State.serve_node (s : State) (via : Via) (vtype : Nat) (go : State → State × Option Bytes)
    (hgo : ∀ m, ∃ n, (go (s.withNode m)).1 = s.withNode n) : ∃ n, s.serve via vtype go = s.withNode n := by
  obtain ⟨n, hn⟩ := hgo (s.node.noteAwl via)
  have hn : (go (s.put (s.node.noteAwl via))).1 = s.withNode n := hn
  unfold State.serve
  dsimp only
  split
  · exact ⟨s.node, rfl⟩
  · split
    · exact ⟨_, rfl⟩
    · exact ⟨s.node, rfl⟩
    · rw [hn]
      split <;> exact ⟨_, rfl⟩

/-- A row that is a write of one entry changes the node only (R493). -/
theorem State.command_node (s : State) (via : Via) (index sub : Nat) (value : Bytes) (f : Node → Node) :
    ∃ n, s.command via index sub value f = .next (s.withNode n) := by
  unfold State.command State.write
  refine (s.serve_node via _ _ fun m => ?_).imp fun n => congrArg Host.Outcome.next
  dsimp only
  split <;> exact ⟨_, rfl⟩

theorem State.issue_node (s : State) (t : ThreadId) (g : Thread → Thread) : ∃ n, s.issue t g = .next (s.withNode n) := by
  unfold State.issue
  split <;> exact ⟨_, rfl⟩

theorem State.jump_node (s : State) (t : ThreadId) (g : Thread → Thread) : ∃ n, s.jump t g = .next (s.withNode n) := by
  unfold State.jump
  split <;> exact ⟨_, rfl⟩

/-- Every command but those of `beyondNode` changes the node only. -/
theorem exec_node (c : Instr) (s : State) (hc : c.beyondNode = false) : ∃ n, exec c s = .next (s.withNode n) := by
  cases c with
  | tickEdge | tickBoundary | roundBoundary | objectWrite | itemStart | itemCompletion | endItem | flitReceive | camrisFrameReceive |
  ethFrameReceive | cmdDoorbell | drainBound | fwStaged | scanEntry | oprootWrite | repairRecordWrite | ringFrameForward | powerLoss | powerUp |
  moduleReset | resetReq | moduleResetRelease | st | stv | tst | discover | beaconReceive | read | write | blockRead | blockWrite | describe |
  commit | awl => exact nomatch (hc : true = false)
  | inputLost | regionArmReport | commitApply | admitTick | hashChain | forkCopyDone | sequenceFree | weightDigestCheck | generationReclaim |
  ballTreeBuild | abort | reassemblyTimeout | computeWindowOpen | phase2Start | tldPage | tldWeight | partWr | nbc | nbZero | nbZeroSlot |
  nbZeroChannel | nbFill | nbCopy | nbAdd | nbMul | nbAxpy | nbActRelu | nbActSilu | nbActGeluTanh | nbActSigmoid | nbActExp2 | nbActSoftcap |
  nbConvert | nbRotatePair | strokeEnd | refreshBurst | refillAttempt | pageReclaim | pageRewriteStart | pageCompressed | spillStart | spillComplete
  | prefetchRead | prefetchComplete | tileResponse | tileRequestServe | modelFree | progReady | progSlotFree | indexFree | laneLockLoss |
  helloReceive | pathAckSend | pathRetry | pfcReceive | loopbackResult | frameStart | gateUnit | statisticsSample | dmaDescriptor | flrVf | flrF0 |
  hostPortReset | preCopy | moveReceive | epochAdmissionEnd | drainTick | roundHeaderReceive | headerWaitExpiry | attestReportReady | rowRepair |
  pageRestore | journalCut | replReceive | cutAckReceive | rosterReceive | partnerSuspect | sequenceRestored | selftestSliceStop | lockstepMismatch
  | beaconSend | sensorTrip | inputTrip | coolantAlarm | hostReadCompletion | mailboxEnable | coolantAlarmRelease | arbiterTimeout | holdoverLimit |
  budgetTrap | packerStart | slowReadCompletion | weightHoldExpiry | peerSilent | trainTimeout | pathAckReceive | pauseReceive | downHoldExpiry |
  hostReadTimeout | scrubEnd | pageRestoreTimeout | eyeletClose | watchdogExpiry | ringPortDown | ringPortUp | seqOpen | seqFork | seqClose | append
  | attend | attendAppend | backwardCompute | backwardFetch | backwardRelease | weightLoad | searchIvf | searchTree | searchProbe | insert | delete
  | fold | fenceL | fenceF | fenceN =>
    exact ⟨_, State.on_eq s _⟩
  | tickPrimaryWrite | lastLoad | arm | disarm | discard | domainCreate | domainDestroy | modelDef | modelRetire | progLoad | progUnload | quotaSet
  | indexDef | centroidLoad | indexRetire | retrain | histClear | rescan | sliceBind | sessionOpen | sessionClose | sliceRelease | holdStop | rejoin
  | quarantineKeep | quarantineYield | quarantineDrop | keyInstall | keyRetire | attestReq | takeoverStart | takeoverStop | testReq | ringKeyInstall
  | f0Unlock | f0Lock | stateReqOperational | stateReqPreop | stateReqSafe =>
    dsimp only [exec, execTickPrimaryWrite, execLastLoad, execArm, execDisarm, execDiscard, execDomainCreate, execDomainDestroy, execModelDef,
      execModelRetire, execProgLoad, execProgUnload, execQuotaSet, execIndexDef, execCentroidLoad, execIndexRetire, execRetrain, execHistClear,
      execRescan, execSliceBind, execSessionOpen, execSessionClose, execSliceRelease, execHoldStop, execRejoin, execQuarantineKeep,
      execQuarantineYield, execQuarantineDrop, execKeyInstall, execKeyRetire, execAttestReq, execTakeoverStart, execTakeoverStop, execTestReq,
      execRingKeyInstall, execF0Unlock, execF0Lock, execStateReqOperational, execStateReqPreop, execStateReqSafe]
    exact s.command_node _ _ _ _ _
  | add | sub | mul | and | or | xor | shl | shr | min | max | li | accClr | vadd | vmul | vfma | vmax | vsel | vbcast | vredmax | vredsum | vexp2 |
  vtanh | vcvt | accRd | mma =>
    dsimp only [exec, State.scalar, State.vector, execAdd, execSub, execMul, execAnd, execOr, execXor, execShl, execShr, execMin, execMax, execLi, execAccClr, execVadd,
      execVmul, execVfma, execVmax, execVsel, execVbcast, execVredmax, execVredsum, execVexp2, execVtanh, execVcvt, execAccRd, execMma]
    exact s.issue_node _ _
  | br | brc | loop =>
    dsimp only [exec, execBr, execBrc, execLoop]
    exact s.jump_node _ _
  | tldMem | ldv | ld => exact s.loadTo_cases _ _ _ _ _
  | iarg =>
    dsimp only [exec, execIarg]
    split
    · exact ⟨_, rfl⟩
    · exact s.issue_node _ _
  | missedTick | armDeadline | phase2Complete | builtinOverrun | appendWrite | slowReadTimeout | refetchTimeout | heldDeadlineMargin |
  replayAckTimeout | creditStall | helloSend | space4Read | sqTailDoorbell | mailboxFetch | hostReplyWrite | dmaTailDoorbell | attestGo |
  hostLinkDown | slowPortError | moveTimeout | keyRetirement | targetedTestStart | testResult | stateLostMargin | takeoverTimeout |
  selftestSliceStart | selftestSliceEnd | cycleOverrun | blockTimeout | eyeletOpen | hostLinkUp | ideKm | zeroizationComplete =>
    dsimp only [exec, execMissedTick, execArmDeadline, execPhase2Complete, execBuiltinOverrun, execAppendWrite, execSlowReadTimeout, execRefetchTimeout, execHeldDeadlineMargin, execReplayAckTimeout, execCreditStall, execHelloSend, execSpace4Read, execSqTailDoorbell, execMailboxFetch, execHostReplyWrite, execDmaTailDoorbell, execAttestGo, execHostLinkDown, execSlowPortError, execMoveTimeout, execKeyRetirement, execTargetedTestStart, execTestResult, execStateLostMargin, execTakeoverTimeout, execSelftestSliceStart, execSelftestSliceEnd, execCycleOverrun, execBlockTimeout, execEyeletOpen, execHostLinkUp, execIdeKm, execZeroizationComplete]
    repeat' split
    all_goals exact ⟨_, rfl⟩

end Sys2Proof.Machine
end

section
/-!
The invariant of the machine through the operations that the commands share: served commands, frames of a ring, frames of a link port.
-/

namespace Sys2Proof.Machine

/-! ### The invariant: memory canonical, the tick a 64-bit number -/

/-- The invariant speaks of the clock and of memory alone: putting a node keeps it. -/
theorem State.Inv.put {s : State} (h : s.Inv) (n : Node) : (s.put n).Inv := h

theorem State.Inv.withNode {s : State} (h : s.Inv) (n : Node) : (s.withNode n).Inv := h

theorem State.Inv.ite {c : Prop} [Decidable c] {a b : State} (ha : a.Inv) (hb : b.Inv) : (if c then a else b).Inv := by
  split
  · exact ha
  · exact hb

theorem State.Inv.wipe (s : State) (st : Nat) : (s.wipe st).Inv := ⟨rfl, Nat.two_pow_pos 64⟩

theorem State.Inv.restart (s : State) : s.restart.Inv := (State.Inv.wipe s stBoot).put _

theorem State.Inv.fwStaged {s : State} (h : s.Inv) (v : Bytes) : (s.fwStaged v).Inv := by
  unfold State.fwStaged
  dsimp only
  split <;> exact h

/-! #### Served commands -/

theorem State.Inv.serve {s : State} (h : s.Inv) (via : Via) (vtype : Nat) (go : State → State × Option Bytes)
    (hgo : ∀ u : State, u.Inv → (go u).1.Inv) : (s.serve via vtype go).Inv := by
  have hgo : (go (s.put (s.node.noteAwl via))).1.Inv := hgo _ (h.put _)
  unfold State.serve
  dsimp only
  split
  · exact h
  · split
    · exact h
    · exact h
    · split <;> exact hgo

theorem State.Inv.write {s : State} (h : s.Inv) (via : Via) (index sub : Nat) (value : Bytes) (f : State → State)
    (hf : ∀ u : State, u.Inv → (f u).Inv) : (s.write via index sub value f).Inv := by
  refine h.serve via _ _ fun u hu => ?_
  dsimp only
  split
  · exact hf u hu
  · exact hu

theorem State.Inv.applyWrite {s : State} (h : s.Inv) (via : Via) (index sub : Nat) (v : Bytes) : (s.applyWrite via index sub v).Inv := by
  unfold State.applyWrite
  dsimp only
  split
  · exact h.fwStaged v
  · repeat' split
    all_goals exact h

theorem State.Inv.writeItem {s : State} (h : s.Inv) (via : Via) (index sub : Nat) (v : Bytes) : (s.writeItem via index sub v).1.Inv := by
  unfold State.writeItem
  dsimp only
  split
  · exact h
  · split
    · exact State.Inv.restart s
    · exact h.applyWrite via index sub v

theorem State.Inv.writeItems (via : Via) (items : List (Nat × Nat × Bytes)) (out : Bytes) {s : State} (h : s.Inv) :
    (s.writeItems via items out).1.Inv := by
  induction items generalizing out s with
  | nil => exact h
  | cons x rest ih =>
    obtain ⟨index, sub, v⟩ := x
    have hitem := h.writeItem via index sub v
    unfold State.writeItems
    split
    · next t heq => rw [heq] at hitem; exact hitem
    · next t st heq => rw [heq] at hitem; exact ih _ hitem

theorem State.Inv.serveRead {s : State} (h : s.Inv) (via : Via) (limit : Nat) (p : Bytes) : (s.serveRead via limit p).1.Inv := by
  unfold State.serveRead
  split <;> exact h

theorem State.Inv.serveWrite {s : State} (h : s.Inv) (via : Via) (p : Bytes) : (s.serveWrite via p).1.Inv := by
  unfold State.serveWrite
  split
  · exact State.Inv.writeItems via _ _ h
  · exact h

theorem State.Inv.serveBlockRead {s : State} (h : s.Inv) (via : Via) (most : Nat) (p : Bytes) : (s.serveBlockRead via most p).1.Inv := by
  unfold State.serveBlockRead
  dsimp only
  repeat' split
  all_goals exact h

theorem State.Inv.serveBlockWrite {s : State} (h : s.Inv) (via : Via) (most : Nat) (final : Bool) (p : Bytes) :
    (s.serveBlockWrite via most final p).1.Inv := by
  unfold State.serveBlockWrite
  dsimp only
  split
  · exact h
  · split
    · exact h
    · split
      · exact h
      · dsimp only
        split
        · exact (h.put _).applyWrite via _ _ _
        · exact h

theorem State.Inv.serveDescribe {s : State} (h : s.Inv) (p : Bytes) : (s.serveDescribe p).1.Inv := by
  unfold State.serveDescribe
  dsimp only
  repeat' split
  all_goals exact h

theorem State.Inv.serveCommit {s : State} (h : s.Inv) (via : Via) (p : Bytes) : (s.serveCommit via p).1.Inv := by
  unfold State.serveCommit
  dsimp only
  repeat' split
  all_goals exact h

theorem State.Inv.writeMem {s : State} (h : s.Inv) (n : Node) (off : Nat) (bs : Bytes) :
    ({ s with node := n, mem := Memory.write s.mem off bs } : State).Inv := ⟨Memory.wf_write bs s.mem off h.1, h.2⟩

theorem State.Inv.clearMem {s : State} (h : s.Inv) (n : Node) (base len : Nat) :
    ({ s with node := n, mem := Machine.clearMem s.mem base len } : State).Inv := ⟨Memory.wf_clearMem s.mem base len h.1, h.2⟩

theorem State.Inv.awlWrite {s : State} (h : s.Inv) (space off : Nat) (data : Bytes) : (s.awlWrite space off data).2.Inv := by
  unfold State.awlWrite
  dsimp only
  split
  · exact h
  · split
    · exact h
    · exact h
    · exact h
    · dsimp only
      split
      · exact h.writeMem s.node off data
      · exact h

theorem State.Inv.serveAwl {s : State} (h : s.Inv) (via : Via) (p : Bytes) : (s.serveAwl via p).1.Inv := by
  unfold State.serveAwl
  dsimp only
  split
  · exact h
  · split
    · exact h
    · split
      · exact h
      · split
        · split <;> exact h
        · dsimp only
          split
          · exact ((h.put _).awlWrite _ _ _).put _
          · exact (h.put _).awlWrite _ _ _

theorem State.Inv.service {s : State} (h : s.Inv) (via : Via) (vtype flags limit most : Nat) (p : Bytes) :
    (s.service via vtype flags limit most p).1.Inv := by
  unfold State.service
  split
  · exact h.serveRead via limit p
  split
  · exact h.serveWrite via p
  split
  · exact h.serveBlockRead via most p
  split
  · exact h.serveBlockWrite via most _ p
  split
  · exact h.serveDescribe p
  split
  · exact h.serveCommit via p
  split
  · exact h.serveAwl via p
  · exact h

/-! #### Frames of a ring -/

theorem State.Inv.consume {s : State} (h : s.Inv) (r : Nat) (f : Voxley) : (s.consume r f).Inv := by
  unfold State.consume
  dsimp only
  split
  · exact h
  · split
    · exact h
    · split
      · exact h.serve _ _ _ fun u hu => hu
      · split
        · split <;> exact h
        · exact h.serve _ _ _ fun u hu => hu.service _ _ _ _ _ _

theorem State.Inv.ringIn {s : State} (h : s.Inv) (r : Nat) (frame : Bytes) : (s.ringIn r frame).Inv := by
  unfold State.ringIn
  refine State.Inv.ite h (State.Inv.ite h ?_)
  cases voxleyOf frame with
  | none => exact h
  | some f => exact State.Inv.ite h (State.Inv.ite h (State.Inv.ite h (State.Inv.ite ((h.put _).consume r _) h)))

/-! #### Frames of a link port -/

theorem State.Inv.memReceive {s : State} (h : s.Inv) (src tenant slice : Nat) (v : Bytes) : (s.memReceive src tenant slice v).Inv := by
  unfold State.memReceive
  dsimp only
  split
  · exact h
  · split
    · repeat' split
      all_goals exact h
    · split
      · exact h
      · split
        · exact h
        · exact h.writeMem _ _ _

theorem State.Inv.dispatch {s : State} (h : s.Inv) (p : Nat) (m : InMsg) (slot : Nat) (v : Bytes) : (s.dispatch p m slot v).Inv := by
  unfold State.dispatch
  dsimp only
  split
  case h_2 => exact h.memReceive _ _ _ _
  all_goals exact h

theorem State.Inv.joinFrame {s : State} (h : s.Inv) (p slot : Nat) (f data : Bytes) : (s.joinFrame p slot f data).Inv := by
  unfold State.joinFrame
  dsimp only
  split
  · exact h
  · exact (h.put _).dispatch _ _ _ _

theorem State.Inv.frameIn {s : State} (h : s.Inv) (p : Nat) (f : Bytes) : (s.frameIn p f).Inv := by
  unfold State.frameIn
  dsimp only
  split
  · exact h
  · split
    · exact h
    · split
      · exact h
      · split
        · exact h
        · split
          · exact h
          · exact (h.put _).joinFrame _ _ _ _

theorem State.Inv.framesIn (p : Nat) (fs : List Bytes) {s : State} (h : s.Inv) : (fs.foldl (fun s f => s.frameIn p f) s).Inv := by
  induction fs generalizing s with
  | nil => exact h
  | cons f fs ih => exact ih (h.frameIn p f)

theorem State.Inv.flitIn {s : State} (h : s.Inv) (p : Nat) (f : Bytes) (k : Nat) : (s.flitIn p f k).Inv := by
  unfold State.flitIn
  exact State.Inv.ite h (State.Inv.ite h (State.Inv.framesIn p _ (h.put _)))

theorem State.Inv.ethIn {s : State} (h : s.Inv) (p : Nat) (f : Bytes) : (s.ethIn p f).Inv := by
  unfold State.ethIn
  exact State.Inv.ite (State.Inv.ite h h) (State.Inv.ite h (State.Inv.ite h ((h.put _).frameIn p _)))

end Sys2Proof.Machine
end

section
/-!
The invariant of the machine, command by command: every step keeps it.
-/

namespace Sys2Proof.Machine

/-! #### The commands that reach beyond the node -/

theorem execTickEdge_inv {s t : State} (h : s.Inv) (i : TickIn) (ns width : Nat) (e : execTickEdge i ns width s = .next t) : t.Inv := by
  unfold execTickEdge at e
  dsimp only at e
  split at e
  · injection e with e; exact e ▸ h
  · split at e
    · injection e with e; exact e ▸ h
    · split at e
      · injection e with e
        exact e ▸ ⟨h.1, Nat.mod_lt _ (Nat.two_pow_pos 64)⟩
      · injection e with e; exact e ▸ h

theorem execRoundBoundary_inv {s t : State} (h : s.Inv) (e : execRoundBoundary s = .next t) : t.Inv := by
  unfold execRoundBoundary at e
  dsimp only at e
  split at e
  · injection e with e; exact e ▸ h
  · split at e <;> (injection e with e; exact e ▸ h)

theorem execItemStart_inv {s t : State} (h : s.Inv) (r : Fin 16) (cell : Fin 256) (e : execItemStart r cell s = .next t) : t.Inv := by
  unfold execItemStart at e
  split at e
  · injection e with e; exact e ▸ h
  · injection e with e; exact e ▸ h.clearMem _ _ _

theorem execItemCompletion_inv {s t : State} (h : s.Inv) (th : ThreadId) (e : execItemCompletion th s = .next t) : t.Inv := by
  unfold execItemCompletion at e
  injection e with e
  subst e
  refine ⟨?_, h.2⟩
  dsimp only
  split
  · exact Memory.wf_clearMem s.mem _ _ h.1
  · exact h.1

theorem execEndItem_inv {s t : State} (h : s.Inv) (th : ThreadId) (f : Fields) (e : execEndItem th f s = .next t) : t.Inv := by
  unfold execEndItem at e
  split at e
  · injection e with e; exact e ▸ h.clearMem _ _ _
  · injection e with e; exact e ▸ h

theorem execDrainBound_inv {s t : State} (h : s.Inv) (sl : Fin 64) (e : execDrainBound sl s = .next t) : t.Inv := by
  unfold execDrainBound at e
  dsimp only at e
  split at e
  · injection e with e; exact e ▸ ⟨Memory.wf_filter s.mem _ h.1, h.2⟩
  · injection e with e; exact e ▸ h

theorem execScanEntry_inv {s t : State} (h : s.Inv) (e : execScanEntry s = .next t) : t.Inv := by
  unfold execScanEntry at e
  split at e
  · injection e with e; exact e ▸ h
  · injection e with e; exact e ▸ ⟨rfl, h.2⟩

theorem execOprootWrite_inv {s t : State} (h : s.Inv) (v : Bytes) (e : execOprootWrite v s = .next t) : t.Inv := by
  unfold execOprootWrite at e
  dsimp only at e
  split at e <;> (injection e with e; exact e ▸ h)

theorem execRepairRecordWrite_inv {s t : State} (h : s.Inv) (e : execRepairRecordWrite s = .next t) : t.Inv := by
  unfold execRepairRecordWrite at e
  dsimp only at e
  split at e
  · injection e with e; exact e ▸ h
  · split at e <;> (injection e with e; exact e ▸ h)

theorem execFlitReceive_inv {s t : State} (h : s.Inv) (p : Fin 48) (flit : Bytes) (e : execFlitReceive p flit s = .next t) : t.Inv := by
  unfold execFlitReceive at e
  dsimp only at e
  split at e
  · injection e with e; exact e ▸ h
  · split at e
    · injection e with e; exact e ▸ h
    · injection e with e; exact e ▸ h.flitIn _ _ _

theorem execCamrisFrameReceive_inv {s t : State} (h : s.Inv) (p : Fin 48) (frame : Bytes) (e : execCamrisFrameReceive p frame s = .next t) :
    t.Inv := by
  unfold execCamrisFrameReceive at e
  dsimp only at e
  split at e
  · injection e with e; exact e ▸ h
  · injection e with e; exact e ▸ (h.put _).frameIn _ _

theorem execEthFrameReceive_inv {s t : State} (h : s.Inv) (p : Fin 48) (frame : Bytes) (e : execEthFrameReceive p frame s = .next t) : t.Inv := by
  unfold execEthFrameReceive at e
  dsimp only at e
  split at e
  · injection e with e; exact e ▸ h
  · split at e
    · injection e with e; exact e ▸ h
    · injection e with e; exact e ▸ h.ethIn _ _

theorem execCmdDoorbell_inv {s t : State} (h : s.Inv) (v : BitVec 32) (frame : Bytes) (e : execCmdDoorbell v frame s = .next t) : t.Inv := by
  unfold execCmdDoorbell at e
  dsimp only at e
  split at e
  · injection e with e; exact e ▸ h
  · split at e
    · injection e with e; exact e ▸ h
    · split at e
      · injection e with e; exact e ▸ h
      · injection e with e
        exact e ▸ ((h.put _).put _).serve _ _ _ fun u hu => hu.service _ _ _ _ _ _

theorem execObjectWrite_inv {s t : State} (h : s.Inv) (via : Via) (index : BitVec 16) (sub : BitVec 8) (v : Bytes)
    (e : execObjectWrite via index sub v s = .next t) : t.Inv := by
  unfold execObjectWrite at e
  injection e with e
  subst e
  refine h.serve via _ _ fun u hu => ?_
  have hitem := hu.writeItem via index.toNat sub.toNat v
  split
  · next u' st heq => rw [heq] at hitem; exact hitem
  · next u' heq => rw [heq] at hitem; exact hitem

theorem execResetReq_inv {s t : State} (h : s.Inv) (via : Via) (v : BitVec 8) (e : execResetReq via v s = .next t) : t.Inv := by
  unfold execResetReq at e
  injection e with e
  subst e
  refine h.serve via _ _ fun u hu => ?_
  dsimp only
  split
  · exact State.Inv.restart u
  · exact hu

theorem execPowerUp_inv {s t : State} (h : s.Inv) (e : execPowerUp s = .next t) : t.Inv := by
  unfold execPowerUp at e
  split at e <;> injection e with e
  · exact e ▸ State.Inv.restart s
  · exact e ▸ h

theorem execModuleReset_inv {s t : State} (h : s.Inv) (e : execModuleReset s = .next t) : t.Inv := by
  unfold execModuleReset at e
  dsimp only at e
  split at e <;> injection e with e
  · exact e ▸ h
  · exact e ▸ (State.Inv.wipe s stBoot).put _

theorem execModuleResetRelease_inv {s t : State} (h : s.Inv) (e : execModuleResetRelease s = .next t) : t.Inv := by
  unfold execModuleResetRelease at e
  split at e <;> injection e with e
  · exact e ▸ State.Inv.restart s
  · exact e ▸ h

theorem State.ringRow_inv {s t : State} (h : s.Inv) (ring : Ring) (frame : Bytes) (vtype : Nat) (e : s.ringRow ring frame vtype = .next t) :
    t.Inv := by
  unfold State.ringRow at e
  injection e with e
  subst e
  exact State.Inv.ite (h.ringIn _ _) h

theorem State.storeFrom_inv {s t : State} (h : s.Inv) (th : ThreadId) (f : Fields) (data : Bytes) (aligned : Bool)
    (e : s.storeFrom th f data aligned = .next t) : t.Inv := by
  obtain ⟨n, he⟩ | ⟨off, -, he⟩ := s.storeFrom_cases th f data aligned
  · injection he.symm.trans e with e; exact e ▸ h
  · injection he.symm.trans e with e; exact e ▸ h.writeMem _ _ _

/-- Every command keeps the invariant: those that change the node only leave the clock and memory, the others write memory and the clock canonically. -/
theorem exec_inv (c : Instr) {s t : State} (h : s.Inv) (e : exec c s = .next t) : t.Inv := by
  cases hc : c.beyondNode with
  | false =>
    obtain ⟨n, hn⟩ := exec_node c s hc
    injection hn.symm.trans e with e
    exact e ▸ h.withNode n
  | true =>
    cases c with
    | tickEdge i ns width => exact execTickEdge_inv h i ns width e
    | tickBoundary m => injection e with e; exact e ▸ ⟨h.1, Nat.mod_lt _ (Nat.two_pow_pos 64)⟩
    | roundBoundary => exact execRoundBoundary_inv h e
    | objectWrite via index sub v => exact execObjectWrite_inv h via index sub v e
    | itemStart r cell => exact execItemStart_inv h r cell e
    | itemCompletion th => exact execItemCompletion_inv h th e
    | endItem th f => exact execEndItem_inv h th f e
    | flitReceive p flit => exact execFlitReceive_inv h p flit e
    | camrisFrameReceive p frame => exact execCamrisFrameReceive_inv h p frame e
    | ethFrameReceive p frame => exact execEthFrameReceive_inv h p frame e
    | cmdDoorbell v frame => exact execCmdDoorbell_inv h v frame e
    | drainBound sl => exact execDrainBound_inv h sl e
    | fwStaged via image => injection e with e; exact e ▸ h.write via _ _ _ _ fun u hu => hu.fwStaged image
    | scanEntry => exact execScanEntry_inv h e
    | oprootWrite v => exact execOprootWrite_inv h v e
    | repairRecordWrite => exact execRepairRecordWrite_inv h e
    | ringFrameForward ring frame => injection e with e; exact e ▸ h.ringIn _ _
    | powerLoss => injection e with e; exact e ▸ State.Inv.wipe s 0
    | powerUp => exact execPowerUp_inv h e
    | moduleReset => exact execModuleReset_inv h e
    | resetReq via v => exact execResetReq_inv h via v e
    | moduleResetRelease => exact execModuleResetRelease_inv h e
    | st th f | stv th f | tst th f => exact State.storeFrom_inv h th f _ _ e
    | discover ring frame => exact State.ringRow_inv h ring frame _ e
    | beaconReceive ring frame => exact State.ringRow_inv h ring frame _ e
    | read ring frame => exact State.ringRow_inv h ring frame _ e
    | write ring frame => exact State.ringRow_inv h ring frame _ e
    | blockRead ring frame => exact State.ringRow_inv h ring frame _ e
    | blockWrite ring frame => exact State.ringRow_inv h ring frame _ e
    | describe ring frame => exact State.ringRow_inv h ring frame _ e
    | commit ring frame => exact State.ringRow_inv h ring frame _ e
    | awl ring frame => exact State.ringRow_inv h ring frame _ e
    | _ => cases hc

/-- Settles O3: nothing is listed in memory, and the tick is 0. -/
theorem resetInv : Obligations.ResetInv := ⟨rfl, Nat.two_pow_pos 64⟩

/-- Settles O4, by cases over the commands: an empty queue idles, and the command at the front of any other keeps the invariant. -/
theorem stepKeepsInv : Obligations.StepKeepsInv := by
  intro s t h e
  unfold step at e
  split at e
  · injection e with e; exact e ▸ h
  · next c rest _ => exact exec_inv c (s := { s with pending := rest }) h e

/-- Settles O1: `step` takes the command at the front off the queue and runs it. -/
theorem stepRunsFront : Obligations.StepRunsFront := fun _ _ => rfl

end Sys2Proof.Machine
end

section
/-!
The address space of a thread (Table 7-3): what an address may name, and that a tenant program writes its own scratch window only.
-/

namespace Sys2Proof.Machine

/-! ### What a thread's address may name (Table 7-3) -/

/-- What Table 7-3 lets `len` bytes at an address be for a thread. -/
def Node.allows (n : Node) (t : ThreadId) (addr len : Nat) (write : Bool) : Reach → Prop
  | .mem off => off = addr % 2 ^ 51 ∧ addr / 2 ^ 51 % 8 = 3 ∧ addr / 2 ^ 54 % 1024 = n.straps ∧ inCode off = false ∧
      ((n.thread t.key).program.isSome = true → threadWindow t ≤ off ∧ off + len ≤ threadWindow t + 8192) ∧
      ((n.thread t.key).program.isSome = false → regionOf off = t.region.val ∨ areaOf off = 2)
  | .payload _ => write = false
  | .box x _ => x = (n.thread t.key).session ∧ addr / 2 ^ 51 % 8 = 5
  | .away => addr / 2 ^ 54 % 1024 ≠ n.straps ∧ ((n.thread t.key).program.isSome = true → addr / 2 ^ 51 % 8 = 5)
  | .fault => True

/-- What an address names is allowed: by cases over the space, the node, the payload and the area that it lies in. -/
theorem Node.reach_allows (n : Node) (t : ThreadId) (addr len : Nat) (write : Bool) : n.allows t addr len write (n.reach t addr len write) := by
  unfold Node.reach
  dsimp only
  repeat' split
  all_goals simp_all [Node.allows]

/-- Settles O14, by cases over what an address names. -/
theorem reachTable : Obligations.ReachTable := by
  intro n t addr len write _
  have h := n.reach_allows t addr len write
  refine ⟨fun off e => ?_, fun off e => ?_, fun x b e => ?_, fun e => ?_⟩ <;> (rw [e] at h; exact h)

/-! ### The bytes that a thread's instruction changes -/

/-- A tenant's store changes no byte outside its scratch window (R193). -/
theorem State.storeFrom_window {s s' : State} {t : ThreadId} (f : Fields) (data : Bytes) (aligned : Bool)
    (ht : (s.node.thread t.key).program.isSome = true) (e : s.storeFrom t f data aligned = .next s') {b : Nat}
    (hb : b < threadWindow t ∨ threadWindow t + 8192 ≤ b) : Memory.byte s'.mem b = Memory.byte s.mem b := by
  obtain ⟨n, he⟩ | ⟨off, hreach, he⟩ := s.storeFrom_cases t f data aligned
  · injection he.symm.trans e with e; subst e; rfl
  · injection he.symm.trans e with e
    obtain ⟨-, -, -, -, hwindow, -⟩ : s.node.allows t _ _ _ (.mem off) := hreach ▸ s.node.reach_allows t _ _ _
    obtain ⟨hlo, hhi⟩ := hwindow ht
    subst e
    rw [Memory.byte_write, if_neg (by omega)]

/-- END changes no byte outside the thread's scratch window (R186). -/
theorem execEndItem_window {s s' : State} {t : ThreadId} (f : Fields) (e : exec (.endItem t f) s = .next s') {b : Nat}
    (hb : b < threadWindow t ∨ threadWindow t + 8192 ≤ b) : Memory.byte s'.mem b = Memory.byte s.mem b := by
  simp only [exec, execEndItem] at e
  split at e <;> (injection e with e; subst e)
  · exact (Memory.byte_clearMem s.mem _ _ b).trans (if_neg (by unfold threadWindow at hb; omega))
  · rfl

/-- A command that changes the node only leaves memory. -/
theorem exec_mem_of_node {c : Instr} {s s' : State} (hc : c.beyondNode = false) (e : exec c s = .next s') : s'.mem = s.mem := by
  obtain ⟨n, hn⟩ := exec_node c s hc
  injection hn.symm.trans e with e
  exact e ▸ rfl

/-- A row is one that changes the node only where every row of its list is. -/
theorem beyondNode_of_all {l : List Instr} (hl : (l.all fun c => !c.beyondNode) = true) {c : Instr} (hc : c ∈ l) : c.beyondNode = false := by
  simpa using List.all_eq_true.mp hl c hc

/-- Settles O15: the stores reach no further than the address rules of Table 7-3 let a tenant, END clears the window, and every other instruction
changes the node only. -/
theorem tenantWritesOwnWindow : Obligations.TenantWritesOwnWindow := by
  intro t f errs op a c s s' hc ht e b hb
  obtain rfl | hc := List.mem_cons.mp hc
  · exact State.storeFrom_window f _ _ ht e hb
  obtain rfl | hc := List.mem_cons.mp hc
  · exact State.storeFrom_window f _ _ ht e hb
  obtain rfl | hc := List.mem_cons.mp hc
  · exact State.storeFrom_window f _ _ ht e hb
  obtain rfl | hc := List.mem_cons.mp hc
  · exact execEndItem_window f e hb
  rw [exec_mem_of_node (beyondNode_of_all rfl hc) e]

end Sys2Proof.Machine
end

section
/-!
Bytes and sparse tables: lengths of byte lists, fields of a run read from memory, a table built from a range.
-/

namespace Sys2Proof

@[simp] theorem leBytes_length (n v : Nat) : (leBytes n v).length = n := by
  induction n generalizing v with
  | zero => rfl
  | succ n ih => simp [leBytes, ih]

@[simp] theorem sliceB_length (bs : Bytes) (off n : Nat) : (sliceB bs off n).length = n := by
  simp only [sliceB, List.length_append, List.length_replicate, List.length_take]
  omega

end Sys2Proof

namespace Sys2Proof.Machine

@[simp] theorem padTo_length (n : Nat) (bs : Bytes) : (padTo n bs).length = n := sliceB_length bs 0 n

/-- A run read from memory, without its first bytes, is the run from there on. -/
theorem Memory.drop_read (m : List Host.Cell) (i len a : Nat) : (Memory.read m a (i + len)).drop i = Memory.read m (a + i) len := by
  induction i generalizing a with
  | zero => simp
  | succ i ih =>
    rw [Nat.add_right_comm i 1 len, Memory.read, List.drop_succ_cons, ih, Nat.add_right_comm a 1 i, Nat.add_assoc a i 1]

/-- The first bytes of a run read from memory are a shorter run. -/
theorem Memory.take_read (m : List Host.Cell) (i len a : Nat) : (Memory.read m a (i + len)).take i = Memory.read m a i := by
  induction i generalizing a with
  | zero => simp [Memory.read]
  | succ i ih => rw [Nat.add_right_comm i 1 len, Memory.read, List.take_succ_cons, ih, Memory.read]

/-- A field of a run read from memory is the number at its place. -/
theorem Memory.fieldB_read (m : List Host.Cell) (a i n len : Nat) (h : i + n ≤ len) :
    fieldB (Memory.read m a len) i n = leNat (Memory.read m (a + i) n) := by
  obtain ⟨k, rfl⟩ := Nat.exists_eq_add_of_le h
  rw [fieldB, Nat.add_assoc i n k, Memory.drop_read, Memory.take_read]

/-- A table that lists the nonzero values of a function on a list of distinct keys reads that function there, and 0 elsewhere. -/
theorem Map.get_filter_map (g : Nat → Nat) (l : List Nat) (k : Nat) :
    Map.get 0 ((l.map fun i => (i, g i)).filter fun e => e.2 != 0) k = if k ∈ l then g k else 0 := by
  induction l with
  | nil => rfl
  | cons a l ih =>
    rw [List.map_cons, List.filter_cons]
    by_cases hg : g a = 0
    · rw [if_neg (by simp [hg]), ih]
      by_cases hk : k = a
      · subst hk; simp [hg]
      · simp [hk]
    · rw [if_pos (by simpa using hg), Map.get]
      by_cases hk : a = k
      · subst hk; simp
      · rw [if_neg hk, ih]; simp [Ne.symm hk]

end Sys2Proof.Machine
end

section
/-!
Instructions over a thread's registers: the registers themselves, SCALAR, CONTROL, fences, VECTOR, MATRIX and END (R186, R196, R200 to R202).
-/

namespace Sys2Proof.Machine

/-! ### Registers -/

theorem Thread.getV_setV_ne (t : Thread) {i j : Nat} (lanes : List Nat) (h : j ≠ i) : (t.setV i lanes).getV j = t.getV j := by
  unfold Thread.setV
  split
  · simp [Thread.getV, Map.get_set_ne _ _ _ _ _ _ h]
  · rfl

theorem Thread.getV_setV_self (t : Thread) {i : Nat} {lanes : List Nat} (hl : lanes.length = 64) (hi : i < 16) : (t.setV i lanes).getV i = lanes := by
  simp only [Thread.setV, Thread.getV, if_pos hi, Map.get_set, if_true]
  split
  · next hz =>
    have hzero : ∀ x ∈ lanes, x = 0 := by simpa using hz
    refine List.ext_getElem (by simp [hl]) fun l _ h2 => ?_
    rw [hzero _ (List.getElem_mem h2), List.getElem_map]
    rfl
  · refine List.ext_getElem (by simp [hl]) fun l _ h2 => ?_
    simp [List.getD, List.getElem?_eq_getElem h2]

/-- Settles O7: a write is read back in its own register and leaves every other (Table 7-1). -/
theorem threadRegisters : Obligations.ThreadRegisters := by
  intro th i j v lanes
  refine ⟨rfl, rfl, fun hi => ?_, fun hj => ?_, th.setX_pc i v, th.setX_v i v, th.setX_acc i v, fun hl hi => ?_⟩
  · rw [Thread.getX_setX, if_pos ⟨rfl, hi⟩]
  · rw [Thread.getX_setX, if_neg fun h => hj h.1]
  · exact ⟨th.getV_setV_self hl hi, th.getV_setV_ne lanes, th.setV_x i lanes, th.setV_pc i lanes, th.setV_acc i lanes⟩

/-! ### SCALAR -/

theorem shiftLeft_of_lt {b : Nat} (a : Nat) (h : b < 64) : shiftLeft a b = a * 2 ^ b := if_pos h

theorem shiftRight_of_lt (m : Nat) {a b : Nat} (hb : b < 64) (ha : a < 2 ^ 63) : shiftRight m a b = a / 2 ^ b := by
  rw [shiftRight, if_neg (by omega), if_pos (.inl ha)]

/-- Two scalars whose top bits are clear are ordered as numbers, signed or not. -/
theorem scalarLt_of_lt (m : Nat) {a b : Nat} (ha : a < 2 ^ 63) (hb : b < 2 ^ 63) : scalarLt m a b = decide (a < b) := by
  rw [scalarLt, if_pos (.inl (by rw [Nat.div_eq_of_lt ha, Nat.div_eq_of_lt hb]))]

theorem immValue_mod (m : Nat) (imm : BitVec 32) : immValue m imm % 2 ^ 32 = imm.toNat := by
  have := imm.isLt
  unfold immValue
  split <;> omega

/-- Settles O6: each operation by the model's function for it; a value and its low 64 bits write the same register. -/
theorem scalarResult : Obligations.ScalarResult := by
  intro t f s h th a b done
  have run (op : Nat → Nat → Nat) : s.scalar t f op = done (op a b) := s.scalar_eq t f op h
  have runMod (op : Nat → Nat → Nat) : s.scalar t f op = done (op a b % 2 ^ 64) := by
    rw [run op]
    simp only [done, Thread.setX_mod]
  refine ⟨runMod (· + ·), runMod fun a b => a + 2 ^ 64 - b, runMod (· * ·), run (· &&& ·), run (· ||| ·), run (· ^^^ ·), ⟨_, runMod shiftLeft, fun hb => by rw [shiftLeft_of_lt a hb]⟩,
    ⟨_, run (shiftRight f.mod.val), fun hb ha => shiftRight_of_lt _ hb ha⟩,
    ⟨_, run fun a b => if scalarLt f.mod.val b a then b else a, ?_, fun ha hb => ?_⟩,
    ⟨_, run fun a b => if scalarLt f.mod.val a b then b else a, ?_, fun ha hb => ?_⟩,
    ⟨_, s.issue_eq t _ h, immValue_mod _ _, fun hi => if_pos (.inl hi)⟩⟩
  · split
    · exact .inr rfl
    · exact .inl rfl
  · simp only [scalarLt_of_lt _ hb ha, decide_eq_true_eq, Nat.min_def]
    split <;> split <;> omega
  · split
    · exact .inr rfl
    · exact .inl rfl
  · simp only [scalarLt_of_lt _ ha hb, decide_eq_true_eq, Nat.max_def]
    split <;> split <;> omega

/-! ### CONTROL and fences -/

/-- A fence whose accesses have completed lets the thread move on. -/
theorem State.fence_done (s : State) {t : ThreadId} (done : Thread → Bool) (h : s.node.issues t.key = true)
    (hd : done (s.node.thread t.key) = true) : s.fence t done = .next (s.withThread t.key (s.node.thread t.key).next) := by
  rw [State.fence, h, hd]; rfl

/-- A fence whose accesses have not completed waits. -/
theorem State.fence_waits (s : State) {t : ThreadId} (done : Thread → Bool) (hd : done (s.node.thread t.key) = false) : s.fence t done = .next s := by
  rw [State.fence, hd, Bool.and_false]; rfl

/-- Settles O8: branches and LOOP set the pc, a fence moves on or waits by its own condition. -/
theorem controlAndFences : Obligations.ControlAndFences := by
  intro t f s h
  dsimp only [exec, execBr, execBrc, execLoop, execFenceL, execFenceF, execFenceN]
  refine ⟨s.jump_eq t _ h, ?_, ⟨_, _, Nat.mod_lt _ (Nat.two_pow_pos 32), s.jump_eq t _ h⟩, s.fence_done _ h rfl, fun hr => s.fence_done _ h ?_,
    fun hr => s.fence_waits _ ?_, fun ht => s.fence_done _ h ?_, fun ht => s.fence_waits _ ?_⟩
  · rw [s.jump_eq t _ h]
    split <;> rfl
  · simpa using hr
  · simpa using hr
  · simpa using ht
  · simpa using ht

/-! ### END -/

/-- END of a thread whose item, if a tenant's, has every row and head written clears the thread's record (R186, R202). -/
theorem Node.threadEnd_of_written {n : Node} {now key : Nat}
    (hw : ∀ q it, n.itemOf (n.thread key) = some (q, it) → (n.thread key).program.isSome = true →
      ∀ e ∈ it.rowHeads q.req, e ∈ (n.thread key).written) :
    n.threadEnd now key = n.setThread key
      { n.thread key with ended := true, pc := 0, x := [], v := [], acc := [], facets := [], facetHold := [] } := by
  unfold Node.threadEnd
  dsimp only
  split
  · next p q it hp hi =>
    rw [if_pos]
    simpa using hw q it hi (by rw [hp]; rfl)
  · rfl

/-- Settles O9: the record that END leaves reads 0 in every register, and memory is cleared in the window only. -/
theorem endResult : Obligations.EndResult := by
  intro t f s h hw
  refine ⟨{ s.node.thread t.key with ended := true, pc := 0, x := [], v := [], acc := [], facets := [], facetHold := [] },
    clearMem s.mem (threadWindow t) 8192, ?_, rfl, rfl, fun i => ?_, fun r c => rfl, fun i hi l hl => ?_, fun a h1 h2 => ?_, fun a ha => ?_⟩
  · simp only [exec, execEndItem, h, if_true, Node.threadEnd_of_written hw, threadWindow]
  · simp [Thread.getX]
  · simp only [Thread.getV, if_pos hi, List.mem_map] at hl
    obtain ⟨k, -, rfl⟩ := hl
    rfl
  · exact (Memory.byte_clearMem s.mem _ _ a).trans (if_pos ⟨h1, h2⟩)
  · exact (Memory.byte_clearMem s.mem _ _ a).trans (if_neg (by omega))

/-! ### VECTOR -/

/-- The lanes of a function over three registers, of which the first two go in as a pair. -/
theorem zipWith_zip_getD (g : Nat → Nat → Nat → Nat) {a b d : List Nat} (ha : a.length = 64) (hb : b.length = 64) (hd : d.length = 64) {l : Nat}
    (hl : l < 64) : (List.zipWith (fun (p : Nat × Nat) c => g p.1 p.2 c) (a.zip b) d).getD l 0 = g (a.getD l 0) (b.getD l 0) (d.getD l 0) := by
  simp [List.getD, ha, hb, hd, hl]

theorem map_getD_lane (g : Nat → Nat) {a : List Nat} (ha : a.length = 64) {l : Nat} (hl : l < 64) : (a.map g).getD l 0 = g (a.getD l 0) := by
  simp [List.getD, ha, hl]

theorem reduced_length (x : Nat) : (reduced x).length = 64 := by simp [reduced]

/-- Settles O10: lane by lane; that VFMA adds to vRD, VSEL's condition, VBCAST's source and the lanes a reduction leaves are the model's readings (log
entry 117). -/
theorem vectorResult : Obligations.VectorResult := by
  intro t f s h
  have ha := (s.node.thread t.key).getV_length f.ra.val
  have hb := (s.node.thread t.key).getV_length f.rb.val
  have hd := (s.node.thread t.key).getV_length f.rd.val
  refine ⟨⟨_, s.vector_eq t f _ h, by simp, fun l hl => zipWith_getD _ _ _ ha hb l hl⟩, ⟨_, s.vector_eq t f _ h, by simp, fun l hl => zipWith_getD _ _ _ ha hb l hl⟩,
    ⟨_, s.vector_eq t f _ h, by simp, fun l hl => zipWith_zip_getD f32Fma ha hb hd hl⟩,
    ⟨_, s.vector_eq t f _ h, by simp, fun l hl => zipWith_getD _ _ _ ha hb l hl⟩,
    ⟨_, s.vector_eq t f _ h, by simp, fun l hl => ?_⟩, ⟨_, s.vector_eq t f _ h, by simp, fun l hl => ?_⟩,
    ⟨_, s.vector_eq t f _ h, reduced_length _, rfl⟩, ⟨_, s.vector_eq t f _ h, reduced_length _, rfl⟩,
    ⟨_, s.vector_eq t f _ h, by simp, fun l hl => map_getD_lane _ ha hl⟩, ⟨_, s.vector_eq t f _ h, by simp, fun l hl => map_getD_lane _ ha hl⟩,
    ⟨_, s.vector_eq t f _ h, by simp, fun hf l hl => ?_⟩⟩
  · rw [zipWith_zip_getD (selectLane f.mod.val) ha hb hd hl]
    unfold selectLane
    split
    · exact .inl rfl
    · exact .inr rfl
  · rw [List.getD_replicate _ hl, List.getD_replicate _ (by decide)]
  · rw [map_getD_lane _ ha hl, convertLane, if_pos hf]

/-! ### MATRIX -/

/-- An element of ACC after an MMA in a format for which R201 gives K. -/
theorem mmaAcc_get {fmt : Nat} (t : Thread) (a b : Tile) (h1 : 1 ≤ fmt) (h4 : fmt ≤ 4) {r c : Nat} (hr : r < 32) (hc : c < 32) :
    Map.get 0 (mmaAcc fmt t a b) (r * 32 + c) = accumulate (t.getAcc r c) (a.row fmt r) (b.row fmt c) := by
  have hdiv : (r * 32 + c) / 32 = r := by omega
  have hmod : (r * 32 + c) % 32 = c := by omega
  unfold mmaAcc
  refine (Map.get_filter_map (fun i => if 1 ≤ fmt ∧ fmt ≤ 4 then accumulate (t.getAcc (i / 32) (i % 32)) (a.row fmt (i / 32)) (b.row fmt (i % 32))
    else Config.open 128 (t.getAcc (i / 32) (i % 32) * 1024 + i) % 2 ^ 32) (List.range 1024) (r * 32 + c)).trans ?_
  rw [if_pos (List.mem_range.mpr (by omega)), if_pos ⟨h1, h4⟩, hdiv, hmod]

/-- MMA puts the accumulator and moves on. -/
theorem exec_mma (s : State) (t : ThreadId) (f : Fields) (h : s.node.issues t.key = true) :
    exec (.mma t f) s = .next (s.withThread t.key
      (Thread.next { s.node.thread t.key with
        acc := mmaAcc f.fmt.val (s.node.thread t.key) (s.node.tile t.key f.ra.val) (s.node.tile t.key f.rb.val) })) := by
  dsimp only [exec, execMma]
  rw [s.issue_eq t _ h]

/-- Settles O11: MMA element by element; which two rows ACC.RD reads is free (log entry 118). -/
theorem matrixResult : Obligations.MatrixResult := by
  intro t f s h th
  have hacc := fun h1 h4 r c hr hc => mmaAcc_get (fmt := f.fmt.val) th (s.node.tile t.key f.ra.val) (s.node.tile t.key f.rb.val) h1 h4 (r := r) (c := c) hr hc
  have hmma := exec_mma s t f h
  generalize mmaAcc f.fmt.val th (s.node.tile t.key f.ra.val) (s.node.tile t.key f.rb.val) = acc at hacc hmma
  refine ⟨⟨_, hmma, rfl, rfl, rfl, hacc⟩, ⟨_, s.issue_eq t _ h, rfl, rfl, rfl, fun r c => rfl⟩, ⟨_, Nat.mod_lt _ (by decide), s.vector_eq t f _ h⟩⟩

end Sys2Proof.Machine
end

section
/-!
Instructions that reach memory, the item or the near-bank queues: loads and stores of on-die memory, program faults, IARG, PART.WR and NBC.
-/

namespace Sys2Proof.Machine

/-! ### Loads and stores -/

theorem Node.retire_id (n : Node) (k : Nat) : n.retire k id = n.setThread k (n.thread k).next := rfl

/-- A load of on-die memory lands the bytes at the address in the register. -/
theorem State.loadTo_mem (s : State) {t : ThreadId} {f : Fields} {kind len off : Nat} {aligned : Bool} (h : s.node.issues t.key = true)
    (ha : aligned = true) (hr : s.node.reach t ((s.node.thread t.key).address f) len false = .mem off) :
    s.loadTo t f kind len aligned = .next (s.withNode ((s.node.retire t.key id).land t.key kind f.rd.val f.mod.val (Memory.read s.mem off len))) := by
  unfold State.loadTo
  simp only [h, ha, hr]
  rfl

/-- A store to on-die memory writes the bytes at the address. -/
theorem State.storeFrom_mem (s : State) {t : ThreadId} {f : Fields} {data : Bytes} {off : Nat} {aligned : Bool} (h : s.node.issues t.key = true)
    (ha : aligned = true) (hr : s.node.reach t ((s.node.thread t.key).address f) data.length true = .mem off) :
    s.storeFrom t f data aligned = .next { s with node := s.node.setThread t.key (s.node.thread t.key).next, mem := Memory.write s.mem off data } := by
  unfold State.storeFrom
  simp only [h, ha, hr]
  rfl

theorem tileAligned_of_mod {a : Nat} (h : a % 2048 = 0) : tileAligned a = true := by simp [tileAligned, h]

/-- A value that lands in a scalar register after the thread has moved on. -/
theorem Node.land_scalar (n : Node) (k rd m : Nat) (bs : Bytes) :
    (n.retire k id).land k 0 rd m bs = n.setThread k ((n.thread k).next.setX rd (ldExtend m bs)) := by
  simp [Node.land, Node.retire_id]

/-- 256 bytes that land in a vector register after the thread has moved on. -/
theorem Node.land_vector (n : Node) (k rd m : Nat) (bs : Bytes) :
    (n.retire k id).land k 1 rd m bs = n.setThread k ((n.thread k).next.setV rd (lanesOf bs)) := by
  simp [Node.land, Node.retire_id]

/-- A tile register that was granted, after a tile is put in it. -/
theorem Node.tile_setTile (n : Node) (k i : Nat) (x : Tile) (hi : i < (n.thread k).tiles.length) : (n.setTile k i x).tile k i = x := by
  have hkey : (n.thread k).tileKey k i = some (k / 16 * 16 + (n.thread k).tiles[i]) := by simp [Thread.tileKey, hi]
  have hset : n.setTile k i x = { n with cells := { n.cells with tiles := Map.set {} n.cells.tiles (k / 16 * 16 + (n.thread k).tiles[i]) x } } := by
    simp only [Node.setTile, hkey]
  have hthread : (n.setTile k i x).thread k = n.thread k := by rw [hset]; rfl
  simp only [Node.tile, hthread, hkey]
  rw [hset]
  simp

theorem Node.thread_setTile (n : Node) (k i j : Nat) (x : Tile) : (n.setTile k i x).thread j = n.thread j := by
  unfold Node.setTile
  split <;> rfl

theorem Node.thread_draw (n : Node) (len k : Nat) : (n.draw len).2.thread k = n.thread k := rfl

/-- Settles O12: the bytes at the address land in the register, the thread moves on, and memory is as before. -/
theorem loadResult : Obligations.LoadResult := by
  intro t f s off h th at_
  refine ⟨fun ha hr => ?_, fun ha hr => ?_, fun ha hr hrd => ?_⟩
  · have hld : exec (.ld t f) s = _ := s.loadTo_mem (kind := 0) h (by simpa using ha) hr
    rw [hld, Node.land_scalar]
    rfl
  · have hld : exec (.ldv t f) s = _ := s.loadTo_mem (kind := 1) h (by simpa using ha) hr
    refine ⟨lanesOf (Memory.read s.mem off 256), by rw [hld, Node.land_vector]; rfl, by simp [lanesOf], fun l hl => ?_⟩
    rw [← Memory.fieldB_read s.mem off (4 * l) 4 256 (by omega)]
    simp [lanesOf, List.getD, hl]
  · have hld : exec (.tldMem t f) s = _ := s.loadTo_mem (kind := 2) h (tileAligned_of_mod ha) hr
    have hthread : ((s.node.retire t.key id).draw 128).2.thread t.key = th.next := by
      rw [Node.thread_draw, Node.retire_id, Node.thread_setThread, if_pos rfl]
    refine ⟨_, hld, ?_, ?_⟩
    · exact congrArg Tile.data (Node.tile_setTile ((s.node.retire t.key id).draw 128).2 t.key f.rd.val _ (by rw [hthread]; exact hrd))
    · exact (Node.thread_setTile ((s.node.retire t.key id).draw 128).2 t.key f.rd.val t.key _).trans hthread

/-- Memory after a run of bytes is stored: the bytes inside the run, the old ones outside. -/
theorem Memory.write_spec (m : List Host.Cell) (off : Nat) (bs : Bytes) :
    (∀ i, i < bs.length → Memory.byte (Memory.write m off bs) (off + i) = bs.getD i 0) ∧
    (∀ a, a < off ∨ off + bs.length ≤ a → Memory.byte (Memory.write m off bs) a = Memory.byte m a) := by
  refine ⟨fun i hi => ?_, fun a ha => ?_⟩
  · rw [Memory.byte_write, if_pos (by omega), Nat.add_sub_cancel_left]
  · rw [Memory.byte_write, if_neg (by omega)]

/-- Settles O5: a byte inside the run is the one written, a byte outside is the old one, and the form stays canonical. -/
theorem memoryWrite : Obligations.MemoryWrite := fun m off bs h => ⟨Memory.wf_write bs m off h, Memory.write_spec m off bs⟩

theorem lanes_flatMap_length (l : List Nat) : (l.flatMap (leBytes 4)).length = 4 * l.length := by
  simp [List.length_flatMap, Nat.mul_comm]

/-- Settles O13: the stored run is read back, every other byte is as before; that a tile's scales are not stored is log entry 114. -/
theorem storeResult : Obligations.StoreResult := by
  intro t f s off h th at_
  refine ⟨fun ha hr => ⟨_, s.storeFrom_mem h (by simpa using ha) (by rwa [leBytes_length]), Memory.write_spec _ _ _⟩,
    fun ha hr => ⟨_, s.storeFrom_mem h (by simpa using ha) ?_, Memory.write_spec _ _ _⟩,
    fun ha hr => ⟨_, s.storeFrom_mem h (tileAligned_of_mod ha) (by rwa [padTo_length]), Memory.write_spec _ _ _⟩⟩
  rw [lanes_flatMap_length, Thread.getV_length]
  exact hr

/-! ### Program faults -/

theorem Node.programFault_tenant (n : Node) (now k : Nat) (h : (n.thread k).program.isSome = true) :
    n.programFault now k = n.trap now k stFormat 0x40 := if_pos h

/-- A load that is misaligned or names what Table 7-3 forbids is a program fault. -/
theorem State.loadTo_fault (s : State) {t : ThreadId} {f : Fields} {kind len : Nat} {aligned : Bool} (h : s.node.issues t.key = true)
    (hf : aligned = false ∨ s.node.reach t ((s.node.thread t.key).address f) len false = .fault) :
    s.loadTo t f kind len aligned = .next (s.withNode (s.node.programFault s.clock.tick t.key)) := by
  unfold State.loadTo
  rcases hf with rfl | hf
  · simp only [h]; rfl
  · cases aligned
    · simp only [h]; rfl
    · simp only [h, hf]; rfl

/-- A store that is misaligned or names what Table 7-3 forbids is a program fault. -/
theorem State.storeFrom_fault (s : State) {t : ThreadId} {f : Fields} {data : Bytes} {aligned : Bool} (h : s.node.issues t.key = true)
    (hf : aligned = false ∨ s.node.reach t ((s.node.thread t.key).address f) data.length true = .fault) :
    s.storeFrom t f data aligned = .next (s.withNode (s.node.programFault s.clock.tick t.key)) := by
  unfold State.storeFrom
  rcases hf with rfl | hf
  · simp only [h]; rfl
  · cases aligned
    · simp only [h]; rfl
    · simp only [h, hf]; rfl

/-- Settles O16: a tenant's program fault is a trap with FORMAT and DETAIL 0x40. -/
theorem programFault : Obligations.ProgramFault := by
  intro t f op a s h ht
  dsimp only
  rw [← s.node.programFault_tenant s.clock.tick t.key ht]
  refine ⟨fun hf => s.loadTo_fault h (hf.imp_left (by simp)), fun hf => s.storeFrom_fault h ?_, fun hf => s.loadTo_fault h (hf.imp_left (by simp)),
    fun hf => s.storeFrom_fault h ?_, ?_⟩
  · rw [leBytes_length]
    exact hf.imp_left (by simp)
  · rw [lanes_flatMap_length, Thread.getV_length]
    exact hf.imp_left (by simp)
  · dsimp only [exec, execNbc, Node.nbcIssue]
    rw [if_pos h, if_pos ht, State.on_eq]

/-! ### IARG and PART.WR -/

theorem exec_iarg (s : State) {t : ThreadId} (f : Fields) {q : Admitted} {it : Item} (h : s.node.issues t.key = true)
    (hi : s.node.itemOf (s.node.thread t.key) = some (q, it)) :
    exec (.iarg t f) s = .next (s.withThread t.key ((s.node.thread t.key).setX f.rd.val (s.node.itemArg t q it f.imm.toNat)).next) := by
  dsimp only [exec, execIarg]
  rw [hi]
  exact s.issue_eq t _ h

/-- The first two lanes that PART.WR takes are those of vRD. -/
theorem Thread.lanesFrom_getD (t : Thread) (i count l : Nat) (hl : l < count) (h64 : l < 64) : (t.lanesFrom i count).getD l 0 = (t.getV i).getD l 0 := by
  simp [Thread.lanesFrom, List.getD, hl, Nat.div_eq_of_lt h64, Nat.mod_eq_of_lt h64]

/-- Settles O19: a field of Table 7-8 by its index; PART.WR records the partial of a row and head once (its operands are log entry 123). -/
theorem itemInstructions : Obligations.ItemInstructions := by
  refine ⟨fun t f s q it h hi => ?_, fun t f s q it h => ?_⟩
  · dsimp only
    refine ⟨_, exec_iarg s f h hi, ?_⟩
    refine ⟨fun e => ?_, fun e => ?_, fun e => ?_, fun e => ?_, fun e => ?_, fun e => ?_, fun e => ?_, fun e => ?_, fun e => ?_, fun e => ?_,
      fun e ht => ?_, fun p hp hv => ?_⟩
    case refine_12 =>
      have hne : ∀ k, k < 16 → f.imm.toNat ≠ k := fun k hk e => by omega
      simp only [Node.itemArg, hne 0 (by decide), hne 1 (by decide), hne 2 (by decide), hne 3 (by decide), hne 4 (by decide), hne 5 (by decide),
        hne 6 (by decide), hne 7 (by decide), hne 8 (by decide), hne 9 (by decide), hne 10 (by decide), hne 11 (by decide), if_false, hv, if_pos hp]
    all_goals simp [Node.itemArg, e]
    simp [ht]
  · intro th e hi he
    refine ⟨fun hw => ?_, fun hw ht => ?_⟩
    · have ho : 2 ≤ (if Config.open 133 0 % 2 = 0 then 2 else 64) := by split <;> decide
      have hexec : exec (.partWr t f) s = .next (s.withNode (s.node.partWr s.clock.tick t f)) := by
        dsimp only [exec, execPartWr]
        rw [if_pos h, State.on_eq]
      rw [hexec, Node.partWr, hi]
      dsimp only
      rw [if_neg (by simp only [Bool.not_eq_true', not_or]; simpa [e] using And.intro he hw)]
      refine ⟨_, rfl, rfl, ?_, ?_, ?_, rfl⟩
      · exact Thread.lanesFrom_getD _ _ _ _ (by omega) (by decide)
      · exact Thread.lanesFrom_getD _ _ _ _ (by omega) (by decide)
      · simp [Thread.lanesFrom]
    · dsimp only [exec, execPartWr]
      rw [if_pos h, State.on_eq, Node.partWr, hi]
      dsimp only
      rw [if_pos (.inr (by simpa using hw)), Node.programFault_tenant _ _ _ ht]

/-! ### NBC -/

/-- Queuing one command on channels of a stack: behind what waits on each of them, and nothing on any other queue. -/
theorem Node.queue_command_eq (n : Node) (b : Nat) (c : NbCommand) (chs : List Nat) (hch : chs.Nodup) :
    ∃ qs, (n.foldl chs fun n ch => { n with stk := { n.stk with queues := Map.set [] n.stk.queues (b + ch) (Map.get [] n.stk.queues (b + ch) ++ [c]) } }) =
        { n with stk := { n.stk with queues := qs } } ∧
      (∀ ch ∈ chs, Map.get [] qs (b + ch) = Map.get [] n.stk.queues (b + ch) ++ [c]) ∧
      ∀ k, (∀ ch ∈ chs, k ≠ b + ch) → Map.get [] qs k = Map.get [] n.stk.queues k := by
  induction chs generalizing n with
  | nil => exact ⟨n.stk.queues, rfl, by simp, fun _ _ => rfl⟩
  | cons a rest ih =>
    obtain ⟨hnot, hrest⟩ := List.nodup_cons.mp hch
    obtain ⟨qs, he, hin, hout⟩ := ih { n with stk := { n.stk with queues := Map.set [] n.stk.queues (b + a) (Map.get [] n.stk.queues (b + a) ++ [c]) } } hrest
    refine ⟨qs, he, fun ch hmem => ?_, fun k hk => ?_⟩
    · rcases List.mem_cons.mp hmem with rfl | hmem
      · rw [hout _ fun x hx e => hnot (by rwa [Nat.add_left_cancel e]), Map.get_set, if_pos rfl]
      · rw [hin ch hmem, Map.get_set, if_neg fun e => hnot ((Nat.add_left_cancel e : ch = a) ▸ hmem)]
    · rw [hout k fun x hx => hk x (List.mem_cons_of_mem _ hx), Map.get_set, if_neg (hk a List.mem_cons_self)]

theorem nbChannels_nodup (a : NbArgs) : (nbChannels a).Nodup := List.nodup_range.filter _

/-- Issuing an allowed command (R263): its number, and the node with the command behind what waits on each channel that it touches. -/
theorem Node.issueCommand_allowed (n : Node) (now op : Nat) (a : NbArgs) (w : Bool) (issuer : Nat) (h : nbAllowed op a = true) :
    ∃ qs, n.issueCommand now op a w issuer = (some n.stk.cmdNext, { n with stk := { n.stk with cmdNext := n.stk.cmdNext + 1, queues := qs } }) ∧
      ∀ ch ∈ nbChannels a, Map.get [] qs (a.stack.val * 32 + ch) = Map.get [] n.stk.queues (a.stack.val * 32 + ch) ++
        [{ op := op, args := a, workClass := w, issuer := issuer, id := n.stk.cmdNext }] := by
  unfold Node.issueCommand
  dsimp only
  rw [if_neg (by simp [h])]
  obtain ⟨qs, he, hin, -⟩ := Node.queue_command_eq { n with stk := { n.stk with cmdNext := n.stk.cmdNext + 1 } } (a.stack.val * 32)
    { op := op, args := a, workClass := w, issuer := issuer, id := n.stk.cmdNext } (nbChannels a) (nbChannels_nodup a)
  exact ⟨qs, by rw [he], hin⟩

/-- Settles O20: the command waits last on each of its channels, and the thread's fences wait for its token; that commands count up from 0 is log entry 15. -/
theorem nbcResult : Obligations.NbcResult := by
  intro t f op a s h hp ha
  obtain ⟨qs, he, hq⟩ := s.node.issueCommand_allowed s.clock.tick op.toNat a true t.key ha
  have hexec : exec (.nbc t f op a) s = .next (s.withNode (Node.retire { s.node with stk := { s.node.stk with cmdNext := s.node.stk.cmdNext + 1, queues := qs } }
      t.key fun th => { th with tokensOut := th.tokensOut ++ [s.node.stk.cmdNext] })) := by
    dsimp only [exec, execNbc, Node.nbcIssue]
    rw [if_pos h, if_neg (by simp [hp]), he, State.on_eq]
    rfl
  refine ⟨_, hexec, ?_, ?_, rfl, fun ch hch => ⟨_, rfl, rfl, rfl, rfl, hq ch hch⟩⟩
  · simp only [Node.retire, Node.thread_setThread, if_true]; rfl
  · simp only [Node.retire, Node.thread_setThread, if_true]; rfl

end Sys2Proof.Machine
end

section
/-!
Near-bank commands (O21 to O24): what runs of lines of a constant leave in the stacks, and what the return of a token leaves as it is.
-/

namespace Sys2Proof.Machine

/-! ### Commands run whole -/

theorem Node.reg_bump (n : Node) (k j : Nat) (hj : j = k) : (n.bump k).reg j = (n.reg k + 1) % 2 ^ 64 := by
  subst hj
  simp [Node.bump, Node.bumpBy]

theorem Node.token_reg_commands (n : Node) (now : Nat) (c : NbCommand) (st done : Nat) :
    (n.token now c st done).reg Reg.commands = (n.reg Reg.commands + 1) % 2 ^ 64 :=
  Node.reg_bump _ _ _ rfl

/-- A returned token is the last of those kept. -/
theorem Node.token_mem (n : Node) (now : Nat) (c : NbCommand) (st done : Nat) :
    ({ fenceId := c.args.fenceId.toNat, status := st, linesDone := done, tick := now } : FenceToken) ∈ (n.token now c st done).stk.tokens :=
  List.mem_append_right _ List.mem_cons_self

/-- Each row of Table 10-6 runs its whole command. -/
theorem exec_nbRow (e : (NbArgs → Instr) × Nat × (NbArgs → NbArgs)) (he : e ∈ nbRows) (c : NbArgs) (s : State) :
    exec (e.1 c) s = .next (s.withNode (s.node.nbWhole s.clock.tick e.2.1 (e.2.2 c))) := by
  revert e
  simp only [nbRows, List.forall_mem_cons]
  refine ⟨?_, ?_, ?_, ?_, ?_, ?_, ?_, ?_, ?_, ?_, ?_, ?_, ?_, ?_, ?_, ?_, fun _ h => nomatch h⟩ <;> exact State.on_eq s _

/-- No row changes how many lines its command has. -/
theorem nbRow_lines (e : (NbArgs → Instr) × Nat × (NbArgs → NbArgs)) (he : e ∈ nbRows) (c : NbArgs) : (e.2.2 c).lines = c.lines := by
  revert e
  simp [nbRows]

/-- A whole command that the queue takes and no source stops (R264, R270). -/
theorem Node.nbWhole_run (n : Node) (now op : Nat) (a : NbArgs) (r : NbRun) (hs : n.stopped = false) (ha : nbAllowed op a = true)
    (he : ({ n with stk := { n.stk with cmdNext := n.stk.cmdNext + 1 } } : Node).nbRun op a (List.range a.lines.toNat) = r) (hr : r.stopped = none) :
    n.nbWhole now op a = r.node.token now { op := op, args := a, id := n.stk.cmdNext } r.status r.done := by
  unfold Node.nbWhole
  rw [if_neg (by simp [hs])]
  dsimp only
  rw [if_neg (by simp [ha]), he, hr]

/-- A whole command that the queue refuses (R264). -/
theorem Node.nbWhole_refused (n : Node) (now op : Nat) (a : NbArgs) (hs : n.stopped = false) (ha : nbAllowed op a = false) :
    n.nbWhole now op a = ({ n with stk := { n.stk with cmdNext := n.stk.cmdNext + 1 } } : Node).token now
      { op := op, args := a, id := n.stk.cmdNext } 4 0 := by
  unfold Node.nbWhole
  rw [if_neg (by simp [hs])]
  dsimp only
  rw [if_pos (by simp [ha])]

/-- Settles O21: the run of a row's command, then its token. -/
theorem nbCommands : Obligations.NbCommands := by
  intro e he c s hs a r
  constructor
  · intro ha hr
    have hst : r.status = if r.poisoned then 1 else 0 := by simp [NbRun.status, hr]
    refine ⟨_, { fenceId := a.fenceId.toNat, status := r.status, linesDone := r.done, tick := s.clock.tick }, exec_nbRow e he c s, ?_⟩
    rw [Node.nbWhole_run s.node s.clock.tick e.2.1 a r hs ha (by rw [nbRow_lines e he c]) hr]
    exact ⟨rfl, rfl, Node.token_mem .., rfl, hst, rfl, rfl, Node.token_reg_commands ..⟩
  · intro ha
    refine ⟨_, { fenceId := a.fenceId.toNat, status := 4, linesDone := 0, tick := s.clock.tick }, exec_nbRow e he c s, ?_⟩
    rw [Node.nbWhole_refused s.node s.clock.tick e.2.1 a hs ha]
    exact ⟨rfl, rfl, Node.token_mem .., rfl, rfl, rfl⟩

/-! ### One line -/

theorem src_ne_of_line (a : NbArgs) (h : a.src.toNat < 2 ^ 30) : a.src.toNat ≠ srcStream ∧ a.src.toNat ≠ srcScalar := by
  constructor <;> intro e <;> rw [e] at h <;> exact absurd h (by decide)

/-- Settles O22: the branch of each operation, its sources read as good lines. -/
theorem nbLineResult : Obligations.NbLineResult := by
  intro n a i d x base bf sc
  refine ⟨rfl, rfl, fun hd => ⟨fun hs => ?_, fun hs hx => ?_⟩, fun hs hx => ?_⟩
  · simp only [base] at hd
    simp [-Nat.reducePow, Node.nbLine, hs, hd, bf, sc]
  · obtain ⟨h1, h2⟩ := src_ne_of_line a hs
    simp only [base] at hd hx
    refine ⟨?_, ?_, ?_⟩ <;> simp [-Nat.reducePow, Node.nbLine, h1, h2, hd, hx, bf, sc]
  · obtain ⟨h1, -⟩ := src_ne_of_line a hs
    simp only [base] at hx
    refine ⟨?_, ?_⟩ <;> simp [-Nat.reducePow, Node.nbLine, h1, hx, bf, sc]

/-! ### Runs of a constant line -/

/-- The stack line that a command's line `i` lies in. -/
def nbDst (a : NbArgs) (i : Nat) : Nat := a.stack.val * 2 ^ 30 + (a.dst.toNat + i) % 2 ^ 30

/-- The node with other lines in its stacks. -/
def Node.withLines (n : Node) (ls : Map Line) : Node := { n with stk := { n.stk with lines := ls } }

/-- A run of lines that are all `d` writes `d` to each of them, leaves every other line, and neither stops nor poisons. -/
theorem nbLines_const (op : Nat) (a : NbArgs) (d : BitVec 512) (h : ∀ (n : Node) i, n.nbLine op a i = .ok (d, false)) (ls : List Nat) (r : NbRun)
    (hr : r.stopped = none) :
    ∃ m, nbLines op a ls r = { node := r.node.withLines m, done := r.done + ls.length, poisoned := r.poisoned } ∧
      (∀ i ∈ ls, ∃ l, Map.find m (nbDst a i) = some l ∧ l.data = d) ∧
      ∀ k, (∀ i ∈ ls, k ≠ nbDst a i) → Map.find m k = Map.find r.node.stk.lines k := by
  induction ls generalizing r with
  | nil =>
    refine ⟨r.node.stk.lines, ?_, by simp, fun _ _ => rfl⟩
    obtain ⟨rn, rd, rp, rs⟩ := r
    simp only at hr
    subst hr
    rfl
  | cons j rest ih =>
    obtain ⟨m, he, hin, hout⟩ := ih { node := r.node.setLine (nbDst a j) (mkLine d a.owner.toNat (nbDst a j % 256) (nbTag a false)), done := r.done + 1,
                                      poisoned := r.poisoned || false } rfl
    refine ⟨m, ?_, fun i hi => ?_, fun k hk => ?_⟩
    · rw [nbLines, hr]
      dsimp only
      rw [h]
      dsimp only
      refine he.trans ?_
      rw [Bool.or_false, List.length_cons, Nat.add_assoc, Nat.add_comm 1]
      rfl
    · by_cases hm : i ∈ rest
      · exact hin i hm
      · obtain rfl : i = j := (List.mem_cons.mp hi).resolve_right hm
        by_cases hsame : ∃ i' ∈ rest, nbDst a i = nbDst a i'
        · obtain ⟨i', hi', e⟩ := hsame
          rw [e]
          exact hin i' hi'
        · exact ⟨_, (hout _ fun x hx e => hsame ⟨x, hx, e⟩).trans ((Map.find_put ..).trans (if_pos rfl)), rfl⟩
    · rw [hout k fun x hx => hk x (List.mem_cons_of_mem _ hx)]
      exact (Map.find_put ..).trans (if_neg (hk j List.mem_cons_self))

theorem Node.line_data_of_find {n : Node} {k : Nat} {l : Line} {d : BitVec 512} (h : Map.find n.stk.lines k = some l) (hd : l.data = d) :
    (n.line k).data = d := by
  rw [Node.line, h, hd]

/-- What a line reads as depends on its own entry and on the fills only. -/
theorem Node.line_congr {n m : Node} {k : Nat} (h : Map.find n.stk.lines k = Map.find m.stk.lines k) (hf : n.stk.fills = m.stk.fills) :
    n.line k = m.line k := by
  simp only [Node.line, h, hf]

/-- An allowed command of constant lines, run whole. -/
theorem Node.nbWhole_const (n : Node) (now op : Nat) (a : NbArgs) (d : BitVec 512) (hs : n.stopped = false) (ha : nbAllowed op a = true)
    (h : ∀ (n : Node) i, n.nbLine op a i = .ok (d, false)) (hrun : ∀ (n : Node) ls, n.nbRun op a ls = nbLines op a ls { node := n }) :
    (∀ l, l < a.lines.toNat → ((n.nbWhole now op a).line (nbDst a l)).data = d) ∧
    ∀ k, (∀ l, l < a.lines.toNat → k ≠ nbDst a l) → (n.nbWhole now op a).line k = n.line k := by
  obtain ⟨m, he, hin, hout⟩ := nbLines_const op a d h (List.range a.lines.toNat)
    { node := { n with stk := { n.stk with cmdNext := n.stk.cmdNext + 1 } } } rfl
  have hw : n.nbWhole now op a = Node.token (Node.withLines { n with stk := { n.stk with cmdNext := n.stk.cmdNext + 1 } } m) now
      { op := op, args := a, id := n.stk.cmdNext } 0 (0 + (List.range a.lines.toNat).length) := by
    unfold Node.nbWhole
    rw [if_neg (by simp [hs])]
    dsimp only
    rw [if_neg (by simp [ha]), hrun, he]
    rfl
  rw [hw]
  refine ⟨fun l hl => ?_, fun k hk => ?_⟩
  · obtain ⟨v, hv, hd⟩ := hin l (List.mem_range.mpr hl)
    exact Node.line_data_of_find hv hd
  · exact Node.line_congr (hout k fun i hi => hk i (List.mem_range.mp hi)) rfl

/-- Settles O23: FILL and ZERO are runs of a constant line. -/
theorem nbFillLines : Obligations.NbFillLines := by
  intro c s hs base fills
  constructor
  · intro ha
    exact ⟨_, State.on_eq s _, s.node.nbWhole_const s.clock.tick 2 c _ hs ha (fun _ _ => rfl) fun _ _ => rfl⟩
  · intro ha
    exact ⟨_, State.on_eq s _, s.node.nbWhole_const s.clock.tick 1 { c with arg := 0 } 0 hs ha (fun _ _ => rfl) fun _ _ => rfl⟩

/-! ### Strokes and bursts -/

/-- Setting PARTIAL on gradient records changes those and a counter. -/
theorem Node.setPartial_eq (n : Node) (gs : List Nat) : ∃ r g, n.setPartial gs = { n with regs := r, grads := g } := by
  unfold Node.setPartial Node.foldl
  induction gs generalizing n with
  | nil => exact ⟨n.regs, n.grads, rfl⟩
  | cons x rest ih =>
    rw [List.foldl_cons]
    split
    · exact ih n
    · split
      · exact ih n
      · obtain ⟨r, g, e⟩ := ih (({ n with grads := Map.put n.grads x _ } : Node).bump Reg.gradPartials)
        exact ⟨r, g, e⟩

/-- What the token of a command of a thread or of none brings about leaves the stacks but for the marks. -/
theorem Node.tokenEffects_stk (n : Node) (now : Nat) (c : NbCommand) (hc : c.issuer < 2 ^ 52) :
    ∃ ms, (n.tokenEffects now c).stk = { n.stk with marks := ms } := by
  unfold Node.tokenEffects
  dsimp only
  rw [if_neg (show ¬2 ^ 54 ≤ c.issuer by omega), if_neg (show ¬2 ^ 53 ≤ c.issuer by omega), if_neg (show ¬2 ^ 52 ≤ c.issuer by omega)]
  split
  · exact ⟨_, rfl⟩
  · obtain ⟨r, g, e⟩ := Node.setPartial_eq ({ n with
      cells := { n.cells with threads := Map.mapVals n.cells.threads fun _ t => { t with tokensOut := t.tokensOut.filter (· != c.id) } }
      stk := { n.stk with marks := n.stk.marks.filter fun (m : Nat × Nat) => m.1 != c.issuer } } : Node) (((n.stk.marks.filter fun (m : Nat × Nat) => m.1 == c.issuer)).map fun m => m.2)
    rw [e]
    exact ⟨_, rfl⟩

/-- The next command of a channel whose only command it is. -/
theorem nextCommand_singleton (c : NbCommand) : nextCommand [c] = some c := by
  unfold nextCommand
  cases h : c.workClass <;> simp [h]

/-- A stroke of a FILL that alone waits in the queues: the node with the lines written and the command's progress, before its token. -/
theorem Node.stroke_fill (n : Node) (now stack channel : Nat) (c : NbCommand) (hq : n.stk.queues = [(stack * 32 + channel, [c])]) (hop : c.op = 2)
    (hi : c.issuer < 2 ^ 52) :
    let part := ((nbLinesIn c.args channel).drop c.done).take 64
    let c' := { c with done := c.done + part.length }
    ∃ m, (∀ i ∈ part, ∃ l, Map.find m (nbDst c.args i) = some l ∧ l.data = fillLine c.args.scalar.toNat) ∧
      let n' : Node := { n with stk := { n.stk with lines := m, queues := [(stack * 32 + channel, [c'])] } }
      n.stroke now stack channel = if c.done + part.length < c.args.lines.toNat then n'
        else ((n'.dropCommand c.id).token now c (if c.poisoned then 1 else 0) (c.done + part.length)).tokenEffects now c := by
  intro part c'
  obtain ⟨m, he, hin, -⟩ := nbLines_const 2 c.args (fillLine c.args.scalar.toNat) (fun _ _ => rfl) part { node := n } rfl
  refine ⟨m, hin, ?_⟩
  have hrun : n.nbRun c.op c.args part = { node := n.withLines m, done := 0 + part.length, poisoned := false } := by
    rw [hop]; exact he
  have hpart : (if (c.op == nbOpConvert || c.op == nbOpRotate || (c.op == nbOpZero && c.args.arg != 0)) = true
      then (nbLinesIn c.args channel).drop c.done else ((nbLinesIn c.args channel).drop c.done).take 64) = part := by
    rw [hop]; rfl
  unfold Node.stroke
  rw [hq]
  simp only [Map.get, if_true, nextCommand_singleton, hpart]
  rw [if_neg (show ¬2 ^ 54 ≤ c.issuer by omega), hrun]
  simp [Node.withLines, hq, Map.norm, Node.linesDone, c']

/-- Settles O24: a queue of one FILL, whose stroke writes up to 64 lines of the run and whose last stroke returns the token; a burst is noted, so the
same boundary runs it once. -/
theorem strokesAndBursts : Obligations.StrokesAndBursts := by
  constructor
  · intro st ch s c hs hq hop hst hi hch ha hdone hlen
    subst hst
    have hex : exec (.strokeEnd c.args.stack ch) s = .next (s.withNode (s.node.stroke s.clock.tick c.args.stack.val ch.val)) := by
      dsimp only [exec, execStrokeEnd]
      rw [if_neg (by simp [hs])]
      exact State.on_eq s _
    obtain ⟨m, hin, hstroke⟩ := s.node.stroke_fill s.clock.tick c.args.stack.val ch.val c hq hop hi
    have hlen' : (((nbLinesIn c.args ch.val).drop c.done).take 64).length = Nat.min 64 (c.args.lines.toNat - c.done) := by
      rw [List.length_take, List.length_drop, hlen]
    rw [hlen'] at hstroke
    refine ⟨_, hex, ?_, fun hmore => ?_, fun hlast => ?_⟩
    · intro l hl
      obtain ⟨v, hv, hd⟩ := hin l hl
      refine Node.line_data_of_find (l := v) (Eq.trans (congrArg (fun x => Map.find x _) ?_) hv) hd
      rw [hstroke]
      split
      · rfl
      · obtain ⟨ms, e⟩ := Node.tokenEffects_stk (Node.token _ s.clock.tick c _ _) s.clock.tick c hi
        rw [e]
        rfl
    · have h64 : Nat.min 64 (c.args.lines.toNat - c.done) = 64 := Nat.min_eq_left (by omega)
      rw [hstroke, h64, if_pos hmore]
    · have hall : c.done + Nat.min 64 (c.args.lines.toNat - c.done) = c.args.lines.toNat := by
        rw [show Nat.min 64 (c.args.lines.toNat - c.done) = c.args.lines.toNat - c.done from Nat.min_eq_right (by omega)]
        omega
      rw [hstroke, hall, if_neg (Nat.lt_irrefl _)]
      obtain ⟨ms, e⟩ := Node.tokenEffects_stk (Node.token _ s.clock.tick c _ _) s.clock.tick c hi
      rw [e]
      refine ⟨?_, _, Node.token_mem .., rfl, rfl, rfl⟩
      simp [Node.token, Node.bump, Node.bumpBy, Node.dropCommand, Map.norm]
  · intro st s due
    have hex : ∀ s : State, exec (.refreshBurst st) s = .next (s.withNode (s.node.refresh s.clock.tick st.val)) := fun s => State.on_eq s _
    constructor
    · intro hdue hlast
      have hr : s.node.refresh s.clock.tick st.val =
          ({ s.node with stk := { s.node.stk with lastBurst := Map.set 0 s.node.stk.lastBurst st.val (s.clock.tick + 1) } } : Node).bump Reg.bursts := by
        unfold Node.refresh
        dsimp only
        rw [if_neg (by simp [hdue.1, hdue.2, hlast])]
      refine ⟨_, hex s, ?_, ?_, ?_⟩
      · rw [hr]; exact Node.reg_bump _ _ _ rfl
      · rw [hr]; rfl
      · rw [hex, hr]
        have hsame : ∀ n : Node, Map.get 0 n.stk.lastBurst st.val = s.clock.tick + 1 → n.refresh s.clock.tick st.val = n := by
          intro n hn
          unfold Node.refresh
          dsimp only
          rw [if_pos (by simp [hn])]
        rw [State.withNode_node, State.withNode_clock, hsame _ (by simp [Node.bump, Node.bumpBy])]
        rfl
    · intro hdue
      rw [hex]
      unfold Node.refresh
      dsimp only
      rw [if_pos (by simp only [Bool.or_eq_true, Bool.not_eq_true']; left; simpa [due] using hdue)]
      rfl

end Sys2Proof.Machine
end

section
/-!
TLD.PAGE (O17): the rows of a tile, one by one, and what landing sixteen token rows in half a tile leaves of them.
-/

namespace Sys2Proof.Machine

/-! ### Rows of a tile -/

/-- Row `r` of a tile: its 64 bytes. -/
def Tile.rowBytes (x : Tile) (r : Nat) : Bytes := sliceB x.data (64 * r) 64

theorem sliceB_whole (bs : Bytes) (off n : Nat) (h : off + n ≤ bs.length) : sliceB bs off n = (bs.drop off).take n := by
  have hl : ((bs.drop off).take n).length = n := by rw [List.length_take, List.length_drop]; omega
  simp [sliceB, hl]

theorem padTo_self (bs : Bytes) (n : Nat) (h : bs.length = n) : padTo n bs = bs := by
  rw [padTo, sliceB_whole _ _ _ (by omega), List.drop_zero, List.take_of_length_le (by omega)]

/-- A row put into a tile is read back, and the other rows are as before. -/
theorem Tile.put_row (x : Tile) (r : Nat) (bs : Bytes) (hx : x.data.length = 2048) (hr : r < 32) (hb : bs.length = 64) :
    (x.put (64 * r) bs).data.length = 2048 ∧
      ∀ q, q < 32 → (x.put (64 * r) bs).rowBytes q = if q = r then bs else x.rowBytes q := by
  have hd : (x.put (64 * r) bs).data = x.data.take (64 * r) ++ bs ++ x.data.drop (64 * r + 64) := by
    rw [Tile.put, padTo_self _ _ hx, spliceB, hb]
  have hl : (x.put (64 * r) bs).data.length = 2048 := by
    rw [hd]; simp only [List.length_append, List.length_take, List.length_drop]; omega
  refine ⟨hl, fun q hq => ?_⟩
  rw [Tile.rowBytes, Tile.rowBytes, sliceB_whole _ _ _ (by omega), sliceB_whole _ _ _ (by omega), hd]
  refine List.ext_getElem? fun i => ?_
  by_cases hi : i < 64
  · simp only [List.getElem?_take, List.getElem?_drop, List.getElem?_append, List.length_append, List.length_take, if_pos hi]
    rcases Nat.lt_trichotomy q r with h | rfl | h
    · rw [if_neg (by omega : ¬q = r), if_pos (by omega), if_pos (by omega), if_pos (by omega)]
      simp [hi]
    · rw [if_pos rfl, if_pos (by omega), if_neg (by omega)]
      congr 1; omega
    · rw [if_neg (by omega : ¬q = r), if_neg (by omega)]
      simp only [List.getElem?_take, List.getElem?_drop, if_pos hi]
      congr 1; omega
  · rw [List.getElem?_eq_none (by rw [List.length_take]; omega), List.getElem?_eq_none]
    split
    · omega
    · rw [List.length_take]; omega

/-! ### Rows that land -/

/-- A token's run, widened, is a whole row of 64 bytes for the formats 1 to 4 (R201). -/
theorem widenRow_length (elem : Nat) (bs : Bytes) (h1 : 1 ≤ elem) (h4 : elem ≤ 4) : (widenRow elem bs).1.length = 64 := by
  obtain rfl | rfl | rfl | rfl : elem = 1 ∨ elem = 2 ∨ elem = 3 ∨ elem = 4 := by omega
  · simp [widenRow]
  all_goals simp [widenRow, tileK, elemBits, List.range_succ]

/-- One row lands in a half of a tile. -/
def Tile.landRow (elem half : Nat) (y : Tile) (e : (Bytes × Bytes) × Nat) : Tile :=
  if elem ≤ 1 then y.put (64 * (e.2 + 16 * half)) e.1.1
  else (y.put (64 * (e.2 + 16 * half)) e.1.1).putScales ((e.2 + 16 * half) * (tileK elem / 32)) e.1.2

theorem Tile.landRows_eq (x : Tile) (elem half : Nat) (rows : List Bytes) (free : Bytes) :
    x.landRows elem half false rows free = ((rows.map (widenRow elem)).zipIdx).foldl (Tile.landRow elem half) x := rfl

theorem Tile.landRow_data (elem half : Nat) (y : Tile) (e : (Bytes × Bytes) × Nat) :
    (Tile.landRow elem half y e).data = (y.put (64 * (e.2 + 16 * half)) e.1.1).data := by
  unfold Tile.landRow
  split <;> rfl

/-- Rows of 64 bytes that land from row `k` of a half on: they are read back in their places, and every other row is as before. -/
theorem Tile.foldl_landRow (elem half : Nat) (hh : half < 2) (wide : List (Bytes × Bytes)) (hw : ∀ w ∈ wide, w.1.length = 64) (k : Nat)
    (hk : k + wide.length ≤ 16) (x : Tile) (hx : x.data.length = 2048) :
    ∀ q, q < 32 → ((wide.zipIdx k).foldl (Tile.landRow elem half) x).rowBytes q =
      if k + 16 * half ≤ q ∧ q < k + wide.length + 16 * half then (wide.getD (q - 16 * half - k) ([], [])).1 else x.rowBytes q := by
  induction wide generalizing k x with
  | nil => intro q _; rw [if_neg (by simp)]; rfl
  | cons w rest ih =>
    intro q hq
    have hlen : (w :: rest).length = rest.length + 1 := rfl
    obtain ⟨hl, hrow⟩ := Tile.put_row x (k + 16 * half) w.1 hx (by omega) (hw w List.mem_cons_self)
    have hdata := Tile.landRow_data elem half x (w, k)
    have hrow' : (Tile.landRow elem half x (w, k)).rowBytes q = if q = k + 16 * half then w.1 else x.rowBytes q := by
      rw [Tile.rowBytes, hdata]; exact hrow q hq
    rw [List.zipIdx_cons, List.foldl_cons, ih (fun w hm => hw w (List.mem_cons_of_mem _ hm)) (k + 1) (by omega) _ (by rw [hdata]; exact hl) q hq, hrow', hlen]
    by_cases h0 : q = k + 16 * half
    · subst h0
      rw [if_neg (by omega), if_pos rfl, if_pos (by omega), show k + 16 * half - 16 * half - k = 0 by omega]
      rfl
    · by_cases h1 : k + 1 + 16 * half ≤ q ∧ q < k + 1 + rest.length + 16 * half
      · rw [if_pos h1, if_pos (by omega), show q - 16 * half - k = (q - 16 * half - (k + 1)) + 1 by omega]
        rfl
      · rw [if_neg h1, if_neg h0, if_neg (by omega)]

/-! ### The instruction -/

/-- Expanding facets changes only which facets the thread holds and has expanded (R250). -/
theorem Thread.expand_eq (t : Thread) (d : Page) (p : Nat) (fs : List Nat) :
    ∃ a b, (t.expand d p fs).1 = { t with facets := a, facetHold := b } := ⟨_, _, rfl⟩

theorem Node.runBytes_length (n : Node) (d : Page) (r : PageRun) (rows : List Bytes) (h : n.runBytes d r = .ok rows) : rows.length = 16 := by
  unfold Node.runBytes at h
  split at h
  · split at h
    · exact absurd h (by simp)
    · obtain rfl := Except.ok.inj h
      simp
  · obtain rfl := Except.ok.inj h
    simp

/-- The node once a load of the operand port has delivered: the thread moved on, the facets expanded again counted, and free bytes drawn. -/
def Node.delivered (n : Node) (key again : Nat) (u : Thread) : Node := (((n.setThread key u).bumpBy Reg.facetsReexpanded again).draw 960).2

theorem Node.thread_delivered (n : Node) (key again : Nat) (u : Thread) : (n.delivered key again u).thread key = u :=
  (Node.thread_setThread n key key u).trans (if_pos rfl)

theorem Node.tile_delivered (n : Node) (key again i : Nat) (u : Thread) (hu : u.tiles = (n.thread key).tiles) :
    (n.delivered key again u).tile key i = n.tile key i := by
  unfold Node.tile
  rw [Node.thread_delivered, Thread.tileKey, Thread.tileKey, hu]
  rfl

/-- The rows that land: those of tokens past the ones that the view holds are zeros. -/
def landingRows (tokens : Nat) (rows : List Bytes) : List Bytes :=
  rows.zipIdx.map fun x => if x.2 < tokens then x.1 else List.replicate x.1.length 0

/-- A load of part A or B of a page that the operand port delivers (R203). -/
theorem Node.tldPage_good (n n1 : Node) (now k : Nat) (t : ThreadId) (f : Fields) (errs : List LineErr) (q : Admitted) (it : Item) (v : ViewPage)
    (th : Thread) (sq : Seq) (run : PageRun) (rows : List Bytes) (hth : n.thread t.key = th) (hsq : n.seq (seqLocal q.req.seqId) = sq)
    (hrun : pageRun (elemOf sq.format) sq.aBytes sq.bBytes (f.imm.toNat % 4) (th.getX f.rb.val) = run)
    (hitem : n.itemOf th = some (q, it)) (hview : it.view[th.getX f.ra.val]? = some v) (hpart : f.imm.toNat % 4 < 2)
    (hfmt : f.fmt.val = elemOf sq.format) (hmod : th.getX f.rb.val % tileK (elemOf sq.format) = 0)
    (hlines : n.portLines now q.slice v.page (th.session, th.request) errs
      (((n.page v.page).runLines run).map fun l => (l, (n.page v.page).t1.getD 0 * 256 + l)) = (.good, k, n1))
    (hrows : n1.runBytes (n.page v.page) run = .ok rows) :
    ∃ again u free, (∃ fa fh, u = ({ th with facets := fa, facetHold := fh } : Thread).next) ∧
      n.tldPage now t f errs = (n1.delivered t.key again u).setTile t.key f.rd.val
        (((n1.delivered t.key again u).tile t.key f.rd.val).landRows (elemOf sq.format) (f.mod.val % 2) (bitOf f.mod.val 1) (landingRows v.tokens rows) free) := by
  have hnot : ¬(f.imm.toNat % 4 = 3 ∨ (f.imm.toNat % 4 ≠ 2 ∧ (f.fmt.val ≠ elemOf sq.format ∨ th.getX f.rb.val % tileK (elemOf sq.format) ≠ 0))) := by
    rintro (h | ⟨-, h | h⟩)
    · omega
    · exact h hfmt
    · exact h hmod
  refine ⟨(th.expand (n.page v.page) v.page (if (n.page v.page).packed then run.facets else [])).2,
    (th.expand (n.page v.page) v.page (if (n.page v.page).packed then run.facets else [])).1.next, leBytes 960 (Config.freeValue n1.freeCount),
    ⟨_, _, rfl⟩, ?_⟩
  unfold Node.tldPage
  simp only [hth, hitem, hsq, hview, hrun, if_neg hnot, hlines, hrows, if_neg (show ¬f.imm.toNat % 4 = 2 by omega)]
  rfl

/-- Settles O17: without TRANSPOSE each of the sixteen runs is widened to one row of the half that MOD bit 0 names; the free scales of MX tiles
(log entry 120) lie outside the rows. -/
theorem tldPageResult : Obligations.TldPageResult := by
  intro t f errs s q it v n1 k rows hiss th sq elem d run half hitem hview hpart hfmt h1 h4 hmod htr hrd hth htile hlines hrows
  obtain ⟨again, u, free, ⟨fa, fh, hu⟩, he⟩ := s.node.tldPage_good n1 s.clock.tick k t f errs q it v th sq run rows rfl rfl rfl hitem hview hpart hfmt hmod
    hlines hrows
  have hut : u.tiles = th.tiles := by rw [hu]; rfl
  have hexec : exec (.tldPage t f errs) s = .next (s.withNode (s.node.tldPage s.clock.tick t f errs)) := by
    dsimp only [exec, execTldPage]
    rw [if_pos hiss, State.on_eq]
  rw [Node.tile_delivered _ _ _ _ _ (by rw [hth, hut]), htr, Tile.landRows_eq] at he
  have hlen : ((landingRows v.tokens rows).map (widenRow elem)).length = 16 := by simp [landingRows, Node.runBytes_length _ _ _ _ hrows]
  have hrow := Tile.foldl_landRow elem half (Nat.mod_lt _ (by decide)) ((landingRows v.tokens rows).map (widenRow elem))
    (fun w hw => by obtain ⟨b, -, rfl⟩ := List.mem_map.mp hw; exact widenRow_length elem b h1 h4) 0 (by omega) _ htile
  rw [hlen] at hrow
  have hhalf : half < 2 := Nat.mod_lt _ (by decide)
  have htile' := (n1.delivered t.key again u).tile_setTile t.key f.rd.val
    (((landingRows v.tokens rows).map (widenRow elem)).zipIdx.foldl (Tile.landRow elem half) (n1.tile t.key f.rd.val))
    (by rw [Node.thread_delivered, hut]; exact hrd)
  refine ⟨_, hexec, fun r hr => ?_, fun r hr => ?_, ?_, ?_, ?_, ?_⟩
  · have hr' : r < rows.length := by rw [Node.runBytes_length _ _ _ _ hrows]; exact hr
    rw [he, htile']
    refine (hrow (r + 16 * half) (by omega)).trans ?_
    rw [if_pos (by omega), show r + 16 * half - 16 * half - 0 = r by omega]
    simp [landingRows, List.getD, hr']
  · rw [he, htile']
    exact (hrow (r + 16 * (1 - half)) (by omega)).trans (if_neg (by omega))
  all_goals rw [he, Node.thread_setTile, Node.thread_delivered, hu]; rfl

end Sys2Proof.Machine
end

section
/-!
Reset (O2): what the state after reset reads as.
-/

namespace Sys2Proof.Machine

/-- Settles O2: nothing is listed after reset, so every read gives what an unlisted place reads as. The tick count 0 and the entries that the spec gives no
value are the model's choice (log entry 7), and so is a byte that nothing has written (log entry 2). -/
theorem resetState : Obligations.ResetState := by
  refine ⟨rfl, rfl, rfl, fun k => rfl, ?_, ?_, ?_, ?_, fun p k hp => ⟨?_, ?_, ?_⟩, fun k => ⟨rfl, rfl, rfl, rfl⟩, fun a => rfl⟩
  · decide
  · decide
  · decide
  · decide
  · rfl
  · show Dict.dflt (linkKey p Reg.portState) = 0
    revert p
    decide
  · rfl

end Sys2Proof.Machine
end

section
/-!
Fabric time (O25): what an edge of a tick input leaves of the time unit.
-/

namespace Sys2Proof.Machine

/-! ### The time unit's operations -/

/-- TIME_STATUS and its event change entries, what the management unit sends and what the host port holds. -/
theorem Node.setTimeStatus_eq (n : Node) (v : Nat) : ∃ r m h, n.setTimeStatus v = { n with regs := r, mgmt := m, host := h } := by
  unfold Node.setTimeStatus
  split
  · exact ⟨_, _, _, rfl⟩
  · obtain ⟨m, h, e⟩ := Node.event_eq ((n.setReg Reg.timeStatus v).setReg Reg.timeEvents (n.reg Reg.timeEvents ||| (v &&& 0xF0))) 0x0010
      (leBytes 4 (((n.setReg Reg.timeStatus v).setReg Reg.timeEvents (n.reg Reg.timeEvents ||| (v &&& 0xF0))).reg Reg.timeStatus))
    exact ⟨_, m, h, e⟩

@[simp] theorem Node.setTimeStatus_time (n : Node) (v : Nat) : (n.setTimeStatus v).time = n.time := by
  obtain ⟨r, m, h, e⟩ := n.setTimeStatus_eq v; rw [e]
@[simp] theorem Node.setTimeStatus_adm (n : Node) (v : Nat) : (n.setTimeStatus v).adm = n.adm := by
  obtain ⟨r, m, h, e⟩ := n.setTimeStatus_eq v; rw [e]
@[simp] theorem Node.timeUpdate_time (n : Node) : n.timeUpdate.time = n.time := by simp [Node.timeUpdate]
@[simp] theorem Node.timeUpdate_adm (n : Node) : n.timeUpdate.adm = n.adm := by simp [Node.timeUpdate]
@[simp] theorem Node.skewCheck_time (n : Node) : n.skewCheck.time = n.time := by simp [Node.skewCheck]
@[simp] theorem Node.skewCheck_adm (n : Node) : n.skewCheck.adm = n.adm := by simp [Node.skewCheck]

/-- Selecting an input: it is selected, no switch waits, and the inputs are as before (R36). -/
@[simp] theorem Node.selectTick_time (n : Node) (i : TickIn) :
    (n.selectTick i).time = { n.time with selected := tickNum i, switchPending := none } := by
  unfold Node.selectTick
  dsimp only
  split <;> simp [Node.bump32]

@[simp] theorem TimeUnit.input_setInput (t : TimeUnit) (i : TickIn) (v : TickInput) : (t.setInput i v).input i = v := by cases i <;> rfl
@[simp] theorem TimeUnit.input_setInput_other (t : TimeUnit) (i : TickIn) (v : TickInput) : (t.setInput i v).input (otherTick i) = t.input (otherTick i) := by
  cases i <;> rfl

/-! ### Edges -/

/-- The gap to the last edge is that of one tick (R31). -/
def TickInput.near (t : TickInput) (ns : Nat) : Prop := ∀ l, t.lastEdge = some l → l + 950 ≤ ns ∧ ns ≤ l + 1050

/-- A valid pulse one tick after the last: the series goes on. -/
theorem TickInput.edge_near (t : TickInput) (ns width count : Nat) (hp : pulseOf width ≠ .invalid) (hn : t.near ns) :
    t.edge ns width count =
      if pulseOf width = .marker then ({ t with lastEdge := some ns, missed := 0, inFrame := true, pos := 0, bits := 0, markCount := count }, none)
      else if !t.inFrame ∨ 64 ≤ t.pos then ({ t with lastEdge := some ns, missed := 0 }, none)
      else ({ t with lastEdge := some ns, missed := 0, bits := t.bits * 2 + if pulseOf width = .long then 1 else 0, pos := t.pos + 1 },
            if t.pos = 63 then some (t.bits * 2 + if pulseOf width = .long then 1 else 0) else none) := by
  unfold TickInput.edge
  dsimp only
  cases hl : t.lastEdge with
  | none =>
    rw [if_neg (by simp [hp])]
    cases hw : pulseOf width with
    | invalid => exact absurd hw hp
    | _ => rfl
  | some l =>
    obtain ⟨h1, h2⟩ := hn l hl
    dsimp only
    rw [if_neg (by rintro (h | h); exacts [hp h, by omega]), decide_eq_false (by omega)]
    cases hw : pulseOf width with
    | invalid => exact absurd hw hp
    | _ => rfl

/-- An invalid pulse, or one within 950 ns of the last, is dropped (R30, R31). -/
theorem TickInput.edge_dropped (t : TickInput) (ns width count : Nat)
    (h : pulseOf width = .invalid ∨ ∃ l, t.lastEdge = some l ∧ ns < l + 950) : t.edge ns width count = (t, none) := by
  unfold TickInput.edge
  dsimp only
  rcases h with h | ⟨l, hl, hlt⟩
  · rw [if_pos (.inl h)]
  · rw [hl]
    dsimp only
    rw [if_pos (.inr (by omega))]

/-- Settles O25: an edge by its pulse, and what ends a frame. -/
theorem tickEdges : Obligations.TickEdges := by
  intro i ns width s ti e near
  refine ⟨fun hnone => ?_, fun h => ?_, fun hm hn => ?_, fun b hb hn hf hpos => ?_, fun v hc hv hprev => ?_⟩
  · have hexec : exec (.tickEdge i ns width) s = .next (s.withNode (({ s.node with time := s.node.time.setInput i e.1 } : Node).skewCheck).timeUpdate) := by
      dsimp only [exec, execTickEdge]
      rw [show (s.node.time.input i).edge ns width (s.clock.countAt ns) = (e.1, none) from Prod.ext rfl hnone]
      rfl
    exact ⟨_, hexec, by simp, by simp⟩
  · exact ti.edge_dropped ns width _ h
  · rw [show e = _ from ti.edge_near ns width _ (by simp [hm]) hn, if_pos hm]
    exact ⟨rfl, rfl, rfl, rfl, rfl⟩
  · have hlong : (if pulseOf width = .long then 1 else 0) = b ∧ pulseOf width ≠ .marker ∧ pulseOf width ≠ .invalid := by
      rcases hb with ⟨h, rfl⟩ | ⟨h, rfl⟩ <;> simp [h]
    obtain ⟨hbit, hmark, hinv⟩ := hlong
    rw [show e = _ from ti.edge_near ns width _ hinv hn, if_neg hmark, if_neg (by simp [hf]; omega), hbit, Nat.mul_comm]
    exact ⟨rfl, rfl, rfl⟩
  · obtain ⟨n1, hn1, htime⟩ : ∃ n1 : Node, n1 = ({ s.node with time := s.node.time.setInput i e.1 } : Node).skewCheck ∧
        n1.time = s.node.time.setInput i e.1 := ⟨_, rfl, by simp⟩
    have hcount : n1.time.counted = false := by rw [htime]; cases i <;> exact hc
    have hexec : exec (.tickEdge i ns width) s = .next { s with
        node := ({ n1 with time := { n1.time.setInput i { e.1 with prevFrame := some v, locked := true } with counted := true } } : Node).selectTick i
        clock := { tick := (v + 64) % 2 ^ 64, boundaryNs := ns } } := by
      dsimp only [exec, execTickEdge]
      rw [show (s.node.time.input i).edge ns width (s.clock.countAt ns) = (e.1, some v) from Prod.ext rfl hv]
      dsimp only
      rw [← hn1, if_neg (by simp [hcount]), if_pos hprev]
    refine ⟨_, hexec, ?_, ?_, ?_⟩ <;> rw [Node.selectTick_time]
    cases i <;> rfl

end Sys2Proof.Machine
end

section
/-!
Key slots (O54), and what the operations that many commands share leave as it is: the awl's mark, discarded frames, retired keys.
-/

namespace Sys2Proof.Machine

/-! ### Shared operations -/

/-- Noting the awl sets two marks of the security unit and nothing else. -/
theorem Node.noteAwl_sec (n : Node) (via : Via) : ∃ a j, n.noteAwl via = { n with sec := { n.sec with awlUsed := a, jtagUsed := j } } := by
  unfold Node.noteAwl
  split
  · exact ⟨_, _, rfl⟩
  · exact ⟨_, _, rfl⟩

/-- A fold of steps that each change only `f` of the node changes only that; stated for what a fold keeps. -/
theorem Node.foldl_keeps {α β : Type} (g : Node → β) (l : List α) (f : Node → α → Node) (h : ∀ n x, g (f n x) = g n) (n : Node) :
    g (n.foldl l f) = g n := by
  unfold Node.foldl
  induction l generalizing n with
  | nil => rfl
  | cons a l ih => rw [List.foldl_cons, ih, h]

@[simp] theorem Node.setKey_regs (n : Node) (k : Nat) (v : KeySlot) : (n.setKey k v).regs = n.regs := rfl

@[simp] theorem Node.keySlot_setKey (n : Node) (k j : Nat) (v : KeySlot) : (n.setKey k v).keySlot j = if j = k then v else n.keySlot j := by
  simp [Node.keySlot, Node.setKey]

@[simp] theorem Node.keySlot_setReg (n : Node) (r v k : Nat) : (n.setReg r v).keySlot k = n.keySlot k := rfl

@[simp] theorem Node.keySlot_bump (n : Node) (r k : Nat) : (n.bump r).keySlot k = n.keySlot k := rfl

theorem Node.keySlot_congr {n m : Node} (h : n.sec = m.sec) (k : Nat) : n.keySlot k = m.keySlot k := by simp [Node.keySlot, h]

/-- A key that is not LIVE is not retired again; a LIVE one is zeroized and counted (R420). -/
theorem Node.retireKey_live (n : Node) (k : Nat) (h : (n.keySlot k).state = 1) :
    n.retireKey k = (n.setKey k { n.keySlot k with state := 2, key := [], retireAt := none }).bump Reg.keysRetired := by
  unfold Node.retireKey
  dsimp only
  rw [if_pos h]

/-! ### Frames of a key that have not started -/

theorem Node.reg_bump_ne (n : Node) (k j : Nat) (hj : j ≠ k) : (n.bump k).reg j = n.reg j := by
  rw [Node.bump, Node.bumpBy, Node.reg_setReg, if_neg hj]

/-- Discarding a key's unstarted frames keeps entries and keys. -/
theorem Node.discardKey_regs_sec (n : Node) (k : Nat) : ((n.discardKey k).regs, (n.discardKey k).sec) = (n.regs, n.sec) := by
  have hdrop : ∀ (n : Node) (m : OutMsg), (fun x : Node => (x.regs, x.sec)) (match m.reply with
      | some r => if r.final then n.answered r.session r.requestId else n
      | none => n) = (n.regs, n.sec) := by
    intro n m
    dsimp only
    split
    · split <;> rfl
    · rfl
  unfold Node.discardKey
  generalize List.range 384 = queues
  refine (Node.foldl_keeps (fun x : Node => (x.regs, x.sec)) _ _ hdrop _).trans ?_
  refine Node.foldl_keeps (fun x : Node => (x.regs, x.sec)) queues _ (fun n i => ?_) n
  dsimp only
  split
  · exact Node.foldl_keeps (fun x : Node => (x.regs, x.sec)) _ _ hdrop _
  · rfl

@[simp] theorem Node.discardKey_regs (n : Node) (k : Nat) : (n.discardKey k).regs = n.regs := (Prod.mk.inj (n.discardKey_regs_sec k)).1
@[simp] theorem Node.discardKey_sec (n : Node) (k : Nat) : (n.discardKey k).sec = n.sec := (Prod.mk.inj (n.discardKey_regs_sec k)).2

/-- A LIVE key retired with its frames is RETIRED, zeroized, and counted; other entries are as before (R420). -/
theorem Node.retireNow_live (n : Node) (k : Nat) (h : (n.keySlot k).state = 1) :
    (n.retireNow k).keySlot k = { n.keySlot k with state := 2, key := [], retireAt := none } ∧
      (n.retireNow k).reg Reg.keysRetired = (n.reg Reg.keysRetired + 1) % 2 ^ 64 ∧ ∀ j, j ≠ Reg.keysRetired → (n.retireNow k).reg j = n.reg j := by
  have hk : (n.discardKey k).keySlot k = n.keySlot k := Node.keySlot_congr (n.discardKey_sec k) k
  have hr : ∀ j, (n.discardKey k).reg j = n.reg j := Node.reg_congr (n.discardKey_regs k)
  have e : n.retireNow k = ((n.discardKey k).setKey k { n.keySlot k with state := 2, key := [], retireAt := none }).bump Reg.keysRetired := by
    unfold Node.retireNow
    rw [if_pos h, Node.retireKey_live _ _ (by rw [hk]; exact h), hk]
  rw [e]
  refine ⟨?_, ?_, fun j hj => ?_⟩
  · rw [Node.keySlot_bump, Node.keySlot_setKey, if_pos rfl]
  · rw [Node.reg_bump _ _ _ rfl, Node.reg_congr (Node.setKey_regs ..), hr]
  · rw [Node.bump, Node.bumpBy, Node.reg_setReg, if_neg hj, Node.reg_congr (Node.setKey_regs ..), hr]

/-! ### The commands -/

theorem firstCode_cons_false (c : Nat) (l : List (Bool × Nat)) : firstCode ((false, c) :: l) = firstCode l := rfl
theorem firstCode_cons_true (c : Nat) (l : List (Bool × Nat)) : firstCode ((true, c) :: l) = c := rfl

/-- A value whose key does not come out of the wrapping is never accepted. -/
theorem Node.installCode_none (n : Node) (v : Bytes) : n.installCode v none ≠ 0 := by
  unfold Node.installCode
  simp only [firstCode, Option.isNone_none]
  repeat' split
  all_goals simp_all

theorem Node.installCode_noteAwl (n : Node) (via : Via) (v : Bytes) (key : Option Bytes) : (n.noteAwl via).installCode v key = n.installCode v key := by
  obtain ⟨a, j, e⟩ := n.noteAwl_sec via
  rw [e]; rfl

theorem Node.keySlot_noteAwl (n : Node) (via : Via) (k : Nat) : (n.noteAwl via).keySlot k = n.keySlot k := by
  obtain ⟨a, j, e⟩ := n.noteAwl_sec via
  rw [e]; rfl

theorem Node.noteAwl_sec_keys (n : Node) (via : Via) : (n.noteAwl via).sec.keys = n.sec.keys ∧ (n.noteAwl via).sec.usedIds = n.sec.usedIds ∧
    (n.noteAwl via).sec.kemPrivate = n.sec.kemPrivate := by
  obtain ⟨a, j, e⟩ := n.noteAwl_sec via
  rw [e]; exact ⟨rfl, rfl, rfl⟩

/-- What decapsulation gives of the value of a KEY_INSTALL (R418). -/
def Node.unwrapped (n : Node) (v : Bytes) : Option Bytes :=
  unwrapKey n.sec.kemPrivate (sliceB v 16 1568) (sliceB v 0 16) "UHLELLE KEY WRAP" (sliceB v 1584 48)

/-- The slot of an installed key (R418). -/
def installedKey (now : Nat) (v : Bytes) (key : Option Bytes) : KeySlot :=
  { state := 1, ktype := fieldB v 2 1, tenant := fieldB v 4 4 % 2 ^ 28, slice := fieldB v 8 1, keyId := fieldB v 10 2, liveTick := now, key := key.getD [] }

/-- The node with one KEY_ID more used (R418). -/
def Node.useId (n : Node) (id : Nat) : Node := { n with sec := { n.sec with usedIds := n.sec.usedIds ++ [id] } }

theorem Node.keyInstall_eq (n : Node) (now : Nat) (v : Bytes) : n.keyInstall now v =
    if n.installCode v (n.unwrapped v) ≠ 0 then (n.setReg Reg.keyResult (n.installCode v (n.unwrapped v))).bump Reg.keyRefusals
    else (((n.setReg Reg.keyResult (n.installCode v (n.unwrapped v))).useId (fieldB v 10 2)).setKey (fieldB v 0 2)
      (installedKey now v (n.unwrapped v))).bump Reg.keyInstalls := rfl

/-- The code of R419 for a retirement. -/
def Node.retireCode (n : Node) (v : Bytes) : Nat :=
  firstCode
    [(fieldB v 2 2 != 0 || fieldB v 12 4 != 0, 7), ((n.keySlot (fieldB v 0 2)).state != 1 || decide (3 ≤ (n.keySlot (fieldB v 0 2)).ktype), 8),
     (n.adm.sessions.any fun e => e.2.state == 1 && e.2.keySlot == fieldB v 0 2, 9)]

theorem Node.keyRetire_eq (n : Node) (now : Nat) (v : Bytes) : n.keyRetire now v =
    if n.retireCode v ≠ 0 then (n.setReg Reg.keyResult (n.retireCode v)).bump Reg.keyRefusals
    else if fieldB v 4 8 ≤ now then (n.setReg Reg.keyResult (n.retireCode v)).retireNow (fieldB v 0 2)
    else (n.setReg Reg.keyResult (n.retireCode v)).setKey (fieldB v 0 2) { n.keySlot (fieldB v 0 2) with retireAt := some (fieldB v 4 8) } := rfl

theorem Node.retireCode_noteAwl (n : Node) (via : Via) (v : Bytes) : (n.noteAwl via).retireCode v = n.retireCode v := by
  obtain ⟨a, j, e⟩ := n.noteAwl_sec via
  rw [e]; rfl

/-- Settles O54: that KEY_ID 0 counts as one in use is log entry 87, and that a key's retirement is due at its own tick log entry 40. -/
theorem keys : Obligations.Keys := by
  intro s n0 now
  refine ⟨fun via v => ?_, fun via v => ?_, fun slot t ht => ⟨fun hle hlive => ?_, fun hlt => ?_⟩, fun slot hnone => ?_⟩
  · intro key
    refine State.accepts_of s (.keyInstall via v) via 0x3404 1 v (fun n => n.keyInstall s.clock.tick v) _ rfl ?_
    obtain ⟨hkeys, hids, hkem⟩ := s.node.noteAwl_sec_keys via
    have hunw : (n0.noteAwl via).unwrapped v = key := by simp only [Node.unwrapped, n0, hkem]; rfl
    have hcode : (n0.noteAwl via).installCode v ((n0.noteAwl via).unwrapped v) = n0.installCode v key := by rw [hunw, Node.installCode_noteAwl]
    have hnone : key = none → n0.installCode v key ≠ 0 := fun h => h ▸ Node.installCode_none n0 v
    rw [show (s.node.noteAwl via).keyInstall s.clock.tick v = _ from Node.keyInstall_eq .., hcode, hunw]
    have hreg : ∀ r, (((s.node.noteAwl via).setReg Reg.keyResult (n0.installCode v key)).reg r) =
        if r = Reg.keyResult then n0.installCode v key else n0.reg r := fun r => by rw [Node.reg_setReg, Node.reg_noteAwl]
    by_cases h : n0.installCode v key = 0
    · rw [if_neg (by simpa using h)]
      refine ⟨?_, fun _ => ⟨?_, ?_, ?_⟩, fun hn => absurd h hn, hnone⟩
      · rw [Node.reg_bump_ne _ _ _ (by decide)]
        exact (hreg _).trans (if_pos rfl)
      · rw [Node.keySlot_bump, Node.keySlot_setKey, if_pos rfl]; rfl
      · exact congrArg (· ++ [fieldB v 10 2]) hids
      · rw [Node.reg_bump _ _ _ rfl]
        exact congrArg (fun x => (x + 1) % 2 ^ 64) ((hreg _).trans (if_neg (by decide)))
    · rw [if_pos h]
      refine ⟨?_, fun h0 => absurd h0 h, fun _ => ⟨hkeys, ?_⟩, hnone⟩
      · rw [Node.reg_bump_ne _ _ _ (by decide), hreg, if_pos rfl]
      · rw [Node.reg_bump _ _ _ rfl, hreg, if_neg (by decide)]
  · intro k d free
    refine State.accepts_of s (.keyRetire via v) via 0x3404 2 v (fun n => n.keyRetire s.clock.tick v) _ rfl ?_
    have hkeys := (s.node.noteAwl_sec_keys via).1
    have hslot : (s.node.noteAwl via).keySlot k = d := s.node.keySlot_noteAwl via k
    have hcode : (s.node.noteAwl via).retireCode v = s.node.retireCode v := s.node.retireCode_noteAwl via v
    have hrefused : ∀ c, c ≠ 0 → s.node.retireCode v = c →
        ((s.node.noteAwl via).keyRetire now v).reg Reg.keyResult = c ∧ ((s.node.noteAwl via).keyRetire now v).sec.keys = n0.sec.keys := by
      intro c hc h
      rw [Node.keyRetire_eq, hcode, h, if_pos hc]
      exact ⟨by rw [Node.reg_bump_ne _ _ _ (by decide), Node.reg_setReg, if_pos rfl], hkeys⟩
    refine ⟨fun h2 h12 hs ht hf => ?_, fun h2 h12 hs => hrefused 8 (by decide) ?_, fun h2 h12 hs ht hf => hrefused 9 (by decide) ?_⟩
    · have h0 : s.node.retireCode v = 0 := by
        have hany : (s.node.adm.sessions.any fun e => e.2.state == 1 && e.2.keySlot == fieldB v 0 2) = false := by
          rw [List.any_eq_false]
          intro e he
          have := hf e he
          simp only [Bool.and_eq_true, beq_iff_eq, not_and]
          exact this
        have hs' : (s.node.keySlot (fieldB v 0 2)).state = 1 := hs
        have ht' : ¬3 ≤ (s.node.keySlot (fieldB v 0 2)).ktype := Nat.not_le.mpr ht
        simp [Node.retireCode, firstCode, h2, h12, hs', ht', hany]
      rw [show (s.node.noteAwl via).keyRetire s.clock.tick v = _ from Node.keyRetire_eq .., hcode, h0, if_neg (by decide)]
      have hslot' : ((s.node.noteAwl via).setReg Reg.keyResult 0).keySlot (fieldB v 0 2) = d := hslot
      refine ⟨?_, fun hle => ?_, fun hlt => ?_⟩
      · split
        · rw [(Node.retireNow_live _ _ (by rw [hslot']; exact hs)).2.2 _ (by decide), Node.reg_setReg, if_pos rfl]
        · rw [Node.reg_congr (Node.setKey_regs ..), Node.reg_setReg, if_pos rfl]
      · obtain ⟨hk, hr, -⟩ := Node.retireNow_live ((s.node.noteAwl via).setReg Reg.keyResult 0) k (by rw [hslot']; exact hs)
        rw [if_pos hle]
        refine ⟨hk.trans (by rw [hslot']), hr.trans ?_⟩
        rw [Node.reg_setReg, if_neg (by decide), Node.reg_noteAwl]
      · rw [if_neg (by omega), Node.keySlot_setKey, if_pos rfl, hslot]
    · have hbad : ((s.node.keySlot (fieldB v 0 2)).state != 1 || decide (3 ≤ (s.node.keySlot (fieldB v 0 2)).ktype)) = true := by
        rcases hs with h | h
        · simp [show (s.node.keySlot (fieldB v 0 2)).state ≠ 1 from h]
        · simp [show 3 ≤ (s.node.keySlot (fieldB v 0 2)).ktype from h]
      simp [Node.retireCode, firstCode, h2, h12, hbad]
    · have hany : (s.node.adm.sessions.any fun e => e.2.state == 1 && e.2.keySlot == fieldB v 0 2) = true := by
        by_contra hc
        refine hf fun e he h1 hk => hc (List.any_eq_true.mpr ⟨e, he, by simp [h1, hk, k]⟩)
      have hs' : (s.node.keySlot (fieldB v 0 2)).state = 1 := hs
      have ht' : ¬3 ≤ (s.node.keySlot (fieldB v 0 2)).ktype := Nat.not_le.mpr ht
      simp [Node.retireCode, firstCode, h2, h12, hs', ht', hany]
  · refine ⟨_, ?_, (Node.retireNow_live _ _ hlive).1⟩
    dsimp only [exec, execKeyRetirement]
    rw [ht]
    dsimp only
    rw [if_pos hle, State.on_eq]
  · dsimp only [exec, execKeyRetirement]
    rw [ht]
    dsimp only
    rw [if_neg (by omega), State.on_eq]
    rfl
  · dsimp only [exec, execKeyRetirement]
    rw [hnone]
    rfl

end Sys2Proof.Machine
end

section
/-!
Commands applied once (O29): the cache of responses.
-/

namespace Sys2Proof.Machine

/-! ### Sorting -/

theorem mem_insertBy {α : Type} (lt : α → α → Bool) (x y : α) (l : List α) : y ∈ insertBy lt x l ↔ y = x ∨ y ∈ l := by
  induction l with
  | nil => simp [insertBy]
  | cons a l ih =>
    rw [insertBy]
    split
    · simp
    · rw [List.mem_cons, ih, List.mem_cons]; tauto

theorem length_insertBy {α : Type} (lt : α → α → Bool) (x : α) (l : List α) : (insertBy lt x l).length = l.length + 1 := by
  induction l with
  | nil => rfl
  | cons a l ih =>
    rw [insertBy]
    split
    · rfl
    · rw [List.length_cons, ih, List.length_cons]

theorem foldl_insertBy {α : Type} (lt : α → α → Bool) (l acc : List α) :
    (∀ y, y ∈ l.foldl (fun acc x => insertBy lt x acc) acc ↔ y ∈ acc ∨ y ∈ l) ∧ (l.foldl (fun acc x => insertBy lt x acc) acc).length = acc.length + l.length := by
  induction l generalizing acc with
  | nil => simp
  | cons a l ih =>
    obtain ⟨hm, hl⟩ := ih (insertBy lt a acc)
    rw [List.foldl_cons]
    refine ⟨fun y => ?_, ?_⟩
    · rw [hm, mem_insertBy, List.mem_cons]; tauto
    · rw [hl, length_insertBy, List.length_cons]; omega

theorem mem_sortBy {α : Type} (lt : α → α → Bool) (y : α) (l : List α) : y ∈ sortBy lt l ↔ y ∈ l := by
  rw [sortBy, (foldl_insertBy lt l []).1]; simp

theorem length_sortBy {α : Type} (lt : α → α → Bool) (l : List α) : (sortBy lt l).length = l.length := by
  rw [sortBy, (foldl_insertBy lt l []).2]; simp

/-! ### What sending changes of the management unit -/

/-- A frame queued on a ring: the frames queued, the counts of the ports, and nothing else. -/
theorem Node.ringOut_mgmt (n : Node) (f : RingOut) : ∃ o p, n.ringOut f = { n with mgmt := { n.mgmt with out := o, portStats := p } } := by
  unfold Node.ringOut
  split
  · exact ⟨_, _, rfl⟩
  · dsimp only
    split <;> split <;> exact ⟨_, _, rfl⟩

/-- A frame of the node's own changes the nonce besides. -/
theorem Node.ringSend_mgmt (n : Node) (f : RingOut) :
    ∃ o p r, n.ringSend f = { n with mgmt := { n.mgmt with out := o, portStats := p, ringNonce := r } } := by
  unfold Node.ringSend
  split
  · exact ⟨_, _, _, rfl⟩
  · dsimp only
    split
    · obtain ⟨o, p, h⟩ := Node.ringOut_mgmt { n with mgmt := { n.mgmt with ringNonce := (n.mgmt.ringNonce + 1) % 2 ^ 64 } }
        { f with src := n.straps, keyId := (n.mgmt.ringKey.map (·.1)).getD 0, ctr := n.mgmt.ringNonce }
      exact ⟨o, p, _, h⟩
    · obtain ⟨o, p, h⟩ := Node.ringOut_mgmt n { f with src := n.straps, keyId := 0, ctr := 0 }
      exact ⟨o, p, _, h⟩

/-- A frame sent on both rings takes a sequence number besides. -/
theorem Node.ringSendBoth_mgmt (n : Node) (vtype dst : Nat) (payload : Bytes) : ∃ o p r q,
    n.ringSendBoth vtype dst payload = { n with mgmt := { n.mgmt with out := o, portStats := p, ringNonce := r, outSeq := q } } := by
  unfold Node.ringSendBoth
  dsimp only
  obtain ⟨o, p, r, h⟩ := Node.ringSend_mgmt { n with mgmt := { n.mgmt with outSeq := (n.mgmt.outSeq + 1) % 2 ^ 32 } }
    { ring := 0, vtype := vtype, flags := if n.ringKeyLive && vtype != 1 && vtype != 2 then 1 else 0, dst := dst, seq := n.mgmt.outSeq,
      payload := payload, auth := (if n.ringKeyLive && vtype != 1 && vtype != 2 then 1 else 0) == 1 }
  rw [h]
  obtain ⟨o', p', r', h'⟩ := Node.ringSend_mgmt { n with mgmt := { n.mgmt with out := o, portStats := p, ringNonce := r, outSeq := (n.mgmt.outSeq + 1) % 2 ^ 32 } }
    { ring := 1, vtype := vtype, flags := if n.ringKeyLive && vtype != 1 && vtype != 2 then 1 else 0, dst := dst, seq := n.mgmt.outSeq,
      payload := payload, auth := (if n.ringKeyLive && vtype != 1 && vtype != 2 then 1 else 0) == 1 }
  exact ⟨o', p', r', _, h'⟩

/-! ### The cache -/

/-- Sending a response keeps the cache. -/
theorem Node.respond_cache (n : Node) (via : Via) (vt : Nat) (p : Bytes) : (n.respond via vt p).mgmt.cache = n.mgmt.cache := by
  unfold Node.respond
  split
  · rfl
  · rfl
  · dsimp only
    obtain ⟨o, p, r, h⟩ := Node.ringSend_mgmt n _
    rw [h]

/-- A response kept of a ring's station is found again, where fewer than 64 of the station are kept (R491). -/
theorem Node.seen_remember (n : Node) (src : Source) (seq now : Nat) (p : Bytes) (hr : src.ring.isSome = true)
    (hlen : (n.mgmt.cache.filter fun e => e.1 == src.station).length < 64) : (n.remember src seq now p).seen src seq now = .again p := by
  obtain ⟨r, hr⟩ := Option.isSome_iff_exists.mp hr
  let mine := n.mgmt.cache.filter fun e => e.1 == src.station && e.2.1 != seq
  let keep := sortBy (fun (a b : Nat × Nat × Nat × Bytes) => decide (a.2.1 < b.2.1)) (mine ++ [(src.station, seq, now, p)])
  have hmine : mine.length ≤ (n.mgmt.cache.filter fun e => e.1 == src.station).length := by
    refine List.Sublist.length_le (List.monotone_filter_right _ fun e h => ?_)
    simp only [Bool.and_eq_true] at h
    exact h.1
  have hkeep : keep.length = mine.length + 1 := by simp [keep, length_sortBy]
  have hcache : (n.remember src seq now p).mgmt.cache = (n.mgmt.cache.filter fun e => e.1 != src.station) ++ keep := by
    unfold Node.remember
    rw [hr]
    show (n.mgmt.cache.filter fun e => e.1 != src.station) ++ keep.drop (keep.length - 64) = _
    rw [show keep.length - 64 = 0 by omega, List.drop_zero]
  have hmem : ∀ e, e ∈ keep ↔ e ∈ mine ∨ e = (src.station, seq, now, p) := fun e => by simp [keep, mem_sortBy]
  have hstation : ((n.remember src seq now p).mgmt.cache.filter fun e => e.1 == src.station) = keep := by
    have hout : ((n.mgmt.cache.filter fun e => e.1 != src.station).filter fun e => e.1 == src.station) = [] :=
      List.filter_eq_nil_iff.mpr fun e he => by simpa using (List.mem_filter.mp he).2
    have hin : (keep.filter fun e => e.1 == src.station) = keep := by
      refine List.filter_eq_self.mpr fun e he => ?_
      rcases (hmem e).mp he with h | rfl
      · have := (List.mem_filter.mp h).2
        simp only [Bool.and_eq_true] at this
        exact this.1
      · simp
    rw [hcache, List.filter_append, hout, hin, List.nil_append]
  have hfind : ∃ e, keep.find? (fun e => e.2.1 == seq && decide (now ≤ e.2.2.1 + (n.remember src seq now p).reg Reg.dedupTicks)) = some e ∧ e.2.2.2 = p := by
    cases hf : keep.find? (fun e => e.2.1 == seq && decide (now ≤ e.2.2.1 + (n.remember src seq now p).reg Reg.dedupTicks)) with
    | none =>
      have := List.find?_eq_none.mp hf (src.station, seq, now, p) ((hmem _).mpr (.inr rfl))
      simp at this
    | some e =>
      refine ⟨e, rfl, ?_⟩
      rcases (hmem e).mp (List.mem_of_find?_eq_some hf) with h | rfl
      · have h1 := (List.mem_filter.mp h).2
        have h2 := List.find?_some hf
        simp_all
      · rfl
  obtain ⟨e, he, hp⟩ := hfind
  unfold Node.seen
  rw [hr]
  dsimp only
  rw [hstation, he]
  exact congrArg Seen.again hp

theorem Node.seen_congr {n m : Node} (hc : n.mgmt.cache = m.mgmt.cache) (hr : n.reg Reg.dedupTicks = m.reg Reg.dedupTicks) (src : Source) (seq now : Nat) :
    n.seen src seq now = m.seen src seq now := by simp only [Node.seen, hc, hr]

/-- Settles O29: a command is served once, and its copies are answered from the cache. -/
theorem commandOnce : Obligations.CommandOnce := by
  intro via index sub value s p
  refine ⟨fun hr => ?_, fun hr hs => ?_, fun n hlen => ⟨?_, ?_, ?_, fun hring => ?_⟩⟩
  · dsimp only [exec, execObjectWrite, State.serve]
    rw [hr]; rfl
  · dsimp only [exec, execObjectWrite, State.serve]
    rw [hr, hs]; rfl
  · obtain ⟨m, h, e⟩ := n.acked_eq via 0x11 s.clock.tick; rw [e]
  · obtain ⟨m, h, e⟩ := n.acked_eq via 0x11 s.clock.tick; rw [e]
  · obtain ⟨m, h, e⟩ := n.acked_eq via 0x11 s.clock.tick; rw [e]
  · have hsome : via.src.ring.isSome = true := by
      rcases hring with ⟨st, ⟨h⟩ | ⟨h⟩⟩ <;> rw [h] <;> rfl
    unfold Node.acked
    rw [Node.seen_congr (Node.respond_cache ..) ?_ via.src, Node.seen_remember _ _ _ _ _ hsome hlen]
    obtain ⟨m, h, e⟩ := (n.remember via.src via.seq.toNat s.clock.tick [0, 0, 0, 0]).respond_eq via 0x11 [0, 0, 0, 0]
    rw [e]; rfl

end Sys2Proof.Machine
end

section
/-!
Rings, eyelets and locks (O59).
-/

namespace Sys2Proof.Machine

/-! ### Bytes of an entry -/

theorem octet_put (old v i : Nat) : (old - old / 256 ^ i % 256 * 256 ^ i + v % 256 * 256 ^ i) / 256 ^ i % 256 = v % 256 := by
  have hp : 0 < 256 ^ i := Nat.pow_pos (by decide)
  have hle : old / 256 ^ i % 256 * 256 ^ i ≤ old :=
    (Nat.mul_le_mul_right _ (Nat.mod_le _ _)).trans (Nat.div_mul_le_self _ _)
  have hold : old - old / 256 ^ i % 256 * 256 ^ i = old % 256 ^ i + 256 ^ i * (256 * (old / 256 ^ i / 256)) := by
    have h1 := Nat.div_add_mod old (256 ^ i)
    have h2 := Nat.div_add_mod (old / 256 ^ i) 256
    have h3 : 256 ^ i * (old / 256 ^ i) = 256 ^ i * (256 * (old / 256 ^ i / 256)) + old / 256 ^ i % 256 * 256 ^ i := by
      conv_lhs => rw [← h2]
      ring
    omega
  rw [hold, Nat.add_assoc, Nat.mul_comm (v % 256), ← Nat.mul_add, Nat.add_mul_div_left _ _ hp, Nat.div_eq_of_lt (Nat.mod_lt _ hp), Nat.zero_add,
    Nat.mul_add_mod, Nat.mod_mod]

/-- A byte of an entry after it is set. -/
theorem Node.octet_setOctet (n : Node) (k i v : Nat) : (n.setOctet k i v).octet k i = v % 256 := by
  simp only [Node.octet, Node.setOctet, Node.reg_setReg, if_true]
  exact octet_put _ _ _

/-- Byte 0 of an entry after byte 1 is set. -/
theorem Node.octet_zero_setOctet_one (n : Node) (k v : Nat) : (n.setOctet k 1 v).octet k 0 = n.octet k 0 := by
  simp only [Node.octet, Node.setOctet, Node.reg_setReg, if_true, Nat.pow_one, Nat.pow_zero, Nat.div_one]
  omega

/-! ### A ring's unit -/

theorem Node.ringUnit_setRingUnit (n : Node) (r : Nat) (u : RingUnit) : (n.setRingUnit r u).ringUnit r = u := by
  unfold Node.setRingUnit Node.ringUnit
  split <;> rfl

/-- What an event changes: EVENT_SEQ, what the host port holds, and of the management unit the log and what it sends. -/
theorem Node.event_mgmt (n : Node) (c : Nat) (d : Bytes) : ∃ l o p r q h, n.event c d = { n.setReg Reg.eventSeq ((n.reg Reg.eventSeq + 1) % 2 ^ 32) with
    mgmt := { n.mgmt with events := l, out := o, portStats := p, ringNonce := r, outSeq := q }, host := h } := by
  unfold Node.event
  dsimp only
  generalize hl : ((n.mgmt.events ++ _).drop _) = l
  obtain ⟨o, p, r, q, h⟩ := Node.ringSendBoth_mgmt
    { n.setReg Reg.eventSeq ((n.reg Reg.eventSeq + 1) % 2 ^ 32) with mgmt := { (n.setReg Reg.eventSeq ((n.reg Reg.eventSeq + 1) % 2 ^ 32)).mgmt with events := l } }
    0x20 0xFFFF (leBytes 4 ((n.reg Reg.eventSeq + 1) % 2 ^ 32) ++ leBytes 2 c ++ leBytes 2 d.length ++ d)
  rw [h]
  obtain ⟨h', e⟩ := Node.eventQueueWrite_eq _ _
  exact ⟨l, o, p, r, q, h', e⟩

theorem Node.octet_event (n : Node) (c : Nat) (d : Bytes) (k i : Nat) (hk : k ≠ Reg.eventSeq) : (n.event c d).octet k i = n.octet k i := by
  rw [Node.octet, Node.reg_event, if_neg hk, Node.octet]

theorem RingUnit.state_le (u : RingUnit) : u.state % 256 = u.state := by
  unfold RingUnit.state
  split
  · rfl
  · split <;> rfl

/-- A ring's unit before its state is brought up to date. -/
def Node.withRing (n : Node) (r : Nat) (u : RingUnit) : Node :=
  (n.setRingUnit r u).setReg Reg.eyeletState
    ((if (n.setRingUnit r u).mgmt.a.eyelet then 1 else 0) + (if (n.setRingUnit r u).mgmt.b.eyelet then 2 else 0))

theorem Node.putRing_eq (n : Node) (r : Nat) (u : RingUnit) : n.putRing r u =
    if n.ringState r = u.state then n.withRing r u
    else ((n.withRing r u).setOctet Reg.ringState r u.state).event 0x0060 (leBytes 1 r ++ leBytes 1 u.state) := rfl

theorem Node.octet_withRing (n : Node) (r i : Nat) (u : RingUnit) : (n.withRing r u).octet Reg.ringState i = n.ringState i := by
  rw [Node.withRing, Node.octet, Node.reg_setReg, if_neg (by decide)]
  unfold Node.setRingUnit
  split <;> rfl

/-- A ring's unit put: its state is that of the unit, and the rest of the management unit that no event changes is as before (R485). -/
theorem Node.putRing_self (n : Node) (r : Nat) (u : RingUnit) : (n.putRing r u).ringUnit r = u ∧ (n.putRing r u).ringState r = u.state := by
  rw [Node.putRing_eq]
  split
  · next h =>
    exact ⟨n.ringUnit_setRingUnit r u, (n.octet_withRing r r u).trans h⟩
  · refine ⟨?_, ?_⟩
    · obtain ⟨l, o, p, q, s, h, e⟩ := ((n.withRing r u).setOctet Reg.ringState r u.state).event_mgmt 0x0060 (leBytes 1 r ++ leBytes 1 u.state)
      rw [e]
      exact n.ringUnit_setRingUnit r u
    · rw [Node.ringState, Node.octet_event _ _ _ _ _ (by decide), Node.octet_setOctet, RingUnit.state_le]

/-- What putting ring B's unit leaves of ring A. -/
theorem Node.putRing_one_other (n : Node) (u : RingUnit) : (n.putRing 1 u).mgmt.a = n.mgmt.a ∧ (n.putRing 1 u).ringState 0 = n.ringState 0 := by
  rw [Node.putRing_eq]
  split
  · exact ⟨rfl, n.octet_withRing 1 0 u⟩
  · refine ⟨?_, ?_⟩
    · obtain ⟨l, o, p, q, s, h, e⟩ := ((n.withRing 1 u).setOctet Reg.ringState 1 u.state).event_mgmt 0x0060 (leBytes 1 1 ++ leBytes 1 u.state)
      rw [e]; rfl
    · rw [Node.ringState, Node.octet_event _ _ _ _ _ (by decide), Node.octet_zero_setOctet_one, Node.octet_withRing]

/-- What putting a ring's unit leaves: admission, the watchdog, BEACON_TICKS. -/
theorem Node.putRing_rest (n : Node) (r : Nat) (u : RingUnit) : (n.putRing r u).adm = n.adm ∧ (n.putRing r u).mgmt.watchdogOk = n.mgmt.watchdogOk ∧
    (r = 0 → (n.putRing r u).mgmt.b = n.mgmt.b) := by
  rw [Node.putRing_eq]
  have hbase : (n.withRing r u).adm = n.adm ∧ (n.withRing r u).mgmt.watchdogOk = n.mgmt.watchdogOk ∧ (r = 0 → (n.withRing r u).mgmt.b = n.mgmt.b) := by
    unfold Node.withRing Node.setRingUnit
    split
    · exact ⟨rfl, rfl, fun _ => rfl⟩
    · next h => exact ⟨rfl, rfl, fun h0 => absurd h0 h⟩
  split
  · exact hbase
  · obtain ⟨l, o, p, q, s, h, e⟩ := ((n.withRing r u).setOctet Reg.ringState r u.state).event_mgmt 0x0060 (leBytes 1 r ++ leBytes 1 u.state)
    rw [e]; exact hbase

/-! ### Beacons -/

theorem Node.ringSend_twice_mgmt (n : Node) (f g : RingOut) :
    ∃ o p r, (n.ringSend f).ringSend g = { n with mgmt := { n.mgmt with out := o, portStats := p, ringNonce := r } } := by
  obtain ⟨o, p, r, e⟩ := n.ringSend_mgmt f
  rw [e]
  obtain ⟨o', p', r', e'⟩ := Node.ringSend_mgmt { n with mgmt := { n.mgmt with out := o, portStats := p, ringNonce := r } } g
  exact ⟨o', p', r', e'⟩

/-- A beacon that is due counts, and its ring's unit keeps its eyelet (R485); admission and, of ring B's beacon, ring A's unit are as before. -/
theorem Node.sendBeacon_due (n : Node) (now r : Nat) (h2 : n.ringState r ≠ 2)
    (hd : (n.ringUnit r).beaconSeq = 0 ∨ (n.ringUnit r).lastBeacon + n.reg Reg.beaconTicks ≤ now) :
    ∃ back, (n.sendBeacon now r).ringUnit r =
        { n.ringUnit r with beaconSeq := ((n.ringUnit r).beaconSeq + 1) % 2 ^ 32, lastBeacon := now, lastReturn := back } ∧
      (n.sendBeacon now r).adm = n.adm ∧ (r = 1 → (n.sendBeacon now r).mgmt.a = n.mgmt.a) := by
  unfold Node.sendBeacon
  dsimp only
  rw [if_neg (by rintro (h | ⟨h, hlt⟩); exacts [h2 h, by omega])]
  generalize hu : ({ n.ringUnit r with beaconSeq := ((n.ringUnit r).beaconSeq + 1) % 2 ^ 32, lastBeacon := now, lastReturn := _ } : RingUnit) = u
  obtain ⟨o, p, q, e⟩ := Node.ringSend_twice_mgmt _ _ _
  rw [e]
  exact ⟨_, (n.putRing_self r u).1.trans hu.symm, (n.putRing_rest r u).1, fun h => by subst h; exact (n.putRing_one_other u).1⟩

/-- Sending ring B's beacon keeps ring A's unit, and admission. -/
theorem Node.sendBeacon_one (n : Node) (now : Nat) : (n.sendBeacon now 1).mgmt.a = n.mgmt.a ∧ (n.sendBeacon now 1).adm = n.adm := by
  by_cases h : n.ringState 1 ≠ 2 ∧ ((n.ringUnit 1).beaconSeq = 0 ∨ (n.ringUnit 1).lastBeacon + n.reg Reg.beaconTicks ≤ now)
  · obtain ⟨back, -, hadm, ha⟩ := n.sendBeacon_due now 1 h.1 h.2
    exact ⟨ha rfl, hadm⟩
  · unfold Node.sendBeacon
    dsimp only
    rw [if_pos (by by_contra hc; exact h ⟨fun h2 => hc (.inl h2), by by_contra hd; exact hc (.inr (by omega))⟩)]
    exact ⟨rfl, rfl⟩

theorem Node.sendBeacon_lost (n : Node) (now r : Nat) (h : n.ringState r = 2) : n.sendBeacon now r = n := by
  unfold Node.sendBeacon
  dsimp only
  rw [if_pos (.inl h)]

/-! ### The rows -/

theorem voxleyOf_vtype (frame : Bytes) (f : Voxley) (h : voxleyOf frame = some f) : f.vtype = fieldB frame 15 1 := by
  simp only [voxleyOf, Option.ite_none_left_eq_some, Option.some.injEq] at h
  obtain ⟨-, rfl⟩ := h
  rfl

/-- The frame as it goes on from a port (R484). -/
def Voxley.onward (f : Voxley) (r : Nat) (frame : Bytes) (port : Nat) : RingOut :=
  { ring := r, vtype := f.vtype, flags := f.flags, dst := f.dst, seq := f.seq, payload := forwarded frame, raw := true, hops := f.hops - 1, src := f.src,
    port := port }

/-- The port a frame goes on from: the one it did not arrive at (R484). -/
def Node.onwardPort (n : Node) (r : Nat) : Nat :=
  if (if (n.ringUnit r).eastUp && (n.ringUnit r).westUp then leNat (n.draw 1).1 % 2 == 1 else (n.ringUnit r).eastUp) then 1 else 0

/-- A sound frame on a ring that is not LOST: counted, then stripped, dropped, forwarded or consumed (R484). -/
theorem State.ringIn_sound (s : State) (r : Nat) (frame : Bytes) (f : Voxley) (hr : s.node.ringState r ≠ 2) (hs : voxleySound frame = true)
    (hf : voxleyOf frame = some f) :
    s.ringIn r frame =
      if f.src = s.node.straps then
        s.put (if f.vtype = 2 then (s.node.frameCounted r).ownBeacon s.clock.tick r f.payload else s.node.frameCounted r)
      else if !knownVtype f.vtype then s.put ((s.node.frameCounted r).bump Reg.framesRefused)
      else if f.hops = 0 then s.put (s.node.frameCounted r)
      else
        let n := if f.dst != s.node.straps && (s.node.ringUnit r).eastUp && (s.node.ringUnit r).westUp then
          (s.node.frameCounted r).ringOut (f.onward r frame (s.node.onwardPort r)) else s.node.frameCounted r
        if f.dst = n.straps ∨ f.dst = 0xFFFF then (s.put n).consume r f else s.put n := by
  unfold State.ringIn
  rw [if_neg hr]
  dsimp only
  rw [if_neg (by simp [hs]), hf]
  rfl

/-- The own beacon that returns in time: the ring's unit notes it (R485). -/
theorem exec_beaconReceive (ring : Ring) (frame : Bytes) (f : Voxley) (s : State) (h2 : fieldB frame 15 1 = 2) (hr : s.node.ringState (ringNum ring) ≠ 2)
    (hsound : voxleySound frame = true) (hf : voxleyOf frame = some f) (hsrc : f.src = s.node.straps) (h0 : fieldB f.payload 0 2 = s.node.straps)
    (hring : fieldB f.payload 2 1 = ringNum ring) (hseq : fieldB f.payload 4 4 = (s.node.ringUnit (ringNum ring)).beaconSeq)
    (hin : s.clock.tick ≤ (s.node.ringUnit (ringNum ring)).lastBeacon + s.node.reg Reg.beaconTicks) :
    exec (.beaconReceive ring frame) s = .next (s.withNode ((s.node.frameCounted (ringNum ring)).putRing (ringNum ring)
      { s.node.ringUnit (ringNum ring) with lastReturn := some s.clock.tick })) := by
  have hown : (s.node.frameCounted (ringNum ring)).ownBeacon s.clock.tick (ringNum ring) f.payload =
      (s.node.frameCounted (ringNum ring)).putRing (ringNum ring) { s.node.ringUnit (ringNum ring) with lastReturn := some s.clock.tick } :=
    if_pos ⟨h0, hring, hseq, hin⟩
  dsimp only [exec, execBeaconReceive, State.ringRow]
  rw [if_pos h2, State.ringIn_sound s _ _ f hr hsound hf, if_pos hsrc, if_pos ((voxleyOf_vtype _ _ hf).trans h2), hown]
  rfl

theorem RingUnit.state_closed (u : RingUnit) (h : u.eyelet = false) : u.state = 2 := by simp [RingUnit.state, h]

theorem RingUnit.state_of_no_return (u : RingUnit) (h : u.lastReturn = none) : u.state ≠ 0 := by
  unfold RingUnit.state
  split
  · decide
  · simp [h]

/-- RING_PORT_DOWN (R485): `own` is whether the loss is the node's own. -/
theorem exec_ringPortDown (ring : Ring) (east : Bool) (s : State) :
    ∃ (n : Node) (own : Bool), n.ringUnit (ringNum ring) = s.node.ringUnit (ringNum ring) ∧ exec (.ringPortDown ring east) s =
      .next (s.withNode (n.putRing (ringNum ring) { n.ringUnit (ringNum ring) with
        eastUp := (n.ringUnit (ringNum ring)).eastUp && !east, westUp := (n.ringUnit (ringNum ring)).westUp && east
        linkTest := (n.ringUnit (ringNum ring)).linkTest && !own, eyelet := (n.ringUnit (ringNum ring)).eyelet && !own, lastReturn := none })) :=
  ⟨(s.node.ringCount (ringNum ring) east 3 |>.draw 1).2, leNat (s.node.ringCount (ringNum ring) east 3 |>.draw 1).1 % 2 == 1, rfl, rfl⟩

/-- The conditions under which EYELET_OPEN acts, and what it does (R486). -/
theorem exec_eyeletOpen (ring : Ring) (s : State) : exec (.eyeletOpen ring) s =
    if (s.node.ringUnit (ringNum ring)).eyelet || !s.node.eyeletMay (ringNum ring) then s.on s.node
    else s.on (({ s.node with mgmt := { s.node.mgmt with watchdogOk := true } } : Node).putRing (ringNum ring)
      { s.node.ringUnit (ringNum ring) with eyelet := true, lastReturn := none }) := rfl

theorem exec_eyeletClose (ring : Ring) (s : State) : exec (.eyeletClose ring) s =
    s.on (if (s.node.ringUnit (ringNum ring)).eyelet && !(s.node.eyeletMay (ringNum ring) && s.node.mgmt.watchdogOk) then s.node.closeEyelet (ringNum ring)
      else s.node) := rfl

theorem Node.closeEyelet_self (n : Node) (r : Nat) : ((n.closeEyelet r).ringUnit r).eyelet = false ∧ (n.closeEyelet r).ringState r = 2 := by
  obtain ⟨hu, hs⟩ := n.putRing_self r { n.ringUnit r with eyelet := false, lastReturn := none }
  exact ⟨(congrArg RingUnit.eyelet hu : _), hs.trans (RingUnit.state_closed _ rfl)⟩

/-- WATCHDOG_EXPIRY (R486): both eyelets close. -/
theorem Node.close_both (n : Node) : ((n.closeEyelet 0).closeEyelet 1).mgmt.watchdogOk = n.mgmt.watchdogOk ∧
    ((n.closeEyelet 0).closeEyelet 1).mgmt.a.eyelet = false ∧ ((n.closeEyelet 0).closeEyelet 1).mgmt.b.eyelet = false ∧
    ((n.closeEyelet 0).closeEyelet 1).ringState 0 = 2 ∧ ((n.closeEyelet 0).closeEyelet 1).ringState 1 = 2 := by
  obtain ⟨ha, hs⟩ := (n.closeEyelet 0).putRing_one_other { (n.closeEyelet 0).ringUnit 1 with eyelet := false, lastReturn := none }
  obtain ⟨ha0, hs0⟩ := n.closeEyelet_self 0
  obtain ⟨hb, hs1⟩ := (n.closeEyelet 0).closeEyelet_self 1
  exact ⟨((n.closeEyelet 0).putRing_rest 1 _).2.1.trans (n.putRing_rest 0 _).2.1, (congrArg RingUnit.eyelet ha).trans ha0, hb, hs.trans hs0, hs1⟩

theorem Node.ringKeyCode_noteAwl (n : Node) (via : Via) (v : Bytes) : (n.noteAwl via).ringKeyCode v = n.ringKeyCode v := by
  obtain ⟨a, j, e⟩ := n.noteAwl_sec via
  rw [e]; rfl

/-- The result of F0_UNLOCK (R504). -/
def Node.unlockCode (n : Node) (v : Bytes) : Nat :=
  if v.length ≠ 7219 then 5
  else if !opRootSet n.sec.opRoot || sha3_512 (sliceB v 0 2592) != n.sec.opRoot then 1
  else if !Config.verify (sliceB v 0 2592) (nameBytes "UHLELLE F0 UNLOCK") (leBytes 32 (n.reg Reg.unlockNonce)) (sliceB v 2592 4627) then 2
  else 0

theorem Node.unlockCode_noteAwl (n : Node) (via : Via) (v : Bytes) : (n.noteAwl via).unlockCode v = n.unlockCode v := by
  obtain ⟨a, j, e⟩ := n.noteAwl_sec via
  rw [e]; rfl

theorem Node.f0Unlock_spec (n : Node) (v : Bytes) : (n.f0Unlock v).reg Reg.authResult = n.unlockCode v ∧
    (n.f0Unlock v).host = if n.unlockCode v = 0 then { n.host with unlocked := true } else n.host := by
  unfold Node.f0Unlock
  dsimp only
  rw [← Node.unlockCode]
  generalize n.unlockCode v = code
  generalize hd : n.draw 32 = d
  obtain ⟨nonce, m⟩ := d
  have hm : m.host = n.host := (congrArg (fun x : Bytes × Node => x.2.host) hd).symm
  dsimp only
  have hreg : ((m.setReg Reg.authResult code).setReg Reg.unlockNonce (leNat nonce)).reg Reg.authResult = code := by
    rw [Node.reg_setReg, if_neg (by decide), Node.reg_setReg, if_pos rfl]
  by_cases h : code = 0
  · rw [if_pos h, if_pos h, ← hm]; exact ⟨hreg, rfl⟩
  · rw [if_neg h, if_neg h, ← hm]; exact ⟨hreg, rfl⟩

/-- Settles O59: the watchdog's refresh that comes with EYELET_OPEN is log entry 99, and which loss of a port is the node's own is free (log entry 100). -/
theorem ringUnits : Obligations.RingUnits := by
  intro s n0 now
  refine ⟨fun h2 hd => ?_, fun h0 h1 => ?_, fun ring frame f => ?_, fun ring east => ?_, ?_, ?_, fun via v => ?_, fun via v => ?_, fun via v => ?_⟩
  · obtain ⟨back, hu, hadm0, -⟩ := s.node.sendBeacon_due s.clock.tick 0 h2 hd
    obtain ⟨ha, hadm⟩ := (s.node.sendBeacon s.clock.tick 0).sendBeacon_one s.clock.tick
    have hu' : ((s.node.sendBeacon s.clock.tick 0).sendBeacon s.clock.tick 1).mgmt.a = _ := ha.trans hu
    refine ⟨_, State.on_eq s _, ?_, ?_, ?_, hadm.trans hadm0⟩ <;> rw [hu'] <;> rfl
  · dsimp only [exec, execBeaconSend]
    rw [Node.sendBeacon_lost _ _ _ h0, Node.sendBeacon_lost _ _ _ h1]
    rfl
  · intro r u h2 hr hs hf hsrc h0 hring hseq hin
    obtain ⟨hu, hst⟩ := (s.node.frameCounted (ringNum ring)).putRing_self (ringNum ring)
      { s.node.ringUnit (ringNum ring) with lastReturn := some s.clock.tick }
    refine ⟨_, exec_beaconReceive ring frame f s h2 hr hs hf hsrc h0 hring hseq hin, by rw [hu], by rw [hst, hu], fun he hea hw => ?_⟩
    rw [hst]
    simp [RingUnit.state, show (s.node.ringUnit (ringNum ring)).eyelet = true from he, show (s.node.ringUnit (ringNum ring)).eastUp = true from hea,
      show (s.node.ringUnit (ringNum ring)).westUp = true from hw]
  · intro r u
    refine ⟨?_, ?_, fun he hm => ?_, fun h => ?_, fun he hm => ?_, fun h => ?_⟩
    · obtain ⟨n, own, hn, e⟩ := exec_ringPortDown ring east s
      rw [hn] at e
      obtain ⟨hu, hst⟩ := n.putRing_self (ringNum ring) { u with
        eastUp := u.eastUp && !east, westUp := u.westUp && east, linkTest := u.linkTest && !own, eyelet := u.eyelet && !own, lastReturn := none }
      exact ⟨_, e, by rw [hu], by rw [hu], by rw [hu], by rw [hst]; exact RingUnit.state_of_no_return _ rfl⟩
    · obtain ⟨hu, -⟩ := s.node.putRing_self r { u with eastUp := u.eastUp || east, westUp := u.westUp || !east, linkTest := true }
      exact ⟨_, State.on_eq s _, by rw [hu], by rw [hu], by rw [hu], by rw [hu]⟩
    · refine ⟨_, ?_, s.node.closeEyelet_self r⟩
      rw [exec_eyeletClose, if_pos (by simp only [Bool.and_eq_true, Bool.not_eq_true']; exact ⟨he, hm⟩), State.on_eq]
    · rw [exec_eyeletClose, if_neg]
      · rfl
      · simp only [Bool.and_eq_true, Bool.not_eq_true', not_and, Bool.not_eq_false]
        intro h1
        exact Bool.and_eq_true_iff.mp (h.resolve_left (by rw [show u.eyelet = true from h1]; decide))
    · obtain ⟨hu, hst⟩ := ({ s.node with mgmt := { s.node.mgmt with watchdogOk := true } } : Node).putRing_self r { u with eyelet := true, lastReturn := none }
      refine ⟨_, ?_, congrArg RingUnit.eyelet hu, (Node.putRing_rest _ r _).2.1, fun hup => hst.trans ?_⟩
      · rw [exec_eyeletOpen, if_neg, State.on_eq]
        simp only [Bool.or_eq_true, Bool.not_eq_true', not_or, Bool.not_eq_true, Bool.not_eq_false]
        exact ⟨he, hm⟩
      · rcases hup with h | h <;> simp [RingUnit.state, h]
    · rw [exec_eyeletOpen, if_pos]
      · rfl
      · simp only [Bool.or_eq_true, Bool.not_eq_true']
        exact h
  · exact ⟨_, State.on_eq s _, Node.close_both _⟩
  · refine ⟨_, State.on_eq s _, List.length_map .., rfl, fun b hb hd => ?_⟩
    obtain ⟨b0, h0, rfl⟩ := List.mem_map.mp hb
    split at hd
    · exact absurd hd (by simp)
    · next h =>
      rw [if_neg h]
      simp only [Bool.and_eq_true, Bool.not_eq_true', decide_eq_true_eq, not_and] at h
      exact ⟨h0, Nat.not_le.mp (h hd)⟩
  · refine State.accepts_of s (.ringKeyInstall via v) via 0x1204 1 v (fun n => n.ringKeyInstall s.clock.tick v) _ rfl ?_
    have hcode := s.node.ringKeyCode_noteAwl via v
    by_cases h0 : (n0.ringKeyCode v).1 = 0
    · have he : (s.node.noteAwl via).ringKeyInstall s.clock.tick v = { (s.node.noteAwl via).setReg Reg.authResult 0 with
          mgmt := { n0.mgmt with ringKey := some (fieldB v 0 2, (n0.ringKeyCode v).2), prevKey := n0.mgmt.ringKey, keyTick := s.clock.tick, ringNonce := 0 } }.setReg
            Reg.ringKeyId (fieldB v 0 2) := by
        unfold Node.ringKeyInstall
        rw [hcode, show s.node.ringKeyCode v = (0, (n0.ringKeyCode v).2) from Prod.ext h0 rfl]
        dsimp only
        rw [if_neg (by decide), Node.setReg_mgmt, Node.noteAwl_mgmt]
      rw [he, h0]
      refine ⟨?_, fun _ => ⟨rfl, rfl, ?_, rfl⟩, fun h => absurd rfl h⟩
      · rw [Node.reg_setReg, if_neg (by decide)]
        exact ((s.node.noteAwl via).reg_setReg Reg.authResult 0 _).trans (if_pos rfl)
      · rw [Node.reg_setReg, if_pos rfl]
    · have he : (s.node.noteAwl via).ringKeyInstall s.clock.tick v = (s.node.noteAwl via).setReg Reg.authResult (n0.ringKeyCode v).1 := by
        unfold Node.ringKeyInstall
        rw [hcode]
        exact if_pos h0
      rw [he]
      exact ⟨(Node.reg_setReg ..).trans (if_pos rfl), fun h => absurd h h0, fun _ => Node.noteAwl_mgmt ..⟩
  · intro op signed
    refine State.accepts_of s (.f0Unlock via v) via 0x1204 2 v (fun n => n.f0Unlock v) _ rfl ?_
    obtain ⟨hreg, hhost⟩ := (s.node.noteAwl via).f0Unlock_spec v
    rw [Node.unlockCode_noteAwl] at hreg hhost
    have hcode : ∀ c, v.length = 7219 → (s.node.unlockCode v = c) = ((if !opRootSet n0.sec.opRoot || sha3_512 op != n0.sec.opRoot then 1
        else if !signed then 2 else 0) = c) := fun c hl => by rw [Node.unlockCode, if_neg (by simp [hl])]
    refine ⟨fun hl hset hsig hs => ?_, fun hl hset hsig hs => ?_, fun hl hbad => ?_⟩
    · have h0 : s.node.unlockCode v = 0 := by rw [hcode 0 hl]; simp [hset, hsig, hs]
      rw [hreg, hhost, h0]; exact ⟨rfl, rfl⟩
    · have h2 : s.node.unlockCode v = 2 := by rw [hcode 2 hl]; simp [hset, hsig, hs]
      rw [hreg, hhost, h2]; exact ⟨Node.noteAwl_host .., rfl⟩
    · have h1 : s.node.unlockCode v = 1 := by
        rw [hcode 1 hl, if_pos]
        rcases hbad with h | h <;> simp [h]
      rw [hreg, hhost, h1]; exact ⟨Node.noteAwl_host .., rfl⟩
  · refine State.accepts_of s (.f0Lock via v) via 0x1204 3 [v] (fun n => n.f0Lock v.toNat) _ rfl ?_
    have hv : (v.toNat = 1) ↔ v = 1 := ⟨fun h => BitVec.eq_of_toNat_eq h, fun h => by rw [h]; rfl⟩
    unfold Node.f0Lock
    by_cases h : v = 1
    · rw [if_pos (hv.mpr h), if_pos h]; exact ⟨rfl, Node.noteAwl_regs ..⟩
    · rw [if_neg (fun h' => h (hv.mp h')), if_neg h, Node.noteAwl_host]; exact ⟨rfl, Node.noteAwl_regs ..⟩

end Sys2Proof.Machine
end

section
/-!
Share domains, models and quotas (O43).
-/

namespace Sys2Proof.Machine

theorem Map.get_of_find {α : Type} (d : α) (m : Map α) (k : Nat) : Map.get d m k = (Map.find m k).getD d := by
  induction m with
  | nil => rfl
  | cons e t ih =>
    simp only [Map.get, Map.find]
    split
    · rfl
    · exact ih

/-! ### Share domains -/

/-- The code of R126 for a domain to create. -/
def Node.domainCode (n : Node) (v : Bytes) : Nat :=
  firstCode
    [((Map.find n.share.domains (fieldB v 4 4)).isSome, 1), (decide (n.reg Reg.domainMax ≤ n.share.domains.length) || n.freeKeySlot.isNone, 2),
     (fieldB v 4 4 == 0, 3), (!n.bound (fieldB v 12 1) (fieldB v 8 4 % 2 ^ 28), 4)]

/-- The node with the domain that a value spells, its key in the slot given (R127). -/
def Node.withDomain (n : Node) (now : Nat) (v key : Bytes) (slot : Nat) : Node :=
  let m := n.setKey slot { state := 1, ktype := 3, tenant := fieldB v 8 4 % 2 ^ 28, slice := fieldB v 12 1, key := key, liveTick := now }
  let x : Domain := { tenant := fieldB v 8 4 % 2 ^ 28, slice := fieldB v 12 1, keySlot := slot, key := key, created := now }
  { m with share := { m.share with domains := Map.put m.share.domains (fieldB v 4 4) x } }

theorem Node.domainCreate_eq (n : Node) (now : Nat) (v : Bytes) : n.domainCreate now v =
    if n.domainCode v ≠ 0 then n.setReg Reg.domainResult (n.domainCode v)
    else ((n.setReg Reg.domainResult (n.domainCode v)).draw 32).2.withDomain now v ((n.setReg Reg.domainResult (n.domainCode v)).draw 32).1
      (((n.setReg Reg.domainResult (n.domainCode v)).draw 32).2.freeKeySlot.getD 0) := rfl

theorem Node.withDomain_spec (n : Node) (now : Nat) (v key : Bytes) (slot : Nat) :
    ∃ x, Map.find (n.withDomain now v key slot).share.domains (fieldB v 4 4) = some x ∧ x.tenant = fieldB v 8 4 % 2 ^ 28 ∧ x.slice = fieldB v 12 1 ∧
      x.created = now ∧ ((n.withDomain now v key slot).keySlot x.keySlot).state = 1 ∧
      ((n.withDomain now v key slot).keySlot x.keySlot).key = x.key := by
  have hslot : (n.withDomain now v key slot).keySlot slot = _ := Node.keySlot_setKey n slot slot _
  rw [if_pos rfl] at hslot
  exact ⟨_, (Map.find_put ..).trans (if_pos rfl), rfl, rfl, rfl, by rw [hslot], by rw [hslot]⟩

/-- One node looked at for the nodes that fall: it is a first one, or its parent falls. -/
def fallStep (first : Nat → PNode → Bool) (dead : List Nat) (e : Nat × PNode) : List Nat :=
  if first e.1 e.2 || (match e.2.parent with | some p => dead.contains p | none => false) then dead ++ [e.1] else dead

theorem deadNodes_eq (nodes : Map PNode) (first : Nat → PNode → Bool) : deadNodes nodes first = nodes.foldl (fallStep first) [] := rfl

theorem mem_fallStep (first : Nat → PNode → Bool) (dead : List Nat) (e : Nat × PNode) (k : Nat) (h : k ∈ dead) : k ∈ fallStep first dead e := by
  unfold fallStep
  split_ifs
  · exact List.mem_append_left _ h
  · exact h

/-- The nodes that fall with the first ones hold every first one (R130). -/
theorem mem_foldl_fallStep (nodes : Map PNode) (first : Nat → PNode → Bool) (e : Nat × PNode) (hf : first e.1 e.2 = true) (acc : List Nat)
    (h : e ∈ nodes ∨ e.1 ∈ acc) : e.1 ∈ nodes.foldl (fallStep first) acc := by
  induction nodes generalizing acc with
  | nil => exact h.resolve_left (by simp)
  | cons x t ih =>
    refine ih _ ?_
    rcases h with h | h
    · rcases List.mem_cons.mp h with rfl | h
      · exact .inr (by simp [fallStep, hf])
      · exact .inl h
    · exact .inr (mem_fallStep first acc x _ h)

theorem mem_deadNodes (nodes : Map PNode) (first : Nat → PNode → Bool) (e : Nat × PNode) (he : e ∈ nodes) (hf : first e.1 e.2 = true) :
    e.1 ∈ deadNodes nodes first := mem_foldl_fallStep nodes first e hf [] (.inl he)

theorem Node.removeNodes_nodes (n : Node) (first : Nat → PNode → Bool) : ∀ e ∈ (n.removeNodes first).share.nodes, first e.1 e.2 = false := by
  intro e he
  rw [Bool.eq_false_iff]
  intro hf
  unfold Node.removeNodes at he
  dsimp only at he
  split at he
  · next h =>
    have := mem_deadNodes _ first e he hf
    rw [h] at this
    cases this
  · obtain ⟨hm, hd⟩ := List.mem_filter.mp he
    have := mem_deadNodes _ first e hm hf
    simp [this] at hd

theorem Node.removeNodes_rest (n : Node) (first : Nat → PNode → Bool) : (n.removeNodes first).share.domains = n.share.domains ∧
    (n.removeNodes first).sec = n.sec ∧ ∀ k, k ≠ Reg.nodesRemoved → (n.removeNodes first).reg k = n.reg k := by
  unfold Node.removeNodes
  dsimp only
  split
  · exact ⟨rfl, rfl, fun _ _ => rfl⟩
  · refine ⟨rfl, rfl, fun k hk => ?_⟩
    rw [Node.bumpBy, Node.reg_setReg, if_neg hk]
    rfl

theorem Node.reg_retireKey (n : Node) (k j : Nat) (hj : j ≠ Reg.keysRetired) : (n.retireKey k).reg j = n.reg j := by
  unfold Node.retireKey
  dsimp only
  split
  · exact Node.reg_bump_ne _ _ _ hj
  · rfl

/-- The node without a domain's record, its key retired (R130). -/
def Node.unlistDomain (n : Node) (d k : Nat) : Node :=
  { n.retireKey k with share := { (n.retireKey k).share with domains := Map.erase (n.retireKey k).share.domains d } }

/-- A domain's end: its record, then its nodes, then the sequences that publish to it (R130). -/
theorem Node.dropDomain_eq (n : Node) (d : Nat) : ∃ q, n.dropDomain d =
    { (n.unlistDomain d (Map.get {} n.share.domains d).keySlot).removeNodes fun _ x => x.domain == d with seqs := q } := ⟨_, rfl⟩

/-- What the end of a domain leaves (R130). -/
theorem Node.dropDomain_spec (n : Node) (d : Nat) (x : Domain) (hx : Map.find n.share.domains d = some x) :
    Map.find (n.dropDomain d).share.domains d = none ∧ (∀ e ∈ (n.dropDomain d).share.nodes, e.2.domain ≠ d) ∧
    (n.dropDomain d).reg Reg.domainResult = n.reg Reg.domainResult ∧
    ((n.keySlot x.keySlot).state = 1 → ((n.dropDomain d).keySlot x.keySlot).state = 2 ∧ ((n.dropDomain d).keySlot x.keySlot).key = []) := by
  have hget : Map.get {} n.share.domains d = x := by rw [Map.get_of_find, hx]; rfl
  obtain ⟨q, e⟩ := n.dropDomain_eq d
  rw [e, hget]
  obtain ⟨hdom, hsec, hreg⟩ := (n.unlistDomain d x.keySlot).removeNodes_rest fun _ y => y.domain == d
  have hnodes := (n.unlistDomain d x.keySlot).removeNodes_nodes fun _ y => y.domain == d
  refine ⟨?_, fun e he => by simpa using hnodes e he, ?_, fun hlive => ?_⟩
  · exact (congrArg (Map.find · d) hdom).trans ((Map.find_erase ..).trans (if_pos rfl))
  · exact (hreg _ (by decide)).trans (n.reg_retireKey _ _ (by decide))
  · have hslot : ((n.unlistDomain d x.keySlot).removeNodes fun _ y => y.domain == d).keySlot x.keySlot = _ :=
      (Node.keySlot_congr hsec _).trans ((congrArg (·.keySlot x.keySlot) (n.retireKey_live x.keySlot hlive)).trans
        ((Node.keySlot_bump ..).trans ((Node.keySlot_setKey ..).trans (if_pos rfl))))
    constructor
    · exact congrArg KeySlot.state hslot
    · exact congrArg KeySlot.key hslot

theorem Node.domainDestroy_eq (n : Node) (v : Bytes) : n.domainDestroy v =
    if (Map.find n.share.domains (fieldB v 4 4)).isSome = true then (n.setReg Reg.domainResult 0).dropDomain (fieldB v 4 4)
    else n.setReg Reg.domainResult 3 := by
  unfold Node.domainDestroy
  dsimp only
  rw [Node.setReg_share]
  split <;> rfl

/-! ### Models -/

/-- The run of weight descriptors of a model to define (R185). -/
def Node.modelRun (n : Node) (v : Bytes) : Option Nat :=
  if (Model.ofBytes v).layout = 2 then n.freeRun (2 * (Model.ofBytes v).layerCount) else some 0xFFFFFFFF

/-- The code of R185 for a model to define. -/
def Node.modelCode (n : Node) (v : Bytes) : Nat :=
  firstCode
    [((n.model (fieldB v 0 2)).state != 0, 1), ((n.modelRun v).isNone, 2), (!modelValid (n.reg Reg.pageFixFloor) v, 4),
     (!n.tenantBound (Model.ofBytes v).tenant, 5)]

/-- The node with a model's record. -/
def Node.putModel (n : Node) (k : Nat) (m : Model) : Node := { n with models := Map.put n.models k m }

theorem Node.model_putModel (n : Node) (k : Nat) (m : Model) : (n.putModel k m).model k = m := (Map.get_put ..).trans (if_pos rfl)

theorem Node.modelDef_eq (n : Node) (v : Bytes) : n.modelDef v =
    if n.modelCode v ≠ 0 then n.setReg Reg.modelResult (n.modelCode v)
    else (n.setReg Reg.modelResult (n.modelCode v)).putModel (fieldB v 0 2)
      { Model.ofBytes v with state := 1, weightDir := (n.modelRun v).getD 0xFFFFFFFF } := rfl

theorem Node.modelRetire_eq (n : Node) (now k : Nat) : n.modelRetire now k =
    if 255 < k ∨ (n.model k).state = 0 then n.setReg Reg.modelResult 3
    else if (n.model k).state = 2 then n.setReg Reg.modelResult 0
    else (n.setReg Reg.modelResult 0).putModel k { n.model k with state := 2, freeFrom := now + 1 } := rfl

/-- A descriptor freed is FREE, and only it changes (R304). -/
theorem Node.weight_freeWeight (n : Node) (d j : Nat) : (n.freeWeight d).weight j = if j = d then {} else n.weight j := by
  have hslots : (n.foldl (n.weight d).slots Node.dropSlot).tiers.weights = n.tiers.weights :=
    Node.foldl_keeps (fun x : Node => x.tiers.weights) _ Node.dropSlot (fun _ _ => rfl) n
  unfold Node.freeWeight Node.setWeight Node.weight
  dsimp only
  rw [Map.get_set]
  split
  · rfl
  · split
    · next k _ =>
      exact congrArg (Map.get {} · j) ((Node.foldl_keeps (fun x : Node => x.tiers.weights) _ (fun n i => n.dropSlow (k + i)) (fun _ _ => rfl) _).trans hslots)
    · exact congrArg (Map.get {} · j) hslots

theorem Node.weight_freeWeights (base : Nat) (l : List Nat) (n : Node) (j : Nat) :
    (n.foldl l fun n i => n.freeWeight (base + i)).weight (base + j) = if j ∈ l then {} else n.weight (base + j) := by
  induction l generalizing n with
  | nil => simp [Node.foldl]
  | cons i t ih =>
    refine (ih (n.freeWeight (base + i))).trans ?_
    rw [Node.weight_freeWeight]
    by_cases ht : j ∈ t
    · simp [ht]
    · by_cases hi : j = i
      · simp [hi]
      · simp [ht, hi]

/-- A RETIRING model that no request names is FREE, and so are its descriptors (R185, R304). -/
theorem Node.modelFree_spec (n : Node) (now k : Nat) (h2 : (n.model k).state = 2) (ht : (n.model k).freeFrom ≤ now)
    (hq : ∀ q ∈ n.unfinished, q.req.namesModel k = false) : (n.modelFree now k).model k = {} ∧
    ((n.model k).weightDir ≠ 0xFFFFFFFF → ∀ i, i < 2 * (n.model k).layerCount → (n.modelFree now k).weight ((n.model k).weightDir + i) = {}) := by
  have hno : (n.unfinished.any fun q => q.req.namesModel k) = false := List.any_eq_false.mpr fun q hm => by simp [hq q hm]
  unfold Node.modelFree
  dsimp only
  rw [if_neg (by rw [hno]; simp [h2, ht])]
  refine ⟨(Map.get_erase ..).trans (if_pos rfl), fun hw i hi => ?_⟩
  rw [if_neg hw]
  exact (Node.weight_freeWeights _ _ n i).trans (if_pos (List.mem_range.mpr hi))

/-! ### Quotas -/

/-- The code of R285. -/
def Node.quotaCode (n : Node) (v : Bytes) : Nat :=
  firstCode
    [(decide (64 ≤ fieldB v 0 1) || (n.slice (fieldB v 0 1)).state != .bound, 1),
     (decide (fieldB v 1 1 ≤ fieldB v 2 1) || decide (100 < fieldB v 1 1), 2)]

theorem Node.toStaged_frame (n : Node) : n.toStaged.tiers = n.tiers ∧ ∀ k, k ≠ Reg.commitState → n.toStaged.reg k = n.reg k := by
  unfold Node.toStaged
  split
  · exact ⟨rfl, fun k hk => by rw [Node.reg_setReg, if_neg hk]⟩
  · exact ⟨rfl, fun _ _ => rfl⟩

/-- The node with a quota that waits for the commit tick. -/
def Node.stageQuota (n : Node) (t : Tiers) (v : Bytes) : Node := { n.toStaged with tiers := { t with stagedQuota := some v } }

theorem Node.quotaSet_eq (n : Node) (v : Bytes) : n.quotaSet v =
    if n.quotaCode v ≠ 0 then n.setReg Reg.quotaResult (n.quotaCode v) else (n.setReg Reg.quotaResult (n.quotaCode v)).stageQuota n.tiers v := rfl

/-! ### The obligation -/

/-- Settles O43: the key slot that a domain takes is the lowest FREE one by log entry 74. -/
theorem domainsAndModels : Obligations.DomainsAndModels := by
  intro via s n0 now
  obtain ⟨a, j, haw⟩ := s.node.noteAwl_sec via
  refine ⟨fun value => ?_, fun value => ?_, fun value run => ?_, fun v => ?_, fun k => ?_, fun value => ?_⟩
  · intro v d t sl
    refine State.accepts_of s (.domainCreate via value) via 0x2204 1 v (fun n => n.domainCmd s.clock.tick v) _ rfl ?_
    have hop : (s.node.noteAwl via).domainCmd s.clock.tick v = (s.node.noteAwl via).domainCreate now v := by
      rw [Node.domainCmd, if_pos (show fieldB v 0 1 = 1 from rfl)]
    have hrefused : ∀ c, c ≠ 0 → (s.node.noteAwl via).domainCode v = c →
        ((s.node.noteAwl via).domainCreate now v).reg Reg.domainResult = c ∧ ((s.node.noteAwl via).domainCreate now v).share = n0.share := by
      intro c hc h
      rw [Node.domainCreate_eq, h, if_pos hc]
      exact ⟨by rw [Node.reg_setReg, if_pos rfl], by simp [n0]⟩
    have hbound : (s.node.noteAwl via).bound sl t = n0.bound sl t := by rw [haw]; rfl
    rw [hop]
    refine ⟨fun hnew hroom hslot hd hb => ?_, fun hold => hrefused 1 (by decide) ?_, fun hnew hfull => hrefused 2 (by decide) ?_⟩
    · have hc : (s.node.noteAwl via).domainCode v = 0 := by
        have h4 : (s.node.noteAwl via).bound (fieldB v 12 1) (fieldB v 8 4 % 2 ^ 28) = true := hbound.trans hb
        simp [-Nat.reducePow, Node.domainCode, firstCode, show Map.find s.node.share.domains (fieldB v 4 4) = none from hnew,
          show ¬s.node.reg Reg.domainMax ≤ s.node.share.domains.length from Nat.not_le.mpr hroom, show (s.node.noteAwl via).freeKeySlot ≠ none from Option.isSome_iff_ne_none.mp hslot,
          show fieldB v 4 4 ≠ 0 from hd, h4]
      rw [Node.domainCreate_eq, hc, if_neg (by decide)]
      refine ⟨?_, Node.withDomain_spec _ now v _ _⟩
      exact (Node.reg_congr (m := (s.node.noteAwl via).setReg Reg.domainResult 0) rfl _).trans (by rw [Node.reg_setReg, if_pos rfl])
    · simp [Node.domainCode, firstCode, show (Map.find s.node.share.domains (fieldB v 4 4)).isSome = true from hold]
    · simp [Node.domainCode, firstCode, show Map.find s.node.share.domains (fieldB v 4 4) = none from hnew,
        show s.node.reg Reg.domainMax ≤ s.node.share.domains.length from hfull]
  · intro d
    refine State.accepts_of s (.domainDestroy via value) via 0x2204 1 (forceOp 2 value) (fun n => n.domainCmd s.clock.tick (forceOp 2 value)) _ rfl ?_
    have hop : (s.node.noteAwl via).domainCmd s.clock.tick (forceOp 2 value) = (s.node.noteAwl via).domainDestroy (forceOp 2 value) := by
      have h2 : fieldB (forceOp 2 value) 0 1 = 2 := rfl
      rw [Node.domainCmd, if_neg (by rw [h2]; decide), if_pos h2]
    rw [hop, Node.domainDestroy_eq, Node.noteAwl_share]
    refine ⟨fun x hx => ?_, fun hnone => ?_⟩
    · have hsome : (Map.find s.node.share.domains (fieldB (forceOp 2 value) 4 4)).isSome = true :=
        Option.isSome_iff_exists.mpr ⟨x, hx⟩
      rw [if_pos hsome]
      obtain ⟨hdom, hnodes, hreg, hkey⟩ := ((s.node.noteAwl via).setReg Reg.domainResult 0).dropDomain_spec d x
        (by rw [Node.setReg_share, Node.noteAwl_share]; exact hx)
      exact ⟨hreg.trans (by rw [Node.reg_setReg, if_pos rfl]), hdom, hnodes, hkey⟩
    · have hno : ¬(Map.find s.node.share.domains (fieldB (forceOp 2 value) 4 4)).isSome = true := by
        rw [show Map.find s.node.share.domains (fieldB (forceOp 2 value) 4 4) = none from hnone]; simp
      rw [if_neg hno]
      exact ⟨by rw [Node.reg_setReg, if_pos rfl], by simp [n0]⟩
  · intro k m
    refine State.accepts_of s (.modelDef via value) via 0x2304 1 value (fun n => n.modelDef value) _ rfl ?_
    have hrun : (s.node.noteAwl via).modelRun value = if m.layout = 2 then n0.freeRun (2 * m.layerCount) else some 0xFFFFFFFF := by rw [haw]; rfl
    have hmodel : (s.node.noteAwl via).model (fieldB value 0 2) = n0.model k := by rw [haw]; rfl
    have hten : (s.node.noteAwl via).tenantBound (Model.ofBytes value).tenant = n0.tenantBound m.tenant := by rw [haw]; rfl
    rw [Node.modelDef_eq]
    refine ⟨fun hfree hr hval ht => ?_, fun hused => ?_⟩
    · have hc : (s.node.noteAwl via).modelCode value = 0 := by
        simp [Node.modelCode, firstCode, hmodel, hfree, hrun.trans hr, show modelValid (s.node.reg Reg.pageFixFloor) value = true from hval, hten.trans ht]
      rw [hc, if_neg (by decide), hrun.trans hr]
      refine ⟨?_, Node.model_putModel ..⟩
      exact (Node.reg_congr (m := (s.node.noteAwl via).setReg Reg.modelResult 0) rfl _).trans (by rw [Node.reg_setReg, if_pos rfl])
    · have hc : (s.node.noteAwl via).modelCode value = 1 := by simp [Node.modelCode, firstCode, hmodel, hused]
      rw [hc, if_pos (by decide)]
      exact ⟨by rw [Node.reg_setReg, if_pos rfl], by simp [n0]⟩
  · refine State.accepts_of s (.modelRetire via v) via 0x2304 2 (leBytes 2 v.toNat) (fun n => n.modelRetire s.clock.tick v.toNat) _ rfl ?_
    have hmodel : (s.node.noteAwl via).model v.toNat = n0.model v.toNat := by rw [haw]; rfl
    rw [Node.modelRetire_eq, hmodel]
    refine ⟨fun h1 hle => ?_, fun h0 => ?_⟩
    · rw [if_neg (by omega), if_neg (by omega)]
      refine ⟨?_, by rw [Node.model_putModel]⟩
      exact (Node.reg_congr (m := (s.node.noteAwl via).setReg Reg.modelResult 0) rfl _).trans (by rw [Node.reg_setReg, if_pos rfl])
    · rw [if_pos (.inr h0)]
      exact ⟨by rw [Node.reg_setReg, if_pos rfl], by simp [n0]⟩
  · intro m h2 ht hq
    exact ⟨_, State.on_eq s _, s.node.modelFree_spec s.clock.tick k.toNat h2 ht hq⟩
  · intro sl
    refine State.accepts_of s (.quotaSet via value) via 0x2704 1 value (fun n => n.quotaSet value) _ rfl ?_
    have hcode : (s.node.noteAwl via).quotaCode value = n0.quotaCode value := by rw [haw]; rfl
    rw [Node.quotaSet_eq, hcode]
    refine ⟨?_, fun hlt hb hlow hhigh => ?_, fun hbad => ?_⟩
    · split
      · simp [n0]
      · exact show (s.node.noteAwl via).tiers.quotas = _ from congrArg Tiers.quotas (s.node.noteAwl_tiers via)
    · have hc : n0.quotaCode value = 0 := by
        have hnot : ¬fieldB value 1 1 ≤ fieldB value 2 1 := by omega
        have hnot' : ¬100 < fieldB value 1 1 := by omega
        have hnot64 : ¬64 ≤ fieldB value 0 1 := Nat.not_le.mpr hlt
        have hb' : (n0.slice (fieldB value 0 1)).state = .bound := hb
        simp only [Node.quotaCode, firstCode, hnot, hnot', hnot64, hb', decide_false, Bool.or_self, bne_self_eq_false, Bool.false_eq_true, if_false]
      rw [hc, if_neg (by decide)]
      refine ⟨?_, rfl⟩
      refine (Node.reg_congr (m := ((s.node.noteAwl via).setReg Reg.quotaResult 0).toStaged) rfl _).trans ?_
      rw [(Node.toStaged_frame _).2 _ (by decide), Node.reg_setReg, if_pos rfl]
    · have hc : n0.quotaCode value = 1 := by
        rcases hbad with h | h
        · simp [Node.quotaCode, firstCode, show 64 ≤ fieldB value 0 1 from h]
        · simp [Node.quotaCode, firstCode, show (n0.slice (fieldB value 0 1)).state ≠ .bound from h]
      rw [hc, if_pos (by decide)]
      exact ⟨by rw [Node.reg_setReg, if_pos rfl], by simp [n0]⟩

end Sys2Proof.Machine
end

section
/-!
Tenant programs and vector indexes (O44).
-/

namespace Sys2Proof.Machine

/-- A code is 0 where none of its conditions holds. -/
theorem firstCode_eq_zero (l : List (Bool × Nat)) (h : ∀ e ∈ l, e.1 = false) : firstCode l = 0 := by
  induction l with
  | nil => rfl
  | cons e t ih =>
    obtain ⟨b, c⟩ := e
    obtain rfl : b = false := h (b, c) List.mem_cons_self
    exact ih fun e he => h e (List.mem_cons_of_mem _ he)

/-! ### Programs -/

/-- The code of R212 for a program to load. -/
def Node.progCode (n : Node) (v : Bytes) : Nat :=
  firstCode
    [(decide (fieldB v 0 1 < 32) && (n.prog (fieldB v 0 1)).state != 0, 1),
     (decide (n.reg Reg.progArea < (n.progs.map fun e => e.2.code.length).sum + ((v.drop 16).drop 64).length), 2),
     (!progHeaderOk (sliceB (v.drop 16) 0 64) ((v.drop 16).drop 64), 3), (codeBad ((v.drop 16).drop 64), 4),
     (!n.tenantBound (fieldB v 4 4 % 2 ^ 28), 5), (!n.hasUnit 4, 6), (decide (32 ≤ fieldB v 0 1), 7)]

/-- The program that an image spells (R212). -/
def loadedProg (now : Nat) (v : Bytes) : Prog :=
  { state := 1, tenant := fieldB v 4 4 % 2 ^ 28, loadTick := now, header := sliceB (v.drop 16) 0 64, code := (v.drop 16).drop 64,
    digest := sha3_512 (v.drop 16), readyAfter := now + 50 }

/-- The node with a program's record. -/
def Node.putProg (n : Node) (k : Nat) (p : Prog) : Node := { n with progs := Map.put n.progs k p }

theorem Node.prog_putProg (n : Node) (k : Nat) (p : Prog) : (n.putProg k p).prog k = p := (Map.get_put ..).trans (if_pos rfl)

theorem Node.progLoad_eq (n : Node) (now : Nat) (v : Bytes) : n.progLoad now v =
    if n.progCode v ≠ 0 then n.setReg Reg.progResult (n.progCode v)
    else (n.setReg Reg.progResult (n.progCode v)).putProg (fieldB v 0 1) (loadedProg now v) := rfl

theorem Node.progReady_eq (n : Node) (now k : Nat) : n.progReady now k =
    if (n.prog k).state = 1 ∧ n.isRound now ∧ (n.prog k).readyAfter ≤ now then n.putProg k { n.prog k with state := 2 } else n := rfl

theorem Node.progUnload_eq (n : Node) (now k : Nat) : n.progUnload now k =
    if 32 ≤ k ∨ (n.prog k).state = 0 then n.setReg Reg.progResult 7
    else if (n.prog k).state = 3 then n.setReg Reg.progResult 0
    else (n.setReg Reg.progResult 0).putProg k { n.prog k with state := 3, readyAfter := now + 1 } := rfl

/-! ### Indexes -/

theorem Node.vindex_setIndex (n : Node) (k : Nat) (d : VIndex) : (n.setIndex k d).vindex k = d := (Map.get_set ..).trans (if_pos rfl)

/-- The code of R314 and R315 for an index to define; `free` says that its slots are there. -/
def Node.indexCode (n : Node) (v : Bytes) (free : Bool) : Nat :=
  firstCode
    [((n.vindex (fieldB v 0 2)).state != 0, 1), (!indexFieldsOk v, 2), (!n.bound (VIndex.ofBytes v).slice (VIndex.ofBytes v).tenant, 3),
     (((List.range 16).any fun r => (bitOf (VIndex.ofBytes v).regionMask r || r == (VIndex.ofBytes v).home) && !n.regionServes (VIndex.ofBytes v).slice r), 4),
     (free, 5)]

/-- The slots that an index to define takes (R315). -/
def Node.indexTake (n : Node) (v : Bytes) : Option (List Nat × Node) :=
  if indexFieldsOk v && decide (n.t1Used (VIndex.ofBytes v).slice + (VIndex.ofBytes v).baseSlots ≤ (n.quota (VIndex.ofBytes v).slice).t1Slots) then
    n.takeLowest (VIndex.ofBytes v).slice (VIndex.ofBytes v).home (VIndex.ofBytes v).baseSlots
  else none

theorem Node.indexDef_taken (n : Node) (v : Bytes) (slots : List Nat) (m : Node) (h : n.indexTake v = some (slots, m)) :
    n.indexDef v = if n.indexCode v false = 0 then (m.setReg Reg.indexResult 0).setIndex (fieldB v 0 2) { VIndex.ofBytes v with slots := slots }
      else n.setReg Reg.indexResult (n.indexCode v false) := by
  unfold Node.indexTake at h
  unfold Node.indexDef
  dsimp only
  rw [h]
  rfl

theorem Node.indexDef_refused (n : Node) (v : Bytes) (c : Nat) (hc : c ≠ 0) (h : ∀ b, n.indexCode v b = c) : n.indexDef v = n.setReg Reg.indexResult c := by
  cases ht : n.indexTake v with
  | some r => rw [n.indexDef_taken v r.1 r.2 ht, h, if_neg hc]
  | none =>
    have h' := h true
    unfold Node.indexTake at ht
    unfold Node.indexDef
    dsimp only
    rw [ht]
    exact congrArg (n.setReg Reg.indexResult) h'

/-- Taking slots writes only the table of slots. -/
theorem Node.takeLowest_eq (s stack c : Nat) (n m : Node) (slots : List Nat) (h : n.takeLowest s stack c = some (slots, m)) :
    ∃ q, m = { n with seqs := q } := by
  induction c generalizing n slots with
  | zero => exact ⟨_, (Prod.mk.inj (Option.some.inj h)).2.symm⟩
  | succ c ih =>
    rw [Node.takeLowest] at h
    cases hl : n.lowestSlot s stack with
    | none => rw [hl] at h; cases h
    | some g =>
      rw [hl] at h
      obtain ⟨⟨sl, m'⟩, hr, he⟩ := Option.map_eq_some_iff.mp h
      obtain ⟨q, e⟩ := ih (n.takeSlot s g) sl ((Prod.mk.inj he).2 ▸ hr)
      exact ⟨q, e⟩

/-- The code of R317. -/
def Node.centroidCode (n : Node) (v : Bytes) : Nat :=
  firstCode
    [((n.vindex (fieldB v 0 2)).state != 0 && ((n.vindex (fieldB v 0 2)).state != 1 || !(n.vindex (fieldB v 0 2)).centroidTab.isEmpty ||
        (v.drop 8).length != (n.vindex (fieldB v 0 2)).centroids * (n.vindex (fieldB v 0 2)).crec), 6),
     (decide (255 < fieldB v 0 2) || (n.vindex (fieldB v 0 2)).state == 0, 7)]

/-- An index with the centroids of an image (R317). -/
def VIndex.withCentroids (d : VIndex) (now : Nat) (v : Bytes) : VIndex :=
  { d with centroidTab := (List.range d.centroids).map fun i => sliceB (v.drop 8) (i * d.crec) d.crec, loadDue := some (now + 1) }

theorem Node.centroidLoad_eq (n : Node) (now : Nat) (v : Bytes) : n.centroidLoad now v =
    if n.centroidCode v ≠ 0 then n.setReg Reg.indexResult (n.centroidCode v)
    else (n.setReg Reg.indexResult (n.centroidCode v)).setIndex (fieldB v 0 2) ((n.vindex (fieldB v 0 2)).withCentroids now v) := rfl

theorem Node.retireIndex_eq (n : Node) (now k : Nat) : n.retireIndex now k =
    if (n.vindex k).state = 0 ∨ (n.vindex k).state = 3 then n else n.setIndex k { n.vindex k with state := 3, freeFrom := now + 1 } := rfl

/-- Slots dropped are free, whatever else is dropped with them. -/
theorem Node.find_dropSlots (l : List Nat) (n : Node) (g : Nat) (h : g ∈ l ∨ Map.find n.seqs.slots g = none) :
    Map.find (n.foldl l Node.dropSlot).seqs.slots g = none := by
  induction l generalizing n with
  | nil => exact h.resolve_left (by simp)
  | cons x t ih =>
    refine ih (n.dropSlot x) ?_
    by_cases hx : g = x
    · exact .inr ((Map.find_erase ..).trans (if_pos hx))
    · rcases h with h | h
      · exact .inl ((List.mem_cons.mp h).resolve_left hx)
      · exact .inr ((Map.find_erase ..).trans ((if_neg hx).trans h))

/-- A RETIRING index that no request names is FREE, and so are its slots (R318). -/
theorem Node.indexFree_spec (n : Node) (now k : Nat) (h3 : (n.vindex k).state = 3) (ht : (n.vindex k).freeFrom ≤ now)
    (hq : ∀ q ∈ n.unfinished, ¬(q.req.isVector = true ∧ q.target = k)) : (n.indexFree now k).vindex k = {} ∧
    ∀ g ∈ (n.vindex k).slots, Map.find (n.indexFree now k).seqs.slots g = none := by
  have hno : (n.unfinished.any fun q => q.req.isVector && q.target == k) = false :=
    List.any_eq_false.mpr fun q hm => by simpa using hq q hm
  unfold Node.indexFree
  dsimp only
  rw [if_neg (by rw [hno]; simp [h3, ht])]
  exact ⟨(Map.get_erase ..).trans (if_pos rfl), fun g hg => Node.find_dropSlots _ n g (.inl (List.mem_append_left _ hg))⟩

/-! ### The obligation -/

/-- Settles O44: what CODE a program may hold beyond its length is log entry 72. -/
theorem programsAndIndexes : Obligations.ProgramsAndIndexes := by
  intro via s n0 now
  obtain ⟨a, j, haw⟩ := s.node.noteAwl_sec via
  refine ⟨fun image => ?_, fun slot h1 hround hready => ?_, fun slot => ?_, fun slot h3 hready hq => ?_, fun value slots m1 => ?_, fun image => ?_,
    fun value => ?_, fun i h3 ht hq => ?_⟩
  · intro slot head code
    refine State.accepts_of s (.progLoad via image) via 0x2404 1 image (fun n => n.progLoad s.clock.tick image) _ rfl ?_
    have hcode : (s.node.noteAwl via).progCode image = n0.progCode image := by rw [haw]; rfl
    rw [Node.progLoad_eq, hcode]
    refine ⟨fun hlt hfree hroom hhead hbad hten hunit => ?_, fun hlt hused => ?_⟩
    · have hc : n0.progCode image = 0 := by
        refine firstCode_eq_zero _ fun e he => ?_
        simp only [List.mem_cons, List.not_mem_nil, or_false] at he
        rcases he with rfl | rfl | rfl | rfl | rfl | rfl | rfl
        · simp [show (n0.prog (fieldB image 0 1)).state = 0 from hfree]
        · exact decide_eq_false (Nat.not_lt.mpr hroom)
        · exact congrArg (!·) hhead
        · exact hbad
        · exact congrArg (!·) hten
        · exact congrArg (!·) hunit
        · exact decide_eq_false (Nat.not_le.mpr hlt)
      rw [hc, if_neg (by decide)]
      refine ⟨?_, ?_⟩
      · exact (Node.reg_congr (m := (s.node.noteAwl via).setReg Reg.progResult 0) rfl _).trans (by rw [Node.reg_setReg, if_pos rfl])
      · rw [Node.prog_putProg]
        exact ⟨rfl, rfl, rfl⟩
    · have hc : n0.progCode image = 1 := by
        simp [Node.progCode, firstCode, show fieldB image 0 1 < 32 from hlt, show (n0.prog (fieldB image 0 1)).state ≠ 0 from hused]
      rw [hc, if_pos (by decide)]
      exact ⟨by rw [Node.reg_setReg, if_pos rfl], by simp [n0]⟩
  · refine ⟨_, State.on_eq s _, ?_⟩
    rw [Node.progReady_eq, if_pos ⟨h1, hround, hready⟩]
    exact ⟨Node.prog_putProg .., rfl⟩
  · refine State.accepts_of s (.progUnload via slot) via 0x2404 2 [slot] (fun n => n.progUnload s.clock.tick slot.toNat) _ rfl ?_
    have hprog : (s.node.noteAwl via).prog slot.toNat = n0.prog slot.toNat := by rw [haw]; rfl
    rw [Node.progUnload_eq, hprog]
    refine ⟨fun hlt hlive => ?_, fun hnone => ?_⟩
    · rw [if_neg (by omega), if_neg (by omega)]
      refine ⟨?_, by rw [Node.prog_putProg]⟩
      exact (Node.reg_congr (m := (s.node.noteAwl via).setReg Reg.progResult 0) rfl _).trans (by rw [Node.reg_setReg, if_pos rfl])
    · rw [if_pos hnone]
      exact ⟨by rw [Node.reg_setReg, if_pos rfl], by simp [n0]⟩
  · refine ⟨_, State.on_eq s _, ?_⟩
    have hno : (s.node.unfinished.any fun q => q.req.isAtt && q.req.tenantProg && q.target == slot.toNat) = false :=
      List.any_eq_false.mpr fun q hm => by simpa [and_assoc] using hq q hm
    unfold Node.progFree
    dsimp only
    rw [if_neg (by rw [hno]; simp [show (s.node.prog slot.toNat).state = 3 from h3, show (s.node.prog slot.toNat).readyAfter ≤ s.clock.tick from hready])]
    exact ⟨(Map.get_erase ..).trans (if_pos rfl), rfl⟩
  · intro k d
    refine State.accepts_of s (.indexDef via value) via 0x2804 1 value (fun n => n.indexDef value) _ rfl ?_
    have hcode : ∀ b, (s.node.noteAwl via).indexCode value b = n0.indexCode value b := fun b => by rw [haw]; rfl
    refine ⟨fun hfree hok hbound hserve hroom htake => ?_, fun hused => ?_⟩
    · have hc : n0.indexCode value false = 0 := by
        refine firstCode_eq_zero _ fun e he => ?_
        simp only [List.mem_cons, List.not_mem_nil, or_false] at he
        rcases he with rfl | rfl | rfl | rfl | rfl
        · simp [show (n0.vindex (fieldB value 0 2)).state = 0 from hfree]
        · exact congrArg (!·) hok
        · exact congrArg (!·) hbound
        · refine List.any_eq_false.mpr fun r hr => ?_
          simp only [Bool.and_eq_true, Bool.or_eq_true, beq_iff_eq, Bool.not_eq_true', not_and, Bool.not_eq_false]
          exact hserve r (List.mem_range.mp hr)
        · rfl
      have ht : (s.node.noteAwl via).indexTake value = some (slots, m1) := by
        have hle : (s.node.noteAwl via).t1Used d.slice + d.baseSlots ≤ ((s.node.noteAwl via).quota d.slice).t1Slots := by rw [haw]; exact hroom
        rw [Node.indexTake, if_pos (by rw [hok, Bool.true_and]; exact decide_eq_true hle)]
        exact htake
      rw [Node.indexDef_taken _ _ _ _ ht, hcode, hc, if_pos rfl]
      refine ⟨?_, Node.vindex_setIndex .., rfl⟩
      exact (Node.reg_congr (m := m1.setReg Reg.indexResult 0) rfl _).trans (by rw [Node.reg_setReg, if_pos rfl])
    · have hc : ∀ b, (s.node.noteAwl via).indexCode value b = 1 := fun b => by
        rw [hcode]; simp [Node.indexCode, firstCode, show (n0.vindex (fieldB value 0 2)).state ≠ 0 from hused]
      rw [Node.indexDef_refused _ _ 1 (by decide) hc]
      exact ⟨by rw [Node.reg_setReg, if_pos rfl], by simp [n0]⟩
  · intro k d
    refine State.accepts_of s (.centroidLoad via image) via 0x2804 3 image (fun n => n.centroidLoad s.clock.tick image) _ rfl ?_
    have hcode : (s.node.noteAwl via).centroidCode image = n0.centroidCode image := by rw [haw]; rfl
    have hindex : (s.node.noteAwl via).vindex (fieldB image 0 2) = d := by rw [haw]; rfl
    rw [Node.centroidLoad_eq, hcode, hindex]
    refine ⟨fun hk h1 hempty hlen => ?_, fun h0 => ?_⟩
    · have hc : n0.centroidCode image = 0 := by
        simp only [Node.centroidCode, firstCode, show n0.vindex (fieldB image 0 2) = d from rfl, h1, hempty, hlen, show ¬255 < fieldB image 0 2 from Nat.not_lt.mpr hk]
        simp
      rw [hc, if_neg (by decide)]
      refine ⟨?_, ?_⟩
      · exact (Node.reg_congr (m := (s.node.noteAwl via).setReg Reg.indexResult 0) rfl _).trans (by rw [Node.reg_setReg, if_pos rfl])
      · rw [Node.vindex_setIndex]
        exact ⟨rfl, rfl⟩
    · have hc : n0.centroidCode image = 7 := by simp [Node.centroidCode, firstCode, show n0.vindex (fieldB image 0 2) = d from rfl, h0]
      rw [hc, if_pos (by decide)]
      exact ⟨by rw [Node.reg_setReg, if_pos rfl], by simp [n0]⟩
  · intro k
    refine State.accepts_of s (.indexRetire via value) via 0x2804 2 (forceOp 1 value) (fun n => n.indexCmd s.clock.tick (forceOp 1 value)) _ rfl ?_
    have hindex : (s.node.noteAwl via).vindex (fieldB (forceOp 1 value) 2 2) = n0.vindex k := by rw [haw]; rfl
    rw [Node.indexCmd, if_neg (not_not.mpr (show fieldB (forceOp 1 value) 0 1 = 1 from rfl)), hindex]
    refine ⟨fun hlive => ?_, fun h0 => ?_⟩
    · have hset : ((s.node.noteAwl via).setReg Reg.indexResult 0).vindex (fieldB (forceOp 1 value) 2 2) = n0.vindex k := hindex
      rw [if_neg (by omega), Node.retireIndex_eq, hset, if_neg (by omega)]
      refine ⟨?_, by rw [Node.vindex_setIndex], by rw [Node.vindex_setIndex]⟩
      exact (Node.reg_congr (m := (s.node.noteAwl via).setReg Reg.indexResult 0) rfl _).trans (by rw [Node.reg_setReg, if_pos rfl])
    · rw [if_pos h0]
      exact ⟨by rw [Node.reg_setReg, if_pos rfl], by simp [n0]⟩
  · exact ⟨_, State.on_eq s _, s.node.indexFree_spec s.clock.tick i.toNat h3 ht hq⟩

end Sys2Proof.Machine
end

section
/-!
What the end of work leaves as it is (R80, R84, R87, R197): the frame of `undo`, of a request's end and of the notices, said once for every later proof.
-/

namespace Sys2Proof.Machine

/-! ### Frames -/

/-- `m` agrees with `n` in what `core` keeps and in every entry outside `ks`. -/
structure Node.Keeps (core : Node → Node) (ks : List Nat) (n m : Node) : Prop where
  core_eq : core m = core n
  reg_eq : ∀ k, k ∉ ks → m.reg k = n.reg k

namespace Node.Keeps

variable {core core' : Node → Node} {ks ks' : List Nat} {n m l : Node}

theorem refl (core : Node → Node) (ks : List Nat) (n : Node) : n.Keeps core ks n := ⟨rfl, fun _ _ => rfl⟩

theorem trans (h : n.Keeps core ks m) (h' : m.Keeps core ks l) : n.Keeps core ks l :=
  ⟨h'.core_eq.trans h.core_eq, fun k hk => (h'.reg_eq k hk).trans (h.reg_eq k hk)⟩

theorem of_regs (hc : core m = core n) (hr : m.regs = n.regs) : n.Keeps core ks m := ⟨hc, fun k _ => Node.reg_congr hr k⟩

theorem setReg {k v : Nat} (hc : core (n.setReg k v) = core n) (hk : k ∈ ks) : n.Keeps core ks (n.setReg k v) :=
  ⟨hc, fun j hj => by rw [Node.reg_setReg, if_neg fun h : j = k => hj (h ▸ hk)]⟩

theorem bumpBy {k d : Nat} (hc : core (n.bumpBy k d) = core n) (hk : k ∈ ks) : n.Keeps core ks (n.bumpBy k d) := setReg hc hk

theorem bump {k : Nat} (hc : core (n.bump k) = core n) (hk : k ∈ ks) : n.Keeps core ks (n.bump k) := setReg hc hk

theorem mono (h : n.Keeps core ks m) (hc : ∀ x, core' x = core' (core x)) (hk : ∀ k ∈ ks, k ∈ ks') : n.Keeps core' ks' m :=
  ⟨by rw [hc m, hc n, h.core_eq], fun k hj => h.reg_eq k fun hm => hj (hk k hm)⟩

theorem foldl {α : Type} {f : Node → α → Node} (h : ∀ (n : Node) x, n.Keeps core ks (f n x)) (xs : List α) (n : Node) : n.Keeps core ks (n.foldl xs f) := by
  induction xs generalizing n with
  | nil => exact refl ..
  | cons x t ih => exact (h n x).trans (ih _)

theorem ite {c : Prop} [Decidable c] (h : c → n.Keeps core ks m) (h' : ¬c → n.Keeps core ks l) : n.Keeps core ks (if c then m else l) := by
  split
  · next hc => exact h hc
  · next hc => exact h' hc

end Node.Keeps

/-! ### Undoing a request's effects -/

/-- What undoing work leaves: all but pages, slots, sequences, nodes, items, gradient records, packers, the background queue, the slow slots and the journal. -/
def Node.undoCore (n : Node) : Node :=
  { n with regs := [], seqs := { n.seqs with slots := [], pages := [], seqs := [], released := [], rewrites := [] }, share := { n.share with nodes := [] },
           cells := { n.cells with threads := [], queues := [] }, grads := [], packers := [], packOrder := [], stk := { n.stk with marks := [] },
           tiers := { n.tiers with slow := [], background := [] }, comp := { n.comp with preCopied := [] }, rcv := { n.rcv with journal := [] } }

/-- The counters of what is undone. -/
def undoCounters : List Nat := [Reg.gradPartials, Reg.packStops, Reg.nodesRemoved]

/-- Undoing work, as a frame. -/
abbrev Node.Undoes (n m : Node) : Prop := n.Keeps Node.undoCore undoCounters m

theorem Node.undoes_dropSlot (n : Node) (g : Nat) : n.Undoes (n.dropSlot g) := .of_regs rfl rfl
theorem Node.undoes_setPage (n : Node) (p : Nat) (d : Page) : n.Undoes (n.setPage p d) := .of_regs rfl rfl
theorem Node.undoes_dropSlow (n : Node) (k : Nat) : n.Undoes (n.dropSlow k) := .of_regs rfl rfl
theorem Node.undoes_journal (n : Node) (kind seq track pos : Nat) (bytes : Bytes) : n.Undoes (n.journal kind seq track pos bytes) := .of_regs rfl rfl
theorem Node.undoes_setSeq (n : Node) (k : Nat) (q : Seq) : n.Undoes (n.setSeq k q) := .of_regs rfl rfl
theorem Node.undoes_setTrack (n : Node) (k t : Nat) (f : Track → Track) : n.Undoes (n.setTrack k t f) := .of_regs rfl rfl
theorem Node.undoes_unqueuePage (n : Node) (p : Nat) : n.Undoes (n.unqueuePage p) := .of_regs rfl rfl
theorem Node.undoes_dropSeq (n : Node) (k : Nat) : n.Undoes (n.dropSeq k) := .of_regs rfl rfl
theorem Node.undoes_unqueuePacker (n : Node) (p : Nat) : n.Undoes (n.unqueuePacker p) := .of_regs rfl rfl

theorem Node.undoes_removeNodes (n : Node) (first : Nat → PNode → Bool) : n.Undoes (n.removeNodes first) := by
  unfold Node.removeNodes
  refine .ite (fun _ => .refl ..) fun _ => ?_
  refine Node.Keeps.trans ?_ (.bumpBy ?_ ?_)
  · exact .of_regs rfl rfl
  · rfl
  · decide

theorem Node.undoes_removePageNode (n : Node) (p : Nat) : n.Undoes (n.removePageNode p) := by
  unfold Node.removePageNode
  split
  · exact .refl ..
  · exact n.undoes_removeNodes _

theorem Node.undoes_stopPacker (n : Node) (p : Nat) : n.Undoes (n.stopPacker p) := by
  unfold Node.stopPacker
  have h : n.Undoes (({ n with packers := n.packers.filter fun k => k.page != p } : Node).unqueuePacker p) := .of_regs rfl rfl
  exact .ite (fun _ => (h.trans (Node.undoes_setPage ..)).trans (.bump rfl (by decide))) fun _ => h

theorem Node.undoes_freePageSlots (n : Node) (p : Nat) : n.Undoes (n.freePageSlots p) := by
  unfold Node.freePageSlots
  dsimp only
  cases (n.page p).t1 <;> cases (n.page p).slow
  · exact .refl ..
  · exact n.undoes_dropSlow _
  · exact n.undoes_dropSlot _
  · exact (n.undoes_dropSlot _).trans (Node.undoes_dropSlow ..)

theorem Node.undoes_dropPage (n : Node) (p : Nat) : n.Undoes (n.dropPage p) := (n.undoes_freePageSlots p).trans (Node.undoes_setPage ..)

theorem Node.undoes_releaseRef (n : Node) (p : Nat) : n.Undoes (n.releaseRef p) := by
  unfold Node.releaseRef
  refine .ite (fun _ => ?_) fun _ => n.undoes_setPage ..
  dsimp only
  have h : n.Undoes ((((n.setPage p { n.page p with ref := (n.page p).ref - 1 }).removePageNode p).stopPacker p).unqueuePage p) :=
    (((n.undoes_setPage p _).trans (Node.undoes_removePageNode _ p)).trans (Node.undoes_stopPacker _ p)).trans (Node.undoes_unqueuePage _ p)
  generalize (((n.setPage p { n.page p with ref := (n.page p).ref - 1 }).removePageNode p).stopPacker p).unqueuePage p = m at h ⊢
  exact h.trans (.of_regs rfl rfl)

theorem Node.undoes_releaseSeq (n : Node) (k : Nat) : n.Undoes (n.releaseSeq k) := by
  unfold Node.releaseSeq
  refine Node.Keeps.trans ?_ (Node.undoes_dropSeq ..)
  refine Node.Keeps.trans ?_ (.foldl (fun n w => ?_) _ _)
  · refine Node.Keeps.trans ?_ (.foldl Node.undoes_dropPage _ _)
    exact Node.Keeps.trans (.foldl Node.undoes_releaseRef _ _) (.foldl Node.undoes_dropPage _ _)
  · cases w.copy
    · exact .refl ..
    · exact n.undoes_dropSlot _

theorem Node.undoes_unpinItem (n : Node) (i : Item) : n.Undoes (n.unpinItem i) :=
  .ite (fun _ => .foldl (fun n p => n.undoes_setPage p _) _ _) fun _ => .refl ..

theorem Node.undoes_stopItems (n : Node) (q : Admitted) : n.Undoes (n.stopItems q) :=
  (Node.Keeps.foldl Node.undoes_unpinItem q.items n).trans (.of_regs rfl rfl)

theorem Node.undoes_unbook (n : Node) (q : Admitted) : n.Undoes (n.unbook q) :=
  .ite (fun _ => .foldl (fun n _ => n.undoes_setTrack ..) _ _) fun _ => .refl ..

theorem Node.undoes_setPartial (n : Node) (gs : List Nat) : n.Undoes (n.setPartial gs) := by
  refine .foldl (fun n g => ?_) gs n
  cases Map.find n.grads g with
  | none => exact .refl ..
  | some r =>
    refine .ite (fun _ => .refl ..) fun _ => ?_
    refine Node.Keeps.trans ?_ (.bump ?_ ?_)
    · exact .of_regs rfl rfl
    · rfl
    · decide

theorem Node.undoes_gradEnd (n : Node) (q : Admitted) : n.Undoes (n.gradEnd q) :=
  .ite (fun _ => .of_regs rfl rfl) fun _ => n.undoes_setPartial _

theorem Node.undoes_dropChild (n : Node) (c : Nat) : n.Undoes (n.dropChild c) :=
  .ite (fun _ => .refl ..) fun _ => ((Node.Keeps.foldl Node.undoes_dropPage _ n).trans (Node.undoes_setSeq ..)).trans (Node.undoes_releaseSeq ..)

/-- What an ended request's effects leave as it is. -/
theorem Node.undoes_undo (n : Node) (q : Admitted) : n.Undoes (n.undo q) := by
  have h : n.Undoes (((((n.stopItems q).unbook q).gradEnd q).foldl q.slots fun n g => n.dropSlot g)) :=
    (((n.undoes_stopItems q).trans (Node.undoes_unbook _ q)).trans (Node.undoes_gradEnd _ q)).trans (.foldl Node.undoes_dropSlot _ _)
  exact .ite (fun _ => h.trans (Node.undoes_dropChild ..)) fun _ => h

end Sys2Proof.Machine
end

section
/-!
The end of requests (R80, R84, R197): what it leaves, that it only ages the requests admitted, and that the requests it names are finished.
-/

namespace Sys2Proof.Machine

/-! ### What an end leaves -/

/-- What the end of requests leaves: as for what is undone, without the requests admitted and what waits to be sent. -/
def Node.endCore (n : Node) : Node :=
  let m := n.undoCore
  { m with adm := { m.adm with admitted := [] }, links := { m.links with queues := [] }, host := { m.host with out := [] } }

/-- The counters of ended work. -/
def endCounters : List Nat := Reg.hostRepliesLost :: undoCounters

/-- The end of requests, as a frame. -/
abbrev Node.Ends (n m : Node) : Prop := n.Keeps Node.endCore endCounters m

theorem Node.Undoes.ends {n m : Node} (h : n.Undoes m) : n.Ends m := h.mono (fun _ => rfl) (by decide)

theorem Node.ends_setAdmitted (n : Node) (k : Nat) (f : Admitted → Admitted) : n.Ends (n.setAdmitted k f) := .of_regs rfl rfl
theorem Node.ends_answered (n : Node) (s id : Nat) : n.Ends (n.answered s id) := .of_regs rfl rfl
theorem Node.ends_enqueue (n : Node) (p q : Nat) (m : OutMsg) : n.Ends (n.enqueue p q m) := .of_regs rfl rfl

theorem Node.ends_queueReply (n : Node) (now port : Nat) (rep : Reply) (notice : Option Nat) (w b : Nat) : n.Ends (n.queueReply now port rep notice w b) := by
  unfold Node.queueReply
  refine .ite (fun _ => .ite (fun _ => n.ends_enqueue ..) fun _ => n.ends_enqueue ..) fun _ => .ite (fun _ => .of_regs rfl rfl) fun _ => ?_
  have h : n.Ends (n.bump Reg.hostRepliesLost) := .bump rfl (by decide)
  exact .ite (fun _ => h.trans (Node.ends_answered ..)) fun _ => h

theorem Node.ends_lateNotice (n : Node) (now : Nat) (q : Admitted) (detail info : Nat) : n.Ends (n.lateNotice now q detail info) :=
  .ite (fun _ => .refl ..) fun _ => (n.ends_queueReply ..).trans (Node.ends_setAdmitted ..)

theorem Node.ends_queueFinal (n : Node) (now : Nat) (q : Admitted) (status detail : Nat) : n.Ends (n.queueFinal now q status detail) :=
  (n.ends_queueReply ..).trans (Node.ends_setAdmitted ..)

theorem Node.ends_endRequest (n : Node) (now key status detail : Nat) : n.Ends (n.endRequest now key status detail) := by
  unfold Node.endRequest
  cases n.admitted? key with
  | none => exact .refl ..
  | some q => exact .ite (fun _ => .refl ..) fun _ => (n.undoes_undo q).ends.trans (Node.ends_queueFinal ..)

theorem Node.ends_endWithNotice (n : Node) (now key status detail : Nat) : n.Ends (n.endWithNotice now key status detail) := by
  unfold Node.endWithNotice
  cases n.admitted? key with
  | none => exact .refl ..
  | some q => exact (n.ends_lateNotice ..).trans (Node.ends_endRequest ..)

theorem Node.ends_endAll (n : Node) (now status detail : Nat) (notice : Bool) (f : Admitted → Bool) : n.Ends (n.endAll now status detail notice f) :=
  .foldl (fun n _ => .ite (fun _ => n.ends_endWithNotice ..) fun _ => n.ends_endRequest ..) _ n

/-! ### Requests age -/

/-- The request of `x` is that of `y`, later: a finished one stays finished. -/
def Admitted.Follows (x y : Admitted) : Prop := x.req = y.req ∧ x.held = y.held ∧ x.needs = y.needs ∧ (2 ≤ y.phase → 2 ≤ x.phase)

theorem Admitted.Follows.refl (x : Admitted) : x.Follows x := ⟨rfl, rfl, rfl, id⟩

theorem Admitted.Follows.trans {x y z : Admitted} (h : x.Follows y) (h' : y.Follows z) : x.Follows z :=
  ⟨h.1.trans h'.1, h.2.1.trans h'.2.1, h.2.2.1.trans h'.2.2.1, fun hz => h.2.2.2 (h'.2.2.2 hz)⟩

/-- What `setAdmitted` makes of one request. -/
def Admitted.onKey (k : Nat) (f : Admitted → Admitted) (q : Admitted) : Admitted := if q.req.key = k then f q else q

theorem Node.setAdmitted_admitted (n : Node) (k : Nat) (f : Admitted → Admitted) : (n.setAdmitted k f).adm.admitted = n.adm.admitted.map (.onKey k f) := rfl

theorem Admitted.Follows.onKey (k : Nat) (f : Admitted → Admitted) (q : Admitted) (h : q.req.key = k → (f q).Follows q) : (q.onKey k f).Follows q := by
  unfold Admitted.onKey
  split
  · next hk => exact h hk
  · exact .refl q

/-- Every request of `m` is one of `n`, later, and each still once. -/
structure Node.Ages (n m : Node) : Prop where
  follows : ∀ x ∈ m.adm.admitted, ∃ y ∈ n.adm.admitted, x.Follows y
  keys : (m.adm.admitted.map fun q => q.req.key).Sublist (n.adm.admitted.map fun q => q.req.key)

/-- A change of requests that keeps each one's request keeps the keys. -/
theorem map_keys (l : List Admitted) (g : Admitted → Admitted) (h : ∀ q ∈ l, (g q).req = q.req) :
    ((l.map g).map fun q => q.req.key) = l.map fun q => q.req.key := by
  induction l with
  | nil => rfl
  | cons q t ih =>
    rw [List.map_cons, List.map_cons, List.map_cons, ih fun x hx => h x (List.mem_cons_of_mem _ hx), h q List.mem_cons_self]

namespace Node.Ages

theorem of_eq {n m : Node} (h : m.adm.admitted = n.adm.admitted) : n.Ages m :=
  ⟨fun x hx => ⟨x, h ▸ hx, .refl x⟩, by rw [h]⟩

theorem refl (n : Node) : n.Ages n := of_eq rfl

theorem trans {n m l : Node} (h : n.Ages m) (h' : m.Ages l) : n.Ages l := by
  refine ⟨fun x hx => ?_, h'.keys.trans h.keys⟩
  obtain ⟨y, hy, hxy⟩ := h'.follows x hx
  obtain ⟨z, hz, hyz⟩ := h.follows y hy
  exact ⟨z, hz, hxy.trans hyz⟩

theorem foldl {α : Type} {f : Node → α → Node} (h : ∀ (n : Node) x, n.Ages (f n x)) (xs : List α) (n : Node) : n.Ages (n.foldl xs f) := by
  induction xs generalizing n with
  | nil => exact refl n
  | cons x t ih => exact (h n x).trans (ih _)

theorem setAdmitted (n : Node) (k : Nat) (f : Admitted → Admitted) (h : ∀ q ∈ n.adm.admitted, q.req.key = k → (f q).Follows q) :
    n.Ages (n.setAdmitted k f) := by
  refine ⟨fun x hx => ?_, ?_⟩
  · rw [Node.setAdmitted_admitted] at hx
    obtain ⟨y, hy, rfl⟩ := List.mem_map.mp hx
    exact ⟨y, hy, .onKey k f y (h y hy)⟩
  · rw [Node.setAdmitted_admitted, map_keys _ _ fun q hq => (Admitted.Follows.onKey k f q (h q hq)).1]

theorem nodup {n m : Node} (h : n.Ages m) (hn : (n.adm.admitted.map fun q => q.req.key).Nodup) : (m.adm.admitted.map fun q => q.req.key).Nodup :=
  hn.sublist h.keys

/-- A key whose requests are finished stays so. -/
theorem finished {n m : Node} (h : n.Ages m) {k : Nat} (hk : ∀ y ∈ n.adm.admitted, y.req.key = k → 2 ≤ y.phase) :
    ∀ x ∈ m.adm.admitted, x.req.key = k → 2 ≤ x.phase := by
  intro x hx hxk
  obtain ⟨y, hy, hreq, -, -, hphase⟩ := h.follows x hx
  exact hphase (hk y hy (hreq ▸ hxk))

end Node.Ages

theorem Node.undo_adm (n : Node) (q : Admitted) : (n.undo q).adm = n.adm := 
  show (n.undo q).undoCore.adm = n.undoCore.adm from by rw [(n.undoes_undo q).core_eq]

theorem Node.ages_answered (n : Node) (s id : Nat) : n.Ages (n.answered s id) :=
  ⟨fun x hx => ⟨x, (List.mem_filter.mp hx).1, .refl x⟩, List.filter_sublist.map _⟩

theorem Node.ages_queueReply (n : Node) (now port : Nat) (rep : Reply) (notice : Option Nat) (w b : Nat) : n.Ages (n.queueReply now port rep notice w b) := by
  unfold Node.queueReply
  dsimp only
  split
  · split <;> exact .of_eq rfl
  · split
    · exact .of_eq rfl
    · split
      · exact Node.Ages.trans (m := n.bump Reg.hostRepliesLost) (.of_eq rfl) (Node.ages_answered ..)
      · exact .of_eq rfl

theorem Node.ages_lateNotice (n : Node) (now : Nat) (q : Admitted) (detail info : Nat) : n.Ages (n.lateNotice now q detail info) := by
  unfold Node.lateNotice
  split
  · exact .refl n
  · exact (n.ages_queueReply ..).trans (.setAdmitted _ _ _ fun _ _ _ => ⟨rfl, rfl, rfl, id⟩)

theorem Node.ages_queueFinal (n : Node) (now : Nat) (q : Admitted) (status detail : Nat) : n.Ages (n.queueFinal now q status detail) :=
  (n.ages_queueReply ..).trans (.setAdmitted _ _ _ fun _ _ _ => ⟨rfl, rfl, rfl, fun _ => Nat.le_refl 2⟩)

theorem Node.ages_endRequest (n : Node) (now key status detail : Nat) : n.Ages (n.endRequest now key status detail) := by
  unfold Node.endRequest
  cases n.admitted? key with
  | none => exact .refl n
  | some q =>
    dsimp only
    split
    · exact .refl n
    · exact Node.Ages.trans (.of_eq (congrArg Admission.admitted (n.undo_adm q))) (Node.ages_queueFinal ..)

theorem Node.ages_endWithNotice (n : Node) (now key status detail : Nat) : n.Ages (n.endWithNotice now key status detail) := by
  unfold Node.endWithNotice
  cases n.admitted? key with
  | none => exact .refl n
  | some q => exact (n.ages_lateNotice ..).trans (Node.ages_endRequest ..)

/-- One request of an `endAll`. -/
def Node.endOne (now status detail : Nat) (notice : Bool) (n : Node) (k : Nat) : Node :=
  if notice then n.endWithNotice now k status detail else n.endRequest now k status detail

theorem Node.endAll_eq (n : Node) (now status detail : Nat) (notice : Bool) (f : Admitted → Bool) : n.endAll now status detail notice f =
    n.foldl ((n.unfinished.filter f).map fun q => q.req.key) (Node.endOne now status detail notice) := rfl

theorem Node.ages_endOne (n : Node) (now status detail : Nat) (notice : Bool) (k : Nat) : n.Ages (Node.endOne now status detail notice n k) := by
  unfold Node.endOne
  split
  · exact n.ages_endWithNotice ..
  · exact n.ages_endRequest ..

theorem Node.ages_endAll (n : Node) (now status detail : Nat) (notice : Bool) (f : Admitted → Bool) : n.Ages (n.endAll now status detail notice f) :=
  .foldl (fun n _ => n.ages_endOne ..) _ n

/-! ### What is ended is finished -/

theorem Node.mem_of_admitted? {n : Node} {k : Nat} {q : Admitted} (h : n.admitted? k = some q) : q ∈ n.adm.admitted ∧ q.req.key = k :=
  ⟨List.mem_of_find?_eq_some h, by simpa using List.find?_some h⟩

theorem Node.queueFinal_phase (n : Node) (now : Nat) (q : Admitted) (status detail : Nat) :
    ∀ x ∈ (n.queueFinal now q status detail).adm.admitted, x.req.key = q.req.key → x.phase = 2 := by
  intro x hx hk
  obtain ⟨y, -, rfl⟩ := List.mem_map.mp hx
  split
  · rfl
  · next h => rw [if_neg h] at hk; exact absurd hk h

/-- An unfinished request that is ended is finished (R84). -/
theorem Node.endRequest_phase (n : Node) (now key status detail : Nat) (q : Admitted) (h : n.admitted? key = some q) (hq : q.phase < 2) :
    ∀ x ∈ (n.endRequest now key status detail).adm.admitted, x.req.key = key → x.phase = 2 := by
  unfold Node.endRequest
  rw [h]
  dsimp only
  rw [if_neg (Nat.not_le.mpr hq)]
  intro x hx hk
  exact Node.queueFinal_phase _ now q _ _ x hx (hk.trans (Node.mem_of_admitted? h).2.symm)

/-- Where each key stands once, no request of an ended key is unfinished. -/
theorem Node.endRequest_finished (n : Node) (now key status detail : Nat) (hn : (n.adm.admitted.map fun q => q.req.key).Nodup) :
    ∀ x ∈ (n.endRequest now key status detail).adm.admitted, x.req.key = key → 2 ≤ x.phase := by
  cases h : n.admitted? key with
  | none =>
    refine (n.ages_endRequest ..).finished fun y hy hk => ?_
    exact absurd (List.find?_eq_none.mp h y hy) (by simp [hk])
  | some q =>
    by_cases hq : q.phase < 2
    · exact fun x hx hk => (n.endRequest_phase now key status detail q h hq x hx hk).ge
    · refine (n.ages_endRequest ..).finished fun y hy hk => ?_
      obtain ⟨hm, hqk⟩ := Node.mem_of_admitted? h
      rw [List.inj_on_of_nodup_map hn hy hm (hk.trans hqk.symm)]
      exact Nat.not_lt.mp hq

theorem Node.endOne_finished (n : Node) (now status detail : Nat) (notice : Bool) (k : Nat) (hn : (n.adm.admitted.map fun q => q.req.key).Nodup) :
    ∀ x ∈ (Node.endOne now status detail notice n k).adm.admitted, x.req.key = k → 2 ≤ x.phase := by
  unfold Node.endOne
  split
  · unfold Node.endWithNotice
    cases h : n.admitted? k with
    | none =>
      intro x hx hk
      exact absurd (List.find?_eq_none.mp h x hx) (by simp [hk])
    | some q => exact Node.endRequest_finished _ _ _ _ _ ((n.ages_lateNotice ..).nodup hn)
  · exact n.endRequest_finished _ _ _ _ hn

theorem Node.endKeys_finished (now status detail : Nat) (notice : Bool) (ks : List Nat) (n : Node) (hn : (n.adm.admitted.map fun q => q.req.key).Nodup) :
    ∀ x ∈ (n.foldl ks (Node.endOne now status detail notice)).adm.admitted, x.req.key ∈ ks → 2 ≤ x.phase := by
  induction ks generalizing n with
  | nil => exact fun _ _ h => absurd h (by simp)
  | cons k t ih =>
    intro x hx hk
    have hage := n.ages_endOne now status detail notice k
    rcases List.mem_cons.mp hk with hk | hk
    · exact (Node.Ages.foldl (fun n j => n.ages_endOne ..) t _).finished (n.endOne_finished now status detail notice k hn) x hx hk
    · exact ih _ (hage.nodup hn) x hx hk

/-- What `endAll` leaves of the requests admitted: each as it was, later, and finished where it was chosen (R84). -/
theorem Node.endAll_finished (n : Node) (now status detail : Nat) (notice : Bool) (f : Admitted → Bool) (hn : (n.adm.admitted.map fun q => q.req.key).Nodup) :
    ∀ x ∈ (n.endAll now status detail notice f).adm.admitted, ∃ y ∈ n.adm.admitted, x.Follows y ∧ (f y = true → 2 ≤ x.phase) := by
  intro x hx
  obtain ⟨y, hy, hf⟩ := (n.ages_endAll now status detail notice f).follows x hx
  refine ⟨y, hy, hf, fun hfy => ?_⟩
  by_cases hp : 2 ≤ y.phase
  · exact hf.2.2.2 hp
  · refine Node.endKeys_finished now status detail notice _ n hn x hx (List.mem_map.mpr ⟨y, ?_, by rw [hf.1]⟩)
    exact List.mem_filter.mpr ⟨List.mem_filter.mpr ⟨hy, decide_eq_true (Nat.not_le.mp hp)⟩, hfy⟩

/-- After the end of every request none is unfinished. -/
theorem Node.unfinished_endAll (n : Node) (now status detail : Nat) (notice : Bool) (hn : (n.adm.admitted.map fun q => q.req.key).Nodup) :
    (n.endAll now status detail notice fun _ => true).unfinished = [] := by
  refine List.filter_eq_nil_iff.mpr fun x hx => ?_
  obtain ⟨y, -, -, h⟩ := n.endAll_finished now status detail notice (fun _ => true) hn x hx
  simpa using Nat.lt_of_succ_le (h rfl)

end Sys2Proof.Machine
end

section
/-!
Loss of a tick input, holdover, and leaving rounds (O26).
-/

namespace Sys2Proof.Machine

/-! ### A change refused -/

/-- The node as a change refused leaves it, before its event (R56). -/
def Node.refusal (n : Node) (now : Nat) (fails : List (Nat × Nat)) : Node :=
  let m := (n.setReg Reg.commitState 4).setArmResult fails
  { m with sched := { m.sched with arming := { m.sched.arming with failures := fails, refusedAt := some now } }, adm := { m.adm with armed := [] } }

/-- A change refused with no request placed for it moves no request. -/
theorem Node.refuseChange_idle (n : Node) (now : Nat) (fails : List (Nat × Nat)) (h : n.reg Reg.commitState ≠ 3 ∨ n.unfinished = []) :
    n.refuseChange now fails = (n.refusal now fails).commitEvent := by
  have hm : ∀ m : Node, m = (n.refusal now fails).commitEvent → m.unfinished = n.unfinished := by
    rintro m rfl
    show List.filter _ (n.refusal now fails).commitEvent.adm.admitted = _
    rw [show (n.refusal now fails).commitEvent.adm = (n.refusal now fails).adm from Node.event_adm ..]
    rfl
  unfold Node.refuseChange
  dsimp only
  rw [← Node.refusal]
  split
  · rfl
  · next h3 =>
    have hu : (n.refusal now fails).commitEvent.unfinished = [] := (hm _ rfl).trans (h.resolve_left (by simpa using h3))
    rw [hu]
    rfl

theorem Node.refusal_frame (n : Node) (now : Nat) (fails : List (Nat × Nat)) : (n.refusal now fails).commitEvent.adm = { n.adm with armed := [] } ∧
    ∀ k, k ≠ Reg.commitState → k ≠ Reg.armResult → k ≠ Reg.eventSeq → (n.refusal now fails).commitEvent.reg k = n.reg k := by
  refine ⟨Node.event_adm .., fun k hc ha he => ?_⟩
  rw [Node.commitEvent, Node.reg_event, if_neg he]
  refine (Node.reg_congr (m := (n.setReg Reg.commitState 4).setArmResult fails) rfl k).trans ?_
  unfold Node.setArmResult
  dsimp only
  rw [Node.reg_setReg, if_neg ha, Node.reg_setReg, if_neg hc]

/-- What a change refused leaves: as for ended requests, without the arming, the event log and the host port. -/
def Node.refuseCore (n : Node) : Node :=
  let m := n.endCore
  { m with sched := { m.sched with arming := {} }, adm := { m.adm with armed := [] }, mgmt := {}, host := {} }

/-- The entries that a change refused writes. -/
def refuseCounters : List Nat := Reg.commitState :: Reg.armResult :: Reg.eventSeq :: endCounters

theorem Node.refuses_event (n : Node) (c : Nat) (d : Bytes) : n.Keeps Node.refuseCore refuseCounters (n.event c d) := by
  obtain ⟨m, h, e⟩ := n.event_eq c d
  refine ⟨by rw [e]; rfl, fun k hk => ?_⟩
  rw [Node.reg_event, if_neg fun he : k = Reg.eventSeq => hk (he ▸ by decide)]

theorem Node.refuses_refuseChange (n : Node) (now : Nat) (fails : List (Nat × Nat)) : n.Keeps Node.refuseCore refuseCounters (n.refuseChange now fails) := by
  have h : n.Keeps Node.refuseCore refuseCounters (n.refusal now fails).commitEvent := by
    refine Node.Keeps.trans (m := n.refusal now fails) ?_ (Node.refuses_event ..)
    refine Node.Keeps.trans (m := (n.setReg Reg.commitState 4).setArmResult fails) ?_ (.of_regs rfl rfl)
    exact (Node.Keeps.setReg rfl (by decide)).trans (.setReg rfl (by decide))
  unfold Node.refuseChange
  dsimp only
  rw [← Node.refusal]
  refine .ite (fun _ => h) fun _ => h.trans (.foldl (fun n q => ?_) _ _)
  have hends : ∀ m, n.Ends m → n.Keeps Node.refuseCore refuseCounters m := fun m hm => hm.mono (fun _ => rfl) (by decide)
  unfold Node.replaceArmed
  dsimp only
  split
  · exact hends _ (n.ends_setAdmitted ..)
  · exact hends _ (n.ends_endWithNotice ..)

/-! ### Leaving rounds -/

/-- The node that leaves rounds, before its requests end (R38, R39). -/
def Node.leaving (n : Node) (now cause : Nat) : Node :=
  let m := n.setTimeStatus (n.reg Reg.timeStatus ||| 2 ^ (if cause = 1 then 6 else 7))
  let m := { m with comp := { m.comp with outCause := cause, returnState := m.st, rejoinPending := false } }.setReg Reg.outOfRounds 1
  if m.st = stPreop ∨ m.st = stOperational then m.setState now stHold (if cause = 1 then 2 else 3) else m

/-- The requests of a node that leaves rounds end (R38, R39). -/
def Node.endLeaving (n : Node) (now cause : Nat) : Node :=
  if cause = 1 then n.endAll now stGroupHold 1 false fun _ => true else n.endAll now stTimeSplit 3 true fun _ => true

theorem Node.reg_setTimeStatus (n : Node) (v k : Nat) (h : k ≠ Reg.timeStatus) (h' : k ≠ Reg.timeEvents) (h'' : k ≠ Reg.eventSeq) :
    (n.setTimeStatus v).reg k = n.reg k := by
  unfold Node.setTimeStatus
  split
  · rfl
  · rw [Node.timeEvent, Node.reg_event, if_neg h'', Node.reg_setReg, if_neg h', Node.reg_setReg, if_neg h]

theorem Node.leaveRounds_eq (n : Node) (now cause : Nat) (h : n.inRounds = true) : n.leaveRounds now cause =
    if ((n.leaving now cause).endLeaving now cause).reg Reg.commitState = 2 ∨ ((n.leaving now cause).endLeaving now cause).reg Reg.commitState = 3 then
      ((n.leaving now cause).endLeaving now cause).refuseChange now [(0x0F, 0)]
    else (n.leaving now cause).endLeaving now cause := by
  have hr : (n.setTimeStatus (n.reg Reg.timeStatus ||| 2 ^ (if cause = 1 then 6 else 7))).inRounds = true := by
    rw [Node.inRounds, Node.reg_setTimeStatus _ _ _ (by decide) (by decide) (by decide)]; exact h
  unfold Node.leaveRounds
  dsimp only
  rw [if_neg (by rw [hr]; simp)]
  rfl

theorem Node.setState_frame (n : Node) (now st cause : Nat) : (n.setState now st cause).st = st ∧ (n.setState now st cause).adm = n.adm ∧
    (n.setState now st cause).comp = n.comp ∧
    ∀ k, k ≠ Reg.nodeState → k ≠ Reg.stateTick → k ≠ Reg.stateCause → k ≠ Reg.eventSeq → (n.setState now st cause).reg k = n.reg k := by
  unfold Node.setState
  dsimp only
  split
  · next h => exact ⟨h, rfl, rfl, fun _ _ _ _ _ => rfl⟩
  · refine ⟨?_, by simp, by simp, fun k hn ht hc he => ?_⟩
    · rw [Node.st, Node.reg_event, if_neg (by decide), Node.reg_setReg, if_neg (by decide), Node.reg_setReg, if_neg (by decide), Node.reg_setReg, if_pos rfl]
    · rw [Node.reg_event, if_neg he, Node.reg_setReg, if_neg hc, Node.reg_setReg, if_neg ht, Node.reg_setReg, if_neg hn]

theorem Node.leaving_spec (n : Node) (now cause : Nat) : (n.leaving now cause).adm = n.adm ∧ (n.leaving now cause).comp.outCause = cause ∧
    (n.leaving now cause).reg Reg.outOfRounds = 1 ∧ (n.st = stPreop ∨ n.st = stOperational → (n.leaving now cause).st = stHold) := by
  unfold Node.leaving
  generalize n.reg Reg.timeStatus ||| 2 ^ (if cause = 1 then 6 else 7) = v
  have hst : (n.setTimeStatus v).st = n.st := Node.reg_setTimeStatus _ _ _ (by decide) (by decide) (by decide)
  have hadm := n.setTimeStatus_adm v
  generalize n.setTimeStatus v = m at hst hadm
  dsimp only
  generalize he : ({ m with comp := { m.comp with outCause := cause, returnState := m.st, rejoinPending := false } } : Node).setReg Reg.outOfRounds 1 = k
  have hk : k.adm = n.adm ∧ k.comp.outCause = cause ∧ k.reg Reg.outOfRounds = 1 ∧ k.st = n.st := by
    rw [← he]
    refine ⟨hadm, rfl, by rw [Node.reg_setReg, if_pos rfl], ?_⟩
    rw [Node.st, Node.reg_setReg, if_neg (by decide)]
    exact hst
  obtain ⟨ha, hc, ho, hs⟩ := hk
  split
  · obtain ⟨fst, fadm, fcomp, freg⟩ := k.setState_frame now stHold (if cause = 1 then 2 else 3)
    exact ⟨fadm.trans ha, by rw [fcomp, hc], (freg _ (by decide) (by decide) (by decide) (by decide)).trans ho, fun _ => fst⟩
  · next hno => exact ⟨ha, hc, ho, fun h => absurd (hs ▸ h) hno⟩

theorem Node.ends_endLeaving (n : Node) (now cause : Nat) : n.Ends (n.endLeaving now cause) :=
  .ite (fun _ => n.ends_endAll ..) fun _ => n.ends_endAll ..

/-- A node that leaves rounds is out of them, in HOLD where it ran, and none of its requests is unfinished (R38, R39). -/
theorem Node.leaveRounds_spec (n : Node) (now cause : Nat) (h : n.inRounds = true) : (n.leaveRounds now cause).reg Reg.outOfRounds = 1 ∧
    (n.leaveRounds now cause).comp.outCause = cause ∧ (n.st = stPreop ∨ n.st = stOperational → (n.leaveRounds now cause).st = stHold) ∧
    ((n.adm.admitted.map fun q => q.req.key).Nodup → (n.leaveRounds now cause).unfinished = []) := by
  obtain ⟨hadm, hcause, hout, hst⟩ := n.leaving_spec now cause
  have hends := (n.leaving now cause).ends_endLeaving now cause
  have hrefuse := ((n.leaving now cause).endLeaving now cause).refuses_refuseChange now [(0x0F, 0)]
  have hun : (n.adm.admitted.map fun q => q.req.key).Nodup → ((n.leaving now cause).endLeaving now cause).unfinished = [] := fun hn => by
    unfold Node.endLeaving
    split <;> exact Node.unfinished_endAll _ _ _ _ _ (by rw [hadm]; exact hn)
  have hcomp : ((n.leaving now cause).endLeaving now cause).comp.outCause = cause :=
    (congrArg (fun m : Node => m.comp.outCause) hends.core_eq).trans hcause
  rw [n.leaveRounds_eq now cause h]
  split
  · refine ⟨?_, ?_, fun hs => ?_, fun hn => ?_⟩
    · exact (hrefuse.reg_eq _ (by decide)).trans ((hends.reg_eq _ (by decide)).trans hout)
    · exact (congrArg (fun m : Node => m.comp.outCause) hrefuse.core_eq).trans hcomp
    · exact (hrefuse.reg_eq Reg.nodeState (by decide)).trans ((hends.reg_eq Reg.nodeState (by decide)).trans (hst hs))
    · rw [Node.refuseChange_idle _ _ _ (.inr (hun hn))]
      show List.filter _ (Node.adm _).admitted = _
      rw [(Node.refusal_frame ..).1]
      exact hun hn
  · exact ⟨(hends.reg_eq _ (by decide)).trans hout, hcomp, fun hs => (hends.reg_eq Reg.nodeState (by decide)).trans (hst hs), hun⟩

/-! ### Holdover -/

theorem Node.ends_startHoldoverNotices (l : List Admitted) (n : Node) (now : Nat) : n.Ends (n.foldl l fun n q => n.lateNotice now q 1 0xFFFFFFFF) :=
  .foldl (fun n _ => n.ends_lateNotice ..) l n

/-- Holdover fixes its limit and keeps what the inputs are (R38). -/
theorem Node.startHoldover_time (n : Node) (now : Nat) : (n.startHoldover now).time =
    { n.time with selected := 0, holdover := true, holdoverStart := now, limit := n.reg Reg.holdoverLimit, switchPending := none } := by
  unfold Node.startHoldover
  dsimp only
  exact (congrArg (fun m : Node => m.time) (Node.ends_startHoldoverNotices ..).core_eq).trans (Node.timeUpdate_time _)

theorem tickNum_other (i : TickIn) : tickNum (otherTick i) ≠ tickNum i := by cases i <;> decide

/-- The node with an input that is not locked any more. -/
def Node.unlockTick (n : Node) (i : TickIn) : Node :=
  { n with time := n.time.setInput i { n.time.input i with locked := false, prevFrame := none, inFrame := false } }

theorem Node.loseTick_eq (n : Node) (now : Nat) (i : TickIn) : n.loseTick now i =
    if (n.unlockTick i).time.selected ≠ tickNum i then (n.unlockTick i).timeUpdate
    else if (n.unlockTick i).eligible (otherTick i) || ((n.unlockTick i).time.input (otherTick i)).locked && !(n.unlockTick i).skewed then
      ({ n.unlockTick i with time := { (n.unlockTick i).time with switchPending := some (otherTick i) } } : Node).timeUpdate
    else (n.unlockTick i).startHoldover now := rfl

theorem TimeUnit.setInput_selected (t : TimeUnit) (i : TickIn) (v : TickInput) : (t.setInput i v).selected = t.selected ∧
    (t.setInput i v).holdover = t.holdover := by cases i <;> exact ⟨rfl, rfl⟩

/-- What the loss of an input leaves of the time unit (R36, R38). -/
theorem Node.loseTick_spec (n : Node) (now : Nat) (i : TickIn) : ((n.loseTick now i).time.input i).locked = false ∧
    (n.time.selected ≠ tickNum i → (n.loseTick now i).time.selected = n.time.selected ∧ (n.loseTick now i).time.holdover = n.time.holdover) ∧
    (n.time.selected = tickNum i → (n.time.input (otherTick i)).locked = true → n.skewed = false →
      (n.loseTick now i).time.switchPending = some (otherTick i) ∧ (n.loseTick now i).time.selected = tickNum i) ∧
    (n.time.selected = tickNum i → (n.time.input (otherTick i)).locked = false → (n.loseTick now i).time.selected = 0 ∧
      (n.loseTick now i).time.holdover = true ∧ (n.loseTick now i).time.holdoverStart = now ∧ (n.loseTick now i).time.limit = n.reg Reg.holdoverLimit) := by
  have hin : ((n.unlockTick i).time.input i).locked = false := by simp [Node.unlockTick]
  have hother : (n.unlockTick i).time.input (otherTick i) = n.time.input (otherTick i) := TimeUnit.input_setInput_other ..
  obtain ⟨hsel, hhold⟩ : (n.unlockTick i).time.selected = n.time.selected ∧ (n.unlockTick i).time.holdover = n.time.holdover :=
    TimeUnit.setInput_selected ..
  have hskew : (n.unlockTick i).skewed = n.skewed := rfl
  have hlocked : ∀ t : TimeUnit, t.a = (n.unlockTick i).time.a → t.b = (n.unlockTick i).time.b → (t.input i).locked = false := fun t ha hb => by
    rw [← hin]; cases i
    · exact congrArg TickInput.locked ha
    · exact congrArg TickInput.locked hb
  rw [Node.loseTick_eq, hsel, hother, hskew]
  by_cases hs : n.time.selected = tickNum i
  · rw [if_neg (not_not.mpr hs)]
    by_cases hc : ((n.unlockTick i).eligible (otherTick i) || (n.time.input (otherTick i)).locked && !n.skewed) = true
    · rw [if_pos hc, Node.timeUpdate_time]
      refine ⟨hlocked _ rfl rfl, fun h => absurd hs h, fun _ _ _ => ⟨rfl, hsel.trans hs⟩, fun _ hl => ?_⟩
      simp [Node.eligible, hother, hl] at hc
    · rw [if_neg hc, Node.startHoldover_time]
      refine ⟨hlocked _ rfl rfl, fun h => absurd hs h, fun _ hl hk => absurd ?_ hc, fun _ _ => ⟨rfl, rfl, rfl, rfl⟩⟩
      simp [hl, hk]
  · rw [if_pos hs, Node.timeUpdate_time]
    exact ⟨hlocked _ rfl rfl, fun _ => ⟨hsel, hhold⟩, fun h => absurd h hs, fun h => absurd h hs⟩

/-! ### The obligation -/

/-- Settles O26: the four events of the tick inputs (R36 to R38), each by the lemma of its rule. -/
theorem tickLoss : Obligations.TickLoss := by
  intro i s ti other
  refine ⟨fun hp => ?_, fun hm hl => ?_, fun hh ht hr hst hn => ?_, fun via v => ?_⟩
  · have hp' : (s.node.time.setInput i { ti with missed := ti.missed + 1, inFrame := false, prevFrame := none }).switchPending = none := by
      cases i <;> exact hp
    refine ⟨{ s.node with time := s.node.time.setInput i { ti with missed := ti.missed + 1, inFrame := false, prevFrame := none } }, ?_, ?_, ?_,
      TimeUnit.input_setInput_other .., (TimeUnit.setInput_selected ..).1, rfl⟩
    · dsimp only [exec, execMissedTick]
      rw [hp']
      exact State.on_eq ..
    · exact congrArg TickInput.missed (TimeUnit.input_setInput ..)
    · exact congrArg TickInput.prevFrame (TimeUnit.input_setInput ..)
  · refine ⟨_, ?_, s.node.loseTick_spec s.clock.tick i⟩
    dsimp only [exec, execInputLost]
    rw [if_pos ⟨hm, hl⟩]
    exact State.on_eq ..
  · obtain ⟨hout, -, hhold, hun⟩ := s.node.leaveRounds_spec s.clock.tick 1 hr
    refine ⟨_, ?_, hhold hst, hout, hun hn⟩
    dsimp only [exec, execHoldoverLimit]
    rw [if_pos ⟨hh, ht, hr⟩]
    exact State.on_eq ..
  · refine State.accepts_of s (.tickPrimaryWrite via v) via 0x1100 4 [v] (fun n => n.tickPrimaryWrite v.toNat) _ rfl ?_
    have htime : ((s.node.noteAwl via).setReg Reg.tickPrimary v.toNat).time = s.node.time := by simp
    have hskew : ((s.node.noteAwl via).setReg Reg.tickPrimary v.toNat).skewed = s.node.skewed := by
      rw [Node.skewed, Node.reg_setReg, if_neg (by decide), Node.reg_noteAwl]; rfl
    unfold Node.tickPrimaryWrite
    dsimp only
    rw [htime, hskew]
    split
    · refine ⟨?_, fun _ _ _ _ _ => rfl⟩
      exact (Node.reg_congr (m := (s.node.noteAwl via).setReg Reg.tickPrimary v.toNat) rfl _).trans (by rw [Node.reg_setReg, if_pos rfl])
    · next hno =>
      exact ⟨by rw [Node.reg_setReg, if_pos rfl], fun h1 h2 ha hb hk => absurd ⟨h1, h2, ha, hb, by rw [hk]; rfl⟩ hno⟩

end Sys2Proof.Machine
end

section
/-!
Work that is caught by an error and moved (R447, R449, R450, R465): what moving, rerunning and losing it leaves as it is.
-/

namespace Sys2Proof.Machine

/-! ### What moved work leaves -/

/-- What moved work leaves: as for ended requests, without the bookings of the tiers and the lines of the stacks. -/
def Node.moveCore (n : Node) : Node :=
  let m := n.endCore
  { m with adm := { m.adm with orderNext := 0 }, stk := { m.stk with lines := [] },
           tiers := { m.tiers with reads := [], spillsNow := [], weights := [], weightReads := [] } }

/-- The counters of moved work. -/
def moveCounters : List Nat := Reg.spillCancels :: Reg.reruns :: Reg.stateLosses :: endCounters

/-- Moving work, as a frame. -/
abbrev Node.Moves (n m : Node) : Prop := n.Keeps Node.moveCore moveCounters m

theorem Node.Keeps.moves {n m : Node} (h : n.Ends m) : n.Moves m := h.mono (fun _ => rfl) (by decide)

/-- The node with a spill's record gone and counted (R290). -/
def Node.spillGone (n : Node) (p : Nat) : Node :=
  ({ n with tiers := { n.tiers with spillsNow := n.tiers.spillsNow.filter fun e => e.1 != p } } : Node).bump Reg.spillCancels

theorem Node.moves_spillGone (n : Node) (p : Nat) : n.Moves (n.spillGone p) := by
  refine Node.Keeps.trans ?_ (.bump ?_ ?_)
  · exact .of_regs rfl rfl
  · rfl
  · decide

theorem Node.cancelSpill_eq (n : Node) (p : Nat) : n.cancelSpill p = if !(n.page p).moving then n else
    ((match (n.page p).slow with | some k => n.dropSlow k | none => n).setPage p { n.page p with moving := false, slow := none }).spillGone p := rfl

theorem Node.moves_cancelSpill (n : Node) (p : Nat) : n.Moves (n.cancelSpill p) := by
  rw [Node.cancelSpill_eq]
  refine .ite (fun _ => .refl ..) fun _ => Node.Keeps.trans ?_ (Node.moves_spillGone ..)
  refine Node.Keeps.trans ?_ (Node.undoes_setPage ..).ends.moves
  cases (n.page p).slow
  · exact .refl ..
  · exact (n.undoes_dropSlow _).ends.moves

theorem Node.moves_takePages (n : Node) (ps : List Nat) : n.Moves (n.takePages ps) := by
  refine .foldl (fun n p => ?_) ps n
  exact .ite (fun _ => (n.moves_cancelSpill p).trans (Node.undoes_setPage ..).ends.moves) fun _ => n.moves_cancelSpill p

theorem Node.moves_bookRead (n m : Node) (slice near page s d key t : Nat) (h : n.bookRead slice near page s d key = some (t, m)) : n.Moves m := by
  unfold Node.bookRead at h
  cases hst : n.fetchStack slice near with
  | none => rw [hst] at h; cases h
  | some st =>
    rw [hst] at h
    dsimp only at h
    cases hg : n.lowestSlot slice st with
    | none => rw [hg] at h; cases h
    | some g =>
      rw [hg] at h
      dsimp only at h
      cases ht : n.readTick ((n.page page).slow.getD 0) st s d with
      | none => rw [ht] at h; cases h
      | some t' =>
        rw [ht] at h
        rw [← (Prod.mk.inj (Option.some.inj h)).2]
        exact .of_regs rfl rfl

theorem Node.moves_bookReads (slice s d key : Nat) (ps : List (Nat × Nat)) (n m : Node) (h : n.bookReads slice s d key ps = some m) : n.Moves m := by
  induction ps generalizing n with
  | nil => cases h; exact .refl ..
  | cons e t ih =>
    obtain ⟨p, near⟩ := e
    unfold Node.bookReads at h
    split at h
    · cases hb : n.bookRead slice near p s d key with
      | none => rw [hb] at h; cases h
      | some r =>
        rw [hb] at h
        exact (n.moves_bookRead r.2 slice near p s d key r.1 hb).trans (ih r.2 h)
    · exact ih n h

theorem Node.moves_bookTiles (region s d fuel : Nat) (n m : Node) (slot last r : Nat) (h : n.bookTiles region s d fuel slot last = some (r, m)) :
    n.Moves m := by
  induction fuel generalizing n slot last with
  | zero => cases h; exact .refl ..
  | succ fuel ih =>
    unfold Node.bookTiles at h
    cases ht : n.readTick slot region s d with
    | none => rw [ht] at h; cases h
    | some t =>
      rw [ht] at h
      dsimp only at h
      refine Node.Keeps.trans ?_ (ih _ _ _ h)
      exact .of_regs rfl rfl

theorem Node.moves_takeLowest (n m : Node) (s stack c : Nat) (slots : List Nat) (h : n.takeLowest s stack c = some (slots, m)) : n.Moves m := by
  induction c generalizing n slots with
  | zero => rw [← (Prod.mk.inj (Option.some.inj h)).2]; exact .refl ..
  | succ c ih =>
    rw [Node.takeLowest] at h
    cases hl : n.lowestSlot s stack with
    | none => rw [hl] at h; cases h
    | some g =>
      rw [hl] at h
      obtain ⟨⟨sl, m'⟩, hr, he⟩ := Option.map_eq_some_iff.mp h
      refine Node.Keeps.trans ?_ (ih (n.takeSlot s g) sl ((Prod.mk.inj he).2 ▸ hr))
      exact .of_regs rfl rfl

theorem Node.moves_bookWeights (slice home s d : Nat) (ws : List Nat) (n m : Node) (t r : Nat) (h : n.bookWeights slice home s d ws t = some (r, m)) :
    n.Moves m := by
  induction ws generalizing n t with
  | nil => cases h; exact .refl ..
  | cons w rest ih =>
    unfold Node.bookWeights at h
    dsimp only at h
    split at h
    · cases hst : n.fetchStack slice home with
      | none => rw [hst] at h; cases h
      | some st =>
        rw [hst] at h
        dsimp only at h
        cases ht : n.takeLowest slice st (n.weight w).slotCount with
        | none => rw [ht] at h; cases h
        | some e =>
          rw [ht] at h
          dsimp only at h
          cases hb : e.2.bookTiles st s d (n.weight w).slotCount ((n.weight w).slow.getD 0) 0 with
          | none => rw [hb] at h; cases h
          | some f =>
            rw [hb] at h
            dsimp only at h
            refine ((n.moves_takeLowest e.2 slice st _ e.1 ht).trans (Node.moves_bookTiles _ _ _ _ _ f.2 _ _ f.1 hb)).trans ?_
            refine Node.Keeps.trans ?_ (ih _ _ h)
            exact .of_regs rfl rfl
    · split at h
      · exact ih n _ h
      · exact ih n _ h

theorem Node.moves_suspend (n : Node) (key : Nat) (f : Admitted → Admitted) : n.Moves (n.suspend key f) := by
  unfold Node.suspend
  cases n.admitted? key with
  | none => exact .refl ..
  | some q => exact .ite (fun _ => .refl ..) fun _ => (n.undoes_stopItems q).ends.moves.trans (Node.ends_setAdmitted ..).moves

theorem Node.moves_setAdm (n : Node) (l : List Admitted) (k : Nat) : n.Moves { n with adm := { n.adm with admitted := l, orderNext := k } } :=
  .of_regs rfl rfl

theorem Node.moves_replace (n m : Node) (now key : Nat) (h : n.replace now key = some m) : n.Moves m := by
  unfold Node.replace at h
  cases hq : n.admitted? key with
  | none => rw [hq] at h; cases h
  | some q =>
    rw [hq] at h
    dsimp only at h
    obtain ⟨e, he, h⟩ := Option.bind_eq_some_iff.mp h
    obtain ⟨n1, h1, h2⟩ := Option.bind_eq_some_iff.mp he
    split at h
    · cases h
    · rw [← Option.some.inj h]
      have hadm : n.Moves { n with adm := { n.adm with admitted := n.adm.admitted.filter fun a => a.req.key != key } } := .of_regs rfl rfl
      have hbooked := (hadm.trans (Node.moves_bookReads _ _ _ _ _ _ n1 h1)).trans (Node.moves_bookWeights _ _ _ _ _ n1 e.2 _ e.1 h2)
      have ht : ∀ ps, n.Moves (e.2.takePages ps) := fun ps => hbooked.trans (Node.moves_takePages ..)
      generalize hn2 : e.2.takePages _ = n2
      exact (hn2 ▸ ht _).trans (n2.moves_setAdm _ _)

theorem Node.moves_stateLoss (n : Node) (key : Nat) (kind : UnitKind) (num : Nat) : n.Moves (n.stateLoss key kind num) := by
  unfold Node.stateLoss
  cases n.admitted? key with
  | none => exact .refl ..
  | some q =>
    refine .ite (fun _ => .refl ..) fun _ => Node.Keeps.trans ?_ (Node.moves_suspend ..)
    exact .bump rfl (by decide)

/-! ### Tokens written -/

theorem Node.moves_writeSlot (n : Node) (g off : Nat) (bs : Bytes) (owner tag : Nat) : n.Moves (n.writeSlot g off bs owner tag) := by
  unfold Node.writeSlot
  generalize 257 = fuel
  induction fuel generalizing n off bs with
  | zero => exact .refl ..
  | succ fuel ih =>
    unfold Node.writeSlotGo
    refine .ite (fun _ => .refl ..) fun _ => ?_
    refine Node.Keeps.trans ?_ (ih ..)
    exact .of_regs rfl rfl

theorem Node.moves_poisonLine (n : Node) (k : Nat) : n.Moves (n.poisonLine k) := .of_regs rfl rfl

theorem Node.moves_pageBytes (n : Node) (p off : Nat) (bs : Bytes) : n.Moves (n.pageBytes p off bs) := by
  unfold Node.pageBytes
  dsimp only
  cases (n.page p).t1 with
  | none => exact .refl ..
  | some g => exact (n.moves_writeSlot ..).trans (.foldl (fun n l => n.moves_poisonLine _) _ _)

theorem Node.moves_putToken (n : Node) (p a b tag : Nat) (rc : Bytes) : n.Moves (n.putToken p a b tag rc) :=
  (((n.moves_pageBytes ..).trans (Node.moves_pageBytes ..)).trans (Node.moves_pageBytes ..)).trans (Node.undoes_setPage ..).ends.moves

theorem Node.moves_trackToken (n : Node) (k t tag : Nat) (rc : Bytes) : n.Moves (n.trackToken k t tag rc) :=
  (n.moves_putToken ..).trans (Node.undoes_journal ..).ends.moves

theorem Node.moves_writeTokens (n : Node) (now : Nat) (q : Admitted) : n.Moves (n.writeTokens now q) := by
  unfold Node.writeTokens
  dsimp only
  refine Node.Keeps.trans (Node.Keeps.trans (.foldl (fun n e => ?_) _ _) (Node.undoes_setSeq ..).ends.moves) (Node.ends_setAdmitted ..).moves
  refine Node.Keeps.trans (.foldl (fun n j => ?_) _ _) (Node.undoes_setTrack ..).ends.moves
  exact (n.moves_trackToken ..).trans (Node.undoes_setTrack ..).ends.moves

/-! ### Reruns -/

theorem Node.moves_stateLostEnd (n : Node) (now key : Nat) : n.Moves (n.stateLostEnd now key) := by
  unfold Node.stateLostEnd
  cases n.admitted? key with
  | none => exact .refl ..
  | some q =>
    refine Node.Keeps.trans ?_ (Node.ends_endWithNotice ..).moves
    exact .ite (fun _ => n.moves_writeTokens ..) fun _ => .refl ..

theorem Node.moves_rerun (n : Node) (now unit : Nat) : n.Moves (n.rerun now unit) := by
  refine .foldl (fun n key => ?_) _ n
  cases h : n.replace now key with
  | none => exact n.moves_stateLostEnd ..
  | some m => exact (n.moves_replace m now key h).trans (.bump rfl (show Reg.reruns ∈ moveCounters by decide))

theorem Node.moves_moveWork (n : Node) (now : Nat) (kind : UnitKind) (num : Nat) : n.Moves (n.moveWork now kind num) :=
  (Node.Keeps.foldl (fun n _ => n.moves_stateLoss ..) _ n).trans ((Node.Keeps.foldl (fun n _ => n.moves_suspend ..) _ _).trans (Node.moves_rerun ..))

/-! ### Replies that move -/

theorem Node.ends_moveBooking (n : Node) (now p : Nat) (q : Admitted) : n.Ends (n.moveBooking now p q) := by
  unfold Node.moveBooking
  cases n.otherPorts p q.slice with
  | nil => exact .ite (fun _ => .refl ..) fun _ => n.ends_lateNotice ..
  | cons c cs =>
    refine .ite (fun _ => n.ends_setAdmitted ..) fun _ => ?_
    cases n.rebook now (c :: cs) q with
    | some q' => exact n.ends_setAdmitted ..
    | none => exact (n.ends_lateNotice ..).trans (Node.ends_setAdmitted ..)

theorem Node.ends_queuedLate (n : Node) (now c : Nat) (notice : Option Nat) (q : Admitted) : n.Ends (n.queuedLate now c notice q) :=
  .ite (fun _ => .refl ..) fun _ => (n.ends_queueReply ..).trans (Node.ends_setAdmitted ..)

theorem Node.ends_setQueue (n : Node) (p q : Nat) (l : List OutMsg) : n.Ends (n.setQueue p q l) := .of_regs rfl rfl

theorem Node.ends_moveQueued (n : Node) (now p : Nat) (m : OutMsg) (r : Reply) : n.Ends (n.moveQueued now p m r) := by
  unfold Node.moveQueued
  dsimp only
  cases n.otherPorts p m.slice with
  | nil =>
    dsimp only
    cases n.admitted? (reqKey r.session r.requestId) with
    | none => exact .refl ..
    | some q => exact n.ends_queuedLate ..
  | cons c cs =>
    dsimp only
    refine (n.ends_setQueue p 6 (updateMsg m none (n.queue p 6))).trans ?_
    generalize n.setQueue p 6 (updateMsg m none (n.queue p 6)) = k
    cases k.admitted? (reqKey r.session r.requestId) with
    | none => exact k.ends_enqueue ..
    | some q =>
      dsimp only
      cases k.rebook now (c :: cs) q with
      | some q' => exact (k.ends_setAdmitted ..).trans (Node.ends_enqueue ..)
      | none => exact ((k.ends_queuedLate ..).trans (Node.ends_setAdmitted ..)).trans (Node.ends_enqueue ..)

theorem Node.ends_moveStatus (n : Node) (p : Nat) (m : OutMsg) : n.Ends (n.moveStatus p m) := by
  unfold Node.moveStatus
  cases n.otherPorts p m.slice with
  | nil => exact .refl ..
  | cons c cs => exact (n.ends_setQueue ..).trans (Node.ends_enqueue ..)

/-- The replies of a port that leaves service move; entries, ports and all else stay (R465). -/
theorem Node.ends_moveReplies (n : Node) (now p : Nat) : n.Ends (n.moveReplies now p) := by
  unfold Node.moveReplies
  refine Node.Keeps.trans ?_ (.foldl (fun n m => n.ends_moveStatus ..) _ _)
  refine Node.Keeps.trans (.foldl (fun n q => n.ends_moveBooking ..) _ _) (.foldl (fun n m => ?_) _ _)
  cases m.reply with
  | none => exact .refl ..
  | some r => exact n.ends_moveQueued ..

end Sys2Proof.Machine
end

section
/-!
Errors of units and lost nodes (R443 to R448, R459): their frame, and what the units' table holds after them.
-/

namespace Sys2Proof.Machine

/-! ### The frame of errors -/

/-- What errors leave: as for moved work, without recovery, self-test, the event log, the host port and the sequences that move in. -/
def Node.faultCore (n : Node) : Node :=
  let m := n.moveCore
  { m with rcv := {}, test := {}, mgmt := {}, host := {}, comp := { m.comp with moving := [] }, stk := { m.stk with repairs := [] } }

/-- The entries that errors write, but those of regions (Table 20-4). -/
def faultCounters : List Nat :=
  [Reg.lastResult, Reg.slicesRepeated, Reg.eventSeq, Reg.lossEntries, Reg.partnerState, Reg.retired, Reg.nodeState, Reg.stateTick, Reg.stateCause,
   Reg.repairs] ++ moveCounters

/-- An error, as a frame. -/
abbrev Node.Faults (n m : Node) : Prop := n.Keeps Node.faultCore faultCounters m

theorem Node.Keeps.faults {n m : Node} (h : n.Moves m) : n.Faults m := h.mono (fun _ => rfl) (by decide)

theorem Node.faults_event (n : Node) (c : Nat) (d : Bytes) : n.Faults (n.event c d) := by
  obtain ⟨m, h, e⟩ := n.event_eq c d
  refine ⟨by rw [e]; rfl, fun k hk => ?_⟩
  rw [Node.reg_event, if_neg fun he : k = Reg.eventSeq => hk (he ▸ by decide)]

theorem Node.faults_setRcv (n : Node) (r : Recovery) : n.Faults { n with rcv := r } := .of_regs rfl rfl

theorem Node.faults_setReg (n : Node) (k v : Nat) (hk : k ∈ faultCounters) : n.Faults (n.setReg k v) := .setReg rfl hk

theorem Node.faults_bump (n : Node) (k : Nat) (hk : k ∈ faultCounters) : n.Faults (n.bump k) := .bump rfl hk

theorem Node.faults_setTest (n : Node) (t : SelfTest) : n.Faults { n with test := t } := .of_regs rfl rfl

theorem Node.faults_logError (n : Node) (r : ErrRec) : n.Faults (n.logError r) := by
  unfold Node.logError
  exact n.faults_setRcv _

theorem Node.faults_stopSlice (n : Node) (now : Nat) (x : RunSlice) : n.Faults (n.stopSlice now x) := by
  unfold Node.stopSlice
  dsimp only
  generalize leNat (resultRecord _ _ _ _ _ _ _ _ _) = v
  exact ((n.faults_setTest _).trans (Node.faults_setReg _ _ v (by decide))).trans (Node.faults_bump _ _ (by decide))

theorem Node.faults_stopSlices (n : Node) (now : Nat) (f : RunSlice → Bool) : n.Faults (n.stopSlices now f) :=
  .foldl (fun n x => n.faults_stopSlice now x) _ n

theorem Node.faults_unitError (n : Node) (now : Nat) (kind : UnitKind) (num : Nat) (req : Nat × Nat) : n.Faults (n.unitError now kind num req) := by
  unfold Node.unitError
  dsimp only
  have h := (n.faults_logError { tick := now, level := kind.level, kind := kind, unit := num, session := req.1, requestId := req.2 }).trans
    (Node.faults_stopSlices _ now fun x => x.covers kind num)
  split
  · exact h
  · exact h.trans (Node.faults_setRcv ..)

/-! ### Lost nodes -/

theorem Node.faults_enqueue (n : Node) (p q : Nat) (m : OutMsg) : n.Faults (n.enqueue p q m) := (n.ends_enqueue p q m).moves.faults

theorem Node.faults_sessionWide (n : Node) (now node status detail info : Nat) (notice : Option Nat) (l : List (Nat × Nat)) :
    n.Faults (n.sessionWide now node status detail info notice l) := by
  unfold Node.sessionWide
  cases n.noticePortOf with
  | none => exact .refl ..
  | some p => exact .foldl (fun n e => n.faults_enqueue ..) _ _

theorem Node.faults_sequenceReply (n : Node) (now status detail node id session host info : Nat) :
    n.Faults (n.sequenceReply now status detail node id session host info) := by
  unfold Node.sequenceReply
  cases n.noticePortOf with
  | none => exact .refl ..
  | some p => exact .ite (fun _ => .refl ..) fun _ => n.faults_enqueue ..

/-- The node with one loss reported more (R462). -/
def Node.lossNoted (n : Node) (r : LossRec) : Node := { n with rcv := { n.rcv with losses := n.rcv.losses ++ [r] } }

theorem Node.faults_lossReport (n : Node) (now id session node host reason : Nat) : n.Faults (n.lossReport now id session node host reason) := by
  have h : n.Faults ((n.lossNoted { seqId := id, session := session, node := node, host := host, reason := reason, tick := now }).bump Reg.lossEntries) := by
    refine Node.Keeps.trans ?_ (.bump rfl (by decide))
    exact .of_regs rfl rfl
  exact h.trans (Node.faults_sequenceReply ..)

theorem Node.faults_loseIncoming (n : Node) (now id reason : Nat) : n.Faults (n.loseIncoming now id reason) := by
  unfold Node.loseIncoming
  cases Map.find n.rcv.incoming id with
  | none => exact .refl ..
  | some c =>
    dsimp only
    refine Node.Keeps.trans ?_ (Node.faults_lossReport ..)
    exact .of_regs rfl rfl

theorem Node.faults_loseRoster (n : Node) (now reason : Nat) (r : Roster) : n.Faults (n.loseRoster now reason r) := by
  refine .ite (fun _ => n.faults_loseIncoming ..) fun _ => ?_
  refine Node.Keeps.trans ?_ (Node.faults_lossReport ..)
  exact .of_regs rfl rfl

theorem Node.faults_streamLost (n : Node) (now node : Nat) : n.Faults (n.streamLost now node) := by
  unfold Node.streamLost
  refine .foldl (fun n x => .foldl (fun n r => ?_) _ _) _ _
  cases Map.find n.rcv.incoming r.seqId with
  | none => exact n.faults_loseRoster ..
  | some c => exact .ite (fun _ => n.faults_loseRoster ..) fun _ => .refl ..

theorem Node.faults_setPartner (n : Node) (node v : Nat) : n.Faults (n.setPartner node v) := by
  unfold Node.setPartner
  have hset : ∀ (m : Node) (i : Nat), m.Faults (m.setOctet Reg.partnerState i v) := fun m i => m.faults_setReg _ _ (by decide)
  cases n.comp.current with
  | none => exact .refl ..
  | some m =>
    have h : n.Faults (if m.weltA = node then n.setOctet Reg.partnerState 0 v else n) := .ite (fun _ => hset n 0) fun _ => .refl ..
    exact .ite (fun _ => h.trans (hset _ 1)) fun _ => h

theorem Node.faults_nodeLost (n : Node) (now node : Nat) : n.Faults (n.nodeLost now node) := by
  unfold Node.nodeLost
  refine .ite (fun _ => .refl ..) fun _ => ?_
  dsimp only
  have h : n.Faults ((({ n with rcv := { n.rcv with lostNodes := n.rcv.lostNodes ++ [node] } } : Node).setPartner node 2).streamLost now node) := by
    refine Node.Keeps.trans (Node.Keeps.trans ?_ (Node.faults_setPartner ..)) (Node.faults_streamLost ..)
    exact .of_regs rfl rfl
  exact .ite (fun _ => h) fun _ => (h.trans (Node.faults_event ..)).trans (Node.faults_sessionWide ..)

/-! ### Units that fail -/

/-- What a unit's retirement leaves: as for errors, without the entries of regions and ports. -/
structure Node.Retires (n m : Node) : Prop where
  core_eq : m.faultCore = n.faultCore
  reg_eq : ∀ k, k < 0x400000 → k ∉ faultCounters → m.reg k = n.reg k

theorem Node.Keeps.retires {n m : Node} (h : n.Faults m) : n.Retires m := ⟨h.core_eq, fun k _ hk => h.reg_eq k hk⟩

theorem Node.Retires.trans {n m l : Node} (h : n.Retires m) (h' : m.Retires l) : n.Retires l :=
  ⟨h'.core_eq.trans h.core_eq, fun k hk hc => (h'.reg_eq k hk hc).trans (h.reg_eq k hk hc)⟩

theorem Node.retires_setRegion (n : Node) (k v : Nat) (hk : 0x400000 ≤ k) : n.Retires (n.setReg k v) :=
  ⟨rfl, fun j hj _ => by rw [Node.reg_setReg, if_neg (by omega)]⟩

theorem Node.retires_showRetired (n : Node) (kind : UnitKind) (num : Nat) : n.Retires (n.showRetired kind num) := by
  have hcount : ∀ v, n.Retires (n.setReg Reg.retired v) := fun v => (n.faults_setReg _ v (by decide)).retires
  unfold Node.showRetired
  dsimp only
  cases kind with
  | thread => exact hcount _
  | cell => exact (hcount _).trans (Node.retires_setRegion _ _ _ (by simp only [regionKey, Reg.cellsRetired]; omega))
  | block => exact (hcount _).trans (Node.retires_setRegion _ _ _ (by simp only [regionKey, Reg.blocksRetired]; omega))
  | region => exact (hcount _).trans (Node.retires_setRegion _ _ _ (by simp only [regionKey, Reg.regionState]; omega))
  | channel => exact Node.retires_setRegion _ _ _ (by simp only [regionKey, Reg.channelsRetired]; omega)
  | port => exact Node.Keeps.retires (.refl ..)
  | chip => exact Node.Keeps.retires (.refl ..)

theorem Node.faults_setState (n : Node) (now st cause : Nat) : n.Faults (n.setState now st cause) := by
  unfold Node.setState
  dsimp only
  refine .ite (fun _ => .refl ..) fun _ => Node.Keeps.trans ?_ (Node.faults_event ..)
  exact ((n.faults_setReg _ _ (by decide)).trans (Node.faults_setReg _ _ _ (by decide))).trans (Node.faults_setReg _ _ _ (by decide))

theorem Node.faults_enterFault (n : Node) (now cause : Nat) : n.Faults (n.enterFault now cause) :=
  .ite (fun _ => .refl ..) fun _ => ((n.faults_stopSlices ..).trans (Node.faults_event ..)).trans (Node.faults_setState ..)

theorem Node.stopSlices_rcv (n : Node) (now : Nat) (f : RunSlice → Bool) : (n.stopSlices now f).rcv = n.rcv :=
  Node.foldl_keeps (fun m : Node => m.rcv) _ (fun n x => n.stopSlice now x) (fun n x => by simp [Node.stopSlice, Node.bump, Node.bumpBy]) n

theorem Node.setState_rcv (n : Node) (now st cause : Nat) : (n.setState now st cause).rcv = n.rcv := by
  unfold Node.setState
  dsimp only
  split
  · rfl
  · rw [Node.event_rcv]; rfl

theorem Node.enterFault_rcv (n : Node) (now cause : Nat) : (n.enterFault now cause).rcv = n.rcv := by
  unfold Node.enterFault
  split
  · rfl
  · rw [Node.setState_rcv, Node.event_rcv, Node.stopSlices_rcv]

theorem Node.enterFault_st (n : Node) (now cause : Nat) : (n.enterFault now cause).st = stFault := by
  unfold Node.enterFault
  split
  · assumption
  · exact (Node.setState_frame ..).1

theorem Node.Keeps.units {n m : Node} (h : n.Moves m) : m.rcv.units = n.rcv.units := by
  have := congrArg (fun x : Node => x.rcv.units) h.core_eq
  exact this

/-- The unit of a key is retired (R446). -/
def Node.keyRetired (n : Node) (key : Nat) : Prop := ∃ u, Map.find n.rcv.units key = some u ∧ u.retired = true

theorem Node.retired_iff (n : Node) (kind : UnitKind) (num : Nat) : n.retired kind num = true ↔ n.keyRetired (unitKey kind num) := by
  unfold Node.retired Node.unitState? Node.keyRetired
  cases Map.find n.rcv.units (unitKey kind num) with
  | none => simp
  | some u => simp

theorem Node.keyRetired_setRetiredIn (n : Node) (c : Map Nat) (key : Nat) (h : n.keyRetired key) :
    ({ n with rcv := { n.rcv with retiredIn := c } } : Node).keyRetired key := h

theorem Node.keyRetired_congr {n m : Node} (h : m.rcv.units = n.rcv.units) (key : Nat) : m.keyRetired key ↔ n.keyRetired key := by
  unfold Node.keyRetired; rw [h]

/-- The retired unit's entries, its event and the error above it (R446). -/
def Node.retiring (n : Node) (now : Nat) (kind : UnitKind) (num : Nat) : Node :=
  let r : ErrRec := { tick := now, level := kind.level, kind := kind, unit := num }
  let m := { n with rcv := { n.rcv with units := Map.put n.rcv.units (unitKey kind num) { since := now, retired := true } } }
  let k := aboveOf kind num
  (((m.showRetired kind num).event 0x0012 r.unitBytes).logError { tick := now, level := k.1.level, kind := k.1, unit := k.2, outcome := 4 })

/-- The retirement of a unit, its work and then what holds it (R446, R448). -/
theorem Node.retireUnit_succ (now fuel : Nat) (kind : UnitKind) (num : Nat) (n : Node) : Node.retireUnit now (fuel + 1) kind num n =
    if kind = .chip then n.enterFault now 4
    else if n.retired kind num then n
    else match parentOf kind num with
      | none => (n.retiring now kind num).moveWork now kind num
      | some p =>
        let m := (n.retiring now kind num).moveWork now kind num
        let c := Map.get 0 m.rcv.retiredIn (unitKey p.1 p.2) + 1
        let k := { m with rcv := { m.rcv with retiredIn := Map.set 0 m.rcv.retiredIn (unitKey p.1 p.2) c } }
        if k.reg Reg.retireLimit ≤ c then Node.retireUnit now fuel p.1 p.2 k else k := by
  delta Node.retireUnit Node.retireUnit._f Nat.brecOn Nat.brecOn.go
  unfold Node.retiring
  dsimp only
  by_cases hc : kind = .chip
  · rw [if_pos hc, if_pos hc]
  · rw [if_neg hc, if_neg hc]
    by_cases hr : n.retired kind num = true
    · rw [if_pos hr, if_pos hr]
    · rw [if_neg hr, if_neg hr]
      cases parentOf kind num with
      | none => dsimp only
      | some p => dsimp only

theorem Node.showRetired_rcv (n : Node) (kind : UnitKind) (num : Nat) : (n.showRetired kind num).rcv = n.rcv := by
  cases kind <;> simp [Node.showRetired]

/-- An error logged changes the log only. -/
theorem Node.logError_eq (n : Node) (r : ErrRec) : ∃ l, n.logError r = { n with rcv := { n.rcv with log := l } } := ⟨_, rfl⟩

theorem Node.logError_units (n : Node) (r : ErrRec) : (n.logError r).rcv.units = n.rcv.units := by
  obtain ⟨l, e⟩ := n.logError_eq r
  rw [e]

theorem Node.retiring_units (n : Node) (now : Nat) (kind : UnitKind) (num : Nat) : (n.retiring now kind num).rcv.units =
    Map.put n.rcv.units (unitKey kind num) { since := now, retired := true } := by
  unfold Node.retiring
  generalize unitKey kind num = key
  dsimp only
  rw [Node.logError_units, Node.event_rcv, Node.showRetired_rcv]

theorem Node.retires_retiring (n : Node) (now : Nat) (kind : UnitKind) (num : Nat) : n.Retires (n.retiring now kind num) := by
  unfold Node.retiring
  dsimp only
  generalize Map.put n.rcv.units (unitKey kind num) { since := now, retired := true } = units
  refine Node.Retires.trans (n.faults_setRcv { n.rcv with units := units }).retires ?_
  exact (Node.retires_showRetired ..).trans (Node.Keeps.retires ((Node.faults_event ..).trans (Node.faults_logError ..)))

theorem Node.retires_retireUnit (now fuel : Nat) (kind : UnitKind) (num : Nat) (n : Node) : n.Retires (Node.retireUnit now fuel kind num n) := by
  induction fuel generalizing kind num n with
  | zero => exact Node.Keeps.retires (.refl ..)
  | succ fuel ih =>
    rw [Node.retireUnit_succ]
    have hmoved : n.Retires ((n.retiring now kind num).moveWork now kind num) :=
      (n.retires_retiring now kind num).trans (Node.moves_moveWork ..).faults.retires
    split
    · exact (n.faults_enterFault ..).retires
    · split
      · exact Node.Keeps.retires (.refl ..)
      · split
        · exact hmoved
        · next p _ =>
          generalize (n.retiring now kind num).moveWork now kind num = m at hmoved
          dsimp only
          generalize Map.get 0 m.rcv.retiredIn (unitKey p.1 p.2) + 1 = c
          have hk := hmoved.trans (m.faults_setRcv { m.rcv with retiredIn := Map.set 0 m.rcv.retiredIn (unitKey p.1 p.2) c }).retires
          split
          · exact hk.trans (ih ..)
          · exact hk

/-- Retirement takes no unit back into use. -/
theorem Node.keyRetired_retireUnit (now fuel : Nat) (kind : UnitKind) (num : Nat) (n : Node) (key : Nat) (h : n.keyRetired key) :
    (Node.retireUnit now fuel kind num n).keyRetired key := by
  induction fuel generalizing kind num n with
  | zero => exact h
  | succ fuel ih =>
    have hmoved : ((n.retiring now kind num).moveWork now kind num).keyRetired key := by
      rw [Node.keyRetired_congr (Node.moves_moveWork ..).units]
      unfold Node.keyRetired
      rw [Node.retiring_units, Map.find_put]
      split
      · exact ⟨_, rfl, rfl⟩
      · exact h
    rw [Node.retireUnit_succ]
    split
    · exact (Node.keyRetired_congr (by rw [Node.enterFault_rcv]) key).mpr h
    · split
      · exact h
      · split
        · exact hmoved
        · next p _ =>
          generalize (n.retiring now kind num).moveWork now kind num = m at hmoved
          dsimp only
          generalize Map.set 0 m.rcv.retiredIn (unitKey p.1 p.2) _ = c
          have hk := m.keyRetired_setRetiredIn c key hmoved
          split
          · exact ih _ _ _ hk
          · exact hk

/-- A unit to retire is retired; the chip goes to FAULT instead (R446, R448). -/
theorem Node.retireUnit_retired (now fuel : Nat) (kind : UnitKind) (num : Nat) (n : Node) :
    (kind ≠ .chip → (Node.retireUnit now (fuel + 1) kind num n).retired kind num = true) ∧
    (kind = .chip → (Node.retireUnit now (fuel + 1) kind num n).st = stFault) := by
  rw [Node.retireUnit_succ]
  refine ⟨fun hk => ?_, fun hk => by rw [if_pos hk]; exact Node.enterFault_st ..⟩
  rw [if_neg hk]
  split
  · assumption
  · have hmoved : ((n.retiring now kind num).moveWork now kind num).keyRetired (unitKey kind num) := by
      rw [Node.keyRetired_congr (Node.moves_moveWork ..).units]
      unfold Node.keyRetired
      rw [Node.retiring_units, Map.find_put, if_pos rfl]
      exact ⟨_, rfl, rfl⟩
    rw [Node.retired_iff]
    generalize (n.retiring now kind num).moveWork now kind num = m at hmoved
    split
    · exact hmoved
    · next p _ =>
      dsimp only
      generalize Map.set 0 m.rcv.retiredIn (unitKey p.1 p.2) _ = c
      have hk := m.keyRetired_setRetiredIn c _ hmoved
      split
      · exact Node.keyRetired_retireUnit _ _ _ _ _ _ hk
      · exact hk

/-! ### Results of tests -/

theorem Node.faults_unitBack (n : Node) (kind : UnitKind) (num : Nat) : n.Faults (n.unitBack kind num) := n.faults_setRcv _

theorem Node.faults_outcome (n : Node) (kind : UnitKind) (num o addr bit : Nat) : n.Faults (n.outcome kind num o addr bit) := n.faults_setRcv _

theorem Node.unitState?_unitBack (n : Node) (kind : UnitKind) (num : Nat) : (n.unitBack kind num).unitState? kind num = none :=
  (Map.find_erase ..).trans (if_pos rfl)

theorem Node.unitState?_congr {n m : Node} (h : m.rcv.units = n.rcv.units) (kind : UnitKind) (num : Nat) : m.unitState? kind num = n.unitState? kind num := by
  unfold Node.unitState?; rw [h]

/-- The entries that the results of tests write, but those of regions. -/
def testCounters : List Nat := Reg.testResult :: Reg.transients :: Reg.lasting :: faultCounters

theorem Node.keeps_unitPasses (n : Node) (now : Nat) (kind : UnitKind) (num : Nat) : n.Keeps Node.faultCore testCounters (n.unitPasses now kind num) := by
  have hf : ∀ {a b : Node}, a.Faults b → a.Keeps Node.faultCore testCounters b := fun h => h.mono (fun _ => rfl) (by decide)
  have hset : ∀ (a : Node) (k v : Nat), k ∈ testCounters → a.Keeps Node.faultCore testCounters (a.setReg k v) := fun a k v hk => .setReg rfl hk
  unfold Node.unitPasses
  refine .ite (fun _ => (hf (n.faults_unitBack ..)).trans (hset _ _ _ (by decide))) fun _ => ?_
  exact ((hf ((n.faults_unitBack ..).trans (Node.faults_outcome ..))).trans (hset _ _ _ (by decide))).trans (hf (Node.moves_rerun ..).faults)

/-- A unit that passes a test it was given for an error is back in use, and the error was transient (R445). -/
theorem Node.unitPasses_spec (n : Node) (now : Nat) (kind : UnitKind) (num : Nat) (hd : ((n.unitState? kind num).any fun u => u.onDemand) = false) :
    (n.unitPasses now kind num).unitState? kind num = none ∧
    (n.unitPasses now kind num).reg Reg.transients = (n.reg Reg.transients + 1) % 2 ^ 64 := by
  unfold Node.unitPasses
  rw [if_neg (by rw [hd]; decide)]
  have hm := (((n.unitBack kind num).outcome kind num 1 0xFFFFFFFF 0xFFFF).bump Reg.transients).moves_rerun now (unitKey kind num)
  refine ⟨?_, ?_⟩
  · exact (Node.unitState?_congr hm.units kind num).trans (n.unitState?_unitBack kind num)
  · rw [hm.reg_eq _ (by decide), Node.reg_bump _ _ _ rfl]
    rfl

/-- What a failed repair's record leaves (R277, R477): a spare more is used, and everything else but the repairs is as before. -/
theorem Node.repair_some (n : Node) (now : Nat) (r : RepairRow) (h : Map.get 0 n.test.spares r.key < r.spares) : ∃ m, n.repair now r = some m ∧
    n.Faults m ∧ m.rcv = n.rcv ∧ Map.get 0 m.test.spares r.key = Map.get 0 n.test.spares r.key + 1 := by
  have hget : Map.get 0 (Map.set 0 n.test.spares r.key (Map.get 0 n.test.spares r.key + 1)) r.key = Map.get 0 n.test.spares r.key + 1 := by
    rw [Map.get_set, if_pos rfl]
  unfold Node.repair
  dsimp only
  rw [if_neg (Nat.not_le.mpr h)]
  split
  · refine ⟨_, rfl, ?_, rfl, hget⟩
    exact .of_regs rfl rfl
  · refine ⟨_, rfl, ?_, rfl, hget⟩
    exact (n.faults_setTest _).trans ((Node.faults_setTest _ _).trans (Node.faults_setReg _ _ _ (by decide)))

theorem Node.repair_frame (n m : Node) (now : Nat) (r : RepairRow) (h : n.repair now r = some m) : n.Faults m := by
  by_cases hs : Map.get 0 n.test.spares r.key < r.spares
  · obtain ⟨k, hk, hf, -⟩ := n.repair_some now r hs
    rw [hk] at h
    exact Option.some.inj h ▸ hf
  · unfold Node.repair at h
    dsimp only at h
    rw [if_pos (Nat.not_lt.mp hs)] at h
    cases h

/-- A unit that has failed, before repair or retirement (R445, R446). -/
def Node.failing (n : Node) (now : Nat) (kind : UnitKind) (num : Nat) : Node :=
  let m := n.bump Reg.lasting
  if (m.unitState? kind num).any fun u => u.onDemand then
    (m.logError { tick := now, level := kind.level, kind := kind, unit := num }).setReg Reg.testResult 0 else m

theorem Node.unitFails_eq (n : Node) (now : Nat) (kind : UnitKind) (num addr bit : Nat) : n.unitFails now kind num addr bit =
    match (repairRow kind num addr).bind fun r => (n.failing now kind num).repair now r with
    | some m => ((m.unitBack kind num).outcome kind num 2 addr bit).rerun now (unitKey kind num)
    | none => (Node.retireUnit now 5 kind num (((n.failing now kind num).outcome kind num (if kind = .chip then 4 else 3) addr bit).unitBack kind num)).rerun
        now (unitKey kind num) := by
  rfl

theorem Node.failing_spec (n : Node) (now : Nat) (kind : UnitKind) (num : Nat) : (n.failing now kind num).reg Reg.lasting = (n.reg Reg.lasting + 1) % 2 ^ 64 ∧
    (n.failing now kind num).test = n.test ∧ (n.failing now kind num).faultCore = n.faultCore := by
  have hreg : (n.bump Reg.lasting).reg Reg.lasting = (n.reg Reg.lasting + 1) % 2 ^ 64 := Node.reg_bump _ _ _ rfl
  have hcore : (n.bump Reg.lasting).faultCore = n.faultCore := rfl
  unfold Node.failing
  dsimp only
  split
  · obtain ⟨l, e⟩ := (n.bump Reg.lasting).logError_eq { tick := now, level := kind.level, kind := kind, unit := num }
    refine ⟨?_, ?_, ?_⟩
    · rw [Node.reg_setReg, if_neg (by decide), e]; exact hreg
    · rw [Node.setReg_test, e]; rfl
    · rw [e]; rfl
  · exact ⟨hreg, rfl, hcore⟩

/-- What a unit's failed test leaves (R445, R446): the failure counted, and the unit repaired where a spare is left, else retired. -/
theorem Node.unitFails_spec (n : Node) (now : Nat) (kind : UnitKind) (num addr bit : Nat) :
    (n.unitFails now kind num addr bit).reg Reg.lasting = (n.reg Reg.lasting + 1) % 2 ^ 64 ∧
    (n.unitFails now kind num addr bit).faultCore = n.faultCore ∧
    (repairRow kind num addr = none → (kind ≠ .chip → (n.unitFails now kind num addr bit).retired kind num = true) ∧
      (kind = .chip → (n.unitFails now kind num addr bit).st = stFault)) ∧
    (∀ r, repairRow kind num addr = some r → Map.get 0 n.test.spares r.key < r.spares → (n.unitFails now kind num addr bit).unitState? kind num = none ∧
      Map.get 0 (n.unitFails now kind num addr bit).test.spares r.key = Map.get 0 n.test.spares r.key + 1) := by
  obtain ⟨hlast, htest, hcore⟩ := n.failing_spec now kind num
  rw [Node.unitFails_eq]
  cases hb : (repairRow kind num addr).bind fun r => (n.failing now kind num).repair now r with
  | some m =>
    obtain ⟨r, hr, hm⟩ := Option.bind_eq_some_iff.mp hb
    have hf := (n.failing now kind num).repair_frame m now r hm
    have hrun := ((m.unitBack kind num).outcome kind num 2 addr bit).moves_rerun now (unitKey kind num)
    have hall := (hf.trans ((m.faults_unitBack kind num).trans (Node.faults_outcome _ kind num 2 addr bit))).trans hrun.faults
    refine ⟨(hall.reg_eq _ (by decide)).trans hlast, hall.core_eq.trans hcore, fun h0 => absurd (h0 ▸ hr) (by simp), fun r' hr' hs => ?_⟩
    obtain rfl : r = r' := Option.some.inj (hr.symm.trans hr')
    obtain ⟨k, hk, -, -, hsp⟩ := (n.failing now kind num).repair_some now r (by rw [htest]; exact hs)
    obtain rfl : k = m := Option.some.inj (hk.symm.trans hm)
    refine ⟨(Node.unitState?_congr hrun.units kind num).trans (k.unitState?_unitBack kind num), ?_⟩
    have ht : (((k.unitBack kind num).outcome kind num 2 addr bit).rerun now (unitKey kind num)).test = k.test := by
      have := congrArg (fun x : Node => x.test) hrun.core_eq
      exact this
    dsimp only
    rw [ht, hsp, htest]
  | none =>
    generalize hk : ((n.failing now kind num).outcome kind num (if kind = .chip then 4 else 3) addr bit).unitBack kind num = k
    have hfk : (n.failing now kind num).Faults k := hk ▸ (Node.faults_outcome ..).trans (Node.faults_unitBack ..)
    have hret := Node.retires_retireUnit now 5 kind num k
    have hrun := (Node.retireUnit now 5 kind num k).moves_rerun now (unitKey kind num)
    obtain ⟨hr1, hr2⟩ := Node.retireUnit_retired now 4 kind num k
    have hall := (hfk.retires.trans hret).trans hrun.faults.retires
    refine ⟨(hall.reg_eq _ (by decide) (by decide)).trans hlast, hall.core_eq.trans hcore, fun _ => ⟨fun hkind => ?_, fun hkind => ?_⟩, fun r hr hs => ?_⟩
    · exact (Node.retired_iff ..).mpr ((Node.keyRetired_congr hrun.units _).mpr ((Node.retired_iff ..).mp (hr1 hkind)))
    · exact (hrun.reg_eq Reg.nodeState (by decide)).trans (hr2 hkind)
    · obtain ⟨m, hm, -⟩ := (n.failing now kind num).repair_some now r (by rw [htest]; exact hs)
      rw [hr] at hb
      exact absurd (hb.symm.trans hm) (by simp)

end Sys2Proof.Machine
end

section
/-!
States of link ports (R357 to R362): O45.
-/

namespace Sys2Proof.Machine

/-! ### Entries of ports -/

theorem linkKey_ne {p a b : Nat} (h : a ≠ b) : linkKey p a ≠ linkKey p b := by
  simp only [linkKey]; omega

theorem Node.portReg_setPortReg_same (n : Node) (p k v : Nat) : (n.setPortReg p k v).portReg p k = v := by
  rw [Node.portReg, Node.setPortReg, Node.reg_setReg, if_pos rfl]

theorem Node.portReg_setPortReg_ne (n : Node) (p k j v : Nat) (h : j ≠ k) : (n.setPortReg p k v).portReg p j = n.portReg p j := by
  rw [Node.portReg, Node.setPortReg, Node.reg_setReg, if_neg (linkKey_ne h)]; rfl

/-- The entries of a port are none of those below the ports'. -/
theorem linkKey_notMem {ks : List Nat} (h : ∀ k ∈ ks, k < 0x500000) (p : Nat) {k : Nat} (hk : 0x500000 ≤ k) : linkKey p k ∉ ks := by
  intro hm
  have := h _ hm
  simp only [linkKey] at this
  omega

theorem Node.portReg_setReg (n : Node) (p k j v : Nat) (hk : 0x500000 ≤ k) (hj : j < 0x500000) : (n.setReg j v).portReg p k = n.portReg p k := by
  rw [Node.portReg, Node.reg_setReg, if_neg (by simp only [linkKey]; omega)]; rfl

theorem Node.portReg_event (n : Node) (p k c : Nat) (d : Bytes) (hk : 0x500000 ≤ k) : (n.event c d).portReg p k = n.portReg p k := by
  rw [Node.portReg, Node.reg_event, if_neg (by simp only [linkKey, Reg.eventSeq]; omega)]; rfl

@[simp] theorem Node.port_setPort_same (n : Node) (p : Nat) (v : Port) : (n.setPort p v).port p = v := by
  simp [Node.port, Node.setPort, Map.get_set]

theorem Node.Keeps.portReg {core : Node → Node} {ks : List Nat} {n m : Node} (h : n.Keeps core ks m) (hks : ∀ k ∈ ks, k < 0x500000) (p : Nat) {k : Nat}
    (hk : 0x500000 ≤ k) : m.portReg p k = n.portReg p k := h.reg_eq _ (linkKey_notMem hks p hk)

/-- What errors keep of a port: its record and its entries. -/
theorem Node.faultCore_port {n m : Node} (h : m.faultCore = n.faultCore) (p : Nat) : m.port p = n.port p := by
  have := congrArg (fun x : Node => x.links.ports) h
  exact congrArg (fun ps => Map.get {} ps p) this

/-! ### DOWN and training -/

/-- The node with a port just DOWN, before the error's consequences (R359). -/
def Node.fallen (n : Node) (now p reason : Nat) : Node :=
  let m := (n.setPortReg p Reg.portState 4).setPortReg p Reg.downReason reason
  let m := (m.event 0x0020 (leBytes 1 p ++ leBytes 1 reason)).bump Reg.downEvents
  m.setPort p { m.port p with downTick := now, testing := true }

theorem Node.portDown_faults (n : Node) (now p reason : Nat) (h4 : n.portReg p Reg.portState ≠ 4) (h0 : n.portReg p Reg.portState ≠ 0) :
    (n.fallen now p reason).Faults (n.portDown now p reason) := by
  unfold Node.portDown
  rw [if_neg (by simp [h4, h0])]
  dsimp only
  have h : (n.fallen now p reason).Faults (((n.fallen now p reason).unitError now .port p noRequest).moveReplies now p) :=
    (Node.faults_unitError ..).trans (Node.ends_moveReplies ..).moves.faults
  exact .ite (fun _ => h.trans (Node.faults_nodeLost ..)) fun _ => h

theorem Node.fallen_spec (n : Node) (now p reason : Nat) : (n.fallen now p reason).portReg p Reg.portState = 4 ∧
    (n.fallen now p reason).portReg p Reg.downReason = reason ∧ ((n.fallen now p reason).port p).downTick = now ∧
    ((n.fallen now p reason).port p).testing = true ∧ (n.fallen now p reason).reg Reg.downEvents = (n.reg Reg.downEvents + 1) % 2 ^ 64 := by
  unfold Node.fallen
  dsimp only
  have hreg : ∀ (m : Node) (v : Port) (k : Nat), (m.setPort p v).reg k = m.reg k := fun m v k => rfl
  have hport : ∀ (m : Node) (v : Port) (k : Nat), (m.setPort p v).portReg p k = m.portReg p k := fun m v k => rfl
  have hbump : ∀ (m : Node) (k : Nat), 0x500000 ≤ k → (m.bump Reg.downEvents).portReg p k = m.portReg p k := fun m k hk =>
    Node.portReg_setReg _ _ _ _ _ hk (by decide)
  refine ⟨?_, ?_, by simp, by simp, ?_⟩
  · rw [hport, hbump _ _ (by decide), Node.portReg_event _ _ _ _ _ (by decide), Node.portReg_setPortReg_ne _ _ _ _ _ (by decide),
      Node.portReg_setPortReg_same]
  · rw [hport, hbump _ _ (by decide), Node.portReg_event _ _ _ _ _ (by decide), Node.portReg_setPortReg_same]
  · rw [hreg, Node.reg_bump _ _ _ rfl, Node.reg_event, if_neg (by decide), Node.setPortReg, Node.reg_setReg,
      if_neg (by simp only [linkKey, Reg.downEvents, Reg.downReason]; omega), Node.setPortReg, Node.reg_setReg,
      if_neg (by simp only [linkKey, Reg.downEvents, Reg.portState]; omega)]

/-- A port in use that fails is DOWN, with its reason and tick, and is counted (R359, R360). -/
theorem Node.portDown_spec (n : Node) (now p reason : Nat) (h0 : n.portReg p Reg.portState ≠ 0) (h4 : n.portReg p Reg.portState ≠ 4) :
    (n.portDown now p reason).portReg p Reg.portState = 4 ∧ (n.portDown now p reason).portReg p Reg.downReason = reason ∧
    ((n.portDown now p reason).port p).downTick = now ∧ ((n.portDown now p reason).port p).testing = true ∧
    (n.portDown now p reason).reg Reg.downEvents = (n.reg Reg.downEvents + 1) % 2 ^ 64 := by
  have h := n.portDown_faults now p reason h4 h0
  obtain ⟨hst, hwhy, htick, htest, hcount⟩ := n.fallen_spec now p reason
  have hk : ∀ k ∈ faultCounters, k < 0x500000 := by decide
  rw [h.portReg hk p (by decide), h.portReg hk p (by decide), Node.faultCore_port h.core_eq, h.reg_eq _ (by decide)]
  exact ⟨hst, hwhy, htick, htest, hcount⟩

theorem Node.trainPort_spec (n : Node) (now p : Nat) : (n.trainPort now p).portReg p Reg.portState = 1 ∧ ((n.trainPort now p).port p).trainStart = now := by
  unfold Node.trainPort
  exact ⟨Node.portReg_setPortReg_same n p _ 1, by simp⟩

/-! ### The loopback test -/

/-- The node with a port's loopback test ended and its result shown (R359). -/
def Node.looped (n : Node) (now p : Nat) (pass : Bool) : Node :=
  let l := n.port p
  let m := n.setPort p { l with testing := false }
  let demand := (m.unitState? .port p).any fun u => u.onDemand
  m.setReg Reg.lastResult (leNat (resultRecord (if demand then 3 else 2) 0 .port (if pass then 0 else 1) p 0xFFFF 0xFFFFFFFF 0 (now - 1)))

theorem Node.loopback_eq (n : Node) (now p : Nat) (pass : Bool) (h : (n.port p).testing = true) : n.loopback now p pass =
    if pass then
      let m := (n.looped now p pass).unitPasses now .port p
      if m.portReg p Reg.autoRetrain = 1 ∧ m.portReg p Reg.portState = 4 then m.trainPort now p else m
    else (n.looped now p pass).unitFails now .port p 0xFFFFFFFF 0xFFFF := by
  unfold Node.loopback
  dsimp only
  rw [if_neg (by simp [h])]
  rfl

theorem Node.looped_spec (n : Node) (now p : Nat) (pass : Bool) : ((n.looped now p pass).port p).testing = false ∧
    (∀ k, 0x500000 ≤ k → (n.looped now p pass).portReg p k = n.portReg p k) ∧ (n.looped now p pass).reg Reg.lasting = n.reg Reg.lasting := by
  unfold Node.looped
  dsimp only
  generalize leNat _ = v
  refine ⟨?_, fun k hk => ?_, ?_⟩
  · show ((n.setPort p _).port p).testing = false
    simp
  · exact Node.portReg_setReg _ _ _ _ _ hk (by decide)
  · exact (Node.reg_setReg ..).trans (if_neg (by decide))

theorem Node.loopback_pass (n : Node) (now p : Nat) (h : (n.port p).testing = true) : ((n.loopback now p true).port p).testing = false ∧
    (n.portReg p Reg.portState = 4 → n.portReg p Reg.autoRetrain = 1 →
      (n.loopback now p true).portReg p Reg.portState = 1 ∧ ((n.loopback now p true).port p).trainStart = now) ∧
    (n.portReg p Reg.autoRetrain ≠ 1 → (n.loopback now p true).portReg p Reg.portState = n.portReg p Reg.portState) := by
  obtain ⟨htest, hregs, -⟩ := n.looped_spec now p true
  have hp := (n.looped now p true).keeps_unitPasses now .port p
  rw [Node.loopback_eq _ _ _ _ h, if_pos rfl]
  dsimp only
  generalize (n.looped now p true).unitPasses now .port p = m at hp
  have hk : ∀ k ∈ testCounters, k < 0x500000 := by decide
  have hm : ∀ k, 0x500000 ≤ k → m.portReg p k = n.portReg p k := fun k h5 => (hp.portReg hk p h5).trans (hregs k h5)
  have hmt : (m.port p).testing = false := by rw [Node.faultCore_port hp.core_eq]; exact htest
  rw [hm _ (by decide), hm _ (by decide)]
  split
  · next hc => exact ⟨by simp [Node.trainPort], fun _ _ => m.trainPort_spec now p, fun h1 => absurd hc.1 h1⟩
  · next hc => exact ⟨hmt, fun h4 h1 => absurd ⟨h1, h4⟩ hc, fun _ => hm _ (by decide)⟩

theorem Node.loopback_fail (n : Node) (now p : Nat) (h : (n.port p).testing = true) : ((n.loopback now p false).port p).testing = false ∧
    (n.loopback now p false).retired .port p = true ∧ (n.loopback now p false).reg Reg.lasting = (n.reg Reg.lasting + 1) % 2 ^ 64 := by
  obtain ⟨htest, -, hlast⟩ := n.looped_spec now p false
  obtain ⟨hcount, hcore, hret, -⟩ := (n.looped now p false).unitFails_spec now .port p 0xFFFFFFFF 0xFFFF
  rw [Node.loopback_eq _ _ _ _ h, if_neg (by simp)]
  exact ⟨by rw [Node.faultCore_port hcore]; exact htest, (hret rfl).1 (by decide), by rw [hcount, hlast]⟩

/-! ### Frames that a port holds -/

/-- One queue of a port discarded (R362). -/
def Node.discardQueue (n : Node) (p q : Nat) : Node :=
  let m := (n.setPortReg p Reg.heldDiscards ((n.portReg p Reg.heldDiscards + (n.queue p q).length) % 2 ^ 64)).setQueue p q []
  m.foldl (n.queue p q) fun n m => match m.reply with
    | some r => if r.final then n.answered r.session r.requestId else n
    | none => n

theorem Node.discardHeld_eq (n : Node) (p : Nat) : n.discardHeld p = (List.range 8).foldl (fun m q => m.discardQueue p q) n := rfl

theorem Node.discardQueue_spec (n : Node) (p q : Nat) : (n.discardQueue p q).portReg p Reg.heldDiscards =
      (n.portReg p Reg.heldDiscards + (n.queue p q).length) % 2 ^ 64 ∧
    ∀ j, (n.discardQueue p q).queue p j = if j = q then [] else n.queue p j := by
  unfold Node.discardQueue
  dsimp only
  generalize hm : (n.setPortReg p Reg.heldDiscards ((n.portReg p Reg.heldDiscards + (n.queue p q).length) % 2 ^ 64)).setQueue p q [] = m
  have hfold : m.Keeps (fun n => { n with adm := {} }) [] (m.foldl (n.queue p q) fun n m => match m.reply with
      | some r => if r.final then n.answered r.session r.requestId else n
      | none => n) := by
    refine .foldl (fun n x => ?_) _ _
    cases x.reply with
    | none => exact .refl ..
    | some r => exact .ite (fun _ => .of_regs rfl rfl) fun _ => .refl ..
  have hr := hfold.reg_eq (linkKey p Reg.heldDiscards) (List.not_mem_nil)
  have hl := congrArg (fun n : Node => n.links) hfold.core_eq
  refine ⟨?_, fun j => ?_⟩
  · refine hr.trans ?_
    rw [← hm]
    exact Node.portReg_setPortReg_same ..
  · refine (congrArg (fun l : Links => Map.get [] l.queues (p * 8 + j)) hl).trans ?_
    rw [← hm]
    show Map.get [] (Map.set [] n.links.queues (p * 8 + q) []) (p * 8 + j) = _
    rw [Map.get_set]
    simp only [Nat.add_left_cancel_iff]
    rfl

theorem Node.discardQueues_spec (n : Node) (p k : Nat) : let m := (List.range k).foldl (fun m q => m.discardQueue p q) n
    (∀ q, m.queue p q = if q < k then [] else n.queue p q) ∧
    m.portReg p Reg.heldDiscards =
      if k = 0 then n.portReg p Reg.heldDiscards
      else (n.portReg p Reg.heldDiscards + ((List.range k).map fun q => (n.queue p q).length).sum) % 2 ^ 64 := by
  induction k with
  | zero => exact ⟨fun q => rfl, rfl⟩
  | succ k ih =>
    obtain ⟨hq, hc⟩ := ih
    dsimp only
    rw [List.range_succ, List.foldl_append]
    obtain ⟨hc', hq'⟩ := ((List.range k).foldl (fun m q => m.discardQueue p q) n).discardQueue_spec p k
    refine ⟨fun q => ?_, ?_⟩
    · refine (hq' q).trans ?_
      rw [hq]
      split_ifs <;> first | rfl | omega
    · refine hc'.trans ?_
      rw [hc, hq, if_neg (Nat.lt_irrefl k), if_neg (Nat.succ_ne_zero k)]
      simp only [List.map_append, List.map_cons, List.map_nil, List.sum_append, List.sum_cons, List.sum_nil]
      split
      · next h => subst h; simp
      · rw [Nat.mod_add_mod, Nat.add_zero, Nat.add_assoc]

theorem Node.discardHeld_spec (n : Node) (p : Nat) : (∀ q, q < 8 → (n.discardHeld p).queue p q = []) ∧
    (n.discardHeld p).portReg p Reg.heldDiscards =
      (n.portReg p Reg.heldDiscards + ((List.range 8).map fun q => (n.queue p q).length).sum) % 2 ^ 64 := by
  obtain ⟨hq, hc⟩ := n.discardQueues_spec p 8
  exact ⟨fun q h => (hq q).trans (if_pos h), hc.trans (if_neg (by decide))⟩

/-! ### HELLO -/

theorem Node.transmit_spec (n : Node) (p : Nat) (frame : Bytes) : (n.transmit p frame).portReg p Reg.framesTx = (n.portReg p Reg.framesTx + 1) % 2 ^ 64 ∧
    ((n.transmit p frame).port p).txFrame = frame := by
  unfold Node.transmit
  dsimp only
  split <;> exact ⟨Node.portReg_setPortReg_same n p _ _, by simp⟩

theorem camrisHeader_length (ftype vc flags src dst msgId off len keyId nonce pathSeq : Nat) :
    (camrisHeader ftype vc flags src dst msgId off len keyId nonce pathSeq).length = 32 := by
  simp [camrisHeader, leBytes_length]

/-- The frame's type is the second byte of the header (R341). -/
theorem camrisHeader_ftype (ftype vc flags src dst msgId off len keyId nonce pathSeq : Nat) (rest : Bytes) (h : ftype < 256) :
    fieldB (camrisHeader ftype vc flags src dst msgId off len keyId nonce pathSeq ++ rest) 1 1 = ftype := by
  simp [fieldB, camrisHeader, leBytes, leNat]
  omega

/-- A HELLO frame sent (R357). -/
def Node.helloSent (n : Node) (now p : Nat) : Node :=
  let id := n.links.msgNext
  let m := { n with links := { n.links with msgNext := (id + 1) % 2 ^ 32 } }
  m.transmit p (camrisHeader 8 7 6 m.straps 0xFFFF id 0 64 0 0 0 ++ m.helloPayload now p)

theorem Node.helloSent_spec (n : Node) (now p : Nat) : (n.helloSent now p).portReg p Reg.framesTx = (n.portReg p Reg.framesTx + 1) % 2 ^ 64 ∧
    fieldB ((n.helloSent now p).port p).txFrame 1 1 = 8 ∧ ((n.helloSent now p).port p).txFrame.drop 32 = n.helloPayload now p := by
  unfold Node.helloSent
  dsimp only
  generalize (n.links.msgNext + 1) % 2 ^ 32 = id
  generalize hm : ({ n with links := { n.links with msgNext := id } } : Node) = m
  obtain ⟨htx, hframe⟩ := m.transmit_spec p (camrisHeader 8 7 6 n.straps 0xFFFF n.links.msgNext 0 64 0 0 0 ++ m.helloPayload now p)
  rw [htx, hframe]
  refine ⟨by rw [← hm]; rfl, camrisHeader_ftype 8 _ _ _ _ _ _ _ _ _ _ _ (by decide), ?_⟩
  rw [List.drop_append_of_le_length (by rw [camrisHeader_length]), List.drop_of_length_le (by rw [camrisHeader_length]), ← hm]
  rfl

theorem Node.helloReceive_spec (n : Node) (now p : Nat) (v : Bytes) (h1 : n.portReg p Reg.portState = 1)
    (hp : n.portReg p Reg.peerExpect = 0xFFFF ∨ n.portReg p Reg.peerExpect = fieldB v 0 2) (hlo : fieldB v 8 8 ≤ now) (hhi : now ≤ fieldB v 8 8 + 2) :
    (n.helloReceive now p v).portReg p Reg.portState = 2 ∧ (n.helloReceive now p v).portReg p Reg.peer = fieldB v 0 2 ∧
    (n.helloReceive now p v).portReg p Reg.peerPort = fieldB v 2 1 := by
  unfold Node.helloReceive
  dsimp only
  rw [if_neg fun h => h h1, if_neg fun h => hp.elim h.1 h.2, if_neg (by omega)]
  have hport : ∀ (m : Node) (v : Port) (k : Nat), (m.setPort p v).portReg p k = m.portReg p k := fun m v k => rfl
  simp only [hport]
  refine ⟨?_, ?_, ?_⟩
  · rw [Node.portReg_setPortReg_ne _ _ _ _ _ (by decide), Node.portReg_setPortReg_ne _ _ _ _ _ (by decide), Node.portReg_setPortReg_ne _ _ _ _ _ (by decide),
      Node.portReg_setPortReg_same]
  · rw [Node.portReg_setPortReg_ne _ _ _ _ _ (by decide), Node.portReg_setPortReg_ne _ _ _ _ _ (by decide), Node.portReg_setPortReg_same]
  · rw [Node.portReg_setPortReg_ne _ _ _ _ _ (by decide), Node.portReg_setPortReg_same]

/-! ### Credits and retraining -/

/-- The node with a channel's stall reported (Table 13-8). -/
def Node.stallNoted (n : Node) (p vc : Nat) : Node :=
  (n.setPort p { n.port p with stalledSince := Map.erase (n.port p).stalledSince vc }).event 0x0021 (leBytes 1 p ++ leBytes 1 vc)

theorem Node.stallNoted_spec (n : Node) (p vc : Nat) : Map.find ((n.stallNoted p vc).port p).stalledSince vc = none := by
  unfold Node.stallNoted
  generalize hv : ({ n.port p with stalledSince := Map.erase (n.port p).stalledSince vc } : Port) = v
  have hp : ((n.setPort p v).event 0x0021 (leBytes 1 p ++ leBytes 1 vc)).port p = (n.setPort p v).port p := by
    rw [Node.port, Node.event_links]; rfl
  rw [hp, Node.port_setPort_same, ← hv]
  exact (Map.find_erase ..).trans (if_pos rfl)

theorem Node.retrain_spec (n : Node) (now p : Nat) (v : BitVec 8) :
    (v = 1 → n.portReg p Reg.portState = 4 → n.retired .port p = false → n.portReg p Reg.portMode ≠ 0 →
      (n.retrain now p v.toNat).portReg p Reg.portState = 1 ∧ ((n.retrain now p v.toNat).port p).trainStart = now) ∧
    (v ≠ 1 ∨ n.portReg p Reg.portState ≠ 4 → (n.retrain now p v.toNat).portReg p Reg.portState = n.portReg p Reg.portState) := by
  unfold Node.retrain
  refine ⟨fun hv h4 hr hm => ?_, fun h => ?_⟩
  · rw [if_pos ⟨by rw [hv]; rfl, h4, by rw [hr]; rfl, hm⟩]
    exact n.trainPort_spec now p
  · rw [if_neg]
    rintro ⟨hv, h4, -⟩
    exact h.elim (fun h => h (BitVec.eq_of_toNat_eq hv)) (fun h => h h4)

/-! ### The obligation -/

/-- Settles O45, by what each event of a port's state does to its record and its entries (R356 to R362). -/
theorem portStates : Obligations.PortStates := by
  unfold Obligations.PortStates
  intro p s n0 now l st falls
  have hstay : s.on s.node = .next s := State.on_eq s s.node
  have hfalls : ∀ (c : Instr) (reason : Nat), exec c s = s.on (n0.portDown now p.val reason) → falls c reason := fun c reason hc h0 h4 =>
    ⟨_, hc.trans (State.on_eq ..), n0.portDown_spec now p.val reason h0 h4⟩
  have hsilent : exec (.peerSilent p) s = s.on (if l.lastRx + 8 ≤ now then n0.portDown now p.val 8 else n0) := rfl
  have htrain : exec (.trainTimeout p) s = s.on (if st = 1 ∧ l.trainStart + n0.trainBound p.val ≤ now then n0.portDown now p.val 5 else n0) := rfl
  have hreplay : ∀ t q, l.replayStart = some (t, q) →
      exec (.replayAckTimeout p) s = s.on (if t + 1 ≤ now then n0.portDown now p.val 3 else n0) := by
    intro t q hq
    show execReplayAckTimeout p s = _
    unfold execReplayAckTimeout
    dsimp only
    rw [hq]
  have hstall : ∀ (vc : Fin 8) t, Map.find l.stalledSince vc.val = some t → exec (.creditStall p vc) s =
      s.on (if t + 10000 ≤ now then (n0.stallNoted p.val vc.val).setPortReg p.val Reg.creditStalls ((n0.portReg p.val Reg.creditStalls + 1) % 2 ^ 64)
        else n0) := by
    intro vc t ht
    show execCreditStall p vc s = _
    unfold execCreditStall
    dsimp only
    rw [ht]
    rfl
  have hexpiry : exec (.downHoldExpiry p) s = s.on (if st ≠ 0 ∧ st ≠ 3 ∧ l.downTick + n0.reg Reg.downHold ≤ now then n0.discardHeld p.val else n0) := rfl
  refine ⟨hfalls _ _ rfl, fun h => hfalls _ _ ?_, fun h => ?_, fun h1 h => hfalls _ _ ?_, fun h1 => ?_, fun t q hq => ⟨fun h => hfalls _ _ ?_, fun h => ?_⟩,
    fun hq => ?_, fun vc t ht => ⟨fun h => ?_, fun h => ?_⟩, fun hl => ⟨?_, ?_⟩, fun via v => ?_, fun h0 h3 h => ?_, fun h1 => ?_, fun v h1 => ?_⟩
  · rw [hsilent, if_pos h]
  · rw [hsilent, if_neg (Nat.not_le.mpr h)]; exact hstay
  · rw [htrain, if_pos ⟨h1, h⟩]
  · rw [htrain, if_neg fun h => h1 h.1]; exact hstay
  · rw [hreplay t q hq, if_pos h]
  · rw [hreplay t q hq, if_neg (by omega)]; exact hstay
  · show execReplayAckTimeout p s = _
    unfold execReplayAckTimeout; dsimp only; rw [hq]; exact hstay
  · refine ⟨_, by rw [hstall vc t ht, if_pos h]; exact State.on_eq .., Node.portReg_setPortReg_same .., ?_⟩
    exact n0.stallNoted_spec p.val vc.val
  · rw [hstall vc t ht, if_neg (Nat.not_le.mpr h)]; exact hstay
  · exact ⟨_, State.on_eq s _, n0.loopback_pass now p.val hl⟩
  · exact ⟨_, State.on_eq s _, n0.loopback_fail now p.val hl⟩
  · refine State.accepts_of s (.retrain via p v) via (0x5000 + p.val * 0x40) 6 [v] (fun n => n.retrain now p.val v.toNat) _ rfl ?_
    obtain ⟨a, j, haw⟩ := n0.noteAwl_sec via
    rw [haw]
    exact Node.retrain_spec { n0 with sec := { n0.sec with awlUsed := a, jtagUsed := j } } now p.val v
  · exact ⟨_, by rw [hexpiry, if_pos ⟨h0, h3, h⟩]; exact State.on_eq .., n0.discardHeld_spec p.val⟩
  · have hsend : exec (.helloSend p) s = s.on (n0.helloSent now p.val) := by
      show execHelloSend p s = _
      unfold execHelloSend
      dsimp only
      rw [if_neg fun h => h h1]
      rfl
    exact ⟨_, hsend.trans (State.on_eq ..), n0.helloSent_spec now p.val⟩
  · have hrecv : exec (.helloReceive p v) s = s.on (n0.helloReceive now p.val v) := rfl
    refine ⟨fun hp hlo hhi => ⟨_, hrecv.trans (State.on_eq ..), n0.helloReceive_spec now p.val v h1 hp hlo hhi⟩, fun hx hne => hfalls _ _ ?_⟩
    rw [hrecv, Node.helloReceive, if_neg fun h => h h1]
    dsimp only
    rw [if_pos ⟨hx, hne⟩]

end Sys2Proof.Machine
end

section
/-!
Line errors and what they do to what owns the line (R103, R234, R260, R305): their frame.
-/

namespace Sys2Proof.Machine

/-! ### The frame of line errors -/

/-- What the loss of a line leaves: as for moved work, without recovery, the indexes and the stacks. -/
def Node.harmCore (n : Node) : Node :=
  let m := n.moveCore
  { m with rcv := {}, indexes := [], stk := {} }

/-- The entries that the loss of a line writes. -/
def harmCounters : List Nat := [Reg.misdirected, Reg.ueCount, Reg.lastError, Reg.weightHolds, Reg.weightLosses] ++ moveCounters

/-- The loss of a line, as a frame. -/
abbrev Node.Harms (n m : Node) : Prop := n.Keeps Node.harmCore harmCounters m

theorem Node.Keeps.harms {n m : Node} (h : n.Moves m) : n.Harms m := h.mono (fun _ => rfl) (by decide)

theorem Node.Undoes.harms {n m : Node} (h : n.Undoes m) : n.Harms m := Node.Keeps.harms h.ends.moves

theorem Node.ends_sendNode (n : Node) (now ftype queue node slice : Nat) (bytes : Bytes) : n.Ends (n.sendNode now ftype queue node slice bytes) := by
  unfold Node.sendNode
  cases n.route node with
  | none => exact .refl ..
  | some p => exact n.ends_enqueue ..

theorem Node.harms_dropRewrites (n : Node) (p : Nat) : n.Harms (n.dropRewrites p) := by
  unfold Node.dropRewrites
  refine .ite (fun _ => .refl ..) fun _ => ?_
  dsimp only
  refine Node.Keeps.trans ?_ (.foldl (fun n q => (n.undoes_dropPage q).harms) _ _)
  have h : n.Harms (if (n.page p).copies = 0 then n else n.setPage p { n.page p with copies := 0, pin := (n.page p).pin - 1 }) :=
    .ite (fun _ => .refl ..) fun _ => (n.undoes_setPage ..).harms
  generalize (if (n.page p).copies = 0 then n else n.setPage p { n.page p with copies := 0, pin := (n.page p).pin - 1 }) = m at h ⊢
  refine h.trans ?_
  exact .of_regs rfl rfl

theorem Node.harms_poisonPage (n : Node) (p : Nat) : n.Harms (n.poisonPage p) := by
  unfold Node.poisonPage
  refine .ite (fun _ => .refl ..) fun _ => ?_
  dsimp only
  have hu : n.Undoes ((n.removePageNode p).stopPacker p) := (n.undoes_removePageNode p).trans (Node.undoes_stopPacker ..)
  have h : n.Harms (((n.removePageNode p).stopPacker p).dropRewrites p) := hu.harms.trans (Node.harms_dropRewrites ..)
  generalize ((n.removePageNode p).stopPacker p).dropRewrites p = m at h ⊢
  refine h.trans ?_
  generalize (decide ((m.page p).state = PState.prefetching)) = pre
  generalize hk : (if pre = true then (match (m.page p).t1 with | some g => m.dropSlot g | none => m) else m) = k
  have hslot : m.Harms k := by
    rw [← hk]
    refine .ite (fun _ => ?_) fun _ => .refl ..
    cases (m.page p).t1 with
    | none => exact .refl ..
    | some g => exact (m.undoes_dropSlot g).harms
  refine hslot.trans ?_
  exact .of_regs rfl rfl

theorem Node.harms_pageFault (n : Node) (now p : Nat) (spare : Nat → Bool) : n.Harms (n.pageFault now p spare) := by
  unfold Node.pageFault
  refine .ite (fun _ => .refl ..) fun _ => ?_
  dsimp only
  generalize hm : Node.poisonPage (Node.endAll ..) p = m
  have h : n.Harms m := hm ▸ (Node.Keeps.harms (n.ends_endAll ..).moves).trans (Node.harms_poisonPage ..)
  generalize m.reg Reg.pageRestoreTicks = r
  refine h.trans ?_
  have hr : m.Harms { m with rcv := { m.rcv with restores := m.rcv.restores ++ [(p, now + r)] } } := .of_regs rfl rfl
  split
  · exact hr.trans (Node.Keeps.harms (Node.ends_sendNode ..).moves)
  · exact hr

theorem Node.harms_setWeight (n : Node) (d : Nat) (w : Weight) : n.Harms (n.setWeight d w) := .of_regs rfl rfl

theorem Node.harms_weightLost (n : Node) (now d : Nat) : n.Harms (n.weightLost now d) := by
  unfold Node.weightLost
  refine Node.Keeps.trans ?_ (Node.ends_endAll ..).moves.harms
  exact (n.harms_setWeight ..).trans (.bump rfl (by decide))

theorem Node.harms_askTile (n : Node) (now d tile i : Nat) : n.Harms (n.askTile now d tile i) := by
  unfold Node.askTile
  dsimp only
  cases ((n.weight d).sources n.straps)[i]? with
  | none => exact n.harms_weightLost ..
  | some e => exact (n.harms_setWeight ..).trans (Node.ends_sendNode ..).moves.harms

theorem Node.harms_weightFault (n : Node) (now d tile : Nat) : n.Harms (n.weightFault now d tile) := by
  unfold Node.weightFault
  refine .ite (fun _ => .refl ..) fun _ => ?_
  dsimp only
  refine Node.Keeps.trans ?_ (Node.harms_askTile ..)
  refine Node.Keeps.trans ?_ (.foldl (fun n k => (n.moves_suspend ..).harms) _ _)
  have h := n.harms_setWeight d
    { n.weight d with state := 3, holdTick := if (n.weight d).state == 2 then now else (n.weight d).holdTick, poisoned := (n.weight d).poisoned ++ [(tile, 0, now)] }
  exact .ite (fun _ => h.trans (.bump rfl (by decide))) fun _ => h

theorem Node.harms_gradFault (n : Node) (now g : Nat) : n.Harms (n.gradFault now g) := by
  unfold Node.gradFault
  cases Map.find n.grads g with
  | none => exact .refl ..
  | some r =>
    refine Node.Keeps.trans ?_ (Node.ends_endAll ..).moves.harms
    exact .of_regs rfl rfl

theorem Node.harms_dropReplica (n : Node) (now source page : Nat) : n.Harms (n.dropReplica now source page) := by
  unfold Node.dropReplica
  cases n.rcv.replicas.find? fun r => r.source == source && r.page == page with
  | none => exact .refl ..
  | some r =>
    refine Node.Keeps.trans ?_ (Node.ends_sendNode ..).moves.harms
    refine (n.undoes_dropSlot r.slot).harms.trans ?_
    exact .of_regs rfl rfl

theorem Node.harms_ownerFault (n : Node) (now k : Nat) : n.Harms (n.ownerFault now k) := by
  unfold Node.ownerFault
  cases n.slotOwner (k / 256) with
  | page p => exact n.harms_pageFault ..
  | weight d t => exact n.harms_weightFault ..
  | grad g => exact n.harms_gradFault ..
  | index i => exact .of_regs rfl rfl
  | replica s p => exact n.harms_dropReplica ..
  | nothing => exact .refl ..

theorem Node.harms_setLastError (n : Node) (now k kind : Nat) : n.Harms (n.setLastError now k kind) := by
  unfold Node.setLastError
  dsimp only
  generalize leNat _ = v
  exact .setReg rfl (by decide)

/-- The node with a line's loss counted and the line poisoned (R260, R261). -/
def Node.lineLost (n : Node) (now k kind : Nat) : Node :=
  let n := (n.bump (if kind = 3 then Reg.misdirected else Reg.ueCount)).setLastError now k kind
  let st := k / 2 ^ 30
  let n := { n with stk := { n.stk with ue := Map.set 0 n.stk.ue st (Map.get 0 n.stk.ue st + 1) } }
  n.poisonLine k

theorem Node.harms_lineLost (n : Node) (now k kind : Nat) : n.Harms (n.lineLost now k kind) := by
  unfold Node.lineLost
  dsimp only
  refine Node.Keeps.trans ?_ (Node.moves_poisonLine ..).harms
  have hk : (if kind = 3 then Reg.misdirected else Reg.ueCount) ∈ harmCounters := by split <;> decide
  generalize (if kind = 3 then Reg.misdirected else Reg.ueCount) = c at hk ⊢
  have hc : n.Harms (n.bump c) := .bump rfl hk
  have h := hc.trans (Node.harms_setLastError (n.bump c) now k kind)
  generalize (n.bump c).setLastError now k kind = m at h ⊢
  generalize k / 2 ^ 30 = st
  refine h.trans ?_
  exact .of_regs rfl rfl

theorem Node.lineUncorrectable_eq (n : Node) (now k kind : Nat) (req : Nat × Nat) :
    n.lineUncorrectable now k kind req = ((n.lineLost now k kind).unitError now .channel (lineChannel k) req).ownerFault now k := rfl

/-! ### What an error of a unit does to the tests -/

theorem Node.stopSlice_running (n : Node) (now : Nat) (y : RunSlice) : (n.stopSlice now y).test.running = n.test.running.filter (· != y) := by
  unfold Node.stopSlice
  dsimp only
  generalize leNat _ = v
  rfl

theorem Node.stopSlices_running (n : Node) (now : Nat) (f : RunSlice → Bool) (x : RunSlice) :
    x ∈ (n.stopSlices now f).test.running ↔ x ∈ n.test.running ∧ f x = false := by
  have hfold : ∀ (l : List RunSlice) (m : Node), x ∈ (m.foldl l fun n y => n.stopSlice now y).test.running ↔ x ∈ m.test.running ∧ x ∉ l := by
    intro l
    induction l with
    | nil => exact fun m => by simp [Node.foldl]
    | cons y t ih =>
      intro m
      rw [Node.foldl, List.foldl_cons, ← Node.foldl, ih]
      have hstep : x ∈ (m.stopSlice now y).test.running ↔ x ∈ m.test.running ∧ x ≠ y := by
        rw [Node.stopSlice_running]
        simp
      rw [hstep, List.mem_cons, not_or, and_assoc]
  unfold Node.stopSlices
  rw [hfold]
  simp only [List.mem_filter, not_and, Bool.not_eq_true]
  exact ⟨fun h => ⟨h.1, h.2 h.1⟩, fun h => ⟨h.1, fun _ => h.2⟩⟩

theorem Node.unitError_test (n : Node) (now : Nat) (kind : UnitKind) (num : Nat) (req : Nat × Nat) (x : RunSlice)
    (h : x ∈ (n.unitError now kind num req).test.running) : x ∈ n.test.running := by
  unfold Node.unitError at h
  dsimp only at h
  generalize hm : n.logError { tick := now, level := kind.level, kind := kind, unit := num, session := req.1, requestId := req.2 } = m at h
  have ht : m.test = n.test := by
    rw [← hm]
    unfold Node.logError
    rfl
  have hx : x ∈ (m.stopSlices now fun x => x.covers kind num).test.running := by
    split at h
    · exact h
    · exact h
  rw [← ht]
  exact ((Node.stopSlices_running ..).mp hx).1

/-- The record that an error adds to the log (R447). -/
def errorOf (now : Nat) (kind : UnitKind) (num : Nat) (req : Nat × Nat) : ErrRec :=
  { tick := now, level := kind.level, kind := kind, unit := num, session := req.1, requestId := req.2 }

theorem Node.logError_last (n : Node) (r : ErrRec) : (n.logError r).rcv.log.getLast? = some r := by
  unfold Node.logError
  dsimp only
  have hk : (n.rcv.log ++ [r]).length - 4096 ≤ n.rcv.log.length := by rw [List.length_append, List.length_singleton]; omega
  generalize (n.rcv.log ++ [r]).length - 4096 = k at hk
  rw [List.drop_append_of_le_length hk, List.getLast?_append, List.getLast?_singleton]
  rfl

/-- An error is logged last, and its unit is out of use (R443, R447). -/
theorem Node.unitError_spec (n : Node) (now : Nat) (kind : UnitKind) (num : Nat) (req : Nat × Nat) :
    (n.unitError now kind num req).rcv.log.getLast? = some (errorOf now kind num req) ∧
    ((n.unitError now kind num req).unitState? kind num).isSome = true := by
  have hlog := n.logError_last (errorOf now kind num req)
  unfold Node.unitError
  dsimp only
  rw [← errorOf]
  generalize n.logError (errorOf now kind num req) = m at hlog
  have hrcv := m.stopSlices_rcv now fun x => x.covers kind num
  generalize (m.stopSlices now fun x => x.covers kind num) = k at hrcv
  cases hu : k.unitState? kind num with
  | some u => exact ⟨by dsimp only; rw [hrcv]; exact hlog, by dsimp only; rw [hu]; rfl⟩
  | none =>
    refine ⟨by dsimp only; rw [hrcv]; exact hlog, ?_⟩
    show (Map.find (Map.put k.rcv.units (unitKey kind num) { since := now }) (unitKey kind num)).isSome = true
    rw [Map.find_put, if_pos rfl]
    rfl

theorem Node.Keeps.log {n m : Node} (h : n.Moves m) : m.rcv.log = n.rcv.log := by
  have := congrArg (fun x : Node => x.rcv.log) h.core_eq
  exact this

theorem Node.Keeps.test_eq {n m : Node} (h : n.Moves m) : m.test = n.test := by
  have := congrArg (fun x : Node => x.test) h.core_eq
  exact this

theorem Node.unitFault_eq (n : Node) (now : Nat) (kind : UnitKind) (num : Nat) (h : n.retired kind num = false) : ∃ req, 
    (n.unitError now kind num req).Moves (n.unitFault now kind num) := by
  unfold Node.unitFault
  rw [if_neg (by rw [h]; simp)]
  exact ⟨_, .foldl (fun n k => n.moves_stateLoss ..) _ _⟩

/-- A fault of a unit not retired is logged, and the unit is out of use (R443). -/
theorem Node.unitFault_spec (n : Node) (now : Nat) (kind : UnitKind) (num : Nat) (h : n.retired kind num = false) : ∃ req,
    (n.unitFault now kind num).rcv.log.getLast? = some (errorOf now kind num req) ∧ ((n.unitFault now kind num).unitState? kind num).isSome = true := by
  obtain ⟨req, hm⟩ := n.unitFault_eq now kind num h
  obtain ⟨hlog, hst⟩ := n.unitError_spec now kind num req
  exact ⟨req, by rw [hm.log]; exact hlog, by rw [Node.unitState?_congr hm.units]; exact hst⟩

theorem Node.unitFault_test (n : Node) (now : Nat) (kind : UnitKind) (num : Nat) (x : RunSlice) (h : x ∈ (n.unitFault now kind num).test.running) :
    x ∈ n.test.running := by
  by_cases hr : n.retired kind num = true
  · unfold Node.unitFault at h
    rwa [if_pos hr] at h
  · obtain ⟨req, hm⟩ := n.unitFault_eq now kind num (Bool.eq_false_iff.mpr hr)
    rw [hm.test_eq] at h
    exact n.unitError_test now kind num req x h

theorem Node.faults_unitFault (n : Node) (now : Nat) (kind : UnitKind) (num : Nat) : n.Faults (n.unitFault now kind num) := by
  by_cases hr : n.retired kind num = true
  · unfold Node.unitFault
    rw [if_pos hr]
    exact .refl ..
  · obtain ⟨req, hm⟩ := n.unitFault_eq now kind num (Bool.eq_false_iff.mpr hr)
    exact (n.faults_unitError ..).trans hm.faults

end Sys2Proof.Machine
end

section
/-!
Notices and finals on a port's queue, the loss of weights and of state, phase 2 and the ends of items (R80, R180, R207, R308, R450): O38, O42.
-/

namespace Sys2Proof.Machine

/-! ### Status entries -/

theorem Node.statusPort_congr {n m : Node} (hr : ∀ p, m.portReg p Reg.portState = n.portReg p Reg.portState) (hc : m.comp.slices = n.comp.slices)
    (p s : Nat) : m.statusPort p s = n.statusPort p s := by
  have hs : m.inService = n.inService := funext fun c => by unfold Node.inService; rw [hr]
  have hu : m.portUsable = n.portUsable := funext fun s => funext fun c => by unfold Node.portUsable Node.portSlice; rw [hc]
  unfold Node.statusPort Node.otherPorts
  rw [hs, hu]

theorem Node.Keeps.statusPort {n m : Node} (h : n.Ends m) (p s : Nat) : m.statusPort p s = n.statusPort p s := by
  refine Node.statusPort_congr (fun c => h.reg_eq _ (linkKey_notMem (by decide) c (by decide))) ?_ p s
  have := congrArg (fun x : Node => x.comp.slices) h.core_eq
  exact this

theorem Node.Keeps.session_eq {n m : Node} (h : n.Ends m) (k : Nat) : m.session k = n.session k := by
  have := congrArg (fun x : Node => Map.get {} x.adm.sessions k) h.core_eq
  exact this

theorem Node.queue_enqueue_same (n : Node) (p q : Nat) (m : OutMsg) : (n.enqueue p q m).queue p q = n.queue p q ++ [m] := by
  simp [Node.queue, Node.enqueue, Node.setQueue, Map.get_set]

/-- A reply without a body goes to Q7 of a status port, behind what waits there (R80). -/
theorem Node.queueReply_status (n : Node) (now port : Nat) (rep : Reply) (notice : Option Nat) (w b : Nat) (hp : port < 48) (hb : rep.body = []) :
    ∃ m : OutMsg, n.queueReply now port rep notice w b = n.enqueue (n.statusPort port (n.session rep.session).slice) 7 m ∧
      m.reply = some { rep with queueTick := now, node := n.straps } := by
  unfold Node.queueReply
  dsimp only
  rw [if_pos hp, if_pos hb]
  exact ⟨_, rfl, rfl⟩

theorem Node.admitted?_setAdmitted (n : Node) (key : Nat) (f : Admitted → Admitted) (q : Admitted) (h : n.admitted? key = some q)
    (hf : (f q).req = q.req) : (n.setAdmitted key f).admitted? key = some (f q) := by
  unfold Node.admitted? at h ⊢
  rw [Node.setAdmitted_admitted]
  generalize n.adm.admitted = l at h ⊢
  induction l with
  | nil => cases h
  | cons x t ih =>
    rw [List.map_cons]
    by_cases hx : x.req.key = key
    · rw [List.find?_cons_of_pos (by simp [hx])] at h
      obtain rfl := Option.some.inj h
      have ho : Admitted.onKey key f x = f x := if_pos hx
      rw [ho, List.find?_cons_of_pos (by rw [hf]; simp [hx])]
    · have ho : Admitted.onKey key f x = x := if_neg hx
      rw [List.find?_cons_of_neg (by simp [hx])] at h
      rw [ho, List.find?_cons_of_neg (by simp [hx])]
      exact ih h

/-- The notice and the final of a request that ends early are queued in this order on its status port (R80). -/
theorem Node.endWithNotice_queue (n : Node) (now key status detail : Nat) (a : Admitted) (h : n.admitted? key = some a) (hphase : a.phase < 2)
    (hlate : a.lateSent = false) (hport : a.send.port < 48) :
    ∃ m1 m2 : OutMsg, ∃ r1 r2 : Reply,
      (n.endWithNotice now key status detail).queue (n.statusPort a.send.port (n.session a.req.sess).slice) 7 =
        n.queue (n.statusPort a.send.port (n.session a.req.sess).slice) 7 ++ [m1, m2] ∧
      m1.reply = some r1 ∧ r1.status = stLateNotice ∧ r1.detail = detail ∧ m2.reply = some r2 ∧ r2.status = status ∧ r2.final = true := by
  obtain ⟨hmem, hkey⟩ := Node.mem_of_admitted? h
  generalize hp : n.statusPort a.send.port (n.session a.req.sess).slice = p
  -- the notice
  obtain ⟨m1, he1, hr1⟩ := n.queueReply_status now a.send.port (a.req.reply stLateNotice detail 0xFFFFFFFF []) a.send.notice 0 0 hport rfl
  have hlate1 : n.lateNotice now a detail 0xFFFFFFFF = (n.enqueue p 7 m1).setAdmitted key fun q => { q with lateSent := true } := by
    unfold Node.lateNotice
    rw [if_neg (by rw [hlate]; simp; omega), he1, hkey]
    exact congrArg (fun x => (n.enqueue x 7 m1).setAdmitted key _) hp
  have hends1 : n.Ends (n.lateNotice now a detail 0xFFFFFFFF) := n.ends_lateNotice ..
  have hadm1 : (n.lateNotice now a detail 0xFFFFFFFF).admitted? key = some { a with lateSent := true } := by
    rw [hlate1]
    exact Node.admitted?_setAdmitted (n.enqueue p 7 m1) key (fun q => { q with lateSent := true }) a h rfl
  have hq1 : (n.lateNotice now a detail 0xFFFFFFFF).queue p 7 = n.queue p 7 ++ [m1] := by
    rw [hlate1]
    exact n.queue_enqueue_same p 7 m1
  -- the final
  unfold Node.endWithNotice
  rw [h]
  dsimp only
  generalize n.lateNotice now a detail 0xFFFFFFFF = k at hends1 hadm1 hq1
  unfold Node.endRequest
  rw [hadm1]
  dsimp only
  rw [if_neg (Nat.not_le.mpr hphase)]
  generalize (if (a.tokenWritten && (status == stAborted || status == stBudgetTrap)) = true then 0x10 else detail) = d
  have hu := k.undoes_undo { a with lateSent := true }
  have hlinks : (k.undo { a with lateSent := true }).queue p 7 = k.queue p 7 := by
    have := congrArg (fun x : Node => x.queue p 7) hu.core_eq
    exact this
  have hall := hends1.trans hu.ends
  generalize k.undo { a with lateSent := true } = u at hall hlinks
  obtain ⟨m2, he2, hr2⟩ := u.queueReply_status now a.send.port { a.req.reply status d 0 [] with final := true } none 0 0 hport rfl
  refine ⟨m1, m2, _, _, ?_, hr1, rfl, rfl, hr2, rfl, rfl⟩
  have hp2 : u.statusPort a.send.port (u.session a.req.sess).slice = p := by rw [hall.session_eq, hall.statusPort, hp]
  unfold Node.queueFinal
  dsimp only
  rw [if_pos rfl, he2]
  show (u.enqueue (u.statusPort a.send.port (u.session a.req.sess).slice) 7 m2).queue p 7 = _
  rw [hp2, Node.queue_enqueue_same, hlinks, hq1, List.append_assoc]
  rfl

/-! ### Weights -/

theorem Node.weight_setWeight (n : Node) (d : Nat) (w : Weight) : (n.setWeight d w).weight d = w := by
  simp [Node.weight, Node.setWeight, Map.get_set]

theorem Node.Keeps.weight_eq {n m : Node} (h : n.Ends m) (d : Nat) : m.weight d = n.weight d := by
  have := congrArg (fun x : Node => x.weight d) h.core_eq
  exact this

/-- What the loss of a weight leaves (R308): the descriptor LOST and counted, and every request held for it finished. -/
theorem Node.weightLost_spec (n : Node) (now d : Nat) : ((n.weightLost now d).weight d).state = 4 ∧
    (n.weightLost now d).reg Reg.weightLosses = (n.reg Reg.weightLosses + 1) % 2 ^ 64 ∧
    ((n.adm.admitted.map fun q => q.req.key).Nodup →
      ∀ x ∈ (n.weightLost now d).adm.admitted, x.held = true → x.needs.contains d = true → 2 ≤ x.phase) := by
  unfold Node.weightLost
  dsimp only
  generalize hm : (n.setWeight d { n.weight d with state := 4, source := 0xFF, poisoned := [], holdTick := 0 }).bump Reg.weightLosses = m
  have hw : (m.weight d).state = 4 := by rw [← hm]; exact congrArg Weight.state (n.weight_setWeight d _)
  have hc : m.reg Reg.weightLosses = (n.reg Reg.weightLosses + 1) % 2 ^ 64 := by rw [← hm]; exact Node.reg_bump _ _ _ rfl
  have hadm : m.adm = n.adm := by rw [← hm]; rfl
  have he := m.ends_endAll now stWeightLost 4 true fun q => q.held && q.needs.contains d
  refine ⟨by rw [he.weight_eq]; exact hw, by rw [he.reg_eq _ (by decide)]; exact hc, fun hn x hx hheld hneeds => ?_⟩
  obtain ⟨y, -, hxy, hf⟩ := m.endAll_finished now stWeightLost 4 true _ (by rw [hadm]; exact hn) x hx
  obtain ⟨-, hheldEq, hneedsEq, -⟩ := hxy
  exact hf (by rw [← hheldEq, ← hneedsEq, hheld, hneeds]; rfl)

theorem Node.askTile_spec (n : Node) (now d tile i : Nat) :
    (∀ code node, ((n.weight d).sources n.straps)[i]? = some (code, node) → ((n.askTile now d tile i).weight d).source = code ∧
      ((n.askTile now d tile i).weight d).state = (n.weight d).state ∧
      ((n.askTile now d tile i).weight d).poisoned = (n.weight d).poisoned.map fun e => if e.1 = tile then (tile, i, now) else e) ∧
    (((n.weight d).sources n.straps)[i]? = none → ((n.askTile now d tile i).weight d).state = 4) := by
  unfold Node.askTile
  dsimp only
  refine ⟨fun code node h => ?_, fun h => ?_⟩
  · rw [h]
    dsimp only
    rw [(Node.ends_sendNode ..).weight_eq, Node.weight_setWeight]
    exact ⟨rfl, rfl, rfl⟩
  · rw [h]
    exact (n.weightLost_spec now d).1

theorem Node.pushCommand_spec (n : Node) (stack channel : Nat) (c : NbCommand) : ∃ c', Map.get [] (n.pushCommand stack channel c).stk.queues (stack * 32 + channel) =
    Map.get [] n.stk.queues (stack * 32 + channel) ++ [c'] ∧ c'.op = c.op ∧ c'.args = c.args := by
  refine ⟨{ c with id := n.stk.cmdNext }, ?_, rfl, rfl⟩
  unfold Node.pushCommand
  dsimp only
  rw [Map.get_set, if_pos rfl]

/-- The lines that a tile's bytes fill (R306). -/
def tileLines (bytes : Bytes) : List (BitVec 512) := (List.range 256).map fun l => BitVec.ofNat 512 (leNat (sliceB bytes (64 * l) 64))

theorem Node.tileArrives_spec (n : Node) (now d tile i asked : Nat) (bytes : Bytes) (hst : (n.weight d).state = 3)
    (hf : (n.weight d).poisoned.find? (fun e => e.1 == tile) = some (tile, i, asked)) (hd : sha3_512 bytes = (n.weight d).tileDigests.getD tile [])
    (hl : bytes.length = (n.weight d).tileBytes tile) :
    ∃ c, Map.get [] (n.tileArrives now d tile bytes).stk.queues ((n.weight d).slots.getD tile 0 / 2 ^ 22 * 32 + (n.weight d).slots.getD tile 0 % 32) =
        Map.get [] n.stk.queues ((n.weight d).slots.getD tile 0 / 2 ^ 22 * 32 + (n.weight d).slots.getD tile 0 % 32) ++ [c] ∧
      c.op = 3 ∧ c.args.stream = tileLines bytes ∧ c.args.lines = 256 := by
  unfold Node.tileArrives
  dsimp only
  rw [hf]
  dsimp only
  rw [if_neg (not_not.mpr hst), if_neg (by rw [not_or]; exact ⟨not_not.mpr hd, not_not.mpr hl⟩)]
  generalize hc : NbCommand.mk .. = cmd
  obtain ⟨c, hq, hop, hargs⟩ := n.pushCommand_spec ((n.weight d).slots.getD tile 0 / 2 ^ 22) ((n.weight d).slots.getD tile 0 % 32) cmd
  exact ⟨c, hq, by rw [hop, ← hc], by rw [hargs, ← hc]; rfl, by rw [hargs, ← hc]⟩

theorem Node.sendNode_queue (n : Node) (now ftype queue node slice p : Nat) (bytes : Bytes) (h : n.route node = some p) :
    (n.sendNode now ftype queue node slice bytes).queue p queue =
      n.queue p queue ++ [{ ftype := ftype, dst := node, bytes := bytes, queuedAt := now, slice := slice }] := by
  unfold Node.sendNode
  rw [h]
  exact n.queue_enqueue_same ..

/-- Settles O42, by what asking for a tile, losing a weight and ending a request with its notice leave (R306, R308). The layout of the TILE messages is the
model's (log entry 60), and so is the port of a status entry whose own port is not in service (log entry 131). -/
theorem weightHolds : Obligations.WeightHolds := by
  unfold Obligations.WeightHolds
  intro s n0 now
  refine ⟨?_, ?_, fun src model layer kind tile digest d p w hf ht hr hroute => ?_, fun d hst hdue hn => ?_, fun q a ha hheld hphase hlate hport hm => ?_⟩
  · intro d tile i asked w hst hf hdue
    have hexec : exec (.refetchTimeout d tile) s = s.on (n0.askTile now d.toNat tile.toNat (i + 1)) := by
      show execRefetchTimeout d tile s = _
      unfold execRefetchTimeout
      dsimp only
      rw [hf]
      dsimp only
      rw [if_pos ⟨hst, hdue⟩]
    obtain ⟨hsome, hnone⟩ := n0.askTile_spec now d.toNat tile.toNat (i + 1)
    refine ⟨fun code node hs => ⟨_, hexec.trans (State.on_eq ..), ?_⟩, fun hs => ⟨_, hexec.trans (State.on_eq ..), hnone hs⟩⟩
    obtain ⟨hcode, hstate, hpois⟩ := hsome code node hs
    refine ⟨hcode, hstate.trans hst, ?_⟩
    rw [hpois]
    exact List.mem_map.mpr ⟨_, List.mem_of_find?_eq_some hf, if_pos rfl⟩
  · intro d tile bytes i asked w g hst hf hd hl
    obtain ⟨c, hc⟩ := n0.tileArrives_spec now d.toNat tile.toNat i asked bytes hst hf hd hl
    exact ⟨_, c, State.on_eq s _, hc⟩
  · have hserve : n0.serveTile now src.toNat model.toNat layer.toNat kind.toNat tile.toNat digest =
        n0.sendNode now 4 5 src.toNat w.slice (tileMessage w tile.toNat (n0.slotBytes (w.slots.getD tile.toNat 0) 0 (w.tileBytes tile.toNat))) := by
      unfold Node.serveTile
      rw [hf]
      dsimp only
      rw [if_neg (by rw [not_or]; exact ⟨Nat.not_le.mpr ht, not_not.mpr hr⟩)]
    exact ⟨_, _, State.on_eq s _, by rw [hserve]; exact n0.sendNode_queue _ _ _ _ _ _ _ hroute, rfl, rfl, rfl⟩
  · have hexec : exec (.weightHoldExpiry d) s = s.on (n0.weightLost now d.toNat) := by
      show execWeightHoldExpiry d s = _
      unfold execWeightHoldExpiry
      dsimp only
      rw [if_pos ⟨hst, hdue⟩]
    obtain ⟨hw, hc, hfin⟩ := n0.weightLost_spec now d.toNat
    exact ⟨_, hexec.trans (State.on_eq ..), hw, hc, hfin hn⟩
  · have hexec : exec (.heldDeadlineMargin q) s = s.on (n0.endWithNotice now q.key stWeightLost 4) := by
      show execHeldDeadlineMargin q s = _
      unfold execHeldDeadlineMargin
      dsimp only
      rw [ha]
      dsimp only
      rw [if_pos (by rw [hheld, hm, decide_eq_true hphase]; rfl)]
    obtain ⟨m1, m2, r1, r2, hq⟩ := n0.endWithNotice_queue now q.key stWeightLost 4 a ha hphase hlate hport
    exact ⟨_, m1, m2, r1, r2, hexec.trans (State.on_eq ..), hq⟩

end Sys2Proof.Machine
end

section
/-!
Phase 2 and the ends of items (R180, R207, R208, R444): O38.
-/

namespace Sys2Proof.Machine

/-! ### Phase 2 -/

/-- A reply of a link port goes to Q6, or without a body to Q7 of a status port (R80). -/
theorem Node.queueReply_port (n : Node) (now port : Nat) (rep : Reply) (notice : Option Nat) (w b : Nat) (hp : port < 48) :
    ∃ m : OutMsg, n.queueReply now port rep notice w b =
        n.enqueue (if rep.body = [] then n.statusPort port (n.session rep.session).slice else port) (if rep.body = [] then 7 else 6) m ∧
      m.reply = some { rep with queueTick := now, node := n.straps } := by
  unfold Node.queueReply
  dsimp only
  rw [if_pos hp]
  by_cases hb : rep.body = []
  · rw [if_pos hb, if_pos hb, if_pos hb]
    exact ⟨_, rfl, rfl⟩
  · rw [if_neg hb, if_neg hb, if_neg hb]
    exact ⟨_, rfl, rfl⟩

/-- The reply of a result is queued behind what waits on its port, and its request is finished (R180). -/
theorem Node.queueResult_spec (n : Node) (now key status info : Nat) (body : Bytes) (a : Admitted) (h : n.admitted? key = some a) (hp : a.send.port < 48) :
    ∃ m rep, (n.queueResult now key status info body).queue
        (if body = [] then n.statusPort a.send.port (n.session a.req.sess).slice else a.send.port) (if body = [] then 7 else 6) =
      n.queue (if body = [] then n.statusPort a.send.port (n.session a.req.sess).slice else a.send.port) (if body = [] then 7 else 6) ++ [m] ∧
      m.reply = some rep ∧ rep.status = status ∧ rep.body = body ∧ rep.requestId = a.req.hdr.requestId.toNat ∧ rep.final = true ∧
      ∀ x ∈ (n.queueResult now key status info body).adm.admitted, x.req.key = key → x.phase = 2 := by
  unfold Node.queueResult
  rw [h]
  dsimp only
  obtain ⟨m, he, hr⟩ := n.queueReply_port now a.send.port { a.req.reply status 0 info body with final := true }
    (if body = [] ∧ !a.lateSent then a.send.notice else none) a.send.winStart a.send.bytes hp
  refine ⟨m, _, ?_, hr, rfl, rfl, rfl, rfl, fun x hx hk => ?_⟩
  · rw [he]
    exact n.queue_enqueue_same _ _ m
  · obtain ⟨y, -, rfl⟩ := List.mem_map.mp hx
    split
    · rfl
    · next hne => rw [if_neg hne] at hk; exact absurd hk hne

theorem Node.phase2Start_spec (n : Node) (now key : Nat) (a : Admitted) (h : n.admitted? key = some a) (h0 : a.phase = 0) (hopen : a.items.any Item.open = false)
    (hheld : a.held = false) (hlost : a.stateLost = false) (hwin : a.red.winStart ≤ now) (hwrite : a.req.isWrite = true → a.tokenWritten = true)
    (hin : n.inRounds = true) :
    (n.phase2Start now key).admitted? key = some { a with phase := 1 } ∧ (n.phase2Start now key).links = n.links := by
  unfold Node.phase2Start
  rw [h]
  dsimp only
  rw [if_neg (by
    rintro (h | h | h | h | h | h | h)
    · exact h h0
    · rw [hopen] at h; cases h
    · rw [hheld] at h; cases h
    · rw [hlost] at h; cases h
    · omega
    · rw [hwrite h.1] at h; exact absurd h.2 (by simp)
    · rw [hin] at h; exact absurd h (by simp))]
  exact ⟨n.admitted?_setAdmitted key (fun q => { q with phase := 1 }) a h rfl, rfl⟩

/-- An attention request's reply (R180). -/
theorem Node.phase2Done_att (n : Node) (now key : Nat) (a : Admitted) (h : n.admitted? key = some a) (hatt : a.req.isAtt = true) (hp : a.send.port < 48) :
    ∃ m rep, (n.phase2Done now a).queue
        (if (n.attBody a).1 = [] then n.statusPort a.send.port (n.session a.req.sess).slice else a.send.port) (if (n.attBody a).1 = [] then 7 else 6) =
      n.queue (if (n.attBody a).1 = [] then n.statusPort a.send.port (n.session a.req.sess).slice else a.send.port) (if (n.attBody a).1 = [] then 7 else 6) ++ [m] ∧
      m.reply = some rep ∧ rep.status = stDone ∧ rep.body = (n.attBody a).1 ∧ rep.requestId = a.req.hdr.requestId.toNat ∧ rep.final = true ∧
      ∀ x ∈ (n.phase2Done now a).adm.admitted, x.req.key = key → x.phase = 2 := by
  have hkey := (Node.mem_of_admitted? h).2
  unfold Node.phase2Done
  dsimp only
  rw [if_pos hatt, hkey]
  generalize n.attBody a = out
  obtain ⟨b, e, nf⟩ := out
  dsimp only
  generalize hm : (n.bumpBy Reg.entriesEmpty e).bumpBy Reg.entriesNonfinite nf = m
  have hs : m.statusPort = n.statusPort := funext fun p => funext fun s => by
    refine Node.statusPort_congr (n := n) (m := m) (fun c => ?_) (by rw [← hm]; rfl) p s
    rw [← hm]
    refine (Node.portReg_setReg _ _ _ _ _ (by decide) (by decide)).trans ?_
    exact Node.portReg_setReg _ _ _ _ _ (by decide) (by decide)
  have hse : m.session = n.session := by rw [← hm]; rfl
  have hq : m.queue = n.queue := by rw [← hm]; rfl
  have ha : m.admitted? key = some a := by rw [← hm]; exact h
  rw [← hs, ← hse, ← hq]
  exact m.queueResult_spec now key stDone 0 b a ha hp

/-! ### Traps -/

/-- The node with a trap of a program counted (R207). -/
def Node.trapped (n : Node) (p : Nat) : Node :=
  ({ n with progs := Map.put n.progs p { n.prog p with traps := Nat.min ((n.prog p).traps + 1) 0xFFFFFFFF } } : Node).bump Reg.budgetTraps

theorem Node.trap_eq (n : Node) (now th detail p : Nat) (h : (n.thread th).program = some p) : n.trap now th stBudgetTrap detail =
    ((n.trapped p).endRequest now (reqKey (n.thread th).session (n.thread th).request) stBudgetTrap detail).freeThread th := by
  unfold Node.trap
  dsimp only
  rw [h]
  rfl

theorem Node.thread_freeThread (n : Node) (k : Nat) : (n.freeThread k).thread k = {} := by
  show Map.get {} (Map.erase n.cells.threads k) k = {}
  rw [Map.get_erase, if_pos rfl]

/-- What a budget trap leaves (R207). -/
theorem Node.trap_spec (n : Node) (now th p : Nat) (a : Admitted) (h : (n.thread th).program = some p)
    (ha : n.admitted? (reqKey (n.thread th).session (n.thread th).request) = some a) (hphase : a.phase < 2) :
    (n.trap now th stBudgetTrap 0).thread th = {} ∧
    (n.trap now th stBudgetTrap 0).reg Reg.budgetTraps = (n.reg Reg.budgetTraps + 1) % 2 ^ 64 ∧
    ((n.trap now th stBudgetTrap 0).prog p).traps = Nat.min ((n.prog p).traps + 1) 0xFFFFFFFF ∧
    ∀ x ∈ (n.trap now th stBudgetTrap 0).adm.admitted, x.req.key = reqKey (n.thread th).session (n.thread th).request → x.phase = 2 := by
  rw [n.trap_eq now th 0 p h]
  generalize reqKey (n.thread th).session (n.thread th).request = key at ha ⊢
  have he := (n.trapped p).ends_endRequest now key stBudgetTrap 0
  have hreg : (n.trapped p).reg Reg.budgetTraps = (n.reg Reg.budgetTraps + 1) % 2 ^ 64 := Node.reg_bump _ _ _ rfl
  have hprog : (n.trapped p).progs = Map.put n.progs p { n.prog p with traps := Nat.min ((n.prog p).traps + 1) 0xFFFFFFFF } := rfl
  have ha' : (n.trapped p).admitted? key = some a := ha
  generalize n.trapped p = m at he hreg hprog ha'
  have hfin := m.endRequest_phase now key stBudgetTrap 0 a ha' hphase
  refine ⟨Node.thread_freeThread .., (he.reg_eq _ (by decide)).trans hreg, ?_, hfin⟩
  have hp : ((m.endRequest now key stBudgetTrap 0).freeThread th).progs = m.progs := by
    have := congrArg (fun x : Node => x.progs) he.core_eq
    exact this
  unfold Node.prog
  rw [hp, hprog, Map.get_put, if_pos rfl]
  rfl

/-! ### Overruns -/

theorem Node.unitUp_of_isSome {n : Node} {kind : UnitKind} {num : Nat} (h : (n.unitState? kind num).isSome = true) : n.unitUp kind num = false := by
  unfold Node.unitUp
  rw [← Option.not_isSome, h]
  rfl

/-- A built-in item's overrun on a thread (R208). -/
def Node.overrun (n : Node) (now th : Nat) : Node :=
  ((n.bump32 Reg.builtinOverruns).unitError now .thread th ((n.thread th).session, (n.thread th).request)).stateLoss
    (reqKey (n.thread th).session (n.thread th).request) .thread th

theorem Node.overrun_spec (n : Node) (now th : Nat) : (n.overrun now th).reg Reg.builtinOverruns = (n.reg Reg.builtinOverruns + 1) % 2 ^ 32 ∧
    (n.overrun now th).unitUp .thread th = false ∧
    (n.overrun now th).rcv.log.getLast? = some (errorOf now .thread th ((n.thread th).session, (n.thread th).request)) := by
  unfold Node.overrun
  have hc : (n.bump32 Reg.builtinOverruns).reg Reg.builtinOverruns = (n.reg Reg.builtinOverruns + 1) % 2 ^ 32 := (Node.reg_setReg ..).trans (if_pos rfl)
  generalize n.bump32 Reg.builtinOverruns = m at hc
  obtain ⟨hlog, hst⟩ := m.unitError_spec now .thread th ((n.thread th).session, (n.thread th).request)
  have hf := m.faults_unitError now .thread th ((n.thread th).session, (n.thread th).request)
  generalize m.unitError now .thread th ((n.thread th).session, (n.thread th).request) = k at hlog hst hf
  have hm := k.moves_stateLoss (reqKey (n.thread th).session (n.thread th).request) .thread th
  refine ⟨?_, Node.unitUp_of_isSome ?_, ?_⟩
  · rw [hm.faults.reg_eq _ (by decide), hf.reg_eq _ (by decide), hc]
  · rw [Node.unitState?_congr hm.units]; exact hst
  · rw [hm.log]; exact hlog

/-! ### The obligation -/

/-- Settles O38, by what a result, a trap and an error of a unit leave (R180, R207, R208, R444). The port of a status entry whose own port is not in service is
the model's (log entry 131). -/
theorem itemEnds : Obligations.ItemEnds := by
  unfold Obligations.ItemEnds
  intro s n0 now
  refine ⟨fun q a hstop hin ha h0 hopen hheld hlost hwin hwrite => ?_, ?_, ?_, fun t hrun hprog => ?_, fun r cell => ?_⟩
  · have hexec : exec (.phase2Start q) s = s.on (n0.phase2Start now q.key) := by
      show execPhase2Start q s = _
      unfold execPhase2Start
      rw [if_neg (by rw [hstop]; simp)]
    exact ⟨_, hexec.trans (State.on_eq ..), n0.phase2Start_spec now q.key a ha h0 hopen hheld hlost hwin hwrite hin⟩
  · intro q a hstop ha h1 hatt hport body queue p
    have hexec : exec (.phase2Complete q) s = s.on (n0.phase2Done now a) := by
      show execPhase2Complete q s = _
      unfold execPhase2Complete
      rw [ha]
      dsimp only
      rw [if_pos ⟨h1, by rw [hstop]; rfl⟩]
    obtain ⟨m, rep, hq⟩ := n0.phase2Done_att now q.key a ha hatt hport
    exact ⟨_, m, rep, hexec.trans (State.on_eq ..), hq⟩
  · intro t p a th hrun hprog hended ha hphase
    have hexec : exec (.budgetTrap t) s = s.on (n0.trap now t.key stBudgetTrap 0) := by
      show execBudgetTrap t s = _
      unfold execBudgetTrap
      dsimp only
      rw [if_pos (by rw [hrun, hprog, hended]; rfl)]
    exact ⟨_, hexec.trans (State.on_eq ..), n0.trap_spec now t.key p a hprog ha hphase⟩
  · have hexec : exec (.builtinOverrun t) s = s.on (n0.overrun now t.key) := by
      show execBuiltinOverrun t s = _
      unfold execBuiltinOverrun
      dsimp only
      rw [if_pos (by rw [hrun, hprog]; rfl)]
      rfl
    obtain ⟨hc, hup, hlog⟩ := n0.overrun_spec now t.key
    exact ⟨_, hexec.trans (State.on_eq ..), hc, hup, _, hlog, rfl, rfl⟩
  · obtain ⟨hlog, hst⟩ := n0.unitError_spec now .cell (cellNum r.val cell.val) noRequest
    refine ⟨_, State.on_eq s _, ?_, _, hlog, rfl, rfl, rfl, rfl⟩
    exact Node.unitUp_of_isSome hst

end Sys2Proof.Machine
end

section
/-!
Unit tests, repairs, lost state and self-test (R278, R443 to R450, R468 to R481): O56.
-/

namespace Sys2Proof.Machine

/-! ### Targeted tests and repairs -/

/-- The node with a result of a test shown (R474). -/
def Node.resulted (n : Node) (now : Nat) (kind : UnitKind) (num : Nat) (u : UnitState) (pass : Bool) (addr bit : Nat) : Node :=
  n.setReg Reg.lastResult (leNat (resultRecord (if u.onDemand then 3 else 2) 0 kind (if pass then 0 else 1) num (if pass then 0xFFFF else bit)
    (if pass then 0xFFFFFFFF else addr) 0 (now - 1)))

theorem Node.testResult_eq (n : Node) (now : Nat) (kind : UnitKind) (num : Nat) (pass : Bool) (addr bit : Nat) (u : UnitState) (hk : kind ≠ .port)
    (hu : n.unitState? kind num = some u) (hr : u.retired = false) : n.testResult now kind num pass addr bit =
    if pass then (n.resulted now kind num u pass addr bit).unitPasses now kind num
    else (n.resulted now kind num u pass addr bit).unitFails now kind num addr bit := by
  unfold Node.testResult
  rw [if_neg hk, hu]
  dsimp only
  rw [if_neg (by rw [hr]; simp)]
  rfl

theorem Node.resulted_frame (n : Node) (now : Nat) (kind : UnitKind) (num : Nat) (u : UnitState) (pass : Bool) (addr bit : Nat) :
    (n.resulted now kind num u pass addr bit).rcv = n.rcv ∧ (n.resulted now kind num u pass addr bit).test = n.test ∧
    ∀ k, k ≠ Reg.lastResult → (n.resulted now kind num u pass addr bit).reg k = n.reg k := by
  unfold Node.resulted
  generalize leNat _ = v
  exact ⟨rfl, rfl, fun k hk => (Node.reg_setReg ..).trans (if_neg hk)⟩

theorem Node.rowRepair_spec (n : Node) (now st ch bank row : Nat) (r : List Nat)
    (h : n.stk.repairs.find? (fun (r : List Nat) => r.take 3 == [st, ch, bank] && r.getD 4 0 == row) = some r) :
    (n.maintAt now st 2 = true → (n.rowRepair now st ch bank row).stk.rowMap = n.stk.rowMap ++ [r] ∧ r ∉ (n.rowRepair now st ch bank row).stk.repairs ∧
      (n.rowRepair now st ch bank row).reg Reg.rowsRepaired = (n.reg Reg.rowsRepaired + 1) % 2 ^ 32 ∧
      (n.rowRepair now st ch bank row).stk.lines = n.stk.lines) ∧
    (n.maintAt now st 2 = false → n.rowRepair now st ch bank row = n) := by
  unfold Node.rowRepair
  rw [h]
  dsimp only
  refine ⟨fun hm => ?_, fun hm => by rw [if_pos (by rw [hm]; rfl)]⟩
  rw [if_neg (by rw [hm]; simp)]
  generalize RepairRow.fields _ _ = fields
  refine ⟨rfl, ?_, ?_, rfl⟩
  · show r ∉ n.stk.repairs.filter fun x => x != r
    simp
  · refine (Node.reg_setReg ..).trans ((if_neg (by decide)).trans ?_)
    exact (Node.reg_setReg ..).trans (if_pos rfl)

/-! ### Slices -/

/-- The node with a slice's result shown and counted, and the slice gone (R474). -/
def Node.sliceEnded (n : Node) (now : Nat) (x : RunSlice) (pass : Bool) (addr bit : Nat) : Node :=
  let addr := if pass then 0xFFFFFFFF else addr
  let u := sliceUnit x.cls x.target x.place addr
  let sig := storedSignature x
  let (raw, n) := if pass || !x.bySignature addr then ([], n) else n.draw 4
  let sig := if !x.bySignature addr then 0 else if pass then sig else leNat raw
  let r := resultRecord x.kind x.cls u.1 (if pass then 0 else 1) u.2 (if pass then 0xFFFF else bit) addr sig (now - 1)
  let key := classKey x.cls x.target
  let cursor := if x.onDemand then n.test.cursor else Map.set 0 n.test.cursor key ((x.place + 1) % classSlices x.cls)
  let ran := Map.set 0 n.test.done key (Map.get 0 n.test.done key ||| 2 ^ x.place)
  let n := { n with test := { n.test with running := n.test.running.filter (· != x), cursor := cursor, done := ran } }
  let n := (n.setReg Reg.lastResult (leNat r)).bump Reg.slicesRun
  if x.onDemand then n.setReg Reg.testResult 0 else n

/-- The error of a slice that failed (R260, R475). -/
def Node.sliceFailed (n : Node) (now : Nat) (x : RunSlice) (addr : Nat) : Node :=
  let m := n.bump Reg.slicesFailed
  if x.cls = 5 ∧ addr ≠ 0xFFFFFFFF then m.lineUncorrectable now (x.target * 2 ^ 30 + (x.place * 2 ^ 24 + addr % 2 ^ 24) / 64) 2 noRequest
  else m.unitFault now (sliceUnit x.cls x.target x.place addr).1 (sliceUnit x.cls x.target x.place addr).2

theorem Node.endSlice_pass (n : Node) (now : Nat) (x : RunSlice) (addr bit : Nat) :
    n.endSlice now x true addr bit = (n.sliceEnded now x true addr bit).endCycle now := rfl

theorem Node.endSlice_fail (n : Node) (now : Nat) (x : RunSlice) (addr bit : Nat) :
    n.endSlice now x false addr bit = ((n.sliceEnded now x false addr bit).sliceFailed now x addr).endCycle now := rfl

theorem Node.sliceEnded_spec (n : Node) (now : Nat) (x : RunSlice) (pass : Bool) (addr bit : Nat) :
    x ∉ (n.sliceEnded now x pass addr bit).test.running ∧
    (n.sliceEnded now x pass addr bit).reg Reg.slicesRun = (n.reg Reg.slicesRun + 1) % 2 ^ 64 ∧
    (n.sliceEnded now x pass addr bit).reg Reg.slicesFailed = n.reg Reg.slicesFailed ∧ (n.sliceEnded now x pass addr bit).rcv = n.rcv := by
  unfold Node.sliceEnded
  dsimp only
  generalize hd : (if (pass || !x.bySignature (if pass then 0xFFFFFFFF else addr)) = true then ([], n) else n.draw 4) = drawn
  obtain ⟨raw, k⟩ := drawn
  have hk : k.rcv = n.rcv ∧ k.regs = n.regs := by
    generalize (pass || !x.bySignature (if pass then 0xFFFFFFFF else addr)) = c at hd
    cases c with
    | true => obtain ⟨-, rfl⟩ := Prod.mk.inj hd; exact ⟨rfl, rfl⟩
    | false => rw [← show (n.draw 4).2 = k from congrArg Prod.snd hd]; exact ⟨rfl, rfl⟩
  obtain ⟨hrcv, hregs⟩ := hk
  dsimp only
  generalize leNat (resultRecord ..) = v
  generalize Map.set 0 k.test.done _ _ = ran
  generalize (if x.onDemand = true then k.test.cursor else _) = cursor
  have hset : ∀ (m : Node), (if x.onDemand then m.setReg Reg.testResult 0 else m).test = m.test ∧ (if x.onDemand then m.setReg Reg.testResult 0 else m).rcv = m.rcv ∧
      ∀ j, j ≠ Reg.testResult → (if x.onDemand then m.setReg Reg.testResult 0 else m).reg j = m.reg j := by
    intro m
    split
    · exact ⟨rfl, rfl, fun j hj => (Node.reg_setReg ..).trans (if_neg hj)⟩
    · exact ⟨rfl, rfl, fun _ _ => rfl⟩
  generalize hm : ({ k with test := { k.test with running := k.test.running.filter (· != x), cursor := cursor, done := ran } } : Node) = m
  have hreg : ∀ j, m.reg j = n.reg j := fun j => by rw [← hm]; exact Node.reg_congr hregs j
  obtain ⟨ht, hr, hg⟩ := hset ((m.setReg Reg.lastResult v).bump Reg.slicesRun)
  rw [ht, hr, hg _ (by decide), hg _ (by decide)]
  refine ⟨?_, ?_, ?_, ?_⟩
  · rw [← hm]
    show x ∉ k.test.running.filter (· != x)
    simp
  · rw [Node.reg_bump _ _ _ rfl, Node.reg_setReg, if_neg (by decide), hreg]
  · rw [Node.reg_bump_ne _ _ _ (by decide), Node.reg_setReg, if_neg (by decide), hreg]
  · rw [← hm]; exact hrcv

theorem Node.endCycle_frame (n : Node) (now : Nat) : (n.endCycle now).rcv = n.rcv ∧ (n.endCycle now).test.running = n.test.running ∧
    ∀ k, k ≠ Reg.cycleLast → k ≠ Reg.cycleStart → (n.endCycle now).reg k = n.reg k := by
  unfold Node.endCycle
  split
  · exact ⟨rfl, rfl, fun _ _ _ => rfl⟩
  · refine ⟨rfl, rfl, fun k h h' => ?_⟩
    refine (Node.reg_setReg ..).trans ((if_neg h').trans ?_)
    exact (Node.reg_setReg ..).trans (if_neg h)

theorem Node.lineUncorrectable_frame (n : Node) (now k kind : Nat) (req : Nat × Nat) :
    (∀ x, x ∈ (n.lineUncorrectable now k kind req).test.running → x ∈ n.test.running) ∧
    (n.lineUncorrectable now k kind req).reg Reg.slicesRun = n.reg Reg.slicesRun ∧
    (n.lineUncorrectable now k kind req).reg Reg.slicesFailed = n.reg Reg.slicesFailed := by
  rw [n.lineUncorrectable_eq]
  have h1 := n.harms_lineLost now k kind
  generalize n.lineLost now k kind = m at h1
  have h2 := m.faults_unitError now .channel (lineChannel k) req
  have hrun := m.unitError_test now .channel (lineChannel k) req
  generalize m.unitError now .channel (lineChannel k) req = l at h2 hrun
  have h3 := l.harms_ownerFault now k
  have htest : ∀ {a b : Node}, a.Harms b → b.test = a.test := fun {a b} h => by
    have := congrArg (fun x : Node => x.test) h.core_eq
    exact this
  refine ⟨fun x hx => ?_, ?_, ?_⟩
  · rw [htest h3] at hx
    rw [← htest h1]
    exact hrun x hx
  · rw [h3.reg_eq _ (by decide), h2.reg_eq _ (by decide), h1.reg_eq _ (by decide)]
  · rw [h3.reg_eq _ (by decide), h2.reg_eq _ (by decide), h1.reg_eq _ (by decide)]

theorem Node.sliceFailed_spec (n : Node) (now : Nat) (x : RunSlice) (addr : Nat) :
    (∀ y, y ∈ (n.sliceFailed now x addr).test.running → y ∈ n.test.running) ∧ (n.sliceFailed now x addr).reg Reg.slicesRun = n.reg Reg.slicesRun ∧
    (n.sliceFailed now x addr).reg Reg.slicesFailed = (n.reg Reg.slicesFailed + 1) % 2 ^ 64 ∧
    (x.cls ≠ 5 → ((n.sliceFailed now x addr).unitState? (sliceUnit x.cls x.target x.place addr).1 (sliceUnit x.cls x.target x.place addr).2).isSome = true) := by
  unfold Node.sliceFailed
  dsimp only
  have hf : (n.bump Reg.slicesFailed).reg Reg.slicesFailed = (n.reg Reg.slicesFailed + 1) % 2 ^ 64 := Node.reg_bump _ _ _ rfl
  have hr : (n.bump Reg.slicesFailed).reg Reg.slicesRun = n.reg Reg.slicesRun := Node.reg_bump_ne _ _ _ (by decide)
  have ht : (n.bump Reg.slicesFailed).test = n.test := rfl
  generalize n.bump Reg.slicesFailed = m at hf hr ht
  split
  · next hc =>
    obtain ⟨hrun, hsr, hsf⟩ := m.lineUncorrectable_frame now (x.target * 2 ^ 30 + (x.place * 2 ^ 24 + addr % 2 ^ 24) / 64) 2 noRequest
    exact ⟨fun y hy => ht ▸ hrun y hy, hsr.trans hr, hsf.trans hf, fun h => absurd hc.1 h⟩
  · generalize sliceUnit x.cls x.target x.place addr = u
    have hfr := m.faults_unitFault now u.1 u.2
    refine ⟨fun y hy => ht ▸ m.unitFault_test now u.1 u.2 y hy, (hfr.reg_eq _ (by decide)).trans hr, (hfr.reg_eq _ (by decide)).trans hf, fun _ => ?_⟩
    by_cases hret : m.retired u.1 u.2 = true
    · unfold Node.unitFault
      rw [if_pos hret]
      obtain ⟨v, hv, -⟩ := (m.retired_iff ..).mp hret
      show (Map.find m.rcv.units (unitKey u.1 u.2)).isSome = true
      rw [hv]
      rfl
    · obtain ⟨req, -, hs⟩ := m.unitFault_spec now u.1 u.2 (Bool.eq_false_iff.mpr hret)
      exact hs

/-- The slice that a window starts where no test is asked for (R468). -/
def windowSlice (w : Window) (p now : Nat) : RunSlice :=
  { cls := w.param, target := if w.param ≤ 5 then w.target else 16, place := p, start := now, winEnd := now + Nat.min w.length 40, onDemand := false }

theorem Node.startSlice_spec (n : Node) (now : Nat) (w : Window) (p : Nat) (hd : n.test.demand = []) (hr : n.test.running = [])
    (hp : n.nextPlace w.param (if w.param ≤ 5 then w.target else 16) (classSlices w.param)
      (Map.get 0 n.test.cursor (classKey w.param (if w.param ≤ 5 then w.target else 16))) = some p)
    (hu : n.unitUp (sliceUnit w.param (if w.param ≤ 5 then w.target else 16) p 0xFFFFFFFF).1
      (sliceUnit w.param (if w.param ≤ 5 then w.target else 16) p 0xFFFFFFFF).2 = true) :
    (n.startSlice now w).test.running = [windowSlice w p now] := by
  unfold Node.startSlice windowSlice
  dsimp only
  generalize (if w.param ≤ 5 then w.target else 16) = t at hp hu ⊢
  rw [hd]
  dsimp only [List.findSome?_nil]
  rw [hp]
  dsimp only
  rw [if_neg (by rw [hr, hu]; simp)]
  have hm : (if n.test.started = true then n else n.setReg Reg.cycleStart now).test = n.test := by split <;> rfl
  dsimp only
  rw [hm, hr]
  rfl

/-! ### Tests on demand -/

theorem Node.testReq_unknown (n : Node) (now : Nat) (v : Bytes) (h : unitKindOf (fieldB v 0 1) = none) :
    (n.testReq now v).reg Reg.testResult = 3 ∧ (n.testReq now v).test = n.test := by
  unfold Node.testReq
  rw [h]
  exact ⟨(Node.reg_setReg ..).trans (if_pos rfl), rfl⟩

/-- The node with a test asked for under way (R479). -/
def Node.portTested (n : Node) (now num : Nat) : Node :=
  let m := n.setReg Reg.testResult 1
  let m := (m.setPort num { m.port num with testing := true }).bump Reg.targetedRun
  { m with rcv := { m.rcv with units := Map.put m.rcv.units (unitKey .port num) { since := now, started := true, onDemand := true } } }

theorem Node.reg_setPort (n : Node) (p : Nat) (v : Port) (k : Nat) : (n.setPort p v).reg k = n.reg k := rfl

theorem Node.testReq_port (n : Node) (now : Nat) (v : Bytes) (h : unitKindOf (fieldB v 0 1) = some .port) (hn : fieldB v 2 2 < 48) :
    (n.portReg (fieldB v 2 2) Reg.portState ≠ 0 → n.portReg (fieldB v 2 2) Reg.portState ≠ 4 →
      (n.testReq now v).reg Reg.testResult = 2 ∧ (n.testReq now v).links = n.links) ∧
    (n.portReg (fieldB v 2 2) Reg.portState = 0 ∨ n.portReg (fieldB v 2 2) Reg.portState = 4 → (n.port (fieldB v 2 2)).testing = false →
      n.retired .port (fieldB v 2 2) = false →
      (n.testReq now v).reg Reg.testResult = 1 ∧ ((n.testReq now v).port (fieldB v 2 2)).testing = true ∧
      (n.testReq now v).reg Reg.targetedRun = (n.reg Reg.targetedRun + 1) % 2 ^ 64) := by
  unfold Node.testReq
  rw [h]
  dsimp only
  generalize fieldB v 2 2 = num at hn ⊢
  rw [if_neg (by simp [unitKnown, hn]), if_pos rfl]
  refine ⟨fun h0 h4 => ?_, fun hst ht hr => ?_⟩
  · rw [if_pos ⟨h0, h4⟩]
    exact ⟨(Node.reg_setReg ..).trans (if_pos rfl), rfl⟩
  · rw [if_neg (fun hc => hst.elim hc.1 hc.2)]
    have hr' : (n.setReg Reg.testResult 1).retired .port num = false := hr
    have ht' : ((n.setReg Reg.testResult 1).port num).testing = false := ht
    rw [if_neg (by rw [hr', ht']; simp), ← Node.portTested]
    have hb : ∀ m : Node, ∀ k, (m.bump Reg.targetedRun).reg k = if k = Reg.targetedRun then (m.reg Reg.targetedRun + 1) % 2 ^ 64 else m.reg k :=
      fun m k => Node.reg_setReg ..
    refine ⟨?_, ?_, ?_⟩
    · refine (hb _ _).trans ((if_neg (by decide)).trans ?_)
      rw [Node.reg_setPort, Node.reg_setReg, if_pos rfl]
    · exact congrArg Port.testing (Node.port_setPort_same ..)
    · refine (hb _ _).trans ((if_pos rfl).trans ?_)
      rw [Node.reg_setPort, Node.reg_setReg, if_neg (by decide)]

theorem Node.testReq_unit (n : Node) (now : Nat) (v : Bytes) (k : UnitKind) (h : unitKindOf (fieldB v 0 1) = some k) (hk : unitKnown k (fieldB v 2 2) = true)
    (hp : k ≠ .port) : (n.testReq now v).reg Reg.testResult = 1 ∧ (k, fieldB v 2 2) ∈ (n.testReq now v).test.demand := by
  unfold Node.testReq
  rw [h]
  dsimp only
  rw [if_neg (by rw [hk]; simp), if_neg hp]
  have hreg : (n.setReg Reg.testResult 1).reg Reg.testResult = 1 := (Node.reg_setReg ..).trans (if_pos rfl)
  split
  · next hc => exact ⟨hreg, List.contains_iff_mem.mp hc⟩
  · exact ⟨hreg, List.mem_append_right _ (List.mem_singleton.mpr rfl)⟩

/-! ### Results, overruns and repair records -/

theorem Node.endSlice_spec (n : Node) (now : Nat) (x : RunSlice) (pass : Bool) (addr bit : Nat) :
    x ∉ (n.endSlice now x pass addr bit).test.running ∧ (n.endSlice now x pass addr bit).reg Reg.slicesRun = (n.reg Reg.slicesRun + 1) % 2 ^ 64 ∧
    (pass = true → (n.endSlice now x pass addr bit).reg Reg.slicesFailed = n.reg Reg.slicesFailed ∧ (n.endSlice now x pass addr bit).rcv = n.rcv) ∧
    (pass = false → (n.endSlice now x pass addr bit).reg Reg.slicesFailed = (n.reg Reg.slicesFailed + 1) % 2 ^ 64 ∧
      (x.cls ≠ 5 → ((n.endSlice now x pass addr bit).unitState? (sliceUnit x.cls x.target x.place addr).1
        (sliceUnit x.cls x.target x.place addr).2).isSome = true)) := by
  obtain ⟨hgone, hrun, hfail, hrcv⟩ := n.sliceEnded_spec now x pass addr bit
  cases pass with
  | true =>
    rw [Node.endSlice_pass]
    obtain ⟨her, het, heg⟩ := (n.sliceEnded now x true addr bit).endCycle_frame now
    rw [het, heg _ (by decide) (by decide), heg _ (by decide) (by decide), her]
    exact ⟨hgone, hrun, fun _ => ⟨hfail, hrcv⟩, fun h => absurd h (by simp)⟩
  | false =>
    rw [Node.endSlice_fail]
    generalize n.sliceEnded now x false addr bit = m at hgone hrun hfail hrcv
    obtain ⟨hsub, hsr, hsf, hunit⟩ := m.sliceFailed_spec now x addr
    obtain ⟨her, het, heg⟩ := (m.sliceFailed now x addr).endCycle_frame now
    rw [het, heg _ (by decide) (by decide), heg _ (by decide) (by decide), Node.unitState?_congr (congrArg Recovery.units her), hsr, hsf, hfail]
    exact ⟨fun h => hgone (hsub x h), hrun, fun h => absurd h (by simp), fun _ => ⟨rfl, hunit⟩⟩

/-- The node with an overrun of the coverage cycle reported (R473). -/
def Node.overrunNoted (n : Node) : Node :=
  let m := { n with test := { n.test with overrun := true } }
  (m.setReg Reg.coverageStatus (m.reg Reg.coverageStatus ||| 1)).event 0x0050 (leBytes 8 (m.reg Reg.cycleStart))

theorem Node.overrunNoted_spec (n : Node) : n.overrunNoted.test.overrun = true ∧ n.overrunNoted.reg Reg.coverageStatus = n.reg Reg.coverageStatus ||| 1 := by
  unfold Node.overrunNoted
  refine ⟨by rw [Node.event_test]; rfl, ?_⟩
  rw [Node.reg_event, if_neg (by decide), Node.reg_setReg, if_pos rfl]
  rfl

theorem repairWritten_spec (s : State) (f : List Nat) (t : Nat) (rest : List (List Nat × Nat)) (h : s.node.test.pendingRepairs = (f, t) :: rest) :
    ∃ n p, exec .repairRecordWrite s = .next { s with node := n, pkg := p } ∧ n.test.pendingRepairs = rest ∧
      (s.pkg.repairs.length < s.node.reg Reg.repairRecordsMax → p.repairs = s.pkg.repairs ++ [repairRecord f t] ∧
        n.reg Reg.repairRecordsUsed = s.pkg.repairs.length + 1) ∧
      (s.node.reg Reg.repairRecordsMax ≤ s.pkg.repairs.length → p = s.pkg ∧ n.reg Reg.coverageStatus = s.node.reg Reg.coverageStatus ||| 2) := by
  show ∃ n p, execRepairRecordWrite s = _ ∧ _
  unfold execRepairRecordWrite
  dsimp only
  rw [h]
  dsimp only
  generalize hm : ({ s.node with test := { s.node.test with pendingRepairs := rest } } : Node) = m
  have hreg : ∀ k, m.reg k = s.node.reg k := fun k => by rw [← hm]; rfl
  have ht : m.test.pendingRepairs = rest := by rw [← hm]
  by_cases hfull : s.node.reg Reg.repairRecordsMax ≤ s.pkg.repairs.length
  · rw [if_pos (by rw [hreg]; exact hfull)]
    refine ⟨_, s.pkg, State.on_eq .., ht, fun hlt => absurd hfull (Nat.not_le.mpr hlt), fun _ => ⟨rfl, ?_⟩⟩
    rw [Node.reg_setReg, if_pos rfl, hreg]
  · rw [if_neg (by rw [hreg]; exact hfull)]
    exact ⟨_, _, rfl, ht, fun _ => ⟨rfl, (Node.reg_setReg ..).trans (if_pos rfl)⟩, fun hle => absurd hle hfull⟩

/-! ### The obligation -/

/-- Settles O56, by what each test, repair and result leaves. Which units are known and how a slice names one is the model's (log entry 73), which row a repair
takes too (log entry 75), and the port of a status entry whose own port is not in service (log entry 131). -/
theorem errorsAndTests : Obligations.ErrorsAndTests := by
  unfold Obligations.ErrorsAndTests
  intro s n0 now
  have hstay : s.on s.node = .next s := State.on_eq s s.node
  refine ⟨fun kind num k u hk hu hr hst => ?_, fun kind num addr bit k u hk hport hu hr hd => ?_, fun st ch bank row r hrow => ?_, fun f t rest hp => ?_,
    fun num hr => ?_, ?_, ?_, fun cls target pass addr bit x hx => ?_, ?_, fun hst hov hdue => ?_, fun hdue => ?_, fun via v => ?_⟩
  · have hexec : exec (.targetedTestStart kind num) s =
        s.on ({ n0 with rcv := { n0.rcv with units := Map.put n0.rcv.units (unitKey k num.toNat) { u with started := true } } }.bump Reg.targetedRun) := by
      show execTargetedTestStart kind num s = _
      unfold execTargetedTestStart
      dsimp only
      rw [hk]
      dsimp only
      rw [hu]
      dsimp only
      rw [if_neg (by rw [hr, hst]; simp)]
    refine ⟨_, hexec.trans (State.on_eq ..), ?_, ?_⟩
    · exact (Map.find_put ..).trans (if_pos rfl)
    · exact Node.reg_bump _ _ _ rfl
  · have hexec : ∀ pass, exec (.testResult kind num pass addr bit) s = s.on (n0.testResult now k num.toNat pass addr.toNat bit.toNat) := by
      intro pass
      show execTestResult kind num pass addr bit s = _
      unfold execTestResult
      rw [hk]
    have heq := fun pass => n0.testResult_eq now k num.toNat pass addr.toNat bit.toNat u hport hu hr
    have hframe := fun pass => n0.resulted_frame now k num.toNat u pass addr.toNat bit.toNat
    have hunit : ∀ pass, (n0.resulted now k num.toNat u pass addr.toNat bit.toNat).unitState? k num.toNat = some u := fun pass => by
      unfold Node.unitState?
      rw [(hframe pass).1]
      exact hu
    obtain ⟨hnone, htrans⟩ := (n0.resulted now k num.toNat u true addr.toNat bit.toNat).unitPasses_spec now k num.toNat (by rw [hunit, Option.any_some, hd])
    obtain ⟨hlast, -, hret, hrep⟩ := (n0.resulted now k num.toNat u false addr.toNat bit.toNat).unitFails_spec now k num.toNat addr.toNat bit.toNat
    obtain ⟨-, htest, hreg⟩ := hframe false
    rw [hreg _ (by decide)] at hlast
    refine ⟨⟨_, (hexec true).trans (State.on_eq ..), ?_, ?_⟩, fun hrow => ⟨_, (hexec false).trans (State.on_eq ..), ?_, ?_⟩,
      fun r hrow hs => ⟨_, (hexec false).trans (State.on_eq ..), ?_, ?_⟩⟩
    · rw [heq, if_pos rfl]; exact hnone
    · rw [heq, if_pos rfl, htrans, (hframe true).2.2 _ (by decide)]
    · rw [heq, if_neg (by simp)]; exact hlast
    · rw [heq, if_neg (by simp)]; exact hret hrow
    · rw [heq, if_neg (by simp)]; exact hlast
    · rw [heq, if_neg (by simp)]
      obtain ⟨hback, hsp⟩ := hrep r hrow (by rw [htest]; exact hs)
      exact ⟨hback, by rw [hsp, htest]⟩
  · obtain ⟨hdo, hno⟩ := n0.rowRepair_spec now st.val ch.val bank.toNat row.toNat r hrow
    have hexec : exec (.rowRepair st ch bank row) s = s.on (n0.rowRepair now st.val ch.val bank.toNat row.toNat) := rfl
    exact ⟨fun hm => ⟨_, hexec.trans (State.on_eq ..), hdo hm⟩, fun hm => by rw [hexec, hno hm]; exact hstay⟩
  · obtain ⟨n, pk, hn, hspec⟩ := repairWritten_spec s f t rest hp
    exact ⟨n, pk, hn, hspec⟩
  · obtain ⟨req, hlog, hu⟩ := n0.unitFault_spec now .chip num.toNat hr
    exact ⟨_, _, State.on_eq s _, hu, hlog, rfl, rfl, rfl⟩
  · intro q a ha hlost hphase hlate hwr hport hm p
    have hexec : exec (.stateLostMargin q) s = s.on (n0.endWithNotice now q.key stStateLost 5) := by
      show execStateLostMargin q s = _
      unfold execStateLostMargin
      dsimp only
      rw [ha]
      dsimp only
      rw [if_pos (by rw [hlost, hm, decide_eq_true hphase]; rfl)]
      unfold Node.stateLostEnd
      rw [ha]
      dsimp only
      rw [if_neg (by rw [hwr]; simp)]
    obtain ⟨m1, m2, r1, r2, hq⟩ := n0.endWithNotice_queue now q.key stStateLost 5 a ha hphase hlate hport
    exact ⟨_, m1, m2, r1, r2, hexec.trans (State.on_eq ..), hq⟩
  · intro w p hin hbase hstate hw hd hr t hp hu
    have hexec : exec .selftestSliceStart s = s.on (n0.startSlice now w) := by
      show execSelftestSliceStart s = _
      unfold execSelftestSliceStart
      dsimp only
      rw [if_neg (by rw [show s.node.inRounds = true from hin, decide_eq_false (Nat.not_lt.mpr hbase)]; rcases hstate with h | h | h <;> rw [h] <;> decide), hw]
      rfl
    exact ⟨_, hexec.trans (State.on_eq ..), n0.startSlice_spec now w p hd hr hp hu⟩
  · have hexec : exec (.selftestSliceEnd cls target pass addr bit) s = if x.winEnd < now then s.on n0 else s.on (n0.endSlice now x pass addr.toNat bit.toNat) := by
      show execSelftestSliceEnd cls target pass addr bit s = _
      unfold execSelftestSliceEnd
      rw [hx]
    refine ⟨fun hend => by rw [hexec, if_pos hend]; exact hstay, fun hend => ?_⟩
    rw [hexec, if_neg (Nat.not_lt.mpr hend)]
    obtain ⟨hgone, hrun, hfail⟩ := n0.endSlice_spec now x pass addr.toNat bit.toNat
    exact ⟨_, State.on_eq .., hgone, hrun, hfail⟩
  · refine ⟨_, State.on_eq s _, fun x => ?_⟩
    rw [Node.stopSlices_running, decide_eq_false_iff_not, Nat.not_le]
  · have hexec : exec .cycleOverrun s = s.on (n0.overrunNoted) := by
      show execCycleOverrun s = _
      unfold execCycleOverrun
      dsimp only
      rw [if_neg (by rw [show s.node.test.started = true from hst, show s.node.test.overrun = false from hov,
        decide_eq_false (Nat.not_le.mpr hdue)]; decide)]
      rfl
    exact ⟨_, hexec.trans (State.on_eq ..), n0.overrunNoted_spec⟩
  · show execCycleOverrun s = _
    unfold execCycleOverrun
    dsimp only
    rw [if_pos (by rw [decide_eq_true (show s.clock.tick ≤ s.node.reg Reg.cycleStart + s.node.reg Reg.cycleTicks from hdue)]; simp)]
    exact hstay
  · refine State.accepts_of s (.testReq via v) via 0x3604 1 v (fun n => n.testReq now v) _ rfl ?_
    obtain ⟨a, j, haw⟩ := n0.noteAwl_sec via
    rw [haw]
    intro num
    generalize hm : ({ n0 with sec := { n0.sec with awlUsed := a, jtagUsed := j } } : Node) = m
    have ht : n0.test = m.test := by rw [← hm]
    have hl : n0.links = m.links := by rw [← hm]
    have hr : n0.regs = m.regs := by rw [← hm]
    have hu : n0.retired = m.retired := by rw [← hm]; rfl
    have hp : n0.portReg = m.portReg := by rw [← hm]; rfl
    have hpo : n0.port = m.port := by rw [← hm]; rfl
    rw [ht, hl, hu, hp, hpo, Node.reg_congr hr]
    exact ⟨fun h => m.testReq_unknown now v h, fun h hn => m.testReq_port now v h hn, fun k h hk hne => m.testReq_unit now v k h hk hne⟩

end Sys2Proof.Machine
end

section
/-!
The host link, resets of its functions, slow-tier ports and function 0 (R520 to R533, R549): O50.
-/

namespace Sys2Proof.Machine

/-! ### Tables -/

/-- What a table holds under a key is an entry's value, or the default. -/
theorem Map.get_mem {α : Type} (d : α) (m : Map α) (k : Nat) : Map.get d m k = d ∨ (k, Map.get d m k) ∈ m := by
  induction m with
  | nil => exact .inl rfl
  | cons e t ih =>
    obtain ⟨j, v⟩ := e
    rw [Map.get]
    by_cases h : j = k
    · rw [if_pos h]
      exact .inr (by rw [h]; exact List.mem_cons_self)
    · rw [if_neg h]
      exact ih.imp_right (List.mem_cons_of_mem _)

theorem Map.find_mem {α : Type} (m : Map α) (k : Nat) (v : α) (h : Map.find m k = some v) : (k, v) ∈ m := by
  induction m with
  | nil => cases h
  | cons e t ih =>
    obtain ⟨j, w⟩ := e
    rw [Map.find] at h
    by_cases hj : j = k
    · rw [if_pos hj] at h
      obtain rfl := Option.some.inj h
      exact hj ▸ List.mem_cons_self
    · rw [if_neg hj] at h
      exact List.mem_cons_of_mem _ (ih h)

/-- What a normalised table holds came from an entry of the key. -/
theorem Map.get_norm_mem {α : Type} [DecidableEq α] (d : α) (m : Map α) (f : Nat → α → α) (k : Nat) :
    Map.get d (Map.norm d m f) k = d ∨ ∃ v, Map.get d (Map.norm d m f) k = f k v := by
  refine (Map.get_mem d (Map.norm d m f) k).imp_right fun h => ?_
  obtain ⟨x, -, hx⟩ := List.mem_map.mp (List.mem_filter.mp h).1
  obtain ⟨hk, hv⟩ := Prod.mk.inj hx
  exact ⟨x.2, by rw [← hv, hk]⟩

/-- What a changed table holds under the key is a changed entry. -/
theorem Map.find_modify_same {α : Type} (m : Map α) (k : Nat) (f : α → α) (v : α) (h : Map.find (Map.modify m k f) k = some v) : ∃ w, v = f w := by
  obtain ⟨x, -, hx⟩ := List.mem_map.mp (Map.find_mem _ _ _ h)
  by_cases hk : x.1 = k
  · rw [if_pos hk] at hx
    exact ⟨x.2, (congrArg Prod.snd hx).symm⟩
  · rw [if_neg hk] at hx
    exact absurd (congrArg Prod.fst hx) hk

/-! ### Function-level resets -/

theorem Node.dropHostReplies_frame (n : Node) (f : OutMsg → Bool) : (n.dropHostReplies f).host = { n.host with out := n.host.out.filter fun m => !f m } ∧
    (n.dropHostReplies f).adm.pool = n.adm.pool ∧ (n.dropHostReplies f).comp = n.comp ∧
    ∀ k, k ≠ Reg.hostRepliesLost → (n.dropHostReplies f).reg k = n.reg k := by
  unfold Node.dropHostReplies
  dsimp only
  generalize hm : ({ n with host := { n.host with out := n.host.out.filter fun m => !f m } } : Node) = m
  have hfold : m.Keeps (fun n => { n with regs := [], adm := { n.adm with admitted := [] } }) [Reg.hostRepliesLost]
      (m.foldl (n.host.out.filter f) fun n m => match m.reply with
        | some r => if r.final then (n.bump Reg.hostRepliesLost).answered r.session r.requestId else n.bump Reg.hostRepliesLost
        | none => n) := by
    refine .foldl (fun n x => ?_) _ _
    cases x.reply with
    | none => exact .refl ..
    | some r =>
      have hb : n.Keeps (fun n => { n with regs := [], adm := { n.adm with admitted := [] } }) [Reg.hostRepliesLost] (n.bump Reg.hostRepliesLost) :=
        .bump rfl (by decide)
      exact .ite (fun _ => hb.trans (.of_regs rfl rfl)) fun _ => hb
  refine ⟨?_, ?_, ?_, fun k hk => ?_⟩
  · refine (congrArg (fun x : Node => x.host) hfold.core_eq).trans ?_
    rw [← hm]
  · refine (congrArg (fun x : Node => x.adm.pool) hfold.core_eq).trans ?_
    rw [← hm]
  · refine (congrArg (fun x : Node => x.comp) hfold.core_eq).trans ?_
    rw [← hm]
  · refine (hfold.reg_eq k (by simpa using hk)).trans ?_
    rw [← hm]
    rfl

/-- A request goes to a host function. -/
def Node.repliesTo (n : Node) (port : Nat) (r : Request) : Bool := (n.session r.sess).state != 0 && (n.session r.sess).replyPort == port

/-- The node with every request of a function ended (Table 21-5). -/
def Node.flrEnded (n : Node) (now s : Nat) : Node :=
  ((n.endWaiting now stAborted fun w => n.repliesTo (0x101 + s) w.req).endAll now stAborted 0 false fun q => n.repliesTo (0x101 + s) q.req).dropHostReplies
    fun m => m.dst == 0x101 + s

/-- A mailbox stopped. -/
def Mailbox.stop (m : Mailbox) : Mailbox := { m with enable := false, mstatus := 0 }

/-- The mailboxes with a slice's stopped. -/
def stopBoxes (b : Slice) (boxes : Map Mailbox) : Map Mailbox :=
  Map.norm {} boxes fun x m => if decide (b.sessFirst ≤ x) && decide (x < b.sessFirst + b.sessCount) then m.stop else m

theorem Node.flr_eq (n : Node) (now s : Nat) : n.flr now s =
    let m := n.flrEnded now s
    let k := { m with host := { m.host with boxes := stopBoxes (m.slice s) m.host.boxes, dma := m.host.dma.filter (fun d => d.func != s + 1),
                                            reads := m.host.reads.filter fun r => r.slice != s } }
    k.setFunc s { k.func s with dmaEnable := false } := rfl

theorem Node.flrEnded_frame (n : Node) (now s : Nat) : (n.flrEnded now s).slice s = n.slice s ∧
    (∀ m ∈ (n.flrEnded now s).host.out, m.dst ≠ 0x101 + s) ∧
    (n.flrEnded now s).adm.pool = n.adm.pool.filter fun w => !n.repliesTo (0x101 + s) w.req := by
  unfold Node.flrEnded
  generalize hf : (fun w : Waiting => n.repliesTo (0x101 + s) w.req) = f
  have hends : ({ n with adm := { n.adm with pool := n.adm.pool.filter fun w => !f w } } : Node).Ends
      ((n.endWaiting now stAborted f).endAll now stAborted 0 false fun q => n.repliesTo (0x101 + s) q.req) := by
    refine Node.Keeps.trans ?_ (Node.ends_endAll ..)
    exact .foldl (fun n w => n.ends_queueReply ..) _ _
  generalize (n.endWaiting now stAborted f).endAll now stAborted 0 false (fun q => n.repliesTo (0x101 + s) q.req) = m at hends
  obtain ⟨hhost, hpool, hcomp, -⟩ := m.dropHostReplies_frame fun m => m.dst == 0x101 + s
  refine ⟨?_, fun x hx => ?_, ?_⟩
  · have hs := congrArg (fun x : Node => x.comp.slices) hends.core_eq
    exact congrArg (fun t => Map.get {} t s) ((congrArg (fun c => c.slices) hcomp).trans hs)
  · rw [hhost] at hx
    have := (List.mem_filter.mp hx).2
    simpa using this
  · rw [hpool]
    have := congrArg (fun x : Node => x.adm.pool) hends.core_eq
    refine Eq.trans this ?_
    subst hf
    rfl

theorem Mailbox.stop_spec (m : Mailbox) : m.stop.enable = false ∧ m.stop.mstatus = 0 := ⟨rfl, rfl⟩

theorem stopBoxes_get (b : Slice) (boxes : Map Mailbox) (x : Nat) (h : b.sessFirst ≤ x) (h' : x < b.sessFirst + b.sessCount) :
    (Map.get {} (stopBoxes b boxes) x).enable = false ∧ (Map.get {} (stopBoxes b boxes) x).mstatus = 0 := by
  rcases Map.get_norm_mem ({} : Mailbox) boxes (fun x m => if decide (b.sessFirst ≤ x) && decide (x < b.sessFirst + b.sessCount) then m.stop else m) x with hd | ⟨v, hv⟩
  · rw [stopBoxes, hd]
    exact ⟨rfl, rfl⟩
  · rw [stopBoxes, hv, if_pos (by rw [decide_eq_true h, decide_eq_true h']; rfl)]
    exact v.stop_spec

/-- What a reset of a virtual function leaves (Table 21-5). -/
theorem Node.flr_spec (n : Node) (now s : Nat) : ((n.flr now s).func s).dmaEnable = false ∧ (∀ m ∈ (n.flr now s).host.out, m.dst ≠ 0x101 + s) ∧
    (∀ d ∈ (n.flr now s).host.dma, d.func ≠ s + 1) ∧ (∀ r ∈ (n.flr now s).host.reads, r.slice ≠ s) ∧
    (∀ x, (n.slice s).sessFirst ≤ x → x < (n.slice s).sessFirst + (n.slice s).sessCount →
      ((n.flr now s).box x).enable = false ∧ ((n.flr now s).box x).mstatus = 0) ∧
    (∀ w ∈ (n.flr now s).adm.pool, (n.session w.req.sess).state = 0 ∨ (n.session w.req.sess).replyPort ≠ 0x101 + s) := by
  obtain ⟨hslice, hout, hpool⟩ := n.flrEnded_frame now s
  rw [Node.flr_eq]
  generalize n.flrEnded now s = m at hslice hout hpool
  dsimp only
  rw [hslice]
  refine ⟨?_, hout, fun d hd => ?_, fun r hr => ?_, fun x h h' => stopBoxes_get _ _ x h h', fun w hw => ?_⟩
  · exact (congrArg VFunc.dmaEnable ((Map.get_set ..).trans (if_pos rfl)))
  · simpa using (List.mem_filter.mp hd).2
  · simpa using (List.mem_filter.mp hr).2
  · have hw' : w ∈ n.adm.pool.filter fun w => !n.repliesTo (0x101 + s) w.req := hpool ▸ hw
    have := (List.mem_filter.mp hw').2
    unfold Node.repliesTo at this
    by_cases h0 : (n.session w.req.sess).state = 0
    · exact .inl h0
    · right
      simpa [h0] using this

/-! ### The link -/

/-- What an event leaves of the host port: all but its event queue and what waits to be signalled. -/
theorem Node.event_host (n : Node) (c : Nat) (d : Bytes) : ∃ q t r m, (n.event c d).host = { n.host with eventQueue := q, eqTail := t, eqDrops := r, msix := m } := by
  have hwrite : ∀ (k : Node) (p : Bytes), ∃ q t r m, (k.eventQueueWrite p).host = { k.host with eventQueue := q, eqTail := t, eqDrops := r, msix := m } := by
    intro k p
    unfold Node.eventQueueWrite
    dsimp only
    split
    · exact ⟨_, _, _, _, rfl⟩
    · exact ⟨_, _, _, _, rfl⟩
  unfold Node.event
  dsimp only
  generalize (n.mgmt.events ++ _).drop _ = l
  obtain ⟨m, h⟩ := Node.ringSendBoth_eq
    { n.setReg Reg.eventSeq ((n.reg Reg.eventSeq + 1) % 2 ^ 32) with mgmt := { (n.setReg Reg.eventSeq ((n.reg Reg.eventSeq + 1) % 2 ^ 32)).mgmt with events := l } }
    0x20 0xFFFF (leBytes 4 ((n.reg Reg.eventSeq + 1) % 2 ^ 32) ++ leBytes 2 c ++ leBytes 2 d.length ++ d)
  rw [h]
  exact hwrite _ _

/-- The link lost (R529). -/
theorem Node.linkLost_spec (n : Node) : n.linkLost.host = { n.host with out := [], linkUp := false } ∧ n.linkLost.reg Reg.hostSendBytes = 0 := by
  unfold Node.linkLost
  dsimp only
  have hr : (n.setReg Reg.hostSendBytes 0).reg Reg.hostSendBytes = 0 := (Node.reg_setReg ..).trans (if_pos rfl)
  have hh : (n.setReg Reg.hostSendBytes 0).host = n.host := rfl
  generalize n.setReg Reg.hostSendBytes 0 = m at hr hh
  obtain ⟨hhost, -, -, hreg⟩ := m.dropHostReplies_frame fun _ => true
  refine ⟨?_, (hreg _ (by decide)).trans hr⟩
  rw [hhost, hh]
  congr 1
  exact List.filter_eq_nil_iff.mpr fun _ _ => by simp

theorem Node.hostTrain_spec (n : Node) : n.hostTrain.host.linkUp = true ∧
    (n.hostTrain.reg Reg.hostSendBytes = 64000 ∨ n.hostTrain.reg Reg.hostSendBytes = 32000 ∨ n.hostTrain.reg Reg.hostSendBytes = 0) := by
  refine ⟨rfl, ?_⟩
  have h : ∃ k : Nat, n.hostTrain.reg Reg.hostSendBytes = if k = 0 then 64000 else if k = 1 then 32000 else 0 := ⟨_, (Node.reg_setReg ..).trans (if_pos rfl)⟩
  obtain ⟨k, hk⟩ := h
  rw [hk]
  split_ifs <;> simp

/-! ### Slow-tier ports -/

theorem Node.setSlowPort_octet (n : Node) (p st cap : Nat) (hs : st < 256) : (n.setSlowPort p st cap).octet Reg.slowPortState p = st := by
  unfold Node.setSlowPort
  dsimp only
  generalize leNat _ = caps
  have h := (n.setReg Reg.slowPortCap caps).octet_setOctet Reg.slowPortState p st
  generalize (n.setReg Reg.slowPortCap caps).setOctet Reg.slowPortState p st = m at h ⊢
  rw [Node.octet, Node.reg_setReg, if_neg (by decide)]
  exact h.trans (Nat.mod_eq_of_lt hs)

theorem Node.setSlowPort_zero (n : Node) (st cap : Nat) : (n.setSlowPort 1 st cap).octet Reg.slowPortState 0 = n.octet Reg.slowPortState 0 := by
  unfold Node.setSlowPort
  dsimp only
  generalize leNat _ = caps
  have h := (n.setReg Reg.slowPortCap caps).octet_zero_setOctet_one Reg.slowPortState st
  generalize (n.setReg Reg.slowPortCap caps).setOctet Reg.slowPortState 1 st = m at h ⊢
  rw [Node.octet, Node.reg_setReg, if_neg (by decide)]
  refine h.trans ?_
  rw [Node.octet, Node.reg_setReg, if_neg (by decide)]
  rfl

theorem Node.setSlowPort_frame (n : Node) (p st cap : Nat) : (n.setSlowPort p st cap).slow = n.slow ∧
    (n.setSlowPort p st cap).reg Reg.capUnits = n.reg Reg.capUnits := by
  unfold Node.setSlowPort
  dsimp only
  generalize leNat _ = caps
  refine ⟨rfl, ?_⟩
  rw [Node.reg_setReg, if_neg (by decide), Node.setOctet, Node.reg_setReg, if_neg (by decide), Node.reg_setReg, if_neg (by decide)]

/-- The device that an enumeration finds is good enough (R531). -/
def SlowPort.good (d : SlowPort) : Bool := d.present && decide (d.latencyNs ≤ 1500) && decide (51000 ≤ d.bandwidth)

/-- The state of a port whose device is admitted, refused or absent (Table 21-7). -/
def SlowPort.stateCode (d : SlowPort) : Nat := if d.up then 1 else if d.present then 2 else 0

theorem SlowPort.good_found (d : SlowPort) :
    (d.present && !(d.present && (decide (1500 < d.latencyNs) || decide (d.bandwidth < 51000)))) = d.good := by
  have hnot : ∀ a b : Nat, decide (a ≤ b) = !decide (b < a) := fun a b => by
    rw [← decide_not]
    exact decide_eq_decide.mpr Nat.not_lt.symm
  unfold SlowPort.good
  rw [hnot, hnot]
  generalize decide (1500 < d.latencyNs) = x
  generalize decide (d.bandwidth < 51000) = y
  cases d.present <;> cases x <;> cases y <;> rfl

theorem SlowPort.stateCode_found (d : SlowPort) (r : Bool) :
    (if !d.present then 0 else if r then 2 else 1) = SlowPort.stateCode { d with up := d.present && !r } := by
  obtain ⟨up, cap, lat, bw, present, ident⟩ := d
  cases present <;> cases r <;> rfl

theorem Node.enumeratePort_spec (n : Node) (p : Nat) (h : n.hasUnit (1 + p) = true) : ∃ d : SlowPort, (n.enumeratePort p).slow = Map.put n.slow p d ∧
    d.up = d.good ∧ (n.enumeratePort p).octet Reg.slowPortState p = d.stateCode ∧
    (p = 1 → (n.enumeratePort p).octet Reg.slowPortState 0 = n.octet Reg.slowPortState 0) ∧ (n.enumeratePort p).reg Reg.capUnits = n.reg Reg.capUnits := by
  unfold Node.enumeratePort
  rw [if_neg (by rw [h]; simp)]
  dsimp only
  generalize SlowPort.ofBytes (n.draw 29).1 = d
  have hk : ∀ k, (n.draw 29).2.reg k = n.reg k := fun _ => rfl
  have hsl : (n.draw 29).2.slow = n.slow := rfl
  generalize (n.draw 29).2 = k at hk hsl
  generalize hr : (d.present && (decide (1500 < d.latencyNs) || decide (d.bandwidth < 51000))) = refused
  generalize hm : ({ k with slow := Map.put k.slow p { d with up := d.present && !refused } } : Node) = m
  have hev : (if refused = true then m.event 0x0020 (leBytes 1 (0x40 + p) ++ leBytes 1 9) else m).slow = m.slow ∧
      ∀ j, j ≠ Reg.eventSeq → (if refused = true then m.event 0x0020 (leBytes 1 (0x40 + p) ++ leBytes 1 9) else m).reg j = m.reg j := by
    split
    · exact ⟨Node.event_slow .., fun j hj => by rw [Node.reg_event, if_neg hj]⟩
    · exact ⟨rfl, fun _ _ => rfl⟩
  generalize (if refused = true then m.event 0x0020 (leBytes 1 (0x40 + p) ++ leBytes 1 9) else m) = l at hev
  obtain ⟨hls, hlr⟩ := hev
  have hlreg : ∀ j, j ≠ Reg.eventSeq → l.reg j = n.reg j := fun j hj => by rw [hlr j hj, ← hm]; exact hk j
  generalize (if (d.present && !refused) = true then d.capacity else 0) = cap
  refine ⟨{ d with up := d.present && !refused }, ?_, ?_, ?_, ?_, ?_⟩
  · rw [(Node.setSlowPort_frame ..).1, hls, ← hm, hsl]
  · rw [← hr]
    exact d.good_found
  · rw [Node.setSlowPort_octet _ _ _ _ (by split_ifs <;> decide)]
    exact d.stateCode_found refused
  · rintro rfl
    rw [Node.setSlowPort_zero, Node.octet, Node.octet, hlreg _ (by decide)]
  · rw [(Node.setSlowPort_frame ..).2, hlreg _ (by decide)]

theorem Node.enumeratePort_none (n : Node) (p : Nat) (h : n.hasUnit (1 + p) = false) : n.enumeratePort p = n := by
  unfold Node.enumeratePort
  rw [if_pos (by rw [h]; rfl)]

theorem Node.hasUnit_congr {n m : Node} (h : m.reg Reg.capUnits = n.reg Reg.capUnits) (b : Nat) : m.hasUnit b = n.hasUnit b := by
  unfold Node.hasUnit
  rw [h]

theorem Node.enumeratePort_caps (n : Node) (p : Nat) : (n.enumeratePort p).reg Reg.capUnits = n.reg Reg.capUnits := by
  by_cases h : n.hasUnit (1 + p) = true
  · obtain ⟨-, -, -, -, -, hc⟩ := n.enumeratePort_spec p h
    exact hc
  · rw [n.enumeratePort_none p (Bool.eq_false_iff.mpr h)]

/-- Both ports enumerated (R531). -/
theorem Node.enumerate_spec (n : Node) (p : Nat) (hp : p < 2) (h : n.hasUnit (1 + p) = true) : ∃ d : SlowPort,
    Map.find ((n.enumeratePort 0).enumeratePort 1).slow p = some d ∧ d.up = d.good ∧
    ((n.enumeratePort 0).enumeratePort 1).octet Reg.slowPortState p = d.stateCode := by
  have hcaps := n.enumeratePort_caps 0
  obtain rfl | rfl : p = 0 ∨ p = 1 := by omega
  · obtain ⟨d, hs, hu, ho, -⟩ := n.enumeratePort_spec 0 h
    have hf : Map.find (n.enumeratePort 0).slow 0 = some d := by rw [hs, Map.find_put, if_pos rfl]
    by_cases h1 : (n.enumeratePort 0).hasUnit (1 + 1) = true
    · obtain ⟨d', hs', -, -, hz, -⟩ := (n.enumeratePort 0).enumeratePort_spec 1 h1
      exact ⟨d, by rw [hs', Map.find_put, if_neg (by decide)]; exact hf, hu, (hz rfl).trans ho⟩
    · rw [Node.enumeratePort_none _ 1 (Bool.eq_false_iff.mpr h1)]
      exact ⟨d, hf, hu, ho⟩
  · obtain ⟨d, hs, hu, ho, -⟩ := (n.enumeratePort 0).enumeratePort_spec 1 (by rw [Node.hasUnit_congr hcaps]; exact h)
    exact ⟨d, by rw [hs, Map.find_put, if_pos rfl], hu, ho⟩

theorem Node.slowPortError_spec (n : Node) (now p : Nat) (h : n.octet Reg.slowPortState p = 1) : (n.slowPortError now p).octet Reg.slowPortState p = 3 ∧
    ∀ d, Map.find (n.slowPortError now p).slow p = some d → d.up = false := by
  unfold Node.slowPortError
  rw [if_neg (not_not.mpr h)]
  dsimp only
  generalize Node.foldl _ _ _ = m
  refine ⟨Node.setSlowPort_octet _ _ _ _ (by decide), fun d hd => ?_⟩
  rw [(Node.setSlowPort_frame ..).1] at hd
  obtain ⟨w, rfl⟩ := Map.find_modify_same m.slow p (fun d => { d with up := false }) d hd
  rfl

theorem Node.rescan_spec (n : Node) (v : BitVec 8) :
    (v = 1 → (∀ e ∈ n.tiers.slow, e.2.used = false) → ∀ p, p < 2 → n.hasUnit (1 + p) = true →
      ∃ d : SlowPort, Map.find (n.rescan v.toNat).slow p = some d ∧ d.up = d.good ∧ (n.rescan v.toNat).octet Reg.slowPortState p = d.stateCode) ∧
    (v ≠ 1 ∨ (∃ e ∈ n.tiers.slow, e.2.used = true) → (n.rescan v.toNat).slow = n.slow ∧ (n.rescan v.toNat).regs = n.regs) := by
  unfold Node.rescan
  refine ⟨fun hv hfree p hp hu => ?_, fun h => ?_⟩
  · rw [if_neg]
    · exact n.enumerate_spec p hp hu
    · rintro (h | h)
      · exact h (by rw [hv]; rfl)
      · obtain ⟨e, he, hused⟩ := List.any_eq_true.mp h
        rw [hfree e he] at hused
        cases hused
  · rw [if_pos]
    · exact ⟨rfl, rfl⟩
    · refine h.imp (fun h he => h (BitVec.eq_of_toNat_eq he)) fun h => ?_
      obtain ⟨e, he, hused⟩ := h
      exact List.any_eq_true.mpr ⟨e, he, hused⟩

/-! ### Function 0 -/

/-- The node with a command in the buffer of function 0 (R523). -/
def Node.commanded (n : Node) (v : Nat) (frame : Bytes) : Node := { n with host := { n.host with cmdDoorbell := v, command := frame, cmdOpen := true } }

/-- A read command through function 0 (R523): its response is what the read gives, behind a header of 16 bytes. -/
theorem State.serve_read (s : State) (via : Via) (payload : Bytes) (flags : Nat) (items : List (Nat × Nat)) (hsrc : via.src = .f0)
    (hr : s.node.reachable .f0 = true) (hp : readPairs payload = some items) :
    ∃ n, s.serve via 0x10 (State.service via 0x10 flags 65536 65536 payload) = s.withNode n ∧ n.host.rspSeq = via.seq.toNat ∧ n.host.cmdOpen = false ∧
      (0, 0) ∈ n.host.msix ∧ n.host.response.drop 16 = ((s.node.noteAwl via).readItems s.clock.tick via 65536 items []).2 := by
  obtain ⟨src, auth, awl, sq⟩ := via
  obtain rfl : src = .f0 := hsrc
  have hserve : s.serve ⟨.f0, auth, awl, sq⟩ 0x10 (State.service ⟨.f0, auth, awl, sq⟩ 0x10 flags 65536 65536 payload) =
      s.withNode (((s.node.noteAwl ⟨.f0, auth, awl, sq⟩).readItems s.clock.tick ⟨.f0, auth, awl, sq⟩ 65536 items []).1.respond ⟨.f0, auth, awl, sq⟩ 0x10
        ((s.node.noteAwl ⟨.f0, auth, awl, sq⟩).readItems s.clock.tick ⟨.f0, auth, awl, sq⟩ 65536 items []).2) := by
    unfold State.serve
    dsimp only
    rw [if_neg (by rw [hr]; simp)]
    have hgo : State.service ⟨.f0, auth, awl, sq⟩ 0x10 flags 65536 65536 payload (s.put (s.node.noteAwl ⟨.f0, auth, awl, sq⟩)) =
        (s.put ((s.node.noteAwl ⟨.f0, auth, awl, sq⟩).readItems s.clock.tick ⟨.f0, auth, awl, sq⟩ 65536 items []).1,
          some ((s.node.noteAwl ⟨.f0, auth, awl, sq⟩).readItems s.clock.tick ⟨.f0, auth, awl, sq⟩ 65536 items []).2) := by
      unfold State.service
      rw [if_pos rfl]
      unfold State.serveRead
      rw [hp]
      rfl
    rw [show s.node.seen .f0 sq.toNat s.clock.tick = .fresh from rfl]
    dsimp only
    rw [hgo]
    rfl
  refine ⟨_, hserve, rfl, rfl, ?_, ?_⟩
  · generalize ((s.node.noteAwl ⟨.f0, auth, awl, sq⟩).readItems s.clock.tick ⟨.f0, auth, awl, sq⟩ 65536 items []).1 = m
    show (0, 0) ∈ (if (0, 0) ∈ m.host.msix then m.host.msix else m.host.msix ++ [(0, 0)])
    split
    · assumption
    · simp
  · show List.drop 16 (_ ++ _) = _
    rw [List.drop_left' (by simp [leBytes_length])]

/-! ### The obligation -/

/-- Settles O50, by what each reset, link change and port error leaves. The numbering of SLOW_PORT_ERROR's kinds is the model's (log entry 97), and so is the
layout of IDE_KM (log entry 95). -/
theorem hostLink : Obligations.HostLink := by
  unfold Obligations.HostLink
  intro s n0 now
  have hstay : s.on s.node = .next s := State.on_eq s s.node
  refine ⟨fun vf => ⟨_, State.on_eq s _, n0.flr_spec now vf.val⟩, ⟨_, State.on_eq s _, rfl, rfl, rfl, rfl, rfl, rfl⟩, fun hup => ?_, fun hdown => ?_, fun hdown => ?_,
    fun hup => ?_, ?_, fun v hv => ?_, fun p kind hp => ⟨fun hk h1 => ?_, fun hk => ?_⟩, fun via v => ?_, ?_, fun a len hr => ?_⟩
  · have hexec : exec .hostLinkDown s = s.on (n0.linkLost.event 0x0020 (leBytes 1 0x50 ++ leBytes 1 11)) := by
      show execHostLinkDown s = _
      unfold execHostLinkDown
      dsimp only
      rw [if_neg (by rw [show s.node.host.linkUp = true from hup]; simp)]
    obtain ⟨hhost, hreg⟩ := n0.linkLost_spec
    obtain ⟨q, t, r, m, hev⟩ := n0.linkLost.event_host 0x0020 (leBytes 1 0x50 ++ leBytes 1 11)
    refine ⟨_, hexec.trans (State.on_eq ..), by rw [hev, hhost], by rw [hev, hhost], ?_⟩
    rw [Node.reg_event, if_neg (by decide), hreg]
  · show execHostLinkDown s = _
    unfold execHostLinkDown
    dsimp only
    rw [if_pos (by rw [show s.node.host.linkUp = false from hdown]; rfl)]
    exact hstay
  · have hexec : exec .hostLinkUp s = s.on n0.hostTrain := by
      show execHostLinkUp s = _
      unfold execHostLinkUp
      rw [if_neg (by rw [show s.node.host.linkUp = false from hdown]; simp)]
    exact ⟨_, hexec.trans (State.on_eq ..), n0.hostTrain_spec⟩
  · show execHostLinkUp s = _
    unfold execHostLinkUp
    rw [if_pos hup]
    exact hstay
  · obtain ⟨hhost, hreg⟩ := (n0.foldl (List.range 64) fun n f => n.flr now f).flr0.linkLost_spec
    exact ⟨_, State.on_eq s _, by rw [hhost], by rw [hhost]; rfl, by rw [hhost]; rfl, by rw [hhost], hreg⟩
  · have hexec : exec (.ideKm v) s = s.on ({ n0 with host := { n0.host with ideKeys := Map.put n0.host.ideKeys (fieldB v 0 1) (v.drop 1) } }.setReg Reg.ideStreams
        (Map.put n0.host.ideKeys (fieldB v 0 1) (v.drop 1)).length) := by
      show execIdeKm v s = _
      unfold execIdeKm
      dsimp only
      rw [if_neg (Nat.not_lt.mpr hv)]
    exact ⟨_, hexec.trans (State.on_eq ..), (Map.find_put ..).trans (if_pos rfl), fun k hk => (Map.find_put ..).trans (if_neg hk)⟩
  · have hexec : exec (.slowPortError p kind) s = s.on (n0.slowPortError now p.val) := by
      show execSlowPortError p kind s = _
      unfold execSlowPortError
      dsimp only
      rw [if_neg (Nat.not_le.mpr hp), if_pos hk]
    exact ⟨_, hexec.trans (State.on_eq ..), n0.slowPortError_spec now p.val h1⟩
  · have hexec : exec (.slowPortError p kind) s = s.on (n0.bump Reg.cxlCorrected) := by
      show execSlowPortError p kind s = _
      unfold execSlowPortError
      dsimp only
      rw [if_neg (Nat.not_le.mpr hp), if_neg (Nat.not_le.mpr hk)]
    exact ⟨_, hexec.trans (State.on_eq ..), Node.reg_bump _ _ _ rfl⟩
  · refine State.accepts_of s (.rescan via v) via 0x1220 4 [v] (fun n => n.rescan v.toNat) _ rfl ?_
    obtain ⟨a, j, haw⟩ := n0.noteAwl_sec via
    rw [haw]
    exact Node.rescan_spec { n0 with sec := { n0.sec with awlUsed := a, jtagUsed := j } } v
  · intro v frame hr flags via m
    refine ⟨fun hopen => ?_, fun items hopen hseq hlen hread hpairs => ?_⟩
    · have hexec : exec (.cmdDoorbell v frame) s = s.on n0.registerDrop := by
        show execCmdDoorbell v frame s = _
        unfold execCmdDoorbell
        dsimp only
        rw [if_neg (by rw [show s.node.reachable .f0 = true from hr]; simp), if_pos hopen]
      exact ⟨_, hexec.trans (State.on_eq ..), Node.reg_bump _ _ _ rfl, rfl⟩
    · obtain ⟨n, hn, hspec⟩ := State.serve_read (s.withNode (n0.commanded v.toNat frame)) via (sliceB frame 16 (fieldB frame 8 4)) flags items rfl hr hpairs
      refine ⟨n, ?_, hspec⟩
      show execCmdDoorbell v frame s = _
      unfold execCmdDoorbell
      dsimp only
      rw [if_neg (by rw [show s.node.reachable .f0 = true from hr]; simp), if_neg (by rw [show s.node.host.cmdOpen = false from hopen]; simp),
        if_neg (by rw [not_or]; exact ⟨not_not.mpr hseq, Nat.not_lt.mpr hlen⟩), hread]
      exact congrArg Host.Outcome.next hn
  · have hexec : exec (.space4Read a len) s =
        s.on { n0 with host := { n0.host with space4Data := s.space4 n0.host.space4 (a.toNat / 2 ^ 27) (a.toNat % 2 ^ 27) (Nat.min len 4096) } } := by
      show execSpace4Read a len s = _
      unfold execSpace4Read
      dsimp only
      rw [if_neg (by rw [show s.node.reachable .f0 = true from hr]; simp)]
    refine ⟨_, hexec.trans (State.on_eq ..), rfl, rfl, fun hl ho => ?_⟩
    show s.space4 n0.host.space4 (a.toNat / 2 ^ 27) (a.toNat % 2 ^ 27) (Nat.min len 4096) = _
    generalize a.toNat / 2 ^ 27 = sub at ho ⊢
    generalize a.toNat % 2 ^ 27 = byte
    generalize Nat.min len 4096 = k
    unfold State.space4
    have hauth : s.node.authentic { src := .f0, auth := s.node.host.unlocked, awl := false, seq := 0 } = false := hl
    dsimp only
    rw [if_pos (by rw [hauth, ho]; rfl)]

end Sys2Proof.Machine
end

section
/-!
DMA rings and attestation through the host port (R528): O49.
-/

namespace Sys2Proof.Machine

/-! ### Function rings -/

theorem Node.func_setFunc (n : Node) (s : Nat) (f : VFunc) : (n.setFunc s f).func s = f := (Map.get_set ..).trans (if_pos rfl)

/-- A function's ring, its size and base taken where the driver has not written them (log entry 93). -/
def Node.ringOf (n : Node) (s : Nat) : VFunc × Node :=
  let f := n.func s
  let (raw, n) := if f.dmaSize = 0 then n.draw 16 else ([], n)
  (if f.dmaSize = 0 then { f with dmaSize := 2 ^ (4 + fieldB raw 0 4 % 9), dmaBase := fieldB raw 4 8, dmaVector := fieldB raw 12 2 % 64 } else f, n)

theorem Node.ringOf_spec (n : Node) (s : Nat) : (n.ringOf s).1.dmaSize ≠ 0 ∧ ((n.func s).dmaSize ≠ 0 → (n.ringOf s).1 = n.func s) := by
  unfold Node.ringOf
  dsimp only
  by_cases h : (n.func s).dmaSize = 0
  · rw [if_pos h]
    exact ⟨(Nat.pow_pos (by decide)).ne', fun h' => absurd h h'⟩
  · rw [if_neg h]
    exact ⟨h, fun _ => rfl⟩

theorem execDmaTailDoorbell_bound (vf : Fin 64) (v : BitVec 32) (s : State) (h : (s.node.slice vf.val).state = .bound) :
    exec (.dmaTailDoorbell vf v) s =
      s.on ((s.node.ringOf vf.val).2.setFunc vf.val { (s.node.ringOf vf.val).1 with dmaTail := v.toNat, dmaEnable := true }) := by
  show execDmaTailDoorbell vf v s = _
  unfold execDmaTailDoorbell
  dsimp only
  rw [if_neg (not_not.mpr h)]
  rfl

/-! ### Attestation -/

/-- A function's attestation registers, taken where the driver has not written them (log entry 93). -/
def Node.attestOf (n : Node) (s : Nat) : VFunc × Node :=
  let f := n.func s
  let (raw, n) := if f.nonce = [] then n.draw 72 else ([], n)
  (if f.nonce = [] then { f with nonce := sliceB raw 0 64, reportAddr := fieldB raw 64 8 } else f, n)

theorem Node.attestOf_spec (n : Node) (s : Nat) : (n.attestOf s).2.regs = n.regs ∧ ((n.func s).nonce ≠ [] → (n.attestOf s).1 = n.func s) := by
  unfold Node.attestOf
  dsimp only
  by_cases h : (n.func s).nonce = []
  · rw [if_pos h]
    exact ⟨rfl, fun h' => absurd h h'⟩
  · rw [if_neg h, if_neg h]
    exact ⟨rfl, fun _ => rfl⟩

theorem Node.attestState_spec (n : Node) (v s a : Nat) (h : n.sec.attestDest = some (s, a)) :
    (n.attestState v).reg Reg.attestState = v ∧ (n.attestState v).sec = n.sec ∧ ((n.attestState v).func s).astatus = v := by
  have hm : (n.setReg Reg.attestState v).sec.attestDest = some (s, a) := h
  have hr : (n.setReg Reg.attestState v).reg Reg.attestState = v := (Node.reg_setReg ..).trans (if_pos rfl)
  have hs : (n.setReg Reg.attestState v).sec = n.sec := rfl
  unfold Node.attestState
  generalize n.setReg Reg.attestState v = m at hm hr hs
  dsimp only
  rw [hm]
  exact ⟨hr, hs, congrArg VFunc.astatus ((Map.get_set ..).trans (if_pos rfl))⟩

/-- What a request for a report leaves (R429). -/
theorem Node.attestReq_spec (n : Node) (tenant : Nat) (nonce : Bytes) (s a : Nat) (h1 : n.reg Reg.attestState ≠ 1) (h3 : n.reg Reg.attestState ≠ 3) :
    (n.attestReq tenant nonce (some (s, a))).reg Reg.attestState = 1 ∧ (n.attestReq tenant nonce (some (s, a))).sec.attestTenant = tenant ∧
    (n.attestReq tenant nonce (some (s, a))).sec.attestDest = some (s, a) ∧ ((n.attestReq tenant nonce (some (s, a))).func s).astatus = 1 ∧
    (n.attestReq tenant nonce (some (s, a))).sec.attestNonce = nonce := by
  unfold Node.attestReq
  rw [if_neg h1, if_neg h3]
  dsimp only
  generalize hm : ({ n with sec := { n.sec with attestTenant := tenant, attestNonce := nonce, attestSnap := [], attestDest := some (s, a) } } : Node) = m
  obtain ⟨hr, hsec, hf⟩ := m.attestState_spec 1 s a (by rw [← hm])
  rw [hr, hsec, hf, ← hm]
  exact ⟨rfl, rfl, rfl, rfl, rfl⟩

/-! ### Descriptors -/

theorem Node.dmaDone_spec (n : Node) (s i st : Nat) : ((n.dmaDone s i st).func s) = n.func s ∧
    (n.dmaDone s i st).host.writes = n.host.writes ++ [{ func := s + 1, addr := (n.func s).dmaBase + 32 * i + 23, bytes := [BitVec.ofNat 8 st] }] ∧
    (n.dmaDone s i st).host.dma = n.host.dma := by
  unfold Node.dmaDone
  dsimp only
  generalize hm : n.hostWrite (s + 1) ((n.func s).dmaBase + 32 * i + 23) [BitVec.ofNat 8 st] = m
  have hraise : ∀ v, ∃ x, m.raise (s + 1) v = { m with host := { m.host with msix := x } } := by
    intro v
    unfold Node.raise
    split
    · exact ⟨m.host.msix, rfl⟩
    · exact ⟨_, rfl⟩
  obtain ⟨x, hx⟩ := hraise (n.func s).dmaVector
  rw [hx, ← hm]
  exact ⟨rfl, rfl, rfl⟩

/-- A transfer's parts hold its data, in runs of at most 65,536 bytes, and the last one says how it ended (R528). -/
theorem dmaParts_spec (session func now : Nat) (last : Nat × Nat) (fuel addr : Nat) (data : Bytes) (h : data.length ≤ fuel * 65536) (hf : 0 < fuel) :
    ((dmaParts session func now last fuel addr data).map fun d => d.data).flatten = data ∧
    (∀ d ∈ dmaParts session func now last fuel addr data, d.session = session ∧ d.func = func ∧ d.data.length ≤ 65536) ∧
    ((dmaParts session func now last fuel addr data).getLast?.bind fun d => d.last) = some last := by
  induction fuel generalizing addr data with
  | zero => omega
  | succ fuel ih =>
    unfold dmaParts
    dsimp only
    split
    · next hl =>
      rw [List.take_of_length_le hl]
      exact ⟨by simp, by simpa using hl, rfl⟩
    · next hl =>
      have hpos : 0 < fuel := by
        rcases Nat.eq_zero_or_pos fuel with rfl | h'
        · omega
        · exact h'
      obtain ⟨hdata, hall, hlast⟩ := ih (addr + 65536 + 48) (data.drop 65536) (by rw [List.length_drop]; omega) hpos
      generalize dmaParts session func now last fuel (addr + 65536 + 48) (data.drop 65536) = parts at hdata hall hlast
      refine ⟨?_, ?_, ?_⟩
      · rw [List.map_cons, List.flatten_cons, hdata, List.take_append_drop]
      · intro d hd
        rcases List.mem_cons.mp hd with rfl | hd
        · exact ⟨rfl, rfl, by rw [List.length_take]; exact Nat.min_le_left ..⟩
        · exact hall d hd
      · cases parts with
        | nil => cases hlast
        | cons p t => exact hlast

theorem Node.readable_length (n : Node) (p off len : Nat) (h : 0 < len) : (n.readable p off len).1.length ≤ len := by
  unfold Node.readable
  cases n.expandedSlot p with
  | none => exact Nat.zero_le _
  | some b =>
    dsimp only
    cases (n.page p).t1 with
    | none => exact (sliceB_length ..).le
    | some g =>
      dsimp only
      split
      · split
        · exact Nat.zero_le _
        · exact (sliceB_length ..).le
      · cases hb : (List.range ((off + len - 1) / 64 + 1 - off / 64)).find? fun i => n.slotPoisoned g (off / 64 + i) (off / 64 + i) with
        | none => exact (sliceB_length ..).le
        | some i =>
          have hi := List.mem_range.mp (List.mem_of_find?_eq_some hb)
          refine (sliceB_length ..).le.trans ?_
          omega

theorem Node.readRun_length (n : Node) (fuel off len : Nat) : (n.readRun fuel off len).1.length ≤ len := by
  induction fuel generalizing off len with
  | zero => exact Nat.zero_le _
  | succ fuel ih =>
    unfold Node.readRun
    split
    · exact Nat.zero_le _
    · next h0 =>
      dsimp only
      have hmin : 0 < Nat.min len (16384 - off % 16384) := Nat.lt_min.mpr ⟨Nat.pos_of_ne_zero h0, by omega⟩
      have hle : Nat.min len (16384 - off % 16384) ≤ len := Nat.min_le_left ..
      generalize Nat.min len (16384 - off % 16384) = here at hmin hle
      have hr := n.readable_length (off / 16384) (off % 16384) here hmin
      generalize n.readable (off / 16384) (off % 16384) here = out at hr
      obtain ⟨b, ok⟩ := out
      have hi := ih (off + here) (len - here)
      generalize n.readRun fuel (off + here) (len - here) = rest at hi
      dsimp only at hr
      cases ok with
      | false => exact hr.trans hle
      | true =>
        dsimp only
        rw [List.length_append]
        omega

/-- The node with a function's next descriptor taken (R528). -/
def Node.dmaTaken (n : Node) (s : Nat) : Node :=
  n.setFunc s { n.func s with dmaHead := ((n.func s).dmaHead % (n.func s).dmaSize + 1) % (n.func s).dmaSize }

/-- The node with parts of a transfer queued. -/
def Node.withParts (n : Node) (parts : List DmaPart) : Node := { n with host := { n.host with dma := n.host.dma ++ parts } }

/-- The pages that a run of space 0 touches. -/
def runPages (src len : Nat) : List Nat := (List.range ((src + len - 1) / 16384 + 1 - src / 16384)).map fun j => src / 16384 + j

/-- The pages of a run that a slice may not read (R528). -/
def Node.foreignPages (n : Node) (s src len : Nat) : List Nat := (runPages src len).filter fun p => (n.page p).slice != s || (n.page p).state == .free

theorem Node.dmaDescriptor_eq (n : Node) (now s : Nat) (v : Bytes) (hb : (n.slice s).state = .bound) (he : (n.func s).dmaEnable = true)
    (hs : (n.func s).dmaSize ≠ 0) (ht : (n.func s).dmaTail % (n.func s).dmaSize ≠ (n.func s).dmaHead % (n.func s).dmaSize) :
    n.dmaDescriptor now s v =
      if fieldB v 24 8 ≠ 0 then (n.dmaTaken s).dmaDone s ((n.func s).dmaHead % (n.func s).dmaSize) 5
      else if fieldB v 22 1 ≠ 0 then (n.dmaTaken s).dmaDone s ((n.func s).dmaHead % (n.func s).dmaSize) 1
      else if fieldB v 20 2 < (n.slice s).sessFirst ∨ (n.slice s).sessFirst + (n.slice s).sessCount ≤ fieldB v 20 2 ∨ (n.session (fieldB v 20 2)).state ≠ 1 then
        (n.dmaTaken s).dmaDone s ((n.func s).dmaHead % (n.func s).dmaSize) 3
      else if fieldB v 16 4 = 0 ∨ 1048576 < fieldB v 16 4 ∨ fieldB v 0 8 / 2 ^ 51 % 8 ≠ 0 ∨ n.foreignPages s (fieldB v 0 8 % 2 ^ 51) (fieldB v 16 4) ≠ [] then
        (((n.foreignPages s (fieldB v 0 8 % 2 ^ 51) (fieldB v 16 4)).head?.bind fun p => (n.page p).t1).elim (n.dmaTaken s) fun g =>
          (n.dmaTaken s).domainFault now (g * 256)).dmaDone s ((n.func s).dmaHead % (n.func s).dmaSize) 2
      else
        (n.dmaTaken s).withParts (dmaParts (fieldB v 20 2) (s + 1) now
          ((n.func s).dmaHead % (n.func s).dmaSize, if ((n.dmaTaken s).readRun 65 (fieldB v 0 8 % 2 ^ 51) (fieldB v 16 4)).2 then 0 else 4) 17 (fieldB v 8 8)
          ((n.dmaTaken s).readRun 65 (fieldB v 0 8 % 2 ^ 51) (fieldB v 16 4)).1) := by
  unfold Node.dmaDescriptor
  dsimp only
  rw [if_neg (by
    rintro (h | h | h | h)
    · exact h hb
    · rw [he] at h; cases h
    · exact hs h
    · exact ht h)]
  rfl

theorem Node.foreignPages_eq_nil (n : Node) (s src len : Nat)
    (h : ∀ p, src / 16384 ≤ p → p ≤ (src + len - 1) / 16384 → (n.page p).slice = s ∧ (n.page p).state ≠ .free) : n.foreignPages s src len = [] := by
  refine List.filter_eq_nil_iff.mpr fun p hp => ?_
  obtain ⟨j, hj, rfl⟩ := List.mem_map.mp hp
  have hj' := List.mem_range.mp hj
  obtain ⟨hs, hf⟩ := h (src / 16384 + j) (Nat.le_add_right ..) (by omega)
  simp [hs, hf]

theorem Node.func_dmaTaken (n : Node) (s : Nat) :
    (n.dmaTaken s).func s = { n.func s with dmaHead := ((n.func s).dmaHead % (n.func s).dmaSize + 1) % (n.func s).dmaSize } := n.func_setFunc s _

/-! ### The obligation -/

/-- Settles O49, by the equation of the ring's next descriptor and the parts of a transfer (R528). The order of the DSTATUS codes and that a doorbell starts a
stopped ring again are the model's (log entry 96), and so is the size of a ring that no command sets (log entry 93). -/
theorem hostRings : Obligations.HostRings := by
  unfold Obligations.HostRings
  intro vf s n0 f sl
  refine ⟨fun v hb c hc => ?_, fun v hb => ?_, fun v hb => ⟨fun h1 => ?_, fun h1 hs1 hs3 => ?_⟩, ?_⟩
  · have hdrop : exec c s = s.on n0.registerDrop := by
      rcases List.mem_cons.mp hc with rfl | hc
      · show execDmaTailDoorbell vf v s = _
        unfold execDmaTailDoorbell
        dsimp only
        rw [if_pos hb]
      · obtain rfl := List.mem_singleton.mp hc
        show execAttestGo vf v s = _
        unfold execAttestGo
        dsimp only
        rw [if_pos hb]
    exact ⟨_, hdrop.trans (State.on_eq ..), Node.reg_bump _ _ _ rfl, rfl⟩
  · obtain ⟨hsize, hsame⟩ := n0.ringOf_spec vf.val
    refine ⟨_, (execDmaTailDoorbell_bound vf v s hb).trans (State.on_eq ..), ?_⟩
    rw [Node.func_setFunc]
    exact ⟨rfl, rfl, hsize, fun h => by rw [hsame h]⟩
  · show execAttestGo vf v s = _
    unfold execAttestGo
    dsimp only
    rw [if_neg (not_not.mpr hb), if_pos h1]
    exact State.on_eq s s.node
  · have hexec : exec (.attestGo vf v) s = s.on (((n0.attestOf vf.val).2.setFunc vf.val (n0.attestOf vf.val).1).attestReq sl.tenant
        (n0.attestOf vf.val).1.nonce (some (vf.val, (n0.attestOf vf.val).1.reportAddr))) := by
      show execAttestGo vf v s = _
      unfold execAttestGo
      dsimp only
      rw [if_neg (not_not.mpr hb), if_neg (not_not.mpr h1)]
      rfl
    obtain ⟨hregs, hsame⟩ := n0.attestOf_spec vf.val
    have hst : ((n0.attestOf vf.val).2.setFunc vf.val (n0.attestOf vf.val).1).reg Reg.attestState = n0.reg Reg.attestState := Node.reg_congr hregs _
    obtain ⟨hstate, htenant, hdest, hastatus, hnonce⟩ := ((n0.attestOf vf.val).2.setFunc vf.val (n0.attestOf vf.val).1).attestReq_spec sl.tenant
      (n0.attestOf vf.val).1.nonce vf.val (n0.attestOf vf.val).1.reportAddr (by rw [hst]; exact hs1) (by rw [hst]; exact hs3)
    exact ⟨_, _, hexec.trans (State.on_eq ..), hstate, htenant, hdest, hastatus, fun h => ⟨by rw [hnonce, hsame h], by rw [hsame h]⟩⟩
  · intro v hb he hs ht i m src len x ok done
    have hexec : exec (.dmaDescriptor vf v) s = s.on (n0.dmaDescriptor s.clock.tick vf.val v) := rfl
    have heq := n0.dmaDescriptor_eq s.clock.tick vf.val v hb he hs ht
    have hdone : ∀ st, n0.dmaDescriptor s.clock.tick vf.val v = (n0.dmaTaken vf.val).dmaDone vf.val i st → done st := by
      intro st h
      obtain ⟨hfunc, hwrites, hdma⟩ := (n0.dmaTaken vf.val).dmaDone_spec vf.val i st
      refine ⟨_, hexec.trans (State.on_eq ..), ?_, ?_, ?_⟩
      · rw [h, hfunc, Node.func_dmaTaken]
      · rw [h, hwrites, Node.func_dmaTaken]
        rfl
      · rw [h, hdma]
        rfl
    refine ⟨fun h5 => hdone 5 ?_, fun h5 h1 => hdone 1 ?_, fun h5 h1 h3 => hdone 3 ?_, fun data all h5 h1 hok hl0 hl hspace hpages hread => ?_⟩
    · rw [heq, if_pos h5]
    · rw [heq, if_neg (not_not.mpr h5), if_pos h1]
    · rw [heq, if_neg (not_not.mpr h5), if_neg (not_not.mpr h1), if_pos]
      by_contra hc
      obtain ⟨hlo, hc⟩ := not_or.mp hc
      obtain ⟨hhi, hst⟩ := not_or.mp hc
      exact h3 ⟨Nat.not_lt.mp hlo, Nat.not_le.mp hhi, not_not.mp hst⟩
    · obtain ⟨hlo, hhi, hst⟩ := hok
      have hlen := m.readRun_length 65 src len
      rw [hread] at hlen
      obtain ⟨hdata, hall, hlast⟩ := dmaParts_spec x (vf.val + 1) s.clock.tick (i, if all then 0 else 4) 17 (fieldB v 8 8) data
        (by have := hlen.trans hl; simp only at this; omega) (by decide)
      have hn : n0.dmaDescriptor s.clock.tick vf.val v =
          m.withParts (dmaParts x (vf.val + 1) s.clock.tick (i, if all then 0 else 4) 17 (fieldB v 8 8) data) := by
        rw [heq, if_neg (not_not.mpr h5), if_neg (not_not.mpr h1), if_neg, if_neg]
        · have hm : (n0.dmaTaken vf.val).readRun 65 (fieldB v 0 8 % 2 ^ 51) (fieldB v 16 4) = (data, all) := hread
          rw [hm]
          rfl
        · rintro (h | h | h | h)
          · exact hl0 h
          · exact absurd hl (Nat.not_le.mpr h)
          · exact h hspace
          · exact h (n0.foreignPages_eq_nil _ _ _ hpages)
        · rintro (h | h | h)
          · exact absurd hlo (Nat.not_le.mpr h)
          · exact absurd hhi (Nat.not_lt.mpr h)
          · exact h hst
      refine ⟨_, _, hexec.trans (State.on_eq ..), ?_, ?_, hdata, hall, hlast⟩
      · rw [hn]
        exact congrArg VFunc.dmaHead (n0.func_setFunc vf.val _)
      · rw [hn]
        rfl

end Sys2Proof.Machine
end

section
/-!
Session mailboxes (R380, R438, R522, R526, R527): O48.
-/

namespace Sys2Proof.Machine

/-! ### Mailbox registers -/

theorem Node.box_setBox (n : Node) (x : Nat) (b : Mailbox) : (n.setBox x b).box x = b := (Map.get_set ..).trans (if_pos rfl)

theorem Node.fillBox_spec (n : Node) (x : Nat) : ((n.fillBox x).box x).sqSize ≠ 0 ∧ ((n.fillBox x).box x).cqSize ≠ 0 ∧
    ((n.box x).sqSize ≠ 0 → (n.box x).cqSize ≠ 0 → (n.fillBox x).box x = n.box x) := by
  unfold Node.fillBox
  dsimp only
  split
  · next h => exact ⟨h.1, h.2, fun _ _ => rfl⟩
  · next h =>
    rw [Node.box_setBox]
    exact ⟨(Nat.pow_pos (by decide)).ne', (Nat.pow_pos (by decide)).ne', fun hs hc => absurd ⟨hs, hc⟩ h⟩

theorem Node.mailboxEnable_on (n : Node) (x v sl : Nat) (h : n.boxSlice x = some sl) (hv : v % 2 = 1) :
    n.mailboxEnable x v = (n.fillBox x).setBox x { (n.fillBox x).box x with enable := true, mstatus := 1 } := by
  unfold Node.mailboxEnable
  rw [h]
  dsimp only
  rw [if_pos hv]

theorem Node.mailboxEnable_off (n : Node) (x v sl : Nat) (h : n.boxSlice x = some sl) (hv : v % 2 = 0) :
    n.mailboxEnable x v = n.setBox x { n.box x with enable := false, mstatus := 0 } := by
  unfold Node.mailboxEnable
  rw [h]
  dsimp only
  rw [if_neg (by omega)]

/-! ### Fetching submissions -/

/-- What the driver consumes frees completion entries. -/
theorem Mailbox.cqFree_consumed (b : Mailbox) (u : Nat) (hs : 0 < b.cqSize) (hu : u ≤ (b.cqTail + b.cqSize - b.cqHead % b.cqSize) % b.cqSize) :
    b.cqFree ≤ Mailbox.cqFree { b with cqHead := (b.cqHead + u) % b.cqSize } := by
  unfold Mailbox.cqFree
  dsimp only
  have hlt := Nat.mod_lt b.cqHead hs
  have hlt' := Nat.mod_lt (b.cqHead + u) hs
  rw [Nat.mod_mod]
  -- the entries in use go down by what was consumed
  have hused : (b.cqTail + b.cqSize - (b.cqHead + u) % b.cqSize) % b.cqSize = (b.cqTail + b.cqSize - b.cqHead % b.cqSize) % b.cqSize - u := by
    have hlt2 := Nat.mod_lt (b.cqTail + b.cqSize - b.cqHead % b.cqSize) hs
    have hcong : ((b.cqTail + b.cqSize - b.cqHead % b.cqSize) % b.cqSize - u) % b.cqSize = (b.cqTail + b.cqSize - b.cqHead % b.cqSize) % b.cqSize - u :=
      Nat.mod_eq_of_lt (by omega)
    rw [← hcong]
    have h1 : (b.cqTail + b.cqSize - (b.cqHead + u) % b.cqSize) ≡ ((b.cqTail + b.cqSize - b.cqHead % b.cqSize) % b.cqSize - u) [MOD b.cqSize] := by
      refine Nat.ModEq.add_right_cancel' ((b.cqHead + u) % b.cqSize) ?_
      rw [Nat.sub_add_cancel (by omega)]
      calc b.cqTail + b.cqSize
          = (b.cqTail + b.cqSize - b.cqHead % b.cqSize) + b.cqHead % b.cqSize := (Nat.sub_add_cancel (by omega)).symm
        _ ≡ (b.cqTail + b.cqSize - b.cqHead % b.cqSize) % b.cqSize + b.cqHead [MOD b.cqSize] := (Nat.mod_modEq _ _).symm.add (Nat.mod_modEq _ _)
        _ = ((b.cqTail + b.cqSize - b.cqHead % b.cqSize) % b.cqSize - u) + (b.cqHead + u) := by omega
        _ ≡ ((b.cqTail + b.cqSize - b.cqHead % b.cqSize) % b.cqSize - u) + (b.cqHead + u) % b.cqSize [MOD b.cqSize] := (Nat.mod_modEq _ _).symm.add_left _
    exact h1
  rw [hused]
  omega

/-- What is consumed of a mailbox's completions (log entry 93): the box but for its head, which frees entries. -/
theorem Node.consume_spec (n : Node) (x : Nat) : ∃ h boxes c, n.consume x = { n with host := { n.host with boxes := boxes }, freeCount := c } ∧
    (n.consume x).box x = { n.box x with cqHead := h } ∧ (n.box x).cqFree ≤ ((n.consume x).box x).cqFree := by
  unfold Node.consume
  dsimp only
  split
  · exact ⟨(n.box x).cqHead, n.host.boxes, n.freeCount, rfl, rfl, Nat.le_refl _⟩
  · next hs =>
    have hu : leNat (n.draw 4).1 % (((n.box x).cqTail + (n.box x).cqSize - (n.box x).cqHead % (n.box x).cqSize) % (n.box x).cqSize + 1) ≤
        ((n.box x).cqTail + (n.box x).cqSize - (n.box x).cqHead % (n.box x).cqSize) % (n.box x).cqSize :=
      Nat.lt_succ_iff.mp (Nat.mod_lt _ (Nat.succ_pos _))
    generalize leNat (n.draw 4).1 % _ = u at hu ⊢
    rw [Node.box_setBox]
    exact ⟨_, _, _, rfl, rfl, (n.box x).cqFree_consumed u (Nat.pos_of_ne_zero hs) hu⟩

/-- The read of a submission entry (R526). -/
def submissionRead (b : Mailbox) (x sl now : Nat) : HostRead := { owner := x, index := b.sqHead % b.sqSize, issued := now, slice := sl }

theorem Node.fetchEntry_spec (n : Node) (now x sl : Nat) (hsl : n.boxSlice x = some sl) (hw : (n.box x).waiting = true)
    (hroom : 2 * (n.openRequests x + 1) ≤ (n.box x).cqFree) :
    ((n.fetchEntry now x).box x).sqHead = ((n.box x).sqHead + 1) % (n.box x).sqSize ∧
    (n.fetchEntry now x).reg Reg.entriesFetched = (n.reg Reg.entriesFetched + 1) % 2 ^ 64 ∧
    (n.fetchEntry now x).host.reads = n.host.reads ++ [submissionRead (n.box x) x sl now] := by
  obtain ⟨h, boxes, c, he, hbox, hfree⟩ := n.consume_spec x
  unfold Node.fetchEntry
  dsimp only
  rw [if_pos hw]
  have hsl' : (n.consume x).boxSlice x = some sl := by rw [he]; exact hsl
  have hopen : (n.consume x).openRequests x = n.openRequests x := by rw [he]; rfl
  have hreads : (n.consume x).host.reads = n.host.reads := by rw [he]
  have hreg : (n.consume x).reg Reg.entriesFetched = n.reg Reg.entriesFetched := by rw [he]; rfl
  generalize n.consume x = m at hbox hfree hsl' hopen hreads hreg
  rw [hsl']
  dsimp only
  have hw' : (m.box x).waiting = true := by rw [hbox]; exact hw
  rw [if_neg (by
    rintro (h | h)
    · rw [hw'] at h; cases h
    · rw [hopen] at h; omega)]
  refine ⟨?_, ?_, ?_⟩
  · refine (congrArg Mailbox.sqHead (m.box_setBox x _)).trans ?_
    rw [hbox]
  · refine (Node.reg_bump _ _ _ rfl).trans ?_
    rw [← hreg]
    rfl
  · show m.host.reads ++ [_] = _
    rw [hreads, hbox]
    rfl

/-! ### Bytes of submissions -/

/-- The node with an outstanding read gone. -/
def Node.readDone (n : Node) (i : Nat) : Node := { n with host := { n.host with reads := n.host.reads.eraseIdx i } }

/-- The node with an outstanding read's bytes kept. -/
def Node.readKept (n : Node) (i : Nat) (rd : HostRead) : Node := { n with host := { n.host with reads := n.host.reads.set i rd } }

theorem Node.readArrives_gone (n : Node) (now i : Nat) (bytes : Bytes) (rd : HostRead) (h : n.host.reads[i]? = some rd)
    (hs : n.boxSlice rd.owner ≠ some rd.slice) : n.readArrives now i bytes = (n.readDone i).bump Reg.drainDiscards := by
  unfold Node.readArrives
  rw [h]
  dsimp only
  rw [if_pos hs]
  rfl

theorem Node.readArrives_short (n : Node) (now i : Nat) (bytes : Bytes) (rd : HostRead) (h : n.host.reads[i]? = some rd)
    (hs : n.boxSlice rd.owner = some rd.slice) (hl : (rd.data ++ bytes).length < 32) :
    n.readArrives now i bytes = n.readKept i { rd with data := rd.data ++ bytes } := by
  unfold Node.readArrives
  rw [h]
  dsimp only
  rw [if_neg (not_not.mpr hs), if_pos hl]
  rfl

theorem Node.readArrives_whole (n : Node) (now i : Nat) (bytes : Bytes) (rd : HostRead) (h : n.host.reads[i]? = some rd)
    (hs : n.boxSlice rd.owner = some rd.slice) (hl : 32 ≤ (rd.data ++ bytes).length) (h12 : fieldB (rd.data ++ bytes) 12 4 = 0)
    (h28 : fieldB (rd.data ++ bytes) 28 4 = 0) (hm : 32 + fieldB (rd.data ++ bytes) 8 4 ≤ (rd.data ++ bytes).length) :
    n.readArrives now i bytes = (n.readDone i).hostMessage now { rd with data := rd.data ++ bytes } := by
  unfold Node.readArrives
  rw [h]
  dsimp only
  rw [if_neg (not_not.mpr hs), if_neg (Nat.not_lt.mpr hl), if_neg (by rw [not_or]; exact ⟨not_not.mpr h12, not_not.mpr h28⟩), if_pos (.inr hm)]
  rfl

/-- The message behind a submission entry. -/
def HostRead.message (rd : HostRead) : Bytes := sliceB rd.data 32 (fieldB (rd.data.take 32) 8 4)

/-- What a submission's message opens to (R423). -/
def Node.openMessage (n : Node) (rd : HostRead) : Option Bytes :=
  gcmOpen (n.keySlot (n.session rd.owner).keySlot).key
    (linkNonce (fieldB (sliceB rd.message 0 32) 4 2) 0xFF (fieldB (sliceB rd.message 0 32) 20 8)) (sliceB rd.message 0 32) (rd.message.drop 32)

/-- The node with where a submission's reply goes (R526). -/
def Node.replyKnown (n : Node) (rd : HostRead) (r : Request) : Node :=
  let m := n.replyTo rd.owner (fieldB (sliceB rd.message 0 32) 4 2)
  { m with host := { m.host with
      replyAddr := Map.put m.host.replyAddr r.key (fieldB (rd.data.take 32) 16 8, fieldB (rd.data.take 32) 24 4, rd.index) } }

theorem Node.hostMessage_eq (n : Node) (now : Nat) (rd : HostRead) (hl : 112 ≤ fieldB (rd.data.take 32) 8 4) (hh : hostHeaderOk (sliceB rd.message 0 32) = true)
    (hk : (n.keySlot (n.session rd.owner).keySlot).state = 1)
    (hid : (n.keySlot (n.session rd.owner).keySlot).keyId = fieldB (sliceB rd.message 0 32) 18 2) :
    (n.openMessage rd = none → n.hostMessage now rd = n.bump Reg.dmaTagFailures) ∧
    (∀ v, n.openMessage rd = some v →
      let r := Request.ofBytes v (65 + rd.slice)
      n.hostMessage now rd = (n.replyKnown rd r).arrive now r
        (decide (fieldB (rd.data.take 32) 24 4 < (n.replyKnown rd r).largestReply now r) || fieldB (rd.data.take 32) 8 4 != 112 + r.hdr.payloadLen.toNat)) := by
  unfold Node.hostMessage
  dsimp only
  rw [if_neg (Nat.not_lt.mpr hl)]
  rw [← HostRead.message, if_pos ⟨hh, hk, hid⟩, ← Node.openMessage]
  refine ⟨fun h => by rw [h], fun v h => ?_⟩
  rw [h]
  rfl

theorem Node.replyTo_frame (n : Node) (session src : Nat) : (n.replyTo session src).host = n.host ∧ (n.replyTo session src).adm = n.adm := by
  unfold Node.replyTo
  split
  · exact ⟨rfl, rfl⟩
  · exact ⟨rfl, rfl⟩

theorem Node.replyKnown_spec (n : Node) (rd : HostRead) (r : Request) : (n.replyKnown rd r).host.reads = n.host.reads ∧ (n.replyKnown rd r).adm = n.adm ∧
    Map.find (n.replyKnown rd r).host.replyAddr r.key = some (fieldB (rd.data.take 32) 16 8, fieldB (rd.data.take 32) 24 4, rd.index) := by
  unfold Node.replyKnown
  dsimp only
  obtain ⟨hh, ha⟩ := n.replyTo_frame rd.owner (fieldB (sliceB rd.message 0 32) 4 2)
  generalize n.replyTo rd.owner (fieldB (sliceB rd.message 0 32) 4 2) = m at hh ha
  exact ⟨by rw [hh], ha, (Map.find_put ..).trans (if_pos rfl)⟩

/-! ### Reads not completed -/

theorem Node.queueReply_reads (n : Node) (now port : Nat) (rep : Reply) (notice : Option Nat) (w b : Nat) :
    (n.queueReply now port rep notice w b).host.reads = n.host.reads := by
  have := congrArg (fun x : Node => x.host.reads) (n.ends_queueReply now port rep notice w b).core_eq
  exact this

theorem Node.refuseMessage_reads (n : Node) (now x s index : Nat) : (n.refuseMessage now x s index).host.reads = n.host.reads := by
  unfold Node.refuseMessage
  exact Node.queueReply_reads ..

/-! ### Writing replies -/

/-- A fold that keeps what it has or takes the next gives one of the list. -/
theorem foldl_choice {α : Type} (f : Option α → α → Option α) (hf : ∀ b x, f b x = b ∨ f b x = some x) (l : List α) (b : Option α) (x : α)
    (h : l.foldl f b = some x) : b = some x ∨ x ∈ l := by
  induction l generalizing b with
  | nil => exact .inl h
  | cons y t ih =>
    rcases ih (f b y) h with h' | h'
    · rcases hf b y with hb | hy
      · exact .inl (hb ▸ h')
      · exact .inr (Option.some.inj (hy.symm.trans h') ▸ List.mem_cons_self)
    · exact .inr (List.mem_cons_of_mem _ h')

theorem headOf_mem (q : Nat) (l : List OutMsg) (m : OutMsg) (h : headOf q l = some m) : m ∈ l := by
  unfold headOf at h
  split at h
  · exact List.mem_of_mem_head? h
  · dsimp only at h
    split at h
    · next least hleast =>
      obtain rfl := Option.some.inj h
      refine (foldl_choice _ (fun b x => ?_) l none _ hleast).resolve_left (by simp)
      cases x.notice with
      | none => exact .inl rfl
      | some t =>
        cases b with
        | none => exact .inr rfl
        | some y =>
          dsimp only
          split
          · exact .inr rfl
          · exact .inl rfl
    · exact List.mem_of_mem_head? h

/-- A completion entry (R526). -/
def completionEntry (b : Mailbox) (kind index len : Nat) (head : Bytes) : Bytes :=
  leBytes 1 kind ++ leBytes 1 (if b.phase then 1 else 0) ++ leBytes 2 index ++ leBytes 4 len ++ List.replicate 24 0 ++ padTo 32 head

theorem completionEntry_spec (b : Mailbox) (index : Nat) (head : Bytes) : (completionEntry b 1 index 0 head).length = 64 ∧
    fieldB (completionEntry b 1 index 0 head) 0 1 = 1 ∧ fieldB (completionEntry b 1 index 0 head) 1 1 = (if b.phase then 1 else 0) ∧
    sliceB (completionEntry b 1 index 0 head) 32 32 = padTo 32 head := by
  have hpad : (padTo 32 head).length = 32 := padTo_length ..
  have hlen : (completionEntry b 1 index 0 head).length = 64 := by simp [completionEntry, leBytes_length, hpad]
  refine ⟨hlen, rfl, ?_, ?_⟩
  · unfold completionEntry
    generalize padTo 32 head = p
    cases b.phase <;> rfl
  · have hdrop : (completionEntry b 1 index 0 head).drop 32 = padTo 32 head := by
      unfold completionEntry
      rw [List.drop_left' (by simp [leBytes_length])]
    unfold sliceB
    dsimp only
    rw [hdrop, List.take_of_length_le hpad.le, hpad]
    simp

theorem Node.completion_spec (n : Node) (x func kind index len : Nat) (head : Bytes) :
    (n.completion x func kind index len head).host.out = n.host.out ∧
    (n.completion x func kind index len head).host.writes = n.host.writes ++
      [{ func := func, addr := (n.box x).cqBase + 64 * (n.box x).cqTail, bytes := completionEntry (n.box x) kind index len head }] ∧
    ((n.completion x func kind index len head).box x).cqTail = if (n.box x).cqTail + 1 = (n.box x).cqSize then 0 else (n.box x).cqTail + 1 := by
  unfold Node.completion
  dsimp only
  have hraise : ∀ (m : Node) (v : Nat), ∃ y, m.raise func v = { m with host := { m.host with msix := y } } := by
    intro m v
    unfold Node.raise
    split
    · exact ⟨m.host.msix, rfl⟩
    · exact ⟨_, rfl⟩
  rw [← completionEntry]
  generalize hw : n.hostWrite func ((n.box x).cqBase + 64 * (n.box x).cqTail) (completionEntry (n.box x) kind index len head) = m
  have hmo : m.host.out = n.host.out := by rw [← hw]; rfl
  have hmw : m.host.writes = n.host.writes ++
      [{ func := func, addr := (n.box x).cqBase + 64 * (n.box x).cqTail, bytes := completionEntry (n.box x) kind index len head }] := by rw [← hw]; rfl
  obtain ⟨y, hy⟩ := hraise (m.setBox x { n.box x with
    cqTail := if (n.box x).cqTail + 1 == (n.box x).cqSize then 0 else (n.box x).cqTail + 1,
    phase := (n.box x).phase != ((n.box x).cqTail + 1 == (n.box x).cqSize) }) (n.box x).msix
  rw [hy]
  refine ⟨hmo, hmw, ?_⟩
  refine (congrArg Mailbox.cqTail (m.box_setBox x _)).trans ?_
  simp only [beq_iff_eq]

theorem Node.replyLeft_host (n : Node) (now : Nat) (r : Reply) : (n.replyLeft now r).host = n.host := by
  unfold Node.replyLeft
  split
  · rfl
  · split
    · dsimp only
      cases n.admitted? (reqKey r.session r.requestId) with
      | none => rfl
      | some q =>
        dsimp only
        split <;> rfl
    · rfl

/-- The node with a reply taken out of what waits and, where it is final, without its place (R526). -/
def Node.replyOut (n : Node) (m : OutMsg) (r : Reply) : Node :=
  let k := { n with host := { n.host with out := n.host.out.erase m } }
  { k with host := { k.host with replyAddr := if r.final then Map.erase k.host.replyAddr (reqKey r.session r.requestId) else k.host.replyAddr } }

/-- A reply without a body is a completion entry alone (R527). -/
theorem Node.writeReply_status (n : Node) (now : Nat) (m : OutMsg) (r : Reply) (h : r.body = []) : ∃ index,
    n.writeReply now m r = ((n.replyOut m r).completion r.session (m.dst - 0x100) 1 index 0 r.bytes).replyLeft now r := by
  unfold Node.writeReply
  dsimp only
  rw [if_pos h]
  exact ⟨_, rfl⟩

/-- What writing a status-only reply leaves (R526, R527). -/
theorem Node.writeReply_spec (n : Node) (now : Nat) (m : OutMsg) (r : Reply) (h : r.body = []) : ∃ w : HostWrite,
    (n.writeReply now m r).host.out = n.host.out.erase m ∧ (n.writeReply now m r).host.writes = n.host.writes ++ [w] ∧
    w.func = m.dst - 0x100 ∧ w.addr = (n.box r.session).cqBase + 64 * (n.box r.session).cqTail ∧ w.bytes.length = 64 ∧ fieldB w.bytes 0 1 = 1 ∧
    fieldB w.bytes 1 1 = (if (n.box r.session).phase then 1 else 0) ∧ sliceB w.bytes 32 32 = padTo 32 r.bytes ∧
    ((n.writeReply now m r).box r.session).cqTail =
      if (n.box r.session).cqTail + 1 = (n.box r.session).cqSize then 0 else (n.box r.session).cqTail + 1 := by
  obtain ⟨index, he⟩ := n.writeReply_status now m r h
  have hbox : (n.replyOut m r).box = n.box := rfl
  have hout : (n.replyOut m r).host.out = n.host.out.erase m := rfl
  have hw : (n.replyOut m r).host.writes = n.host.writes := rfl
  generalize n.replyOut m r = k at he hbox hout hw
  obtain ⟨hco, hcw, hct⟩ := k.completion_spec r.session (m.dst - 0x100) 1 index 0 r.bytes
  rw [hbox] at hcw hct
  have hleft := (k.completion r.session (m.dst - 0x100) 1 index 0 r.bytes).replyLeft_host now r
  obtain ⟨hlen, hkind, hphase, hhead⟩ := completionEntry_spec (n.box r.session) index r.bytes
  rw [he]
  have hwrites := congrArg HostPort.writes hleft
  rw [hcw, hw] at hwrites
  refine ⟨_, by rw [hleft, hco, hout], hwrites, rfl, rfl, hlen, hkind, hphase, hhead, ?_⟩
  rw [← hct]
  exact congrArg (fun h : HostPort => (Map.get {} h.boxes r.session).cqTail) hleft

/-! ### The obligation -/

/-- Settles O48, by the equations of a submission's fetch, of its bytes and of a reply's write (R522, R526, R527). Ring sizes and consumed completions that no
command sets are the model's (log entry 93), and so is a header that is not R526's (log entry 94). -/
theorem hostMailboxes : Obligations.HostMailboxes := by
  unfold Obligations.HostMailboxes
  intro s n0 now drops
  have hstay : s.on s.node = .next s := State.on_eq s s.node
  have hdrop : ∀ c, exec c s = s.on n0.registerDrop → drops c := fun c hc => ⟨_, hc.trans (State.on_eq ..), Node.reg_bump _ _ _ rfl, rfl⟩
  have henable : ∀ (x : BitVec 16) (v : BitVec 32), exec (.mailboxEnable x v) s = s.on (n0.mailboxEnable x.toNat v.toNat) := fun _ _ => rfl
  refine ⟨fun x v hx => ⟨hdrop _ ?_, hdrop _ ?_⟩, fun x v sl hx => ⟨?_, fun hv => ?_, fun hv => ?_⟩, fun x sl hup hkeys hsl hw hroom => ?_, fun hdown => ?_, ?_, ?_, ?_⟩
  · rw [henable, Node.mailboxEnable, hx]
  · show execSqTailDoorbell x v s = _
    unfold execSqTailDoorbell
    dsimp only
    rw [hx]
  · have hexec : exec (.sqTailDoorbell x v) s = s.on (n0.setBox x.toNat { n0.box x.toNat with sqTail := v.toNat }) := by
      show execSqTailDoorbell x v s = _
      unfold execSqTailDoorbell
      dsimp only
      rw [hx]
    exact ⟨_, hexec.trans (State.on_eq ..), n0.box_setBox _ _, rfl⟩
  · obtain ⟨hsq, hcq, hsame⟩ := n0.fillBox_spec x.toNat
    refine ⟨_, (henable x v).trans (State.on_eq ..), ?_⟩
    rw [n0.mailboxEnable_on x.toNat v.toNat sl hx hv, Node.box_setBox]
    exact ⟨rfl, rfl, hsq, hcq, fun h h' => by rw [hsame h h']⟩
  · refine ⟨_, (henable x v).trans (State.on_eq ..), ?_⟩
    rw [n0.mailboxEnable_off x.toNat v.toNat sl hx hv, Node.box_setBox]
  · have hexec : exec .mailboxFetch s = s.on (n0.fetchEntry now x) := by
      show execMailboxFetch s = _
      unfold execMailboxFetch
      dsimp only
      rw [if_neg (by rw [show s.node.host.linkUp = true from hup]; simp), hkeys]
      rfl
    exact ⟨_, hexec.trans (State.on_eq ..), n0.fetchEntry_spec now x sl hsl hw hroom⟩
  · show execMailboxFetch s = _
    unfold execMailboxFetch
    dsimp only
    rw [if_pos (by rw [show s.node.host.linkUp = false from hdown]; rfl)]
    exact hstay
  · intro i bytes rd hrd d entry len msg key opened whole
    have hexec : exec (.hostReadCompletion i bytes) s = s.on (n0.readArrives now i bytes) := rfl
    have hmsg : whole → n0.boxSlice rd.owner = some rd.slice →
        (opened = none → n0.readArrives now i bytes = (n0.readDone i).bump Reg.dmaTagFailures) ∧
        (∀ v, opened = some v →
          let r := Request.ofBytes v (65 + rd.slice)
          n0.readArrives now i bytes = ((n0.readDone i).replyKnown { rd with data := d } r).arrive now r
            (decide (fieldB entry 24 4 < ((n0.readDone i).replyKnown { rd with data := d } r).largestReply now r) || len != 112 + r.hdr.payloadLen.toNat)) := by
      rintro ⟨hl, h12, h28, -, hlen, hfull, hhead, hstate, hid⟩ hs
      rw [n0.readArrives_whole now i bytes rd hrd hs hl h12 h28 hfull]
      exact (n0.readDone i).hostMessage_eq now { rd with data := d } hlen hhead hstate hid
    refine ⟨fun hs => ?_, fun hs hl => ?_, fun hs hw ho => ?_, fun v hs hw ho => ?_⟩
    · refine ⟨_, hexec.trans (State.on_eq ..), ?_⟩
      rw [n0.readArrives_gone now i bytes rd hrd hs]
      exact ⟨Node.reg_bump _ _ _ rfl, rfl, rfl⟩
    · refine ⟨_, hexec.trans (State.on_eq ..), ?_⟩
      rw [n0.readArrives_short now i bytes rd hrd hs hl]
      rfl
    · refine ⟨_, hexec.trans (State.on_eq ..), ?_⟩
      rw [(hmsg hw hs).1 ho]
      exact ⟨rfl, Node.reg_bump _ _ _ rfl, rfl⟩
    · intro r
      obtain ⟨hreads, hadm, haddr⟩ := (n0.readDone i).replyKnown_spec { rd with data := d } r
      refine ⟨(n0.readDone i).replyKnown { rd with data := d } r,
        decide (fieldB entry 24 4 < ((n0.readDone i).replyKnown { rd with data := d } r).largestReply now r) || len != 112 + r.hdr.payloadLen.toNat,
        ?_, hreads, hadm, haddr, ?_⟩
      · rw [hexec, (hmsg hw hs).2 v ho]
        exact State.on_eq ..
      · rw [Bool.or_eq_false_iff, decide_eq_false_iff_not, Nat.not_lt, bne_eq_false_iff_eq]
  · refine ⟨_, State.on_eq s _, fun r => ?_⟩
    have hfold : ∀ (l : List HostRead) (m : Node), (m.foldl l fun n r =>
        if 128 ≤ r.data.length ∧ n.boxSlice r.owner = some r.slice then n.refuseMessage s.clock.tick r.owner r.slice r.index else n).host.reads = m.host.reads :=
      fun l m => Node.foldl_keeps (fun n : Node => n.host.reads) l _ (fun n x => by
        split
        · exact n.refuseMessage_reads ..
        · rfl) m
    rw [hfold]
    show r ∈ s.node.host.reads.filter (fun r => !decide (r.issued + 50 ≤ s.clock.tick)) ↔ _
    rw [List.mem_filter, Bool.not_eq_true', decide_eq_false_iff_not, Nat.not_le]
  · intro m r ready status b hup hhead hr
    have hm := headOf_mem 7 status m hhead
    have hbody : r.body = [] := by
      have := (List.mem_filter.mp hm).2
      rw [hr] at this
      exact List.isEmpty_iff.mp this
    have hexec : exec .hostReplyWrite s = s.on (n0.writeReply now m r) := by
      show execHostReplyWrite s = _
      unfold execHostReplyWrite
      dsimp only
      rw [if_neg (by rw [show s.node.host.linkUp = true from hup]; simp)]
      have hh : ((headOf 7 status).orElse fun _ => ready.head?) = some m := by rw [hhead]; rfl
      split
      · next m' hm' =>
        obtain rfl : m' = m := Option.some.inj (hm'.symm.trans hh)
        rw [hr]
      · next hnone => exact absurd (hnone.symm.trans hh) (by simp)
    obtain ⟨w, hspec⟩ := n0.writeReply_spec now m r hbody
    exact ⟨_, w, hexec.trans (State.on_eq ..), hspec⟩

end Sys2Proof.Machine
end

section
/-!
The release of a slice (R394, R436): its frame, stage by stage.
-/

namespace Sys2Proof.Machine

/-! ### What a release leaves -/

/-- What the release of a slice leaves but for the slice's own record: the slices, the pool and the sessions, what waits for host functions, and power. -/
def Node.bindCore (n : Node) : Node :=
  { comp := { slices := n.comp.slices }, adm := { pool := n.adm.pool, sessions := n.adm.sessions }, power := n.power }

/-- The entries that the release of a slice writes. -/
def bindCounters : List Nat := Reg.keysRetired :: Reg.eventSeq :: endCounters

/-- A step of a release, as a frame. -/
abbrev Node.Lets (n m : Node) : Prop := n.Keeps Node.bindCore bindCounters m

theorem Node.Undoes.lets {n m : Node} (h : n.Undoes m) : n.Lets m := h.mono (fun _ => rfl) (by decide)

theorem Node.Keeps.lets {n m : Node} (h : n.Ends m) : n.Lets m := h.mono (fun _ => rfl) (by decide)

theorem Node.lets_retireKey (n : Node) (k : Nat) : n.Lets (n.retireKey k) := by
  unfold Node.retireKey
  refine .ite (fun _ => ?_) fun _ => .refl ..
  refine Node.Keeps.trans ?_ (.bump ?_ ?_)
  · exact .of_regs rfl rfl
  · rfl
  · decide

theorem Node.ends_replyTaken (n : Node) (now port : Nat) (m : OutMsg) : n.Ends (n.replyTaken now port m) := by
  unfold Node.replyTaken
  cases m.reply with
  | none => exact .refl ..
  | some r => exact .ite (fun _ => .refl ..) fun _ => .ite (fun _ => n.ends_queueReply ..) fun _ => n.ends_answered ..

/-- The traffic of one queue of a port that a slice's release discards (R436). -/
def Node.discardQueued (n : Node) (now s i : Nat) : Node :=
  let l := n.queue (i / 8) (i % 8)
  if l.any (fun m => m.taken s) then
    (n.setQueue (i / 8) (i % 8) (l.filter fun m => !m.taken s)).foldl (l.filter fun m => m.taken s) fun n m => n.replyTaken now (i / 8) m
  else n

theorem Node.ends_discardQueued (n : Node) (now s i : Nat) : n.Ends (n.discardQueued now s i) := by
  unfold Node.discardQueued
  refine .ite (fun _ => ?_) fun _ => .refl ..
  exact (n.ends_setQueue ..).trans (.foldl (fun n m => n.ends_replyTaken ..) _ _)

/-- The node with a slice's traffic for host functions gone (R436). -/
def Node.hostCleared (n : Node) (s : Nat) : Node :=
  { n with host := { n.host with out := n.host.out.filter (fun m => !m.taken s), dma := n.host.dma.filter (fun d => d.func != s + 1) } }

theorem Node.discardTraffic_eq (n : Node) (now s : Nat) : n.discardTraffic now s =
    let m := n.foldl (List.range 384) fun n i => n.discardQueued now s i
    (m.hostCleared s).foldl (m.host.out.filter fun x => x.taken s) fun n x => n.replyTaken now x.dst x := by
  unfold Node.discardTraffic
  generalize List.range 384 = l
  rfl

theorem Node.lets_discardTraffic (n : Node) (now s : Nat) : n.Lets (n.discardTraffic now s) := by
  rw [Node.discardTraffic_eq]
  have h : n.Lets (n.foldl (List.range 384) fun n i => n.discardQueued now s i) := .foldl (fun n i => (n.ends_discardQueued ..).lets) _ _
  generalize (n.foldl (List.range 384) fun n i => n.discardQueued now s i) = m at h
  refine h.trans ?_
  refine Node.Keeps.trans (m := m.hostCleared s) ?_ (.foldl (fun n i => (n.ends_replyTaken ..).lets) _ _)
  exact .of_regs rfl rfl

/-- Nothing is left of the slice's transfers. -/
theorem Node.discardTraffic_dma (n : Node) (now s : Nat) : ∀ d ∈ (n.discardTraffic now s).host.dma, d.func ≠ s + 1 := by
  rw [Node.discardTraffic_eq]
  generalize (n.foldl (List.range 384) fun n i => n.discardQueued now s i) = m
  have h : (m.hostCleared s).Ends ((m.hostCleared s).foldl (m.host.out.filter fun x => x.taken s) fun n x => n.replyTaken now x.dst x) :=
    .foldl (fun n i => n.ends_replyTaken ..) _ _
  have hd := congrArg (fun x : Node => x.host.dma) h.core_eq
  intro d hm
  have hm' : d ∈ m.host.dma.filter (fun d => d.func != s + 1) := by
    have he : _ = m.host.dma.filter (fun d => d.func != s + 1) := hd
    rw [← he]
    exact hm
  simpa using (List.mem_filter.mp hm').2

theorem Node.lets_dropSession (n : Node) (x : Nat) : n.Lets (n.dropSession x) := .of_regs rfl rfl

theorem Node.lets_dropDomain (n : Node) (d : Nat) : n.Lets (n.dropDomain d) := by
  unfold Node.dropDomain
  dsimp only
  generalize (Map.get {} n.share.domains d).keySlot = k
  have hr := n.lets_retireKey k
  generalize n.retireKey k = m at hr
  refine hr.trans ?_
  have hn : m.Lets (({ m with share := { m.share with domains := Map.erase m.share.domains d } } : Node).removeNodes fun _ x => x.domain == d) := by
    refine Node.Keeps.trans ?_ (Node.undoes_removeNodes ..).lets
    exact .of_regs rfl rfl
  generalize (({ m with share := { m.share with domains := Map.erase m.share.domains d } } : Node).removeNodes fun _ x => x.domain == d) = l at hn ⊢
  refine hn.trans ?_
  exact .of_regs rfl rfl

theorem Node.lets_retireIndex (n : Node) (now k : Nat) : n.Lets (n.retireIndex now k) := by
  unfold Node.retireIndex
  refine .ite (fun _ => .refl ..) fun _ => ?_
  exact .of_regs rfl rfl

theorem Node.lets_dropSequences (n : Node) (s : Nat) : n.Lets (n.dropSequences s) := by
  unfold Node.dropSequences
  dsimp only
  refine Node.Keeps.trans ?_ (.foldl (fun n k => (n.undoes_releaseSeq k).lets) _ _)
  exact .of_regs rfl rfl

theorem Node.lets_withdraw (n : Node) (s : Nat) : n.Lets (n.withdraw s) := .of_regs rfl rfl

theorem Node.lets_event (n : Node) (c : Nat) (d : Bytes) : n.Lets (n.event c d) := by
  obtain ⟨m, h, e⟩ := n.event_eq c d
  refine ⟨by rw [e]; rfl, fun k hk => ?_⟩
  rw [Node.reg_event, if_neg fun he : k = Reg.eventSeq => hk (he ▸ by decide)]

theorem Node.lets_retireTenant (n : Node) (now t : Nat) : n.Lets (n.retireTenant now t) := by
  unfold Node.retireTenant
  exact .of_regs rfl rfl

/-! ### Keys and transfers through a release -/

/-- A step of a release: its frame, no key installed, no transfer queued. -/
structure Node.Releases (n m : Node) : Prop where
  lets : n.Lets m
  keys : ∀ j, (m.keySlot j).state = 1 → m.keySlot j = n.keySlot j
  dma : ∀ d ∈ m.host.dma, d ∈ n.host.dma

namespace Node.Releases

theorem of_eq {n m : Node} (h : n.Lets m) (hs : m.sec = n.sec) (hd : m.host.dma = n.host.dma) : n.Releases m :=
  ⟨h, fun j _ => by unfold Node.keySlot; rw [hs], fun d hm => hd ▸ hm⟩

theorem refl (n : Node) : n.Releases n := of_eq (.refl ..) rfl rfl

theorem trans {n m l : Node} (h : n.Releases m) (h' : m.Releases l) : n.Releases l := by
  refine ⟨h.lets.trans h'.lets, fun j hj => ?_, fun d hd => h.dma d (h'.dma d hd)⟩
  have he := h'.keys j hj
  rw [he]
  exact h.keys j (he ▸ hj)

theorem foldl {α : Type} {f : Node → α → Node} (h : ∀ (n : Node) x, n.Releases (f n x)) (xs : List α) (n : Node) : n.Releases (n.foldl xs f) := by
  induction xs generalizing n with
  | nil => exact refl n
  | cons x t ih => exact (h n x).trans (ih _)

end Node.Releases

theorem Node.Keeps.releases {n m : Node} (h : n.Ends m) : n.Releases m := by
  refine .of_eq h.lets ?_ ?_
  · have := congrArg (fun x : Node => x.sec) h.core_eq
    exact this
  · have := congrArg (fun x : Node => x.host.dma) h.core_eq
    exact this

theorem Node.releases_retireKey (n : Node) (k : Nat) : n.Releases (n.retireKey k) := by
  refine ⟨n.lets_retireKey k, fun j hj => ?_, fun d hd => ?_⟩
  · by_cases h : (n.keySlot k).state = 1
    · rw [n.retireKey_live k h] at hj ⊢
      have hset : ∀ v, ((n.setKey k v).bump Reg.keysRetired).keySlot j = if j = k then v else n.keySlot j := fun v => n.keySlot_setKey k j v
      rw [hset] at hj ⊢
      split at hj
      · cases hj
      · next hne => rw [if_neg hne]
    · unfold Node.retireKey
      dsimp only
      rw [if_neg h]
  · unfold Node.retireKey at hd
    dsimp only at hd
    split at hd <;> exact hd

theorem Node.releases_dropSession (n : Node) (x : Nat) : n.Releases (n.dropSession x) :=
  ⟨n.lets_dropSession x, fun _ _ => rfl, fun _ hd => (List.mem_filter.mp hd).1⟩

theorem Node.removeNodes_sec (n : Node) (f : Nat → PNode → Bool) : (n.removeNodes f).sec = n.sec ∧ (n.removeNodes f).host = n.host := by
  have hs := congrArg (fun x : Node => x.sec) (n.undoes_removeNodes f).core_eq
  have hh := congrArg (fun x : Node => x.host) (n.undoes_removeNodes f).core_eq
  exact ⟨hs, hh⟩

theorem Node.dropDomain_keys (n : Node) (d : Nat) : ∃ k, (n.dropDomain d).sec = (n.retireKey k).sec ∧ (n.dropDomain d).host = (n.retireKey k).host := by
  refine ⟨(Map.get {} n.share.domains d).keySlot, ?_⟩
  unfold Node.dropDomain
  dsimp only
  generalize n.retireKey (Map.get {} n.share.domains d).keySlot = m
  exact Node.removeNodes_sec { m with share := { m.share with domains := Map.erase m.share.domains d } } fun _ x => x.domain == d

theorem Node.releases_dropDomain (n : Node) (d : Nat) : n.Releases (n.dropDomain d) := by
  obtain ⟨k, hs, hh⟩ := n.dropDomain_keys d
  have h := n.releases_retireKey k
  refine ⟨n.lets_dropDomain d, fun j hj => ?_, fun x hx => h.dma x (by rw [← hh]; exact hx)⟩
  have he : (n.dropDomain d).keySlot j = (n.retireKey k).keySlot j := by unfold Node.keySlot; rw [hs]
  rw [he] at hj ⊢
  exact h.keys j hj

theorem Node.releases_retireIndex (n : Node) (now k : Nat) : n.Releases (n.retireIndex now k) := by
  refine .of_eq (n.lets_retireIndex now k) ?_ ?_
  all_goals
    unfold Node.retireIndex
    dsimp only
    split <;> rfl

theorem Node.releases_dropSequences (n : Node) (s : Nat) : n.Releases (n.dropSequences s) := by
  have h := n.lets_dropSequences s
  unfold Node.dropSequences at h ⊢
  dsimp only at h ⊢
  refine Node.Releases.of_eq h ?_ ?_
  · exact Node.foldl_keeps (fun n : Node => n.sec) _ _ (fun n k => by
      have := congrArg (fun x : Node => x.sec) (n.undoes_releaseSeq k).core_eq
      exact this) _
  · exact Node.foldl_keeps (fun n : Node => n.host.dma) _ _ (fun n k => by
      have := congrArg (fun x : Node => x.host.dma) (n.undoes_releaseSeq k).core_eq
      exact this) _

theorem Node.releases_withdraw (n : Node) (s : Nat) : n.Releases (n.withdraw s) := .of_eq (n.lets_withdraw s) rfl rfl

theorem Node.releases_event (n : Node) (c : Nat) (d : Bytes) : n.Releases (n.event c d) := by
  obtain ⟨q, t, r, m, hh⟩ := n.event_host c d
  exact .of_eq (n.lets_event c d) (Node.event_sec ..) (by rw [hh])

theorem Node.releases_retireTenant (n : Node) (now t : Nat) : n.Releases (n.retireTenant now t) := .of_eq (n.lets_retireTenant now t) rfl rfl

/-! ### The stages of a release -/

/-- A session is one of a slice's. -/
def Slice.holds (b : Slice) (x : Nat) : Bool := decide (b.sessFirst ≤ x) && decide (x < b.sessFirst + b.sessCount)

/-- The node with a slice's keys zeroized (R436). -/
def Node.keysGone (n : Node) (s : Nat) : Node :=
  n.foldl ((n.sec.keys.filter fun e => e.2.slice == s && e.2.state == 1).map (·.1)) fun n k => n.retireKey k

/-- The node with sessions closing (R436). -/
def Node.sessionsShut (n : Node) (f : Nat → Bool) : Node :=
  { n with adm := { n.adm with sessions := n.adm.sessions.map fun (e : Nat × Session) => if f e.1 then (e.1, { e.2 with state := 2 }) else e } }

/-- The node without a slice's staged quota. -/
def Node.quotaUnstaged (n : Node) (s : Nat) : Node :=
  match n.tiers.stagedQuota with
  | some v => if fieldB v 0 1 = s then { n with tiers := { n.tiers with stagedQuota := none } } else n
  | none => n

/-- The objects of a slice gone (R436). -/
def Node.objectsGone (n : Node) (now s : Nat) : Node :=
  let n := n.quotaUnstaged s
  let n := n.foldl ((n.share.domains.filter fun e => e.2.slice == s).map (·.1)) Node.dropDomain
  let n := n.foldl ((n.indexes.filter fun e => e.2.slice == s).map (·.1)) fun n k => n.retireIndex now k
  (n.dropSequences s).withdraw s

/-- The node with a slice's sessions gone and its traffic discarded (R436). -/
def Node.trafficGone (n : Node) (now s : Nat) (b : Slice) : Node := ((n.keysGone s).sessionsGone now b.holds).discardTraffic now s

/-- The node with everything of a slice gone but its record (R436). -/
def Node.contentsGone (n : Node) (now s : Nat) (b : Slice) : Node :=
  let m := (n.trafficGone now s b).sessionsShut b.holds
  (m.foldl ((m.adm.sessions.filter fun e => b.holds e.1).map (·.1)) Node.dropSession).objectsGone now s

theorem Node.releaseSlice_eq (n : Node) (now s : Nat) (hs : s ≤ 63) (hb : (n.slice s).state = .bound) : n.releaseSlice now s =
    let m := n.contentsGone now s (n.slice s)
    let m := m.setSlice s { n.slice s with drainTick := now + m.reg Reg.drainTicks, usedAtRelease := m.t1Used s }
    let m := (m.setSliceState now s .releasing).journal 7 0 (s + 1) 0 []
    if m.tenantBound (n.slice s).tenant then m else m.retireTenant now (n.slice s).tenant := by
  unfold Node.releaseSlice
  dsimp only
  rw [if_neg (by rw [not_or]; exact ⟨Nat.not_lt.mpr hs, not_not.mpr hb⟩)]
  unfold Node.contentsGone Node.trafficGone Node.keysGone Slice.holds
  dsimp only
  generalize Node.discardTraffic _ now s = m
  rfl

theorem Node.releaseSlice_idle (n : Node) (now s : Nat) (h : 63 < s ∨ (n.slice s).state ≠ .bound) : n.releaseSlice now s = n := by
  unfold Node.releaseSlice
  dsimp only
  rw [if_pos h]

theorem Node.releases_quotaUnstaged (n : Node) (s : Nat) : n.Releases (n.quotaUnstaged s) := by
  unfold Node.quotaUnstaged
  cases n.tiers.stagedQuota with
  | none => exact .refl n
  | some v =>
    dsimp only
    split
    · exact .of_eq (.of_regs rfl rfl) rfl rfl
    · exact .refl n

theorem Node.releases_objectsGone (n : Node) (now s : Nat) : n.Releases (n.objectsGone now s) := by
  unfold Node.objectsGone
  dsimp only
  have h := (n.releases_quotaUnstaged s).trans (.foldl Node.releases_dropDomain
    (((n.quotaUnstaged s).share.domains.filter fun e => e.2.slice == s).map (·.1)) _)
  generalize ((n.quotaUnstaged s).foldl (((n.quotaUnstaged s).share.domains.filter fun e => e.2.slice == s).map (·.1)) Node.dropDomain) = m at h ⊢
  exact ((h.trans (.foldl (fun n k => n.releases_retireIndex now k) _ _)).trans (Node.releases_dropSequences ..)).trans (Node.releases_withdraw ..)

theorem Node.releases_keysGone (n : Node) (s : Nat) : n.Releases (n.keysGone s) := .foldl Node.releases_retireKey _ _

/-- A slice's keys are retired (R436). -/
theorem Node.keysGone_spec (n : Node) (s j : Nat) (h : ((n.keysGone s).keySlot j).state = 1) : ((n.keysGone s).keySlot j).slice ≠ s := by
  have hfold : ∀ (l : List Nat) (m : Node), ((m.foldl l fun n k => n.retireKey k).keySlot j).state = 1 → j ∉ l := by
    intro l
    induction l with
    | nil => exact fun _ _ => by simp
    | cons k t ih =>
      intro m hm hj
      rcases List.mem_cons.mp hj with rfl | hj
      · have hrel : (m.retireKey j).Releases ((m.retireKey j).foldl t fun n k => n.retireKey k) := .foldl Node.releases_retireKey _ _
        have hj1 := hrel.keys j hm
        have hst : ((m.retireKey j).keySlot j).state = 1 := hj1 ▸ hm
        by_cases hl : (m.keySlot j).state = 1
        · rw [m.retireKey_live j hl] at hst
          have he : ((m.setKey j { m.keySlot j with state := 2, key := [], retireAt := none }).bump Reg.keysRetired).keySlot j =
              { m.keySlot j with state := 2, key := [], retireAt := none } := (m.keySlot_setKey j j _).trans (if_pos rfl)
          rw [he] at hst
          cases hst
        · have he := (m.releases_retireKey j).keys j hst
          rw [he] at hst
          exact hl hst
      · exact ih _ hm hj
  have hnot := hfold _ n h
  have he := (n.releases_keysGone s).keys j h
  intro hs
  apply hnot
  rw [he] at hs h
  rcases Map.get_mem ({} : KeySlot) n.sec.keys j with hd | hm
  · have : (n.keySlot j).state = 0 := by
      unfold Node.keySlot
      rw [hd]
    rw [this] at h
    cases h
  · exact List.mem_map.mpr ⟨_, List.mem_filter.mpr ⟨hm, by
      show ((n.keySlot j).slice == s && (n.keySlot j).state == 1) = true
      rw [hs, h]
      simp⟩, rfl⟩

/-- What the end of waiting requests leaves: the pool without them, and otherwise as an end leaves it. -/
theorem Node.ends_endWaiting (n : Node) (now status : Nat) (f : Waiting → Bool) :
    ({ n with adm := { n.adm with pool := n.adm.pool.filter fun w => !f w } } : Node).Ends (n.endWaiting now status f) :=
  .foldl (fun n _ => n.ends_queueReply ..) _ _

theorem Node.sessionsGone_ends (n : Node) (now : Nat) (f : Nat → Bool) :
    ({ n with adm := { n.adm with pool := n.adm.pool.filter fun w => !f w.req.sess } } : Node).Ends (n.sessionsGone now f) :=
  (n.ends_endWaiting now stTenantGone fun w => f w.req.sess).trans (Node.ends_endAll ..)

/-- What is left once a slice's traffic is gone. -/
structure Node.TrafficGone (n m : Node) (s : Nat) (b : Slice) : Prop where
  reg_eq : ∀ k, k ∉ bindCounters → m.reg k = n.reg k
  power_eq : m.power = n.power
  slices_eq : m.comp.slices = n.comp.slices
  sessions_eq : m.adm.sessions = n.adm.sessions
  pool : ∀ w ∈ m.adm.pool, b.holds w.req.sess = false
  keys : ∀ j, (m.keySlot j).state = 1 → (m.keySlot j).slice ≠ s
  dma : ∀ d ∈ m.host.dma, d.func ≠ s + 1

theorem Node.trafficGone_spec (n : Node) (now s : Nat) (b : Slice) : n.TrafficGone (n.trafficGone now s b) s b := by
  unfold Node.trafficGone
  have hk := n.releases_keysGone s
  have hkeys := n.keysGone_spec s
  generalize n.keysGone s = m at hk hkeys ⊢
  have hg := m.sessionsGone_ends now b.holds
  generalize m.sessionsGone now b.holds = l at hg ⊢
  have ht := l.lets_discardTraffic now s
  have hsec : (l.discardTraffic now s).sec = m.sec := by
    have h1 : (l.discardTraffic now s).sec = l.sec := by
      rw [Node.discardTraffic_eq]
      generalize List.range 384 = is
      refine (Node.foldl_keeps (fun n : Node => n.sec) _ _ (fun n x => ?_) _).trans ?_
      · have := congrArg (fun x : Node => x.sec) (n.ends_replyTaken now x.dst x).core_eq
        exact this
      · refine Node.foldl_keeps (fun n : Node => n.sec) is (fun n i => n.discardQueued now s i) (fun n i => ?_) l
        have := congrArg (fun x : Node => x.sec) (n.ends_discardQueued now s i).core_eq
        exact this
    have h2 := congrArg (fun x : Node => x.sec) hg.core_eq
    exact h1.trans h2
  have hdma := l.discardTraffic_dma now s
  generalize l.discardTraffic now s = t at ht hsec hdma ⊢
  have hcore := ht.core_eq.trans (hg.lets.core_eq)
  refine ⟨fun k hn => ?_, ?_, ?_, ?_, fun w hw => ?_, fun j hj => ?_, hdma⟩
  · exact (ht.reg_eq k hn).trans ((hg.lets.reg_eq k hn).trans (hk.lets.reg_eq k hn))
  · have h1 := congrArg (fun x : Node => x.power) hcore
    have h2 := congrArg (fun x : Node => x.power) hk.lets.core_eq
    exact h1.trans h2
  · have h1 := congrArg (fun x : Node => x.comp.slices) hcore
    have h2 := congrArg (fun x : Node => x.comp.slices) hk.lets.core_eq
    exact h1.trans h2
  · have h1 := congrArg (fun x : Node => x.adm.sessions) hcore
    have h2 := congrArg (fun x : Node => x.adm.sessions) hk.lets.core_eq
    exact h1.trans h2
  · have h1 : (t).adm.pool = m.adm.pool.filter fun w => !b.holds w.req.sess := by
      have := congrArg (fun x : Node => x.adm.pool) hcore
      exact this
    rw [h1] at hw
    simpa using (List.mem_filter.mp hw).2
  · have he : (t).keySlot j = m.keySlot j := by unfold Node.keySlot; rw [hsec]
    rw [he] at hj ⊢
    exact hkeys j hj

theorem Map.get_map {α : Type} (d : α) (m : Map α) (f : Nat → α → α) (k : Nat) :
    Map.get d (m.map fun e => (e.1, f e.1 e.2)) k = match Map.find m k with | some v => f k v | none => d := by
  induction m with
  | nil => rfl
  | cons e t ih =>
    obtain ⟨j, v⟩ := e
    rw [List.map_cons, Map.get, Map.find]
    by_cases h : j = k
    · rw [if_pos h, if_pos h, h]
    · rw [if_neg h, if_neg h]
      exact ih

/-- A session that closes. -/
def Session.shut (f : Nat → Bool) (x : Nat) (v : Session) : Session := if f x then { v with state := 2 } else v

theorem Node.session_sessionsShut (n : Node) (f : Nat → Bool) (x : Nat) (hx : f x = true) (h : (n.session x).state = 1) :
    ((n.sessionsShut f).session x).state = 2 := by
  have hm : (n.sessionsShut f).adm.sessions = n.adm.sessions.map fun e => (e.1, Session.shut f e.1 e.2) := by
    show List.map _ _ = _
    refine List.map_congr_left fun e _ => ?_
    unfold Session.shut
    split <;> rfl
  unfold Node.session
  rw [hm, Map.get_map]
  cases hf : Map.find n.adm.sessions x with
  | none =>
    rw [Node.session, Map.get_of_find, hf] at h
    cases h
  | some v =>
    show (Session.shut f x v).state = 2
    unfold Session.shut
    rw [if_pos hx]

/-- What the release of a BOUND slice leaves (R394, R436). -/
structure Node.SliceReleased (n m : Node) (now s : Nat) (b : Slice) : Prop where
  reg_eq : ∀ k, k ∉ bindCounters → m.reg k = n.reg k
  power_eq : m.power = n.power
  state : (m.slice s).state = .releasing
  drain : (m.slice s).drainTick = now + n.reg Reg.drainTicks
  gen : (m.slice s).bindGen = b.bindGen
  shut : ∀ x, b.holds x = true → (n.session x).state = 1 → (m.session x).state = 2
  pool : ∀ w ∈ m.adm.pool, b.holds w.req.sess = false
  keys : ∀ j, (m.keySlot j).state = 1 → (m.keySlot j).slice ≠ s
  dma : ∀ d ∈ m.host.dma, d.func ≠ s + 1

theorem Node.slice_setSlice (n : Node) (s j : Nat) (v : Slice) : (n.setSlice s v).slice j = if j = s then v else n.slice j := Map.get_set ..

theorem Node.releaseSlice_spec (n : Node) (now s : Nat) (hs : s ≤ 63) (hb : (n.slice s).state = .bound) :
    n.SliceReleased (n.releaseSlice now s) now s (n.slice s) := by
  rw [n.releaseSlice_eq now s hs hb]
  generalize n.slice s = b
  unfold Node.contentsGone
  obtain ⟨hreg, hpower, hslices, hsess, hpool, hkeys, hdma⟩ := n.trafficGone_spec now s b
  generalize n.trafficGone now s b = m at hreg hpower hslices hsess hpool hkeys hdma
  -- the sessions close
  have hshut : ∀ x, b.holds x = true → (n.session x).state = 1 → ((m.sessionsShut b.holds).session x).state = 2 := fun x hx h => by
    refine m.session_sessionsShut b.holds x hx ?_
    unfold Node.session
    rw [hsess]
    exact h
  have hm1 : (m.sessionsShut b.holds).power = m.power ∧ (m.sessionsShut b.holds).adm.pool = m.adm.pool ∧ (m.sessionsShut b.holds).keySlot = m.keySlot ∧
      (m.sessionsShut b.holds).host = m.host ∧ (m.sessionsShut b.holds).regs = m.regs := ⟨rfl, rfl, rfl, rfl, rfl⟩
  generalize m.sessionsShut b.holds = m1 at hshut hm1
  obtain ⟨hp1, hpool1, hk1, hh1, hr1⟩ := hm1
  -- the objects go
  dsimp only
  have hrel : m1.Releases ((m1.foldl ((m1.adm.sessions.filter fun e => b.holds e.1).map (·.1)) Node.dropSession).objectsGone now s) :=
    (Node.Releases.foldl Node.releases_dropSession _ _).trans (Node.releases_objectsGone ..)
  generalize (m1.foldl ((m1.adm.sessions.filter fun e => b.holds e.1).map (·.1)) Node.dropSession).objectsGone now s = m2 at hrel
  have hreg2 : ∀ k, k ∉ bindCounters → m2.reg k = n.reg k := fun k hk =>
    (hrel.lets.reg_eq k hk).trans ((Node.reg_congr hr1 k).trans (hreg k hk))
  have hpow2 : m2.power = n.power := by
    have := congrArg (fun x : Node => x.power) hrel.lets.core_eq
    exact Eq.trans this (hp1.trans hpower)
  have hsess2 : ∀ x, m2.session x = m1.session x := fun x => by
    have := congrArg (fun y : Node => Map.get {} y.adm.sessions x) hrel.lets.core_eq
    exact this
  have hpool2 : m2.adm.pool = m.adm.pool := by
    have := congrArg (fun y : Node => y.adm.pool) hrel.lets.core_eq
    exact Eq.trans this hpool1
  have hkey2 : ∀ j, (m2.keySlot j).state = 1 → (m2.keySlot j).slice ≠ s := fun j hj => by
    have he := hrel.keys j hj
    rw [he, hk1] at hj ⊢
    exact hkeys j hj
  have hdma2 : ∀ d ∈ m2.host.dma, d.func ≠ s + 1 := fun d hd => hdma d (by rw [← hh1]; exact hrel.dma d hd)
  -- the record
  rw [hreg2 Reg.drainTicks (by decide)]
  unfold Node.setSliceState
  rw [Node.slice_setSlice, if_pos rfl]
  generalize hr : ({ b with drainTick := now + n.reg Reg.drainTicks, usedAtRelease := m2.t1Used s } : Slice) = rec
  generalize hm3 : ((m2.setSlice s rec).setSlice s { rec with state := .releasing, stateTick := now }) = m3
  have hslice3 : m3.slice s = { rec with state := .releasing, stateTick := now } := by rw [← hm3, Node.slice_setSlice, if_pos rfl]
  have hm3' : m3.power = m2.power ∧ m3.adm = m2.adm ∧ m3.sec = m2.sec ∧ m3.host = m2.host ∧ m3.regs = m2.regs := by rw [← hm3]; exact ⟨rfl, rfl, rfl, rfl, rfl⟩
  obtain ⟨hp3, ha3, hs3, hh3, hr3⟩ := hm3'
  have hend : m3.Releases (if ((m3.event 0x0002 (leBytes 1 s ++ leBytes 1 SliceState.releasing.code)).journal 7 0 (s + 1) 0 []).tenantBound b.tenant then
      (m3.event 0x0002 (leBytes 1 s ++ leBytes 1 SliceState.releasing.code)).journal 7 0 (s + 1) 0 []
      else ((m3.event 0x0002 (leBytes 1 s ++ leBytes 1 SliceState.releasing.code)).journal 7 0 (s + 1) 0 []).retireTenant now b.tenant) := by
    have h1 : m3.Releases ((m3.event 0x0002 (leBytes 1 s ++ leBytes 1 SliceState.releasing.code)).journal 7 0 (s + 1) 0 []) :=
      (m3.releases_event ..).trans (Node.undoes_journal ..).ends.releases
    split
    · exact h1
    · exact h1.trans (Node.releases_retireTenant ..)
  generalize (if ((m3.event 0x0002 (leBytes 1 s ++ leBytes 1 SliceState.releasing.code)).journal 7 0 (s + 1) 0 []).tenantBound b.tenant then
      (m3.event 0x0002 (leBytes 1 s ++ leBytes 1 SliceState.releasing.code)).journal 7 0 (s + 1) 0 []
      else ((m3.event 0x0002 (leBytes 1 s ++ leBytes 1 SliceState.releasing.code)).journal 7 0 (s + 1) 0 []).retireTenant now b.tenant) = m4 at hend ⊢
  have hslice : m4.slice s = { rec with state := .releasing, stateTick := now } := by
    have := congrArg (fun y : Node => Map.get {} y.comp.slices s) hend.lets.core_eq
    exact Eq.trans this hslice3
  refine ⟨fun k hk => ?_, ?_, by rw [hslice], by rw [hslice, ← hr], by rw [hslice, ← hr], fun x hx h => ?_, fun w hw => ?_, fun j hj => ?_, fun d hd => ?_⟩
  · exact (hend.lets.reg_eq k hk).trans ((Node.reg_congr hr3 k).trans (hreg2 k hk))
  · have := congrArg (fun y : Node => y.power) hend.lets.core_eq
    exact Eq.trans this (hp3.trans hpow2)
  · have he : m4.session x = m3.session x := by
      have := congrArg (fun y : Node => Map.get {} y.adm.sessions x) hend.lets.core_eq
      exact this
    have h3 : m3.session x = m2.session x := by unfold Node.session; rw [ha3]
    rw [he, h3, hsess2]
    exact hshut x hx h
  · have he : m4.adm.pool = m3.adm.pool := by
      have := congrArg (fun y : Node => y.adm.pool) hend.lets.core_eq
      exact this
    rw [he, ha3, hpool2] at hw
    exact hpool w hw
  · have he := hend.keys j hj
    have h3 : m3.keySlot j = m2.keySlot j := by unfold Node.keySlot; rw [hs3]
    rw [he, h3] at hj ⊢
    exact hkey2 j hj
  · exact hdma2 d (by rw [← hh3]; exact hend.dma d hd)

end Sys2Proof.Machine
end

section
/-!
Trips, leaving SAFE, boot and reset (R537, R542 to R549, R555): O60.
-/

namespace Sys2Proof.Machine

/-! ### Trips -/

/-- The entries that the work stopped by a trip writes. -/
def tripCounters : List Nat :=
  [Reg.lastResult, Reg.slicesRepeated, Reg.slowPortCap, Reg.slowPortState, Reg.slowSlotCount, Reg.commands] ++ refuseCounters

/-- What work stopped by a trip leaves. -/
abbrev Node.Stops (n m : Node) : Prop := n.Keeps (fun n => { power := n.power, cells := n.cells }) tripCounters m

/-- What work stopped by a trip leaves, but for the cells. -/
abbrev Node.StopsCells (n m : Node) : Prop := n.Keeps (fun n => { power := n.power }) tripCounters m

theorem Node.Keeps.stopsCells {n m : Node} (h : n.Keeps Node.refuseCore refuseCounters m) : n.StopsCells m := h.mono (fun _ => rfl) (by decide)

theorem Node.stopsCells_stopSlices (n : Node) (now : Nat) (f : RunSlice → Bool) : n.StopsCells (n.stopSlices now f) := by
  refine .foldl (fun n x => ?_) _ n
  unfold Node.stopSlice
  dsimp only
  generalize leNat (resultRecord _ _ _ _ _ _ _ _ _) = v
  refine Node.Keeps.trans (Node.Keeps.trans ?_ (.setReg rfl ?_)) (.bump rfl ?_)
  · exact .of_regs rfl rfl
  · decide
  · decide

theorem Node.stops_stopCommands (n : Node) (now : Nat) : n.Stops (n.stopCommands now) := by
  unfold Node.stopCommands
  refine .foldl (fun n c => ?_) _ n
  have hd : n.Stops (n.dropCommand c.id) := .of_regs rfl rfl
  generalize n.linesDone c.id = k
  refine hd.trans ?_
  unfold Node.token
  refine Node.Keeps.trans ?_ (.bump rfl (by decide))
  exact .of_regs rfl rfl

theorem Node.stops_setSlowPort (n : Node) (p st cap : Nat) : n.Stops (n.setSlowPort p st cap) := by
  unfold Node.setSlowPort
  dsimp only
  generalize leNat _ = caps
  have h1 : n.Stops (n.setReg Reg.slowPortCap caps) := .setReg rfl (by decide)
  generalize n.setReg Reg.slowPortCap caps = m at h1
  have h2 : m.Stops (m.setOctet Reg.slowPortState p st) := .setReg rfl (by decide)
  generalize m.setOctet Reg.slowPortState p st = l at h2
  exact (h1.trans h2).trans (.setReg rfl (by decide))

/-- The slow-tier ports that a trip stops. -/
def Node.portStopped (n : Node) (p : Nat) : Node :=
  if n.octet Reg.slowPortState p = 1 then ({ n with slow := Map.modify n.slow p fun d => { d with up := false } }).setSlowPort p 3 0 else n

theorem Node.stops_portStopped (n : Node) (p : Nat) : n.Stops (n.portStopped p) := by
  unfold Node.portStopped
  refine .ite (fun _ => ?_) fun _ => .refl ..
  refine Node.Keeps.trans ?_ (Node.stops_setSlowPort ..)
  exact .of_regs rfl rfl

/-- The node with a trip recorded (R543). -/
def Node.tripNoted (n : Node) (now cause stateCause : Nat) : Node :=
  let r := (n.rcv.log.getLast?).map ErrRec.unitBytes
  let n := (n.event 0x0011 (leBytes 1 stSafe ++ r.getD [0, 0, 0, 0])).setState now stSafe stateCause
  ((n.setReg Reg.tripCause cause).bump32 Reg.trips).setReg Reg.thermalState 2

/-- The node with a trip's work on the cells stopped (R543). -/
def Node.workStopped (n : Node) (now : Nat) : Node :=
  let n := n.stopSlices now fun _ => true
  let n := if n.reg Reg.commitState = 2 ∨ n.reg Reg.commitState = 3 then n.refuseChange now [(7, 0)] else n
  n.foldl n.unfinished fun n q => (n.stopItems q).setAdmitted q.req.key fun q =>
    { q with items := q.items.map fun i => if i.open then { i with state := 4 } else i }

theorem Node.trip_eq (n : Node) (now cause stateCause : Nat) (h0 : n.st ≠ 0) (hf : n.st ≠ stFault) (hs : n.st ≠ stSafe) : n.trip now cause stateCause =
    let m := ({ (n.tripNoted now cause stateCause).workStopped now with cells := {}, packers := [] }).stopCommands now
    let m := m.foldl [0, 1] Node.portStopped
    { m with power := { m.power with quiet := 0, stacksOff := cause == 2, draining := false, toOperational := false } } := by
  unfold Node.trip
  rw [if_neg (by rw [not_or]; exact ⟨h0, hf⟩), if_neg hs]
  rfl

theorem Node.tripNoted_spec (n : Node) (now cause stateCause : Nat) : (n.tripNoted now cause stateCause).st = stSafe ∧
    (n.tripNoted now cause stateCause).reg Reg.tripCause = cause ∧ (n.tripNoted now cause stateCause).reg Reg.trips = (n.reg Reg.trips + 1) % 2 ^ 32 ∧
    (n.tripNoted now cause stateCause).reg Reg.thermalState = 2 ∧ (n.tripNoted now cause stateCause).power = n.power := by
  unfold Node.tripNoted
  dsimp only
  generalize leBytes 1 stSafe ++ _ = d
  have hevr : ∀ k, k ≠ Reg.eventSeq → (n.event 0x0011 d).reg k = n.reg k := fun k hk => by rw [Node.reg_event, if_neg hk]
  have hevp : (n.event 0x0011 d).power = n.power := Node.event_power ..
  generalize n.event 0x0011 d = m at hevr hevp
  obtain ⟨hst, -, -, hreg⟩ := m.setState_frame now stSafe stateCause
  have hp : (m.setState now stSafe stateCause).power = m.power := by
    unfold Node.setState
    dsimp only
    split
    · rfl
    · rw [Node.event_power]; rfl
  generalize m.setState now stSafe stateCause = l at hst hreg hp
  refine ⟨?_, ?_, ?_, (Node.reg_setReg ..).trans (if_pos rfl), hp.trans hevp⟩
  · rw [Node.st, Node.reg_setReg, if_neg (by decide), Node.bump32, Node.reg_setReg, if_neg (by decide), Node.reg_setReg, if_neg (by decide)]
    exact hst
  · rw [Node.reg_setReg, if_neg (by decide), Node.bump32, Node.reg_setReg, if_neg (by decide), Node.reg_setReg, if_pos rfl]
  · rw [Node.reg_setReg, if_neg (by decide), Node.bump32, Node.reg_setReg, if_pos rfl, Node.reg_setReg, if_neg (by decide),
      hreg _ (by decide) (by decide) (by decide) (by decide), hevr _ (by decide)]

theorem Node.stopsCells_workStopped (n : Node) (now : Nat) : n.StopsCells (n.workStopped now) := by
  unfold Node.workStopped
  dsimp only
  have h1 := n.stopsCells_stopSlices now fun _ => true
  generalize n.stopSlices now (fun _ => true) = m at h1
  have h2 : m.StopsCells (if m.reg Reg.commitState = 2 ∨ m.reg Reg.commitState = 3 then m.refuseChange now [(7, 0)] else m) :=
    .ite (fun _ => (m.refuses_refuseChange ..).stopsCells) fun _ => .refl ..
  generalize (if m.reg Reg.commitState = 2 ∨ m.reg Reg.commitState = 3 then m.refuseChange now [(7, 0)] else m) = l at h2 ⊢
  refine (h1.trans h2).trans (.foldl (fun n q => ?_) _ _)
  exact ((n.undoes_stopItems q).ends.trans (Node.ends_setAdmitted ..)).mono (fun _ => rfl) (by decide)

/-- What a trip leaves (R542, R543). -/
theorem Node.trip_spec (n : Node) (now cause stateCause : Nat) (h0 : n.st ≠ 0) (hf : n.st ≠ stFault) (hs : n.st ≠ stSafe) :
    (n.trip now cause stateCause).st = stSafe ∧ (n.trip now cause stateCause).reg Reg.tripCause = cause ∧
    (n.trip now cause stateCause).reg Reg.trips = (n.reg Reg.trips + 1) % 2 ^ 32 ∧ (n.trip now cause stateCause).reg Reg.thermalState = 2 ∧
    (n.trip now cause stateCause).cells = {} ∧
    (n.trip now cause stateCause).power = { n.power with quiet := 0, stacksOff := cause == 2, draining := false, toOperational := false } := by
  rw [n.trip_eq now cause stateCause h0 hf hs]
  obtain ⟨hst, hcause, htrips, htherm, hpow⟩ := n.tripNoted_spec now cause stateCause
  generalize n.tripNoted now cause stateCause = m at hst hcause htrips htherm hpow
  have hw := m.stopsCells_workStopped now
  generalize m.workStopped now = l at hw
  dsimp only
  generalize hl : ({ l with cells := {}, packers := [] } : Node) = l1
  have hl1 : l1.cells = {} ∧ l1.power = l.power ∧ l1.regs = l.regs := by rw [← hl]; exact ⟨rfl, rfl, rfl⟩
  obtain ⟨hc1, hp1, hr1⟩ := hl1
  have hc : l1.Stops ((l1.stopCommands now).foldl [0, 1] Node.portStopped) := (l1.stops_stopCommands now).trans (.foldl Node.stops_portStopped _ _)
  generalize (l1.stopCommands now).foldl [0, 1] Node.portStopped = k at hc
  have hreg : ∀ j, j ∉ tripCounters → k.reg j = m.reg j := fun j hj => (hc.reg_eq j hj).trans ((Node.reg_congr hr1 j).trans (hw.reg_eq j hj))
  have hcells : k.cells = {} := by
    have := congrArg (fun x : Node => x.cells) hc.core_eq
    exact Eq.trans this hc1
  have hpower : k.power = n.power := by
    have h1 := congrArg (fun x : Node => x.power) hc.core_eq
    have h2 := congrArg (fun x : Node => x.power) hw.core_eq
    exact Eq.trans h1 (hp1.trans (Eq.trans h2 hpow))
  refine ⟨(hreg Reg.nodeState (by decide)).trans hst, (hreg _ (by decide)).trans hcause, (hreg _ (by decide)).trans htrips, (hreg _ (by decide)).trans htherm, hcells, ?_⟩
  show ({ k.power with quiet := 0, stacksOff := cause == 2, draining := false, toOperational := false } : Power) = _
  rw [hpower]

theorem Node.trip_safe (n : Node) (now cause stateCause : Nat) (h : n.st = stSafe) : n.trip now cause stateCause = { n with power := { n.power with quiet := 0 } } := by
  unfold Node.trip
  rw [if_neg (by rw [h]; decide), if_pos h]

/-! ### Leaving SAFE -/

/-- The node as it leaves SAFE, before its state (R544). -/
def Node.unsafed (n : Node) (now : Nat) : Node :=
  let scrubs := n.slicesIn .scrubbing
  let n := n.foldl (n.slicesIn .bound) fun n s => n.releaseSlice now s
  n.foldl scrubs fun n s => n.setSlice s { n.slice s with scrubEnd := now + n.scrubTicks s }

theorem Node.leaveSafe_eq (n : Node) (now : Nat) : n.leaveSafe now =
    let m := ((n.unsafed now).setReg Reg.admitCap ((n.unsafed now).reg Reg.capFloor)).setReg Reg.thermalState 1
    ({ m with power := { m.power with stacksOff := false } }).setState now stPreop 1 := rfl

theorem Node.reg_releaseSlice (n : Node) (now s k : Nat) (hk : k ∉ bindCounters) : (n.releaseSlice now s).reg k = n.reg k := by
  by_cases h : 63 < s ∨ (n.slice s).state ≠ .bound
  · rw [n.releaseSlice_idle now s h]
  · obtain ⟨hs, hb⟩ := not_or.mp h
    exact (n.releaseSlice_spec now s (Nat.not_lt.mp hs) (not_not.mp hb)).reg_eq k hk

/-- The scrub of a slice started again. -/
def Node.rescrubbed (now : Nat) (n : Node) (s : Nat) : Node := n.setSlice s { n.slice s with scrubEnd := now + n.scrubTicks s }

theorem Node.reg_unsafed (n : Node) (now k : Nat) (hk : k ∉ bindCounters) : (n.unsafed now).reg k = n.reg k := by
  refine (Node.foldl_keeps (fun n : Node => n.reg k) (n.slicesIn .scrubbing) (Node.rescrubbed now) (fun n s => rfl) _).trans ?_
  exact Node.foldl_keeps (fun n : Node => n.reg k) _ _ (fun n s => n.reg_releaseSlice now s k hk) _

/-- What leaving SAFE leaves (R544). -/
theorem Node.leaveSafe_spec (n : Node) (now : Nat) : (n.leaveSafe now).st = stPreop ∧ (n.leaveSafe now).reg Reg.admitCap = n.reg Reg.capFloor ∧
    (n.leaveSafe now).power.stacksOff = false := by
  rw [n.leaveSafe_eq]
  have hfloor := n.reg_unsafed now Reg.capFloor (by decide)
  generalize n.unsafed now = m at hfloor
  dsimp only
  generalize hk : ((m.setReg Reg.admitCap (m.reg Reg.capFloor)).setReg Reg.thermalState 1) = k
  have hcap : k.reg Reg.admitCap = n.reg Reg.capFloor := by
    rw [← hk, Node.reg_setReg, if_neg (by decide), Node.reg_setReg, if_pos rfl, hfloor]
  generalize hl : ({ k with power := { k.power with stacksOff := false } } : Node) = l
  have hl' : l.reg Reg.admitCap = k.reg Reg.admitCap ∧ l.power.stacksOff = false := by rw [← hl]; exact ⟨rfl, rfl⟩
  obtain ⟨hst, -, -, hreg⟩ := l.setState_frame now stPreop 1
  refine ⟨hst, ?_, ?_⟩
  · rw [hreg _ (by decide) (by decide) (by decide) (by decide), hl'.1, hcap]
  · have hp : (l.setState now stPreop 1).power = l.power := by
      unfold Node.setState
      dsimp only
      split
      · rfl
      · rw [Node.event_power]; rfl
    rw [hp, hl'.2]

end Sys2Proof.Machine
end

section
/-!
Boot (R545 to R547) and the obligation on power states: O60.
-/

namespace Sys2Proof.Machine

/-! ### What a stage of boot leaves -/

/-- What the tests of boot leave: the node boots on or is in FAULT. -/
structure Node.Boots (n m : Node) : Prop where
  pins : m.pins = n.pins
  straps : m.straps = n.straps
  power : m.power = n.power
  fw : m.reg Reg.fwVersion = n.reg Reg.fwVersion
  st : m.st = n.st ∨ m.st = stFault

theorem Node.Boots.refl (n : Node) : n.Boots n := ⟨rfl, rfl, rfl, rfl, .inl rfl⟩

theorem Node.Boots.trans {n m l : Node} (h : n.Boots m) (h' : m.Boots l) : n.Boots l :=
  ⟨h'.pins.trans h.pins, h'.straps.trans h.straps, h'.power.trans h.power, h'.fw.trans h.fw, by
    rcases h'.st with e | e
    · rw [e]; exact h.st
    · exact .inr e⟩

theorem Node.Boots.foldl {α : Type} {f : Node → α → Node} (h : ∀ (n : Node) a, n.Boots (f n a)) (l : List α) (n : Node) : n.Boots (l.foldl f n) := by
  induction l generalizing n with
  | nil => exact .refl n
  | cons a l ih => exact (h n a).trans (ih _)

/-- The retirement of a unit, as a stage of boot. -/
theorem Node.Retires.boots {n m : Node} (h : n.Retires m) (hst : m.st = n.st ∨ m.st = stFault) : n.Boots m := by
  refine ⟨?_, ?_, ?_, h.reg_eq _ (by decide) (by decide), hst⟩
  · have := congrArg (fun x : Node => x.pins) h.core_eq
    exact this
  · have := congrArg (fun x : Node => x.straps) h.core_eq
    exact this
  · have := congrArg (fun x : Node => x.power) h.core_eq
    exact this

theorem Node.reg_setRegion (n : Node) (k v j : Nat) (hk : 0x400000 ≤ k) (hj : j < 0x400000) : (n.setReg k v).reg j = n.reg j := by
  rw [Node.reg_setReg, if_neg (by omega)]

theorem Node.showRetired_st (n : Node) (kind : UnitKind) (num : Nat) : (n.showRetired kind num).st = n.st := by
  have hcount : ∀ v, (n.setReg Reg.retired v).st = n.st := fun v => by rw [Node.st, Node.reg_setReg, if_neg (by decide)]; rfl
  have hregion : ∀ (m : Node) (k v : Nat), 0x400000 ≤ k → (m.setReg k v).st = m.st := fun m k v hk => m.reg_setRegion k v _ hk (by decide)
  unfold Node.showRetired
  dsimp only
  cases kind with
  | thread => exact hcount _
  | cell => exact (hregion _ _ _ (by simp only [regionKey, Reg.cellsRetired]; omega)).trans (hcount _)
  | block => exact (hregion _ _ _ (by simp only [regionKey, Reg.blocksRetired]; omega)).trans (hcount _)
  | region => exact (hregion _ _ _ (by simp only [regionKey, Reg.regionState]; omega)).trans (hcount _)
  | channel => exact hregion _ _ _ (by simp only [regionKey, Reg.channelsRetired]; omega)
  | port => rfl
  | chip => rfl

theorem Node.event_st (n : Node) (c : Nat) (d : Bytes) : (n.event c d).st = n.st := by
  rw [Node.st, Node.reg_event, if_neg (by decide)]
  rfl

/-- An error logged, as a stage of boot. -/
theorem Node.boots_logError (n : Node) (r : ErrRec) : n.Boots (n.logError r) := by
  obtain ⟨l, e⟩ := n.logError_eq r
  rw [e]
  exact ⟨rfl, rfl, rfl, rfl, .inl rfl⟩

theorem Node.logError_st (n : Node) (r : ErrRec) : (n.logError r).st = n.st := by
  obtain ⟨l, e⟩ := n.logError_eq r
  rw [e]
  rfl

theorem Node.retiring_st (n : Node) (now : Nat) (kind : UnitKind) (num : Nat) : (n.retiring now kind num).st = n.st := by
  unfold Node.retiring
  dsimp only
  generalize Map.put n.rcv.units (unitKey kind num) { since := now, retired := true } = units
  have h1 := Node.showRetired_st { n with rcv := { n.rcv with units := units } } kind num
  generalize Node.showRetired { n with rcv := { n.rcv with units := units } } kind num = m at h1
  exact (Node.logError_st ..).trans ((m.event_st ..).trans h1)

theorem Node.retireUnit_st (now fuel : Nat) (kind : UnitKind) (num : Nat) (n : Node) :
    (Node.retireUnit now fuel kind num n).st = n.st ∨ (Node.retireUnit now fuel kind num n).st = stFault := by
  induction fuel generalizing kind num n with
  | zero => exact .inl rfl
  | succ fuel ih =>
    rw [Node.retireUnit_succ]
    have hmoved : ((n.retiring now kind num).moveWork now kind num).st = n.st :=
      ((Node.moves_moveWork ..).reg_eq Reg.nodeState (by decide)).trans (n.retiring_st now kind num)
    split
    · exact .inr (n.enterFault_st ..)
    · split
      · exact .inl rfl
      · split
        · exact .inl hmoved
        · next p _ =>
          generalize (n.retiring now kind num).moveWork now kind num = m at hmoved
          dsimp only
          generalize Map.get 0 m.rcv.retiredIn (unitKey p.1 p.2) + 1 = c
          have hk : ({ m with rcv := { m.rcv with retiredIn := Map.set 0 m.rcv.retiredIn (unitKey p.1 p.2) c } } : Node).st = n.st := hmoved
          split
          · rw [← hk]; exact ih ..
          · exact .inl hk

theorem Node.boots_retireUnit (now fuel : Nat) (kind : UnitKind) (num : Nat) (n : Node) : n.Boots (Node.retireUnit now fuel kind num n) :=
  (Node.retires_retireUnit ..).boots (Node.retireUnit_st ..)

theorem Node.boots_enterFault (n : Node) (now cause : Nat) : n.Boots (n.enterFault now cause) :=
  (n.faults_enterFault ..).retires.boots (.inr (n.enterFault_st ..))

/-- A change that writes neither the node's state nor the firmware's version. -/
theorem Node.Boots.of_eq {n m : Node} (hp : m.pins = n.pins) (hs : m.straps = n.straps) (hw : m.power = n.power)
    (hr : ∀ k, k = Reg.nodeState ∨ k = Reg.fwVersion → m.reg k = n.reg k) : n.Boots m :=
  ⟨hp, hs, hw, hr _ (.inr rfl), .inl (hr Reg.nodeState (.inl rfl))⟩

theorem Node.boots_setReg (n : Node) (k v : Nat) (h0 : k ≠ Reg.nodeState) (h1 : k ≠ Reg.fwVersion) : n.Boots (n.setReg k v) :=
  .of_eq rfl rfl rfl fun j hj => by
    rw [Node.reg_setReg, if_neg (by rintro rfl; rcases hj with e | e; exacts [h0 e, h1 e])]

theorem Node.boots_event (n : Node) (c : Nat) (d : Bytes) : n.Boots (n.event c d) :=
  (n.faults_event c d).retires.boots (.inl (n.event_st c d))

theorem Node.repair_st (n m : Node) (now : Nat) (r : RepairRow) (h : n.repair now r = some m) : m.st = n.st := by
  unfold Node.repair at h
  dsimp only at h
  split at h
  · cases h
  · split at h
    · cases h; rfl
    · cases h
      rw [Node.st, Node.bump32, Node.reg_setReg, if_neg (by decide)]
      rfl

theorem Node.boots_failing (n : Node) (now : Nat) (kind : UnitKind) (num : Nat) : n.Boots (n.failing now kind num) := by
  have hb : n.Boots (n.bump Reg.lasting) := .of_eq rfl rfl rfl fun k hk => Node.reg_bump_ne _ _ _ (by rcases hk with rfl | rfl <;> decide)
  unfold Node.failing
  dsimp only
  split
  · exact (hb.trans (Node.boots_logError ..)).trans (Node.boots_setReg _ _ _ (by decide) (by decide))
  · exact hb

theorem Node.boots_unitFails (n : Node) (now : Nat) (kind : UnitKind) (num addr bit : Nat) : n.Boots (n.unitFails now kind num addr bit) := by
  have hf := n.boots_failing now kind num
  generalize hm : n.failing now kind num = m at hf
  have hback : ∀ (a : Node), a.Boots (a.unitBack kind num) := fun a => .of_eq rfl rfl rfl fun _ _ => rfl
  have hout : ∀ (a : Node) (o : Nat), a.Boots (a.outcome kind num o addr bit) := fun a o => .of_eq rfl rfl rfl fun _ _ => rfl
  have hrun : ∀ (a : Node), a.Boots (a.rerun now (unitKey kind num)) := fun a =>
    (a.moves_rerun now (unitKey kind num)).faults.retires.boots (.inl ((a.moves_rerun now (unitKey kind num)).reg_eq Reg.nodeState (by decide)))
  rw [Node.unitFails_eq, hm]
  cases hr : (repairRow kind num addr).bind fun r => m.repair now r with
  | none => exact (((hf.trans (hout _ _)).trans (hback _)).trans (Node.boots_retireUnit ..)).trans (hrun _)
  | some l =>
    obtain ⟨r, -, hl⟩ := Option.bind_eq_some_iff.mp hr
    have hrep : m.Boots l := (m.repair_frame l now r hl).retires.boots (.inl (m.repair_st l now r hl))
    exact (((hf.trans hrep).trans (hback _)).trans (hout _ _)).trans (hrun _)

theorem Node.boots_draw (n : Node) (len : Nat) : n.Boots (n.draw len).2 := .of_eq rfl rfl rfl fun _ _ => rfl

theorem Node.boots_bootTests (k : Nat) (n : Node) : n.Boots (n.bootTests k) := by
  induction k generalizing n with
  | zero => exact .refl n
  | succ k ih =>
    refine Node.Boots.trans ?_ (ih _)
    refine (n.boots_draw 16).trans ?_
    split
    · split
      · exact Node.boots_unitFails ..
      · exact .refl _
    · exact .refl _

theorem Node.boots_applyRepair (n : Node) (b : Bytes) : n.Boots (n.applyRepair b) := by
  unfold Node.applyRepair
  split
  · exact Node.boots_setReg _ _ _ (by decide) (by decide)
  · dsimp only
    split
    · exact .of_eq rfl rfl rfl fun _ _ => rfl
    · exact .of_eq rfl rfl rfl fun _ _ => rfl

theorem Node.boots_memoryStage (n : Node) (p : Package) : n.Boots (n.memoryStage p) := by
  unfold Node.memoryStage
  dsimp only
  generalize (n.draw 2).1 = v
  refine Node.Boots.trans ?_ (Node.boots_bootTests ..)
  refine Node.Boots.trans ?_ (Node.boots_draw ..)
  refine Node.Boots.trans ?_ (Node.boots_setReg _ _ _ (by decide) (by decide))
  refine Node.Boots.trans ?_ (.foldl Node.boots_applyRepair _ _)
  refine (n.boots_draw 2).trans (.foldl (fun n i => .foldl (fun n c => ?_) _ _) _ _)
  exact Node.boots_retireUnit ..

theorem Node.boots_setSlowPort (n : Node) (p st cap : Nat) : n.Boots (n.setSlowPort p st cap) := by
  unfold Node.setSlowPort
  dsimp only
  generalize leNat _ = caps
  refine Node.Boots.trans ?_ (Node.boots_setReg _ _ _ (by decide) (by decide))
  refine (n.boots_setReg Reg.slowPortCap caps (by decide) (by decide)).trans ?_
  exact Node.boots_setReg _ _ _ (by decide) (by decide)

theorem Node.boots_enumeratePort (n : Node) (p : Nat) : n.Boots (n.enumeratePort p) := by
  unfold Node.enumeratePort
  split
  · exact .refl n
  · dsimp only
    generalize SlowPort.ofBytes (n.draw 29).1 = d
    have hd := n.boots_draw 29
    generalize (n.draw 29).2 = m at hd
    refine Node.Boots.trans (hd.trans ?_) (Node.boots_setSlowPort ..)
    have hput : ∀ sl, m.Boots { m with slow := sl } := fun sl => .of_eq rfl rfl rfl fun _ _ => rfl
    split
    · exact (hput _).trans (Node.boots_event ..)
    · exact hput _

/-- The entries that the stages of boot before the tests write. -/
def bootEntries : List Nat :=
  [Reg.hostLink, Reg.hostSendBytes, Reg.identity, Reg.stackIds, Reg.partNumber, Reg.ringMacA, Reg.ringMacB, Reg.dikPublic, Reg.kemPublic, Reg.unlockNonce,
   Reg.fwSvnMin]

/-- What the stages of boot before the tests leave. -/
abbrev Node.Trains (n m : Node) : Prop := n.Keeps (fun n => { pins := n.pins, straps := n.straps, power := n.power }) bootEntries m

theorem Node.trains_setReg (n : Node) (k v : Nat) (hk : k ∈ bootEntries) : n.Trains (n.setReg k v) := .setReg rfl hk

theorem Node.trains_draw (n : Node) (len : Nat) : n.Trains (n.draw len).2 := .of_regs rfl rfl

theorem Node.trains_hostTrain (n : Node) : n.Trains n.hostTrain := by
  unfold Node.hostTrain
  dsimp only
  have hd := n.trains_draw 1
  generalize leNat (n.draw 1).1 % 3 = k
  generalize (n.draw 1).2 = m at hd
  have h1 := m.trains_setReg Reg.hostLink ((if k = 0 then 16 else if k = 1 then 8 else 4) + 64 * 256) (by decide)
  generalize m.setReg Reg.hostLink ((if k = 0 then 16 else if k = 1 then 8 else 4) + 64 * 256) = l at h1
  have h2 := l.trains_setReg Reg.hostSendBytes (if k = 0 then 64000 else if k = 1 then 32000 else 0) (by decide)
  generalize l.setReg Reg.hostSendBytes (if k = 0 then 64000 else if k = 1 then 32000 else 0) = j at h2
  exact ((hd.trans h1).trans h2).trans (.of_regs rfl rfl)

/-- The entries of stage 3 that name the die (R556, R559). -/
def Node.named (n : Node) (p : Package) : Node :=
  ((((n.setReg Reg.identity (leNat p.identity)).setReg Reg.stackIds (leNat p.stackIds)).setReg Reg.partNumber (leNat p.partNumber)).setReg Reg.ringMacA
    (fieldB p.ringMacs 0 6)).setReg Reg.ringMacB (fieldB p.ringMacs 6 6)

theorem Node.trains_named (n : Node) (p : Package) : n.Trains (n.named p) :=
  ((((n.trains_setReg _ _ (by decide)).trans (Node.trains_setReg _ _ _ (by decide))).trans (Node.trains_setReg _ _ _ (by decide))).trans
    (Node.trains_setReg _ _ _ (by decide))).trans (Node.trains_setReg _ _ _ (by decide))

/-- The secrets and the straps of stage 3. -/
def Node.strapped (n : Node) (sec : Security) : Node := { n with sec := sec, straps := n.pins % 1024 }

theorem Node.identityStage_eq (n : Node) (p : Package) : ∃ (sec : Security) (d k u : Nat), n.identityStage p =
    (((((((((n.named p).draw 1568).2.draw 3168).2.draw 32).2.strapped sec).setReg Reg.dikPublic d).setReg Reg.kemPublic k).setReg Reg.unlockNonce u).setReg
      Reg.fwVersion (fieldB (p.image 2) 3 2)).setReg Reg.fwSvnMin p.current.svnMin := by
  unfold Node.identityStage Node.named Node.strapped
  exact ⟨_, _, _, _, rfl⟩

/-- What stage 3 of boot leaves: the straps are the pins, and the firmware's version that of the main image. -/
theorem Node.identityStage_spec (n : Node) (p : Package) : (n.identityStage p).pins = n.pins ∧ (n.identityStage p).straps = n.pins % 1024 ∧
    (n.identityStage p).power = n.power ∧ (n.identityStage p).st = n.st ∧ (n.identityStage p).reg Reg.fwVersion = fieldB (p.image 2) 3 2 := by
  obtain ⟨sec, d, k, u, e⟩ := n.identityStage_eq p
  have hm := (((n.trains_named p).trans (Node.trains_draw _ 1568)).trans (Node.trains_draw _ 3168)).trans (Node.trains_draw _ 32)
  rw [e]
  generalize ((((n.named p).draw 1568).2.draw 3168).2.draw 32).2 = m at hm
  have hpins : m.pins = n.pins := by
    have := congrArg (fun x : Node => x.pins) hm.core_eq
    exact this
  have hpower : m.power = n.power := by
    have := congrArg (fun x : Node => x.power) hm.core_eq
    exact this
  refine ⟨hpins, congrArg (· % 1024) hpins, hpower, ?_, ?_⟩
  · simp only [Node.st, Node.reg_setReg]
    exact hm.reg_eq _ (by decide)
  · rw [Node.reg_setReg, if_neg (by decide), Node.reg_setReg, if_pos rfl]

/-- What boot leaves of the node. -/
structure Node.Booted (n m : Node) (p : Package) : Prop where
  pins : m.pins = n.pins
  inReset : m.power.inReset = n.power.inReset
  st : m.st = stBoot ∨ m.st = stFault
  header : p.headerOk = false → m.st = stFault
  up : m.st = stBoot → m.power.stage = 4 ∧ m.straps = n.pins % 1024 ∧ m.reg Reg.fwVersion = fieldB (p.image 2) 3 2 ∧
    p.imageOk 1 = true ∧ p.imageOk 2 = true ∧ p.imageOk 3 = true

/-- A boot that ends in FAULT. -/
theorem Node.Booted.fault {n m : Node} (p : Package) (hp : m.pins = n.pins) (hr : m.power.inReset = n.power.inReset) : n.Booted (m.enterFault 0 0) p where
  pins := (m.boots_enterFault 0 0).pins.trans hp
  inReset := by rw [(m.boots_enterFault 0 0).power]; exact hr
  st := .inr (m.enterFault_st 0 0)
  header _ := m.enterFault_st 0 0
  up h := absurd ((m.enterFault_st 0 0).symm.trans h) (by decide)

/-- A stage put changes the stage only. -/
theorem Node.atStage_frame (n : Node) (k : Nat) : (n.atStage k).pins = n.pins ∧ (n.atStage k).straps = n.straps ∧
    (n.atStage k).power.inReset = n.power.inReset ∧ (n.atStage k).st = n.st ∧ (n.atStage k).reg Reg.fwVersion = n.reg Reg.fwVersion :=
  ⟨rfl, rfl, rfl, rfl, rfl⟩

theorem Node.st_atStage (n : Node) (k : Nat) : (n.atStage k).st = n.st := rfl

/-- The node as boot starts. -/
def Node.booting (n : Node) : Node := (n.setReg Reg.nodeState stBoot).atStage 1

/-- The node after stage 3 of boot. -/
def Node.trained (n : Node) (p : Package) : Node := (n.booting.hostTrain.identityStage p).atStage 3

/-- The node after the tests of stage 4. -/
def Node.tested (n : Node) (p : Package) : Node := ({ n with mgmt := { n.mgmt with mgmtFwOk := true } } : Node).memoryStage p

theorem Node.boot_eq (n : Node) (p : Package) : n.boot p =
    if (!p.headerOk || !(p.copyA.valid || p.copyB.valid) || !p.imageOk 1) = true then n.booting.enterFault 0 0
    else if (p.dik != p.certKey || !p.imageOk 3) = true then (n.trained p).enterFault 0 0
    else if (!p.imageOk 2) = true then ({ n.trained p with mgmt := { (n.trained p).mgmt with mgmtFwOk := true } } : Node).enterFault 0 0
    else if ((n.trained p).tested p).st = stFault then (n.trained p).tested p
    else ((((n.trained p).tested p).enumeratePort 0).enumeratePort 1).atStage 4 := rfl

theorem Node.booting_spec (n : Node) : n.booting.pins = n.pins ∧ n.booting.power.inReset = n.power.inReset ∧ n.booting.st = stBoot :=
  ⟨rfl, rfl, by rw [Node.booting, Node.st_atStage, Node.st, Node.reg_setReg, if_pos rfl]⟩

/-- What the first three stages leave. -/
theorem Node.trained_spec (n : Node) (p : Package) : (n.trained p).pins = n.pins ∧ (n.trained p).straps = n.pins % 1024 ∧
    (n.trained p).power.inReset = n.power.inReset ∧ (n.trained p).st = stBoot ∧ (n.trained p).reg Reg.fwVersion = fieldB (p.image 2) 3 2 := by
  obtain ⟨hpins, hreset, hst⟩ := n.booting_spec
  unfold Node.trained
  generalize n.booting = m at hpins hreset hst
  have htrain := m.trains_hostTrain
  obtain ⟨hip, his, hiw, hist, hifw⟩ := m.hostTrain.identityStage_spec p
  generalize m.hostTrain = t at htrain hip his hiw hist hifw
  have htp : t.pins = m.pins := by
    have := congrArg (fun x : Node => x.pins) htrain.core_eq
    exact this
  have htw : t.power = m.power := by
    have := congrArg (fun x : Node => x.power) htrain.core_eq
    exact this
  have hts : t.st = m.st := htrain.reg_eq Reg.nodeState (by decide)
  generalize t.identityStage p = q at hip his hiw hist hifw
  obtain ⟨ap, as, ar, ast, afw⟩ := q.atStage_frame 3
  exact ⟨ap.trans (hip.trans (htp.trans hpins)), as.trans (his.trans (congrArg (· % 1024) (htp.trans hpins))),
    ar.trans ((congrArg Power.inReset (hiw.trans htw)).trans hreset), ast.trans (hist.trans (hts.trans hst)), afw.trans hifw⟩

theorem Node.boots_tested (n : Node) (p : Package) : n.Boots (n.tested p) := by
  refine Node.Boots.trans ?_ (Node.boots_memoryStage _ p)
  exact .of_eq rfl rfl rfl fun _ _ => rfl

theorem Node.boot_booted (n : Node) (p : Package) : n.Booted (n.boot p) p := by
  obtain ⟨hip, his, hir, hist, hifw⟩ := n.trained_spec p
  obtain ⟨hpins, hreset, -⟩ := n.booting_spec
  rw [n.boot_eq p]
  generalize n.trained p = i at hip his hir hist hifw
  split
  · exact .fault p hpins hreset
  next hfirst =>
  split
  · exact .fault p hip hir
  next hsecond =>
  split
  · exact .fault p hip hir
  next hthird =>
  have hb := i.boots_tested p
  generalize i.tested p = l at hb
  have hup : p.headerOk = true ∧ p.imageOk 1 = true ∧ p.imageOk 2 = true ∧ p.imageOk 3 = true := by
    simp only [Bool.or_eq_true, Bool.not_eq_true', bne_iff_ne, ne_eq, not_or, not_not, Bool.not_eq_false] at hfirst hsecond hthird
    exact ⟨hfirst.1.1, hfirst.2, hthird, hsecond.2⟩
  obtain ⟨hheader, h1, h2, h3⟩ := hup
  have hlst : l.st = stBoot ∨ l.st = stFault := by
    rcases hb.st with e | e
    · exact .inl (e.trans hist)
    · exact .inr e
  have hlreset : l.power.inReset = n.power.inReset := (congrArg Power.inReset hb.power).trans hir
  have hno : p.headerOk = false → False := fun h => absurd (hheader.symm.trans h) (by decide)
  split
  · next hf => exact ⟨hb.pins.trans hip, hlreset, hlst, fun h => (hno h).elim, fun h => absurd (hf.symm.trans h) (by decide)⟩
  · have he := (l.boots_enumeratePort 0).trans (Node.boots_enumeratePort _ 1)
    generalize (l.enumeratePort 0).enumeratePort 1 = e at he
    have hest : e.st = stBoot ∨ e.st = stFault := by
      rcases he.st with h | h
      · rw [h]; exact hlst
      · exact .inr h
    obtain ⟨ap, as, ar, ast, afw⟩ := e.atStage_frame 4
    exact ⟨ap.trans (he.pins.trans (hb.pins.trans hip)), ar.trans ((congrArg Power.inReset he.power).trans hlreset), by rw [ast]; exact hest,
      fun h => (hno h).elim, fun _ => ⟨rfl, as.trans (he.straps.trans (hb.straps.trans his)), afw.trans (he.fw.trans (hb.fw.trans hifw)), h1, h2, h3⟩⟩

/-! ### A restart of the node (R549) -/

/-- What a command that boots the node leaves, as the obligation states it. -/
def State.Restarted (s t : State) : Prop :=
  t.pkg = s.pkg ∧ t.mem = [] ∧ t.clock.tick = 0 ∧ t.pending = s.pending ∧ t.node.pins = s.node.pins ∧
    t.node.power.inReset = false ∧ (t.node.st = stBoot ∨ t.node.st = stFault) ∧ (s.pkg.headerOk = false → t.node.st = stFault) ∧
    (t.node.st = stBoot → t.node.power.stage = 4 ∧ t.node.straps = s.node.pins % 1024 ∧ t.node.reg Reg.fwVersion = fieldB (s.pkg.image 2) 3 2 ∧
      s.pkg.imageOk 1 = true ∧ s.pkg.imageOk 2 = true ∧ s.pkg.imageOk 3 = true)

theorem State.restart_restarted (s : State) : s.Restarted s.restart := by
  have h := (s.wipe stBoot).node.boot_booted s.pkg
  exact ⟨rfl, rfl, rfl, rfl, h.pins, h.inReset, h.st, h.header, h.up⟩

/-- A restart looks at the pins, the free values drawn and the alarm only. -/
theorem State.restart_put_noteAwl (s : State) (via : Via) : (s.put (s.node.noteAwl via)).restart = s.restart := by
  obtain ⟨a, j, haw⟩ := s.node.noteAwl_sec via
  rw [haw]
  rfl

/-! ### STATE_REQ (R548) -/

theorem Node.stateReq_operational (n : Node) (now : Nat) (awl : Bool) :
    n.stateReq now 1 awl = if n.mayOperate then { n with power := { n.power with toOperational := true } } else n.bump32 Reg.reqRefused := by
  unfold Node.stateReq
  by_cases h : n.mayOperate = true
  · rw [if_pos ⟨rfl, h⟩, if_pos h]
  · rw [if_neg (fun e => h e.2), if_neg (by simp), if_neg (by simp), if_neg (by simp), if_neg h]

theorem Node.stateReq_preop (n : Node) (now : Nat) (awl : Bool) : n.stateReq now 2 awl =
    if n.st = stOperational then { n with power := { n.power with draining := true } }
    else if n.st = stSafe ∧ awl ∧ n.reg Reg.safeClearTicks ≤ n.power.quiet then n.leaveSafe now else n.bump32 Reg.reqRefused := by
  unfold Node.stateReq
  rw [if_neg (by simp)]
  simp only [true_and, show (2 = 3) = False from by simp, false_and, if_false]

theorem Node.stateReq_safe (n : Node) (now : Nat) (awl : Bool) :
    n.stateReq now 3 awl = if 1 ≤ n.st ∧ n.st ≠ stFault then n.trip now 7 1 else n.bump32 Reg.reqRefused := by
  unfold Node.stateReq
  rw [if_neg (by simp), if_neg (by simp), if_neg (by simp)]
  simp only [true_and]

theorem Node.mayOperate_noteAwl (n : Node) (via : Via) : (n.noteAwl via).mayOperate = n.mayOperate := by
  obtain ⟨a, j, haw⟩ := n.noteAwl_sec via
  rw [haw]
  rfl

theorem Node.bump32_refused (n : Node) : (n.bump32 Reg.reqRefused).power = n.power ∧
    (n.bump32 Reg.reqRefused).reg Reg.reqRefused = (n.reg Reg.reqRefused + 1) % 2 ^ 32 :=
  ⟨rfl, by rw [Node.bump32, Node.reg_setReg, if_pos rfl]⟩

end Sys2Proof.Machine
end

section
/-!
Node states, trips, power and reset: O60.
-/

namespace Sys2Proof.Machine

/-- What a trip leaves, as the obligation states it: the state of the node `n0` before it counts. -/
def Node.Tripped (n0 n : Node) (cause : Nat) : Prop :=
  n.st = stSafe ∧ n.reg Reg.tripCause = cause ∧ n.reg Reg.trips = (n0.reg Reg.trips + 1) % 2 ^ 32 ∧ n.reg Reg.thermalState = 2 ∧ n.cells = {} ∧
    n.power.stacksOff = (cause == 2)

theorem Node.trip_tripped {n0 n : Node} (now cause stateCause : Nat) (hregs : n.regs = n0.regs) (hruns : n0.st ≠ 0 ∧ n0.st ≠ stFault ∧ n0.st ≠ stSafe) :
    n0.Tripped (n.trip now cause stateCause) cause := by
  have hst : n.st = n0.st := Node.reg_congr hregs _
  obtain ⟨h0, hf, hs⟩ := hruns
  obtain ⟨h1, h2, h3, h4, h5, h6⟩ := n.trip_spec now cause stateCause (hst ▸ h0) (hst ▸ hf) (hst ▸ hs)
  exact ⟨h1, h2, by rw [h3, Node.reg_congr hregs], h4, h5, by rw [h6]⟩

theorem Node.trip_alarm (n : Node) (now cause stateCause : Nat) (h0 : n.st ≠ 0) (hf : n.st ≠ stFault) (hs : n.st ≠ stSafe) :
    (n.trip now cause stateCause).power.alarmLow = n.power.alarmLow := by
  rw [(n.trip_spec now cause stateCause h0 hf hs).2.2.2.2.2]

theorem State.wipe_st (s : State) (st : Nat) : (s.wipe st).node.st = st := by
  unfold State.wipe Node.st
  dsimp only
  rw [Node.reg_setReg, if_pos rfl]

/-- A command served as it comes (R491). -/
theorem State.serve_fresh (s : State) (via : Via) (vtype : Nat) (go : State → State × Option Bytes) (hr : s.node.reachable via.src = true)
    (hf : s.node.seen via.src via.seq.toNat s.clock.tick = .fresh) : s.serve via vtype go =
    ((go (s.put (s.node.noteAwl via))).2.elim (go (s.put (s.node.noteAwl via))).1 fun p =>
      (go (s.put (s.node.noteAwl via))).1.put (((go (s.put (s.node.noteAwl via))).1.node.remember via.src via.seq.toNat s.clock.tick p).respond via vtype p)) := by
  unfold State.serve
  simp only [hr, hf, Bool.not_true, Bool.false_eq_true, if_false]
  cases (go (s.put (s.node.noteAwl via))).2 <;> rfl

theorem State.resetReq_boots (s : State) (via : Via) (hr : s.node.reachable via.src = true) (hf : s.node.seen via.src via.seq.toNat s.clock.tick = .fresh)
    (hs : (s.node.noteAwl via).writeStatus via false 0x3704 1 [1#8] = svOk) : exec (.resetReq via 1#8) s = .next s.restart := by
  show execResetReq via 1#8 s = _
  unfold execResetReq
  rw [State.serve_fresh s via _ _ hr hf]
  dsimp only
  rw [if_pos ⟨hs, rfl⟩]
  exact congrArg _ (s.restart_put_noteAwl via)

theorem State.resetReq_refused (s : State) (via : Via) (v : BitVec 8) (hr : s.node.reachable via.src = true)
    (hf : s.node.seen via.src via.seq.toNat s.clock.tick = .fresh) (hs : (s.node.noteAwl via).writeStatus via false 0x3704 1 [v] = svOk) (hv : v ≠ 1) :
    exec (.resetReq via v) s = .next (s.withNode ((s.node.noteAwl via).acked via 0x11 s.clock.tick)) := by
  show execResetReq via v s = _
  unfold execResetReq
  rw [State.serve_fresh s via _ _ hr hf]
  dsimp only
  rw [if_neg (fun h => hv h.2)]
  have hs' : (s.put (s.node.noteAwl via)).node.writeStatus via false 0x3704 1 [v] = svOk := hs
  rw [hs']
  have hc : (s.put (s.node.noteAwl via)).node.countRefused svOk = s.node.noteAwl via := if_neg (by decide)
  rw [hc]
  rfl

/-- Settles O60. Which units fail the tests of boot is free (log entry 101). What a trip stops, and what a reset leaves, rests on the model's reading of
log entries 26, 28, 98 and 104; that an entry reads its default after a loss of power on log entry 7. -/
theorem powerStates : Obligations.PowerStates := by
  unfold Obligations.PowerStates
  intro s n0 now runs tripped boots
  have hstay : s.on s.node = .next s := State.on_eq s s.node
  have hnote : ∀ via, (n0.noteAwl via).regs = n0.regs ∧ (n0.noteAwl via).power = n0.power ∧ (n0.noteAwl via).st = n0.st :=
    fun via => ⟨Node.noteAwl_regs .., Node.noteAwl_power .., Node.reg_congr (Node.noteAwl_regs ..) _⟩
  have hrefused : ∀ via, ((n0.noteAwl via).bump32 Reg.reqRefused).power = n0.power ∧
      ((n0.noteAwl via).bump32 Reg.reqRefused).reg Reg.reqRefused = (n0.reg Reg.reqRefused + 1) % 2 ^ 32 := fun via => by
    obtain ⟨hregs, hpow, -⟩ := hnote via
    obtain ⟨h1, h2⟩ := (n0.noteAwl via).bump32_refused
    exact ⟨h1.trans hpow, by rw [h2, Node.reg_congr hregs]⟩
  refine ⟨?_, ?_, ?_, ?_, ?_, ?_, ?_, ?_, ?_, ?_, ?_, ?_, ?_, ?_, ?_⟩
  · intro via
    refine State.accepts_of s (.stateReqOperational via) via 0x1030 4 [1] (fun n => n.stateReq now 1 via.throughAwl) _ rfl ?_
    obtain ⟨hregs, hpow, hst⟩ := hnote via
    rw [Node.stateReq_operational, Node.mayOperate_noteAwl]
    refine ⟨fun h => ?_, fun h => ?_⟩
    · rw [if_pos h]
      exact ⟨rfl, hregs⟩
    · rw [if_neg (by rw [h]; decide)]
      exact hrefused via
  · intro via
    refine State.accepts_of s (.stateReqPreop via) via 0x1030 4 [2] (fun n => n.stateReq now 2 via.throughAwl) _ rfl ?_
    obtain ⟨hregs, hpow, hst⟩ := hnote via
    have hclear : (n0.noteAwl via).reg Reg.safeClearTicks = n0.reg Reg.safeClearTicks := Node.reg_congr hregs _
    have hst' : (s.node.noteAwl via).st = n0.st := hst
    rw [Node.stateReq_preop, hst']
    refine ⟨fun h => ?_, fun h hawl hquiet => ?_, fun h h' => ?_⟩
    · rw [if_pos h]
      exact ⟨rfl, hregs⟩
    · rw [if_neg (by rw [h]; decide), if_pos ⟨h, hawl, (le_of_eq hclear).trans (hquiet.trans (le_of_eq (congrArg Power.quiet hpow).symm))⟩]
      obtain ⟨h1, h2, h3⟩ := (n0.noteAwl via).leaveSafe_spec now
      exact ⟨h1, h2.trans (Node.reg_congr hregs _), h3⟩
    · rw [if_neg h, if_neg fun e => h' e.1]
      exact hrefused via
  · intro via
    refine State.accepts_of s (.stateReqSafe via) via 0x1030 4 [3] (fun n => n.stateReq now 3 via.throughAwl) _ rfl ?_
    obtain ⟨hregs, hpow, hst⟩ := hnote via
    have hst' : (s.node.noteAwl via).st = n0.st := hst
    rw [Node.stateReq_safe, hst']
    refine ⟨fun h => ?_, fun h => ?_⟩
    · rw [if_pos ⟨Nat.one_le_iff_ne_zero.mpr h.1, h.2.1⟩]
      exact Node.trip_tripped now 7 1 hregs h
    · rw [if_neg (by rcases h with h | h <;> rw [h] <;> decide)]
      exact hrefused via
  · intro m
    have hexec : ∀ n, (if sensorCause m = 0 then n0 else n0.trip now (sensorCause m) 5) = n → exec (.sensorTrip m) s = .next (s.withNode n) :=
      fun n h => h ▸ State.on_eq s _
    refine ⟨fun h => ?_, fun h hruns => ⟨_, hexec _ (if_neg h), Node.trip_tripped now _ 5 rfl hruns⟩, fun h hsafe => ⟨_, hexec _ (if_neg h), ?_⟩⟩
    · exact hexec _ (if_pos h)
    · rw [Node.trip_safe _ _ _ _ hsafe]
      exact ⟨rfl, rfl⟩
  · intro hruns
    exact ⟨_, State.on_eq s _, Node.trip_tripped now _ 5 rfl hruns⟩
  · intro hruns
    refine ⟨_, State.on_eq s _, Node.trip_tripped (n := { n0 with power := { n0.power with alarmLow := true } }) now 6 5 rfl hruns, ?_⟩
    exact Node.trip_alarm { n0 with power := { n0.power with alarmLow := true } } now 6 5 hruns.1 hruns.2.1 hruns.2.2
  · exact ⟨_, State.on_eq s _, rfl, rfl⟩
  · refine ⟨_, rfl, ?_, rfl, fun k hk => ?_, rfl, rfl, rfl⟩
    · exact s.wipe_st 0
    · rw [Node.reg_setReg, if_neg hk]
      rfl
  · intro h
    exact ⟨s.restart, if_pos (.inl h), s.restart_restarted⟩
  · intro h h'
    exact (if_neg (by rw [not_or, not_and]; exact ⟨h, fun e => absurd e h'⟩)).trans hstay
  · intro h
    exact ⟨_, if_neg h, s.wipe_st stBoot, rfl, rfl, rfl, rfl⟩
  · intro h
    exact (if_pos h).trans hstay
  · intro h
    exact ⟨s.restart, if_pos h, s.restart_restarted⟩
  · intro h
    exact (if_neg (by rw [h]; decide)).trans hstay
  · intro via v hr hf hs
    refine ⟨fun hv => ⟨s.restart, ?_, s.restart_restarted⟩, fun hv => ⟨_, s.resetReq_refused via v hr hf hs hv, (hnote via).1, (hnote via).2.1⟩⟩
    subst hv
    exact s.resetReq_boots via hr hf hs

end Sys2Proof.Machine
end

section
/-!
The life of a slice and its sessions (R389 to R394, R436 to R440): O51.
-/

namespace Sys2Proof.Machine

/-! ### Writes that are accepted -/

/-- A row that is a write of one entry, with the status as a premise of what its effect gives. -/
theorem State.accepts_ok (s : State) (c : Instr) (via : Via) (index sub : Nat) (value : Bytes) (f : Node → Node) (P : Node → Prop)
    (hc : exec c s = s.command via index sub value f)
    (h : (s.node.noteAwl via).writeStatus via (blockEntry index sub) index sub value = svOk → P (f (s.node.noteAwl via))) :
    s.accepts c via index sub value P :=
  fun hr hf hs => State.accepts_of s c via index sub value f P hc (h hs) hr hf hs

/-- A value written with status OK has its entry's length. -/
theorem Node.writeStatus_length (n : Node) (via : Via) (block : Bool) (index sub : Nat) (v : Bytes) (e : Entry) (he : Dict.entry index sub = some e)
    (hd : e.ty ≠ .domain) (h : n.writeStatus via block index sub v = svOk) : v.length = e.ty.bytes := by
  by_contra hlen
  unfold Node.writeStatus at h
  rw [he] at h
  simp only [if_neg hd, if_pos hlen] at h
  split_ifs at h

/-! ### Frames of a bind -/

theorem Node.slice_congr {n m : Node} (h : m.comp = n.comp) (k : Nat) : m.slice k = n.slice k := by
  unfold Node.slice; rw [h]

theorem Node.quota_congr {n m : Node} (h : m.tiers = n.tiers) (k : Nat) : m.quota k = n.quota k := by
  unfold Node.quota; rw [h]

/-- What a change of a slice's state leaves. -/
theorem Node.setSliceState_spec (n : Node) (now s : Nat) (st : SliceState) :
    (∀ j, (n.setSliceState now s st).slice j = if j = s then { n.slice s with state := st, stateTick := now } else n.slice j) ∧
    (n.setSliceState now s st).tiers = n.tiers ∧ (n.setSliceState now s st).sec = n.sec ∧ (n.setSliceState now s st).adm = n.adm ∧
    (∀ k, k ≠ Reg.eventSeq → (n.setSliceState now s st).reg k = n.reg k) := by
  unfold Node.setSliceState
  refine ⟨fun j => ?_, ?_, ?_, ?_, fun k hk => ?_⟩
  · rw [Node.slice_congr (Node.event_comp ..), Node.slice_setSlice]
  · rw [Node.event_tiers]; rfl
  · rw [Node.event_sec]; rfl
  · rw [Node.event_adm]; rfl
  · rw [Node.reg_event, if_neg hk]; rfl

theorem Node.bindKey_frame (n : Node) (now s tenant ktype len : Nat) : (n.bindKey now s tenant ktype len).comp = n.comp ∧
    (n.bindKey now s tenant ktype len).tiers = n.tiers ∧ ∀ k, (n.bindKey now s tenant ktype len).reg k = n.reg k := by
  unfold Node.bindKey
  dsimp only
  cases (n.draw len).2.freeKeySlot with
  | none => exact ⟨rfl, rfl, fun _ => rfl⟩
  | some slot => exact ⟨rfl, rfl, fun _ => rfl⟩

theorem Node.quota_setQuota (n : Node) (s j : Nat) (q : Quota) : (n.setQuota s q).quota j = if j = s then q else n.quota j := Map.get_set ..

/-- The quota record of a bind (R390). -/
def Quota.ofBind (slow : Bool) (v : Bytes) : Quota :=
  { high := fieldB v 126 1, low := fieldB v 127 1, t0Kib := fieldB v 124 2, t1Slots := fieldB v 116 4, slowSlots := if slow then fieldB v 120 4 else 0 }

/-- What a bind that is applied leaves (R389, R390). -/
theorem Node.applyBind_spec (n : Node) (now : Nat) (v : Bytes) :
    (n.applyBind now v).slice (fieldB v 0 1) =
      { Slice.ofBytes v with state := .bound, stateTick := now, bindGen := ((n.slice (fieldB v 0 1)).bindGen + 1) % 256 } ∧
    ((n.applyBind now v).quota (fieldB v 0 1)).t1Slots = fieldB v 116 4 ∧ ((n.applyBind now v).quota (fieldB v 0 1)).high = fieldB v 126 1 ∧
    ((n.applyBind now v).quota (fieldB v 0 1)).low = fieldB v 127 1 ∧ (n.applyBind now v).reg Reg.bindResult = n.reg Reg.bindResult := by
  unfold Node.applyBind
  generalize fieldB v 0 1 = s
  dsimp only
  generalize hb : ({ Slice.ofBytes v with bindGen := ((n.slice s).bindGen + 1) % 256 } : Slice) = b
  obtain ⟨hs, ht, -, -, hr⟩ := (n.setSlice s b).setSliceState_spec now s .bound
  generalize (n.setSlice s b).setSliceState now s .bound = m at hs ht hr
  generalize hq : Quota.ofBind m.slowPresent v = q
  have hq' : q.t1Slots = fieldB v 116 4 ∧ q.high = fieldB v 126 1 ∧ q.low = fieldB v 127 1 := by rw [← hq]; exact ⟨rfl, rfl, rfl⟩
  have hshow : m.setQuota s (Quota.ofBind m.slowPresent v) = m.setQuota s q := by rw [hq]
  unfold Quota.ofBind at hshow
  rw [hshow]
  obtain ⟨c1, t1, r1⟩ := (m.setQuota s q).bindKey_frame now s (Slice.ofBytes v).tenant 4 64
  generalize (m.setQuota s q).bindKey now s (Slice.ofBytes v).tenant 4 64 = l at c1 t1 r1
  obtain ⟨c2, t2, r2⟩ := l.bindKey_frame now s (Slice.ofBytes v).tenant 5 32
  have hquota : (l.bindKey now s (Slice.ofBytes v).tenant 5 32).quota s = q := by
    rw [Node.quota_congr (t2.trans t1), Node.quota_setQuota, if_pos rfl]
  have hslice : (l.bindKey now s (Slice.ofBytes v).tenant 5 32).slice s = { b with state := .bound, stateTick := now } := by
    rw [Node.slice_congr (c2.trans c1)]
    refine (hs s).trans ?_
    rw [if_pos rfl, Node.slice_setSlice, if_pos rfl]
  refine ⟨by rw [hslice, ← hb], by rw [hquota]; exact hq'.1, by rw [hquota]; exact hq'.2.1, by rw [hquota]; exact hq'.2.2, ?_⟩
  exact (r2 _).trans ((r1 _).trans (hr _ (by decide)))

theorem Node.retired_congr {n m : Node} (h : m.rcv = n.rcv) (kind : UnitKind) (num : Nat) : m.retired kind num = n.retired kind num := by
  unfold Node.retired Node.unitState?; rw [h]

theorem Node.slowPresent_congr {n m : Node} (h : m.regs = n.regs) : m.slowPresent = n.slowPresent := by
  unfold Node.slowPresent Node.hasUnit; rw [Node.reg_congr h]

theorem Node.slowFreeSlots_congr {n m : Node} (hr : m.regs = n.regs) (ht : m.tiers = n.tiers) : m.slowFreeSlots = n.slowFreeSlots := by
  unfold Node.slowFreeSlots; rw [Node.reg_congr hr, ht]

theorem Node.bindCode_noteAwl (n : Node) (via : Via) (p : Bool) (v : Bytes) : (n.noteAwl via).bindCode p v = n.bindCode p v := by
  unfold Node.bindCode
  simp only [Node.slice_congr (Node.noteAwl_comp n via), Node.noteAwl_comp, Node.retired_congr (Node.noteAwl_rcv n via),
    Node.slowPresent_congr (Node.noteAwl_regs n via), Node.slowFreeSlots_congr (Node.noteAwl_regs n via) (Node.noteAwl_tiers n via)]

/-- A bind as its code decides (R391, R392). -/
theorem Node.sliceBind_spec (n : Node) (now : Nat) (v : Bytes) :
    (n.sliceBind now v).reg Reg.bindResult = n.bindCode false v ∧
    (n.bindCode false v = 0 → (n.slice (fieldB v 0 1)).state = .free →
      (n.sliceBind now v).slice (fieldB v 0 1) =
        { Slice.ofBytes v with state := .bound, stateTick := now, bindGen := ((n.slice (fieldB v 0 1)).bindGen + 1) % 256 } ∧
      ((n.sliceBind now v).quota (fieldB v 0 1)).t1Slots = fieldB v 116 4 ∧ ((n.sliceBind now v).quota (fieldB v 0 1)).high = fieldB v 126 1 ∧
      ((n.sliceBind now v).quota (fieldB v 0 1)).low = fieldB v 127 1) ∧
    (n.bindCode false v = 0 → (n.slice (fieldB v 0 1)).state ≠ .free →
      (n.sliceBind now v).slice (fieldB v 0 1) = { n.slice (fieldB v 0 1) with pendingBind := some v }) ∧
    (n.bindCode false v ≠ 0 → (n.sliceBind now v).comp = n.comp) := by
  unfold Node.sliceBind
  dsimp only
  have hcode : (n.setReg Reg.bindResult (n.bindCode false v)).reg Reg.bindResult = n.bindCode false v := (Node.reg_setReg ..).trans (if_pos rfl)
  have hslice : ∀ k, (n.setReg Reg.bindResult (n.bindCode false v)).slice k = n.slice k := fun _ => rfl
  have hcomp : (n.setReg Reg.bindResult (n.bindCode false v)).comp = n.comp := rfl
  generalize n.setReg Reg.bindResult (n.bindCode false v) = m at hcode hslice hcomp
  generalize n.bindCode false v = c at hcode
  by_cases h0 : c = 0
  · rw [if_neg (not_not.mpr h0), hslice]
    by_cases hfree : (n.slice (fieldB v 0 1)).state = .free
    · rw [if_pos hfree]
      obtain ⟨h1, h2, h3, h4, h5⟩ := m.applyBind_spec now v
      rw [hslice] at h1
      exact ⟨h5.trans hcode, fun _ _ => ⟨h1, h2, h3, h4⟩, fun _ h => absurd hfree h, fun h => absurd h0 h⟩
    · rw [if_neg hfree]
      exact ⟨hcode, fun _ h => absurd h hfree, fun _ _ => by rw [Node.slice_setSlice, if_pos rfl], fun h => absurd h0 h⟩
  · rw [if_pos h0]
    exact ⟨hcode, fun h => absurd h h0, fun h => absurd h h0, fun _ => hcomp⟩

/-! ### Sessions -/

/-- The code of a SESSION_SET (R393). -/
def Node.sessionCode (n : Node) (v : Bytes) : Nat :=
  let x := fieldB v 0 2
  let op := fieldB v 2 1
  let at_ := n.sliceOfSession x
  let s := (at_.map (·.1)).getD 64
  firstCode
    [(at_.isNone, 1), ((op != 1 && op != 2) || fieldB v 3 1 != 0 || fieldB v 12 4 != 0, 2), (op == 1 && !n.replyPortOk s (fieldB v 4 2), 3),
     (op == 1 && !n.sessionKey s (fieldB v 6 2), 4), (op == 2 && (n.session x).state != 1, 5)]

/-- A session opened or set (R393). -/
def Node.sessionOpened (n : Node) (now s : Nat) (v : Bytes) : Node :=
  let x := fieldB v 0 2
  let cur := n.session x
  (n.setSession x { cur with state := 1, slice := s, tenant := (n.slice s).tenant, replyPort := fieldB v 4 2, keySlot := fieldB v 6 2, quantum := fieldB v 8 4,
                             lastActivity := if cur.state = 1 then cur.lastActivity else now }).journal 6 x (Map.get 0xFFFF n.links.replyDst x) 1 []

/-- A session closed (R393). -/
def Node.sessionClosed (n : Node) (now x : Nat) : Node := (((n.sessionsGone now fun y => y == x).journal 6 x 0 0 []).dropSession x).setSession x {}

theorem Node.sessionSet_eq (n : Node) (now : Nat) (v : Bytes) : n.sessionSet now v =
    if n.sessionCode v ≠ 0 then n.setReg Reg.sessionResult (n.sessionCode v)
    else if fieldB v 2 1 = 1 then (n.setReg Reg.sessionResult (n.sessionCode v)).sessionOpened now (((n.sliceOfSession (fieldB v 0 2)).map (·.1)).getD 64) v
    else (n.setReg Reg.sessionResult (n.sessionCode v)).sessionClosed now (fieldB v 0 2) := rfl

theorem Node.session_setSession (n : Node) (x j : Nat) (v : Session) : (n.setSession x v).session j = if j = x then v else n.session j := Map.get_set ..

theorem Node.sliceOfSession_noteAwl (n : Node) (via : Via) (x : Nat) : (n.noteAwl via).sliceOfSession x = n.sliceOfSession x := by
  unfold Node.sliceOfSession; rw [Node.noteAwl_comp]

theorem Node.replyPortOk_noteAwl (n : Node) (via : Via) (s p : Nat) : (n.noteAwl via).replyPortOk s p = n.replyPortOk s p := by
  obtain ⟨a, j, haw⟩ := n.noteAwl_sec via
  rw [haw]
  rfl

theorem Node.sessionKey_noteAwl (n : Node) (via : Via) (s k : Nat) : (n.noteAwl via).sessionKey s k = n.sessionKey s k := by
  unfold Node.sessionKey; rw [Node.keySlot_noteAwl]

theorem Node.session_noteAwl (n : Node) (via : Via) (x : Nat) : (n.noteAwl via).session x = n.session x := by
  unfold Node.session; rw [Node.noteAwl_adm]

theorem Node.sessionCode_noteAwl (n : Node) (via : Via) (v : Bytes) : (n.noteAwl via).sessionCode v = n.sessionCode v := by
  unfold Node.sessionCode
  simp only [Node.sliceOfSession_noteAwl, Node.replyPortOk_noteAwl, Node.sessionKey_noteAwl, Node.session_noteAwl]

/-- The code of a session set in a slice that may be opened. -/
theorem Node.sessionCode_open (n : Node) (v : Bytes) (k : Nat) (b : Slice) (hop : fieldB v 2 1 = 1) (hs : n.sliceOfSession (fieldB v 0 2) = some (k, b))
    (h3 : fieldB v 3 1 = 0) (h12 : fieldB v 12 4 = 0) (hp : n.replyPortOk k (fieldB v 4 2) = true) (hk : n.sessionKey k (fieldB v 6 2) = true) :
    n.sessionCode v = 0 := by
  unfold Node.sessionCode
  refine firstCode_eq_zero _ ?_
  simp [hop, hs, h3, h12, hp, hk]

theorem Node.sessionCode_none (n : Node) (v : Bytes) (hs : n.sliceOfSession (fieldB v 0 2) = none) : n.sessionCode v = 1 := by
  unfold Node.sessionCode
  simp [hs, firstCode]

theorem Node.sessionCode_close (n : Node) (v : Bytes) (e : Nat × Slice) (hop : fieldB v 2 1 = 2) (hs : n.sliceOfSession (fieldB v 0 2) = some e)
    (h3 : fieldB v 3 1 = 0) (h12 : fieldB v 12 4 = 0) : n.sessionCode v = if (n.session (fieldB v 0 2)).state = 1 then 0 else 5 := by
  unfold Node.sessionCode
  by_cases h : (n.session (fieldB v 0 2)).state = 1
  · simp [hop, hs, h3, h12, h, firstCode]
  · simp [hop, hs, h3, h12, h, firstCode]

theorem sessionValue_op (op : Nat) (v : Bytes) (hop : op < 256) (hl : (sessionValue op v).length = 16) : fieldB (sessionValue op v) 2 1 = op := by
  have h2 : (v.take 2).length = 2 := by
    unfold sessionValue at hl
    simp only [List.length_append, List.length_take, List.length_drop, List.length_singleton] at hl ⊢
    omega
  unfold fieldB sessionValue
  rw [List.append_assoc, List.drop_append_of_le_length (le_of_eq h2.symm), List.drop_eq_nil_of_le (le_of_eq h2)]
  simp [leNat, Nat.mod_eq_of_lt hop]

/-- What an opened session leaves (R393). -/
theorem Node.sessionOpened_spec (n : Node) (now s : Nat) (v : Bytes) :
    (n.sessionOpened now s v).reg Reg.sessionResult = n.reg Reg.sessionResult ∧
    ((n.sessionOpened now s v).session (fieldB v 0 2)).state = 1 ∧ ((n.sessionOpened now s v).session (fieldB v 0 2)).slice = s ∧
    ((n.sessionOpened now s v).session (fieldB v 0 2)).tenant = (n.slice s).tenant ∧
    ((n.sessionOpened now s v).session (fieldB v 0 2)).replyPort = fieldB v 4 2 ∧ ((n.sessionOpened now s v).session (fieldB v 0 2)).keySlot = fieldB v 6 2 ∧
    ((n.sessionOpened now s v).session (fieldB v 0 2)).quantum = fieldB v 8 4 := by
  have h : ∃ w : Session, (n.sessionOpened now s v).session (fieldB v 0 2) = w ∧ w.state = 1 ∧ w.slice = s ∧ w.tenant = (n.slice s).tenant ∧
      w.replyPort = fieldB v 4 2 ∧ w.keySlot = fieldB v 6 2 ∧ w.quantum = fieldB v 8 4 :=
    ⟨_, (Node.session_setSession ..).trans (if_pos rfl), rfl, rfl, rfl, rfl, rfl, rfl⟩
  obtain ⟨w, hw, h1⟩ := h
  rw [hw]
  exact ⟨rfl, h1⟩

theorem Node.ages_endWaiting (n : Node) (now status : Nat) (f : Waiting → Bool) : n.Ages (n.endWaiting now status f) := by
  unfold Node.endWaiting
  dsimp only
  refine Node.Ages.trans ?_ (.foldl (fun n w => n.ages_queueReply ..) _ _)
  exact .of_eq rfl

/-- What a closed session leaves (R393). -/
theorem Node.sessionClosed_spec (n : Node) (now x : Nat) (hn : (n.adm.admitted.map fun q => q.req.key).Nodup) :
    (n.sessionClosed now x).reg Reg.sessionResult = n.reg Reg.sessionResult ∧ (n.sessionClosed now x).session x = {} ∧
    (∀ q ∈ (n.sessionClosed now x).adm.pool, q.req.sess ≠ x) ∧ (∀ q ∈ (n.sessionClosed now x).adm.admitted, q.req.sess = x → 2 ≤ q.phase) ∧
    ∀ d ∈ (n.sessionClosed now x).host.dma, d.session ≠ x := by
  have hg := n.sessionsGone_ends now fun y => y == x
  have hage : ∀ q ∈ (n.sessionsGone now fun y => y == x).adm.admitted, q.req.sess = x → 2 ≤ q.phase := by
    intro q hq hx
    obtain ⟨y, -, hf, hp⟩ := Node.endAll_finished _ now stTenantGone 0 false (fun q => q.req.sess == x)
      ((n.ages_endWaiting now stTenantGone fun w => w.req.sess == x).nodup hn) q hq
    exact hp (by rw [← hf.1, hx]; exact beq_self_eq_true x)
  unfold Node.sessionClosed
  generalize (n.sessionsGone now fun y => y == x) = m at hg hage
  have hpool : m.adm.pool = n.adm.pool.filter fun w => !(w.req.sess == x) := by
    have := congrArg (fun x : Node => x.adm.pool) hg.core_eq
    exact this
  refine ⟨hg.reg_eq Reg.sessionResult (by decide), (Node.session_setSession ..).trans (if_pos rfl), fun q hq => ?_, hage, fun d hd => ?_⟩
  · have hq' : q ∈ m.adm.pool := hq
    rw [hpool] at hq'
    simpa using (List.mem_filter.mp hq').2
  · simpa using (List.mem_filter.mp (show d ∈ m.host.dma.filter (fun d => d.session != x) from hd)).2

/-! ### The drain bound -/

/-- What the removal of unsent finals leaves. -/
abbrev Node.Unsends (n m : Node) : Prop :=
  n.Keeps (fun n => { comp := n.comp, tiers := n.tiers, adm := { sessions := n.adm.sessions } }) [Reg.unsentFinals] m

/-- A final that has not left is counted (R84). -/
def Node.unsent (n : Node) (m : OutMsg) : Node :=
  match m.reply with
  | some r => (n.bump Reg.unsentFinals).answered r.session r.requestId
  | none => n

theorem Node.unsends_unsent (n : Node) (m : OutMsg) : n.Unsends (n.unsent m) := by
  unfold Node.unsent
  cases m.reply with
  | none => exact .refl ..
  | some r => exact (Node.Keeps.bump rfl (by decide)).trans (.of_regs rfl rfl)

theorem Node.unsends_unsentFinals (n : Node) (s : Nat) : n.Unsends (n.unsentFinals s) := by
  unfold Node.unsentFinals
  dsimp only
  generalize List.range 384 = is
  refine Node.Keeps.trans ?_ (.foldl (fun n m => n.unsends_unsent m) _ _)
  generalize hq : n.foldl is _ = k
  have hk : n.Unsends k := by
    rw [← hq]
    refine .foldl (fun n i => ?_) _ _
    split
    · refine Node.Keeps.trans ?_ (.foldl (fun n m => n.unsends_unsent m) _ _)
      exact .of_regs rfl rfl
    · exact .refl ..
  exact hk.trans (.of_regs rfl rfl)

theorem Map.find_filter {α : Type} (m : Map α) (p : Nat → Bool) (k : Nat) :
    Map.find (m.filter fun e => p e.1) k = if p k then Map.find m k else none := by
  induction m with
  | nil => simp [Map.find]
  | cons e t ih =>
    obtain ⟨j, v⟩ := e
    by_cases hj : j = k
    · subst hj
      by_cases hp : p j = true
      · rw [List.filter_cons_of_pos (by exact hp), Map.find, Map.find, if_pos rfl, if_pos hp, if_pos rfl]
      · rw [List.filter_cons_of_neg (by exact hp), ih, if_neg hp, if_neg hp]
    · have hf : Map.find ((j, v) :: t) k = Map.find t k := if_neg hj
      rw [hf, ← ih]
      by_cases hp : p j = true
      · rw [List.filter_cons_of_pos (by exact hp), Map.find, if_neg hj]
      · rw [List.filter_cons_of_neg (by exact hp)]

theorem Map.get_filter {α : Type} (d : α) (m : Map α) (p : Nat → Bool) (k : Nat) :
    Map.get d (m.filter fun e => p e.1) k = if p k then Map.get d m k else d := by
  rw [Map.get_of_find, Map.find_filter, Map.get_of_find]
  split <;> rfl

/-- What a session keeps while its slice is scrubbed (log entry 135). -/
def Session.left (b : Slice) (x : Nat) (v : Session) : Session :=
  if b.holds x then { state := v.state, slice := v.slice, tenant := v.tenant, replyPort := v.replyPort } else v

/-- What the scrub of the cells leaves (Table 16-9, R441). -/
theorem Node.scrubCells_spec (n : Node) (s : Nat) : (n.scrubCells s).comp = n.comp ∧ (n.scrubCells s).tiers = n.tiers ∧ (n.scrubCells s).regs = n.regs ∧
    (∀ e ∈ (n.scrubCells s).cells.threads, bitOf (n.slice s).blocks (e.1 / 16 / 16) = false) ∧
    ∀ x, (n.slice s).holds x = true → (n.scrubCells s).box x = {} ∧ (n.scrubCells s).session x =
      { state := (n.session x).state, slice := (n.session x).slice, tenant := (n.session x).tenant, replyPort := (n.session x).replyPort } := by
  refine ⟨rfl, rfl, rfl, fun e he => ?_, fun x hx => ⟨?_, ?_⟩⟩
  · simpa using (List.mem_filter.mp he).2
  · have hb : (n.scrubCells s).box x = Map.get {} (n.host.boxes.filter fun e => !(n.slice s).holds e.1) x := rfl
    rw [hb, Map.get_filter {} n.host.boxes (fun y => !(n.slice s).holds y), if_neg (by rw [hx]; decide)]
  · have hm : (n.scrubCells s).adm.sessions = n.adm.sessions.map fun e => (e.1, Session.left (n.slice s) e.1 e.2) := by
      show List.map _ _ = _
      refine List.map_congr_left fun e _ => ?_
      unfold Session.left Slice.holds
      split <;> rfl
    unfold Node.session
    rw [hm, Map.get_map, Map.get_of_find]
    cases hf : Map.find n.adm.sessions x with
    | none => rfl
    | some v =>
      show Session.left _ x v = _
      unfold Session.left
      rw [if_pos hx]
      rfl

theorem Node.scrubTicks_congr {n m : Node} (hc : m.comp = n.comp) (ht : m.tiers = n.tiers) (h1 : m.reg Reg.scrubFix = n.reg Reg.scrubFix)
    (h2 : m.reg Reg.scrubPer16g = n.reg Reg.scrubPer16g) (s : Nat) : m.scrubTicks s = n.scrubTicks s := by
  unfold Node.scrubTicks
  rw [Node.slice_congr hc, Node.quota_congr ht, h1, h2]

theorem Node.box_event (n : Node) (c : Nat) (d : Bytes) (x : Nat) : (n.event c d).box x = n.box x := by
  obtain ⟨q, t, r, m, h⟩ := n.event_host c d
  unfold Node.box
  rw [h]

/-- What the drain bound leaves (R438, R440). -/
theorem Node.startScrub_spec (n : Node) (now s : Nat) : ((n.startScrub now s).slice s).state = .scrubbing ∧
    ((n.startScrub now s).slice s).scrubEnd = now + n.scrubTicks s ∧
    (∀ e ∈ (n.startScrub now s).cells.threads, bitOf (n.slice s).blocks (e.1 / 16 / 16) = false) ∧
    ∀ x, (n.slice s).holds x = true → (n.startScrub now s).box x = {} ∧ (n.startScrub now s).session x =
      { state := (n.session x).state, slice := (n.session x).slice, tenant := (n.session x).tenant, replyPort := (n.session x).replyPort } := by
  unfold Node.startScrub
  dsimp only
  have hu := n.unsends_unsentFinals s
  generalize n.unsentFinals s = m at hu
  have hcomp : m.comp = n.comp := by
    have := congrArg (fun x : Node => x.comp) hu.core_eq
    exact this
  have htiers : m.tiers = n.tiers := by
    have := congrArg (fun x : Node => x.tiers) hu.core_eq
    exact this
  have hsess : m.adm.sessions = n.adm.sessions := by
    have := congrArg (fun x : Node => x.adm.sessions) hu.core_eq
    exact this
  obtain ⟨hc, ht, hr, hthreads, hbox⟩ := m.scrubCells_spec s
  generalize m.scrubCells s = l at hc ht hr hthreads hbox
  have hticks : l.scrubTicks s = n.scrubTicks s :=
    Node.scrubTicks_congr (hc.trans hcomp) (ht.trans htiers) ((Node.reg_congr hr _).trans (hu.reg_eq _ (by decide)))
      ((Node.reg_congr hr _).trans (hu.reg_eq _ (by decide))) s
  have hss : ∀ x, m.session x = n.session x := fun x => by unfold Node.session; rw [hsess]
  rw [hticks]
  rw [Node.slice_congr hcomp] at hthreads hbox
  generalize hb : ({ l.slice s with scrubEnd := now + n.scrubTicks s } : Slice) = b
  have hslice := (l.setSlice s b).setSliceState_spec now s .scrubbing
  obtain ⟨hs, -, -, hadm, -⟩ := hslice
  have hcells : ((l.setSlice s b).setSliceState now s .scrubbing).cells = l.cells := (Node.event_cells ..).trans rfl
  have hboxes : ∀ x, ((l.setSlice s b).setSliceState now s .scrubbing).box x = l.box x := fun x => by
    exact Node.box_event ..
  generalize (l.setSlice s b).setSliceState now s .scrubbing = t at hs hadm hcells hboxes
  refine ⟨?_, ?_, ?_, fun x hx => ?_⟩
  · rw [hs s, if_pos rfl]
  · rw [hs s, if_pos rfl, Node.slice_setSlice, if_pos rfl, ← hb]
  · rw [hcells]
    exact hthreads
  · obtain ⟨h1, h2⟩ := hbox x hx
    rw [hss] at h2
    exact ⟨(hboxes x).trans h1, Eq.trans (by unfold Node.session; rw [hadm]; rfl) h2⟩

/-! ### The end of scrub -/

/-- The tables of a slice cleared, and its sessions and quota (R394, R440). -/
def Node.scrubbed (n : Node) (s : Nat) : Node :=
  let b := n.slice s
  let n := (n.scrubChannels s).scrubTables s
  let n := { n with adm := { n.adm with sessions := n.adm.sessions.filter fun e => !b.holds e.1 } }
  let n := n.setQuota s { high := 0, low := 0 }
  { n with sec := { n.sec with keys := n.sec.keys.filter fun e => !(e.2.slice == s && e.2.state == 2) } }

/-- The slice freed (R440). -/
def Node.freed (n : Node) (now s : Nat) (b : Slice) : Node :=
  ((n.setSlice s { bindGen := b.bindGen, pendingBind := b.pendingBind }).bump Reg.scrubs).setSliceState now s .free

theorem Node.endScrub_eq (n : Node) (now s : Nat) : ∃ sec : Security, n.endScrub now s = { (n.scrubbed s).freed now s (n.slice s) with sec := sec } := by
  unfold Node.endScrub
  dsimp only
  split
  · exact ⟨_, rfl⟩
  · exact ⟨_, rfl⟩

theorem Node.zeroChannel_frame (n : Node) (i c : Nat) : n.Keeps (fun n => { regs := n.regs, adm := n.adm }) [] (n.zeroChannel i c) := by
  unfold Node.zeroChannel
  dsimp only
  generalize n.stk.lines.filter _ = l
  generalize n.stk.fills.filter _ = f
  exact .of_regs rfl rfl

/-- What the clearing of a slice's tables leaves. -/
theorem Node.scrubbed_spec (n : Node) (s : Nat) : (n.scrubbed s).regs = n.regs ∧ (∀ e ∈ (n.scrubbed s).seqs.pages, e.2.slice ≠ s) ∧
    (∀ e ∈ (n.scrubbed s).indexes, e.2.slice ≠ s) ∧ ((n.scrubbed s).quota s).t1Slots = 0 ∧ ∀ x, (n.slice s).holds x = true → (n.scrubbed s).session x = {} := by
  unfold Node.scrubbed
  dsimp only
  have hk : n.Keeps (fun n => { regs := n.regs, adm := n.adm }) [] (n.scrubChannels s) :=
    .foldl (fun n i => n.zeroChannel_frame ..) _ _
  generalize n.scrubChannels s = m at hk
  have hregs : m.regs = n.regs := by
    have := congrArg (fun x : Node => x.regs) hk.core_eq
    exact this
  have hadm : m.adm = n.adm := by
    have := congrArg (fun x : Node => x.adm) hk.core_eq
    exact this
  refine ⟨hregs, fun e he => ?_, fun e he => ?_, ?_, fun x hx => ?_⟩
  · simpa using (List.mem_filter.mp (show e ∈ m.seqs.pages.filter (fun e => e.2.slice != s) from he)).2
  · simpa using (List.mem_filter.mp (show e ∈ m.indexes.filter (fun e => e.2.slice != s) from he)).2
  · exact congrArg Quota.t1Slots ((Node.quota_setQuota ..).trans (if_pos rfl))
  · have hf : (Map.get {} (m.adm.sessions.filter fun e => !(n.slice s).holds e.1) x : Session) = {} := by
      rw [Map.get_filter {} m.adm.sessions (fun y => !(n.slice s).holds y), if_neg (by rw [hx]; decide)]
    exact hf

theorem Node.event_seqs_indexes (n : Node) (c : Nat) (d : Bytes) : (n.event c d).seqs = n.seqs ∧ (n.event c d).indexes = n.indexes :=
  ⟨Node.event_seqs .., Node.event_indexes ..⟩

theorem Node.freed_spec (n : Node) (now s : Nat) (b : Slice) : (n.freed now s b).slice s = { bindGen := b.bindGen, pendingBind := b.pendingBind, stateTick := now } ∧
    (n.freed now s b).reg Reg.scrubs = (n.reg Reg.scrubs + 1) % 2 ^ 64 ∧ (n.freed now s b).seqs = n.seqs ∧ (n.freed now s b).indexes = n.indexes ∧
    (n.freed now s b).tiers = n.tiers ∧ (n.freed now s b).adm = n.adm := by
  unfold Node.freed
  generalize hc : ({ bindGen := b.bindGen, pendingBind := b.pendingBind } : Slice) = c
  obtain ⟨hs, ht, -, ha, hr⟩ := ((n.setSlice s c).bump Reg.scrubs).setSliceState_spec now s .free
  have hslice : ((n.setSlice s c).bump Reg.scrubs).slice s = c := (n.slice_setSlice s s c).trans (if_pos rfl)
  refine ⟨?_, ?_, (Node.event_seqs ..).trans rfl, (Node.event_indexes ..).trans rfl, ht, ha⟩
  · rw [hs s, if_pos rfl, hslice, ← hc]
  · exact (hr _ (by decide)).trans (Node.reg_bump _ _ _ rfl)

/-- What the end of scrub leaves (R394, R435, R440). -/
theorem Node.endScrub_spec (n : Node) (now s : Nat) :
    (n.endScrub now s).slice s = { bindGen := (n.slice s).bindGen, pendingBind := (n.slice s).pendingBind, stateTick := now } ∧
    (n.endScrub now s).reg Reg.scrubs = (n.reg Reg.scrubs + 1) % 2 ^ 64 ∧ (∀ e ∈ (n.endScrub now s).seqs.pages, e.2.slice ≠ s) ∧
    (∀ e ∈ (n.endScrub now s).indexes, e.2.slice ≠ s) ∧ ((n.endScrub now s).quota s).t1Slots = 0 ∧
    ∀ x, (n.slice s).holds x = true → (n.endScrub now s).session x = {} := by
  obtain ⟨sec, e⟩ := n.endScrub_eq now s
  obtain ⟨hregs, hpages, hidx, hquota, hsess⟩ := n.scrubbed_spec s
  rw [e]
  generalize n.scrubbed s = m at hregs hpages hidx hquota hsess
  obtain ⟨hslice, hscrubs, h1, h2, h3, h4⟩ := m.freed_spec now s (n.slice s)
  generalize m.freed now s (n.slice s) = l at hslice hscrubs h1 h2 h3 h4
  refine ⟨hslice, hscrubs.trans (by rw [Node.reg_congr hregs]), fun e he => hpages e (h1 ▸ he), fun e he => hidx e (h2 ▸ he), ?_, fun x hx => ?_⟩
  · have hq : l.quota s = m.quota s := Node.quota_congr h3 s
    exact (congrArg Quota.t1Slots hq).trans hquota
  · have hx' : l.session x = m.session x := by unfold Node.session; rw [h4]
    exact hx'.trans (hsess x hx)

/-- Settles O51: the states of a slice and of its sessions follow the table of R394, and the drain bound clears what the blocks hold. That a bind waits
in a slice that is not FREE, and what a SCRUBBING slice keeps of its sessions, is the model's reading (log entries 80 and 135). -/
theorem sliceLife : Obligations.SliceLife := by
  unfold Obligations.SliceLife
  intro s n0 now
  have hstay : s.on s.node = .next s := State.on_eq s s.node
  have hlen : ∀ (via : Via) (w : Bytes), (n0.noteAwl via).writeStatus via (blockEntry 0x3204 4) 0x3204 4 w = svOk → w.length = 16 :=
    fun via w h => (n0.noteAwl via).writeStatus_length via _ 0x3204 4 w ⟨0x04, "SESSION_SET", .octets 16, .wo, 0, .immediate, 0, 256 ^ 16 - 1⟩ rfl (by decide) h
  refine ⟨?_, ?_, ?_, ?_, ?_⟩
  · intro via v k b
    refine State.accepts_of s (.sliceBind via v) via 0x3204 1 v (fun n => n.sliceBind now v) _ rfl ?_
    obtain ⟨h1, h2, h3, h4⟩ := (n0.noteAwl via).sliceBind_spec now v
    rw [Node.bindCode_noteAwl] at h1 h2 h3 h4
    rw [Node.slice_congr (Node.noteAwl_comp n0 via)] at h2 h3
    exact ⟨h1, h2, h3, fun h => (h4 h).trans (Node.noteAwl_comp n0 via)⟩
  · intro via v w x
    refine State.accepts_ok s (.sessionOpen via v) via 0x3204 4 w (fun n => n.sessionSet now w) _ rfl fun hs => ?_
    have hop : fieldB w 2 1 = 1 := sessionValue_op 1 v (by decide) (hlen via w hs)
    rw [Node.sessionSet_eq, show (s.node.noteAwl via).sessionCode w = n0.sessionCode w from Node.sessionCode_noteAwl ..,
      show (s.node.noteAwl via).sliceOfSession (fieldB w 0 2) = n0.sliceOfSession x from Node.sliceOfSession_noteAwl ..]
    refine ⟨fun k b hk h3 h12 hp hkey => ?_, fun hk => ?_⟩
    · rw [n0.sessionCode_open w k b hop hk h3 h12 hp hkey, if_neg (by decide), if_pos hop, hk]
      obtain ⟨h1, h2, h3, h4, h5⟩ := ((s.node.noteAwl via).setReg Reg.sessionResult 0).sessionOpened_spec now k w
      refine ⟨h1.trans ((Node.reg_setReg ..).trans (if_pos rfl)), h2, h3, h4.trans ?_, h5⟩
      exact congrArg Slice.tenant (Node.slice_congr (Node.noteAwl_comp n0 via) k)
    · rw [n0.sessionCode_none w hk, if_pos (by decide)]
      exact ⟨(Node.reg_setReg ..).trans (if_pos rfl), Node.noteAwl_adm n0 via⟩
  · intro via v w x
    refine State.accepts_ok s (.sessionClose via v) via 0x3204 4 w (fun n => n.sessionSet now w) _ rfl fun hs => ?_
    have hop : fieldB w 2 1 = 2 := sessionValue_op 2 v (by decide) (hlen via w hs)
    rw [Node.sessionSet_eq, show (s.node.noteAwl via).sessionCode w = n0.sessionCode w from Node.sessionCode_noteAwl ..]
    refine ⟨fun e he h3 h12 hst hn => ?_, fun e he h3 h12 hst => ?_⟩
    · rw [n0.sessionCode_close w e hop he h3 h12, if_pos hst, if_neg (by decide), if_neg (by rw [hop]; decide)]
      obtain ⟨h1, h2⟩ := ((s.node.noteAwl via).setReg Reg.sessionResult 0).sessionClosed_spec now x
        (by rw [show ((s.node.noteAwl via).setReg Reg.sessionResult 0).adm = n0.adm from Node.noteAwl_adm n0 via]; exact hn)
      exact ⟨h1.trans ((Node.reg_setReg ..).trans (if_pos rfl)), h2⟩
    · rw [n0.sessionCode_close w e hop he h3 h12, if_neg hst, if_pos (by decide)]
      exact ⟨(Node.reg_setReg ..).trans (if_pos rfl), Node.noteAwl_adm n0 via⟩
  · intro via v k b
    refine State.accepts_of s (.sliceRelease via v) via 0x3204 3 [v] (fun n => n.releaseSlice now k) _ rfl ?_
    have hslice : (s.node.noteAwl via).slice k = b := Node.slice_congr (Node.noteAwl_comp n0 via) k
    have hsess : ∀ x, (s.node.noteAwl via).session x = n0.session x := fun x => n0.session_noteAwl via x
    have hreg : (s.node.noteAwl via).reg Reg.drainTicks = n0.reg Reg.drainTicks := Node.reg_noteAwl ..
    refine ⟨fun hk hb => ?_, fun h => ?_⟩
    · have hrel := (s.node.noteAwl via).releaseSlice_spec now k hk (by rw [hslice]; exact hb)
      rw [hslice] at hrel
      refine ⟨hrel.state, hrel.drain.trans (by rw [hreg]), hrel.gen, fun x h1 h2 hx => ?_, fun j hj hst => hrel.keys j hst hj, fun q hq hx => ?_, hrel.dma⟩
      · refine hrel.shut x ?_ (by rw [hsess]; exact hx)
        unfold Slice.holds
        simp [h1, h2]
      · have := hrel.pool q hq
        unfold Slice.holds at this
        simp [hx.1, hx.2] at this
    · have hidle : (s.node.noteAwl via).releaseSlice now k = s.node.noteAwl via :=
        (s.node.noteAwl via).releaseSlice_idle now k (by rw [hslice]; exact h)
      rw [hidle]
      exact ⟨Node.noteAwl_comp n0 via, Node.noteAwl_adm n0 via⟩
  · intro sl b
    have hholds : ∀ x, b.sessFirst ≤ x → x < b.sessFirst + b.sessCount → b.holds x = true := fun x h1 h2 => by
      unfold Slice.holds
      simp [h1, h2]
    have hbyte : ∀ a, Memory.byte (s.mem.filter fun c => !inBlocks b.blocks c.1) a = if !inBlocks b.blocks a then Memory.byte s.mem a else 0 :=
      fun a => Map.get_filter (0 : Byte) s.mem (fun a => !inBlocks b.blocks a) a
    refine ⟨fun hst hd => ?_, fun h => ?_, fun hst he => ?_, fun h => ?_⟩
    · obtain ⟨h1, h2, h3, h4⟩ := n0.startScrub_spec now sl.val
      refine ⟨n0.startScrub now sl.val, _, if_pos ⟨hst, hd⟩, h1, h2, h3, fun x hx hx' => h4 x (hholds x hx hx'), fun a ha => ?_, fun a ha => ?_⟩
      · rw [hbyte, ha]; rfl
      · rw [hbyte, ha]; rfl
    · refine (if_neg fun h' => ?_).trans hstay
      rcases h with h | h
      · exact h h'.1
      · exact absurd h'.2 (Nat.not_le.mpr h)
    · obtain ⟨h1, h2, h3, h4, h5, h6⟩ := n0.endScrub_spec now sl.val
      have hexec : exec (.scrubEnd sl) s = .next (s.withNode (n0.endScrub now sl.val)) := by
        show s.on (if _ then _ else _) = _
        rw [if_pos ⟨hst, he⟩]
        exact State.on_eq s _
      exact ⟨_, hexec, h1, h2, h3, h4, h5, fun x hx hx' => h6 x (hholds x hx hx')⟩
    · show s.on (if _ then _ else _) = _
      rw [if_neg fun h' => ?_]
      · exact hstay
      · rcases h with h | h
        · exact h h'.1
        · exact h h'.2

end Sys2Proof.Machine
end

section
/-!
Firmware, attestation, the operator root and scan (R427 to R430, R480, R560, R561): O55.
-/

namespace Sys2Proof.Machine

/-! ### The package record (R560) -/

/-- A change is in force at once: the copy written is the current one. -/
theorem Package.current_change (p : Package) (f : Mutable → Mutable) : (p.change f).current = { f p.current with gen := p.current.gen + 1, valid := true } := by
  have hcur : p.current = p.copyA ∨ p.current = p.copyB := by
    unfold Package.current
    split_ifs <;> simp
  unfold Package.change
  dsimp only
  generalize hm : ({ f p.current with gen := p.current.gen + 1, valid := true } : Mutable) = m
  have hgen : m.gen = p.current.gen + 1 := by rw [← hm]
  have hvalid : m.valid = true := by rw [← hm]
  by_cases h : p.current = p.copyA
  · rw [if_pos h]
    unfold Package.current
    rw [if_neg (by simp [hvalid])]
    split
    · rfl
    · rw [if_neg (by show ¬ m.gen ≤ p.copyA.gen; rw [hgen, h]; omega)]
  · rw [if_neg h]
    have hb : p.current = p.copyB := hcur.resolve_left h
    unfold Package.current
    split
    · rfl
    · rw [if_neg (by simp [hvalid]), if_pos (by show p.copyB.gen ≤ m.gen; rw [hgen, hb]; omega)]

theorem Package.change_frame (p : Package) (f : Mutable → Mutable) : (p.change f).banks = p.banks ∧ (p.change f).repairs = p.repairs := by
  unfold Package.change
  dsimp only
  split <;> exact ⟨rfl, rfl⟩

/-- The banks with an image put beside the others of the active bank. -/
def Package.bankStaged (p : Package) (v : Bytes) (m : Map Bytes) (k : Nat) : Map Bytes :=
  if k = fieldB v 2 1 then Map.put m (bankKey (1 - p.current.bank) k) v
  else Map.set [] m (bankKey (1 - p.current.bank) k) (Map.get [] p.banks (bankKey p.current.bank k))

theorem Package.stage_eq (p : Package) (v : Bytes) : p.stage v =
    ({ p with banks := [1, 2, 3].foldl (p.bankStaged v) p.banks } : Package).change fun m => { m with bank := 1 - p.current.bank } := rfl

theorem Package.get_bankStaged (p : Package) (v : Bytes) (m : Map Bytes) (k j : Nat) :
    Map.get [] (p.bankStaged v m k) (bankKey (1 - p.current.bank) j) = if j = k then
      (if k = fieldB v 2 1 then v else Map.get [] p.banks (bankKey p.current.bank k)) else Map.get [] m (bankKey (1 - p.current.bank) j) := by
  have hkey : bankKey (1 - p.current.bank) j = bankKey (1 - p.current.bank) k ↔ j = k := by unfold bankKey; omega
  unfold Package.bankStaged
  split
  · rw [Map.get_put]
    simp only [hkey]
  · rw [Map.get_set]
    simp only [hkey]

/-- What an accepted image leaves of the package record (R560). -/
theorem Package.stage_spec (p : Package) (v : Bytes) (h1 : 1 ≤ fieldB v 2 1) (h3 : fieldB v 2 1 ≤ 3) :
    (p.stage v).current.bank = 1 - p.current.bank ∧ (p.stage v).image (fieldB v 2 1) = v ∧ (p.stage v).current.svnMin = p.current.svnMin ∧
    (p.stage v).current.opRoot = p.current.opRoot ∧ (p.stage v).repairs = p.repairs := by
  rw [p.stage_eq v]
  generalize hq : ({ p with banks := [1, 2, 3].foldl (p.bankStaged v) p.banks } : Package) = q
  have hqc : q.current = p.current := by rw [← hq]; rfl
  have hqb : q.banks = [1, 2, 3].foldl (p.bankStaged v) p.banks := by rw [← hq]
  have hqr : q.repairs = p.repairs := by rw [← hq]
  have hcur := q.current_change fun m => { m with bank := 1 - p.current.bank }
  rw [hqc] at hcur
  obtain ⟨hbanks, hrepairs⟩ := q.change_frame fun m => { m with bank := 1 - p.current.bank }
  refine ⟨by rw [hcur], ?_, by rw [hcur], by rw [hcur], hrepairs.trans hqr⟩
  unfold Package.image
  rw [hbanks, hcur, hqb]
  simp only [List.foldl_cons, List.foldl_nil, Package.get_bankStaged]
  generalize fieldB v 2 1 = k at h1 h3
  obtain rfl | rfl | rfl : k = 1 ∨ k = 2 ∨ k = 3 := by omega
  · rfl
  · rfl
  · rfl

/-- An image accepted is of a KIND from 1 to 3 (R427). -/
theorem imageCode_kind (p : Package) (v : Bytes) (h : imageCode p v = 0) : 1 ≤ fieldB v 2 1 ∧ fieldB v 2 1 ≤ 3 := by
  unfold imageCode at h
  by_cases hf : imageFormat v = true
  · unfold imageFormat at hf
    simp only [Bool.and_eq_true, decide_eq_true_eq] at hf
    exact ⟨hf.1.1.2, hf.1.2⟩
  · rw [if_pos (by simpa using hf)] at h
    cases h

/-- A write of an entry that acts on the whole state, served now with status OK (R491, R493). -/
theorem State.write_eq (s : State) (via : Via) (index sub : Nat) (value : Bytes) (f : State → State) (hr : s.node.reachable via.src = true)
    (hf : s.node.seen via.src via.seq.toNat s.clock.tick = .fresh)
    (hs : (s.node.noteAwl via).writeStatus via (blockEntry index sub) index sub value = svOk) : s.write via index sub value f =
      (f (s.put (s.node.noteAwl via))).put ((f (s.put (s.node.noteAwl via))).node.acked via (if blockEntry index sub then 0x13 else 0x11) s.clock.tick) := by
  have hs' : (s.put (s.node.noteAwl via)).node.writeStatus via
      ((Dict.entry index sub).any fun e => e.ty == .domain || decide (1424 < e.ty.bytes)) index sub value = svOk := hs
  unfold State.write
  dsimp only
  rw [State.serve_fresh s via _ _ hr hf]
  simp only [hs', if_true]
  rfl

/-! ### Reports (R429, R430) -/

theorem Node.attestReq_plain (n : Node) (tenant : Nat) (nonce : Bytes) (h1 : n.reg Reg.attestState ≠ 1) (h3 : n.reg Reg.attestState ≠ 3) :
    (n.attestReq tenant nonce none).reg Reg.attestState = 1 ∧ (n.attestReq tenant nonce none).sec.attestTenant = tenant ∧
    (n.attestReq tenant nonce none).sec.attestNonce = nonce ∧ (n.attestReq tenant nonce none).sec.attestDest = none := by
  unfold Node.attestReq
  rw [if_neg h1, if_neg h3]
  exact ⟨(Node.reg_setReg ..).trans (if_pos rfl), rfl, rfl, rfl⟩

/-- What a change of ATTEST_STATE leaves. -/
theorem Node.attestState_frame (n : Node) (v : Nat) : (∀ k, (n.attestState v).reg k = (n.setReg Reg.attestState v).reg k) ∧ (n.attestState v).sec = n.sec ∧
    (n.attestState v).host.writes = n.host.writes ∧ (n.attestState v).cells = n.cells ∧ (n.attestState v).links = n.links := by
  unfold Node.attestState
  have h : (n.setReg Reg.attestState v).sec = n.sec ∧ (n.setReg Reg.attestState v).host = n.host ∧ (n.setReg Reg.attestState v).cells = n.cells ∧
    (n.setReg Reg.attestState v).links = n.links := ⟨rfl, rfl, rfl, rfl⟩
  generalize n.setReg Reg.attestState v = m at h
  obtain ⟨hs, hh, hc, hl⟩ := h
  dsimp only
  cases m.sec.attestDest with
  | none => exact ⟨fun _ => rfl, hs, by rw [hh], hc, hl⟩
  | some d => exact ⟨fun _ => rfl, hs, by rw [← hh], hc, hl⟩

/-- The report of a snapshot, signed (Table 16-5). -/
def Node.signedReport (n : Node) : Bytes := n.sec.attestSnap ++ padTo 4627 (Config.sign n.sec.dikPrivate n.sec.attestSnap)

theorem Node.attestSnapshot_spec (n : Node) (now : Nat) : (n.attestSnapshot now).sec.dikPrivate = n.sec.dikPrivate ∧
    (n.attestSnapshot now).sec.attestDest = n.sec.attestDest ∧ (n.attestSnapshot now).host = n.host ∧
    (n.sec.attestSnap ≠ [] → (n.attestSnapshot now).sec.attestSnap = n.sec.attestSnap) := by
  unfold Node.attestSnapshot
  split
  · next h => exact ⟨rfl, rfl, rfl, fun hs => absurd h.2 hs⟩
  · exact ⟨rfl, rfl, rfl, fun _ => rfl⟩

/-- What a report that is ready leaves (R429, R430, R528). -/
theorem Node.reportReady_spec (n : Node) (now : Nat) (h : n.reg Reg.attestState = 1) : ∃ snap, (n.reportReady now).reg Reg.attestState = 2 ∧
    (n.reportReady now).sec.report = snap ++ padTo 4627 (Config.sign n.sec.dikPrivate snap) ∧ (n.sec.attestSnap ≠ [] → snap = n.sec.attestSnap) ∧
    ∀ f a, n.sec.attestDest = some (f, a) →
      (n.reportReady now).host.writes = n.host.writes ++ [{ func := f, addr := a, bytes := (n.reportReady now).sec.report }] := by
  unfold Node.reportReady
  rw [if_neg (by rw [h]; decide)]
  obtain ⟨hdik, hdest, hhost, hsnap⟩ := n.attestSnapshot_spec now
  generalize n.attestSnapshot now = m at hdik hdest hhost hsnap
  dsimp only
  rw [← hdik, ← hdest, ← hhost]
  generalize hr : m.sec.attestSnap ++ padTo 4627 (Config.sign m.sec.dikPrivate m.sec.attestSnap) = r
  obtain ⟨hreg, hsec, hwrites, -, -⟩ := ({ m with sec := { m.sec with report := r } } : Node).attestState_frame 2
  generalize ({ m with sec := { m.sec with report := r } } : Node).attestState 2 = l at hreg hsec hwrites
  have hst : l.reg Reg.attestState = 2 := (hreg _).trans ((Node.reg_setReg ..).trans (if_pos rfl))
  have hrep : l.sec.report = r := by rw [hsec]
  have hd : l.sec.attestDest = m.sec.attestDest := by rw [hsec]
  refine ⟨m.sec.attestSnap, ?_⟩
  rw [hd]
  cases m.sec.attestDest with
  | none => exact ⟨hst, hrep.trans hr.symm, hsnap, fun _ _ he => by cases he⟩
  | some d =>
    refine ⟨hst, hrep.trans hr.symm, hsnap, fun f a he => ?_⟩
    obtain rfl : d = (f, a) := Option.some.inj he
    show l.host.writes ++ _ = _
    rw [hwrites, hrep]

/-! ### Scan (R480) -/

/-- A change of the entries of regions and ports alone. -/
structure Node.Zeroes (n m : Node) : Prop where
  core_eq : { m with regs := {} } = { n with regs := {} }
  reg_eq : ∀ k, k < 0x400000 → m.reg k = n.reg k

theorem Node.Zeroes.refl (n : Node) : n.Zeroes n := ⟨rfl, fun _ _ => rfl⟩

theorem Node.Zeroes.trans {n m l : Node} (h : n.Zeroes m) (h' : m.Zeroes l) : n.Zeroes l :=
  ⟨h'.core_eq.trans h.core_eq, fun k hk => (h'.reg_eq k hk).trans (h.reg_eq k hk)⟩

theorem Node.Zeroes.foldl {α : Type} {f : Node → α → Node} (xs : List α) (h : ∀ (n : Node) x, x ∈ xs → n.Zeroes (f n x)) (n : Node) :
    n.Zeroes (n.foldl xs f) := by
  induction xs generalizing n with
  | nil => exact refl n
  | cons x t ih => exact (h n x List.mem_cons_self).trans (ih (fun n y hy => h n y (List.mem_cons_of_mem _ hy)) _)

theorem Node.zeroes_zeroEntries (n : Node) (index : Nat) (hi : 0x4000 ≤ index) : n.Zeroes (zeroEntries n index) := by
  unfold zeroEntries
  generalize (Dict.object index).getD [] = es
  refine .foldl es (fun n e _ => ?_) n
  split
  · exact .refl n
  · refine ⟨rfl, fun k hk => ?_⟩
    rw [Node.reg_setReg, if_neg]
    unfold dkey
    omega

theorem Node.zeroes_zeroAll (n : Node) (rs js : List Nat) (base step : Nat) (hb : 0x4000 ≤ base) :
    n.Zeroes (n.foldl rs fun n r => n.foldl js fun n j => zeroEntries n (base + r * step + j)) :=
  .foldl rs (fun _ r _ => .foldl js (fun n j _ => n.zeroes_zeroEntries _ (by omega)) _) n

/-- A key slot zeroized (R480). -/
def KeySlot.zeroized (_ : Nat) (v : KeySlot) : KeySlot := { v with state := if v.state = 1 then 2 else v.state, key := [], retireAt := none }

theorem Node.zeroizeKeys_spec (n : Node) : n.zeroizeKeys.sec.kemPrivate = [] ∧ n.zeroizeKeys.sec.dikPrivate = [] ∧
    n.zeroizeKeys.sec.jtagUsed = n.sec.jtagUsed ∧ n.zeroizeKeys.regs = n.regs ∧
    ∀ k, (n.zeroizeKeys.keySlot k).key = [] ∧ (n.zeroizeKeys.keySlot k).state ≠ 1 := by
  refine ⟨rfl, rfl, rfl, rfl, fun k => ?_⟩
  have hget : n.zeroizeKeys.keySlot k = Map.get {} (n.sec.keys.map fun e => (e.1, KeySlot.zeroized e.1 e.2)) k := rfl
  rw [hget, Map.get_map]
  cases Map.find n.sec.keys k with
  | none => exact ⟨rfl, Nat.zero_ne_one⟩
  | some v =>
    refine ⟨rfl, ?_⟩
    show (if v.state = 1 then 2 else v.state) ≠ 1
    split
    · decide
    · assumption

/-- The node as scan begins, before its secrets go. -/
def Node.scanning (n : Node) : Node :=
  { n with sec := { n.sec with jtagUsed := true, awlUsed := true }, test := { n.test with running := [], demand := [] } }

/-- The cells and the links gone. -/
def Node.emptied (n : Node) : Node := { n with cells := {}, links := {} }

theorem Node.scanEntry_eq (n : Node) (now : Nat) : n.scanEntry now =
    (((((n.scanning.enterFault now 6).zeroizeKeys.emptied.foldl (List.range 16) fun n r => n.foldl [0, 1, 2] fun n j => zeroEntries n (0x4000 + r * 256 + j)).foldl
      (List.range 48) fun n p => n.foldl [0, 1, 2, 3, 4] fun n j => zeroEntries n (0x5000 + p * 64 + j)).setReg Reg.scanState 1).attestState 3) := by
  unfold Node.scanEntry Node.scanning Node.emptied
  generalize List.range 16 = a
  generalize List.range 48 = b
  rfl

/-- What scan entry leaves (R480). -/
theorem Node.scanEntry_spec (n : Node) (now : Nat) : (n.scanEntry now).reg Reg.scanState = 1 ∧ (n.scanEntry now).reg Reg.attestState = 3 ∧
    (n.scanEntry now).st = stFault ∧ (n.scanEntry now).sec.kemPrivate = [] ∧ (n.scanEntry now).sec.dikPrivate = [] ∧
    (∀ k, ((n.scanEntry now).keySlot k).key = [] ∧ ((n.scanEntry now).keySlot k).state ≠ 1) ∧ (n.scanEntry now).cells = {} ∧ (n.scanEntry now).links = {} ∧
    (n.scanEntry now).sec.jtagUsed = true := by
  rw [n.scanEntry_eq now]
  have hst := n.scanning.enterFault_st now 6
  have hjtag : (n.scanning.enterFault now 6).sec.jtagUsed = true := by
    have h := (n.scanning.faults_enterFault now 6).core_eq
    have := congrArg (fun x : Node => x.sec.jtagUsed) h
    exact this
  generalize n.scanning.enterFault now 6 = m at hst hjtag
  obtain ⟨hkem, hdik, hj, hregs, hkeys⟩ := m.zeroizeKeys_spec
  have hmst : m.zeroizeKeys.emptied.st = stFault := (Node.reg_congr (show m.zeroizeKeys.emptied.regs = m.regs from hregs) _).trans hst
  have hz1 := m.zeroizeKeys.emptied.zeroes_zeroAll (List.range 16) [0, 1, 2] 0x4000 256 (by decide)
  have hz := hz1.trans (Node.zeroes_zeroAll _ (List.range 48) [0, 1, 2, 3, 4] 0x5000 64 (by decide))
  generalize hl : ((m.zeroizeKeys.emptied.foldl (List.range 16) fun n r => n.foldl [0, 1, 2] fun n j => zeroEntries n (0x4000 + r * 256 + j)).foldl (List.range 48)
    fun n p => n.foldl [0, 1, 2, 3, 4] fun n j => zeroEntries n (0x5000 + p * 64 + j)) = l at hz
  have hsec : l.sec = m.zeroizeKeys.sec := by
    have := congrArg (fun x : Node => x.sec) hz.core_eq
    exact this
  have hcells : l.cells = {} := by
    have := congrArg (fun x : Node => x.cells) hz.core_eq
    exact this
  have hlinks : l.links = {} := by
    have := congrArg (fun x : Node => x.links) hz.core_eq
    exact this
  have hlst : l.st = stFault := (hz.reg_eq Reg.nodeState (by decide)).trans hmst
  obtain ⟨hr, hs, -, hc, hk⟩ := (l.setReg Reg.scanState 1).attestState_frame 3
  generalize (l.setReg Reg.scanState 1).attestState 3 = t at hr hs hc hk
  have hsec' : t.sec = m.zeroizeKeys.sec := hs.trans hsec
  refine ⟨?_, ?_, ?_, by rw [hsec']; exact hkem, by rw [hsec']; exact hdik, fun k => ?_, hc.trans hcells, hk.trans hlinks, by rw [hsec', hj]; exact hjtag⟩
  · rw [hr, Node.reg_setReg, if_neg (by decide), Node.reg_setReg, if_pos rfl]
  · rw [hr, Node.reg_setReg, if_pos rfl]
  · rw [Node.st, hr, Node.reg_setReg, if_neg (by decide), Node.reg_setReg, if_neg (by decide)]
    exact hlst
  · have hslot : t.keySlot k = m.zeroizeKeys.keySlot k := by unfold Node.keySlot; rw [hsec']
    rw [hslot]
    exact hkeys k

/-- Settles O55: an accepted image goes to the bank that is not active, a report is the signed snapshot, and scan leaves no secret. That the other images of a
bank are carried over is the model's reading (log entry 88). -/
theorem firmwareAndScan : Obligations.FirmwareAndScan := by
  unfold Obligations.FirmwareAndScan
  intro s n0 now
  have hstay : s.on s.node = .next s := State.on_eq s s.node
  refine ⟨?_, ?_, ?_, ?_, ?_, ?_, ?_, ?_, ?_⟩
  · intro via v hr hf hs
    have hexec : exec (.fwStaged via v) s = _ := congrArg Host.Outcome.next (s.write_eq via 0x3404 6 v (fun s => s.fwStaged v) hr hf hs)
    have hcode : ((s.node.noteAwl via).setReg Reg.fwResult (imageCode s.pkg v)).reg Reg.fwResult = imageCode s.pkg v := (Node.reg_setReg ..).trans (if_pos rfl)
    by_cases h0 : imageCode s.pkg v = 0
    · have hst : (s.put (s.node.noteAwl via)).fwStaged v =
          { s with node := (s.node.noteAwl via).setReg Reg.fwResult (imageCode s.pkg v), pkg := s.pkg.stage v } := if_pos h0
      rw [hst] at hexec
      obtain ⟨h1, h3⟩ := imageCode_kind s.pkg v h0
      exact ⟨_, _, hexec, hcode, fun h => absurd h0 h, fun _ => s.pkg.stage_spec v h1 h3⟩
    · have hst : (s.put (s.node.noteAwl via)).fwStaged v = s.put ((s.node.noteAwl via).setReg Reg.fwResult (imageCode s.pkg v)) := if_neg h0
      rw [hst] at hexec
      exact ⟨_, _, hexec, hcode, fun _ => rfl, fun h => absurd h h0⟩
  · intro via v
    refine State.accepts_of s (.attestReq via v) via 0x3404 4 v (fun n => n.attestReq (fieldB v 0 4) (sliceB v 8 64) none) _ rfl ?_
    obtain ⟨a, j, haw⟩ := s.node.noteAwl_sec via
    have hreg : (s.node.noteAwl via).reg Reg.attestState = n0.reg Reg.attestState := Node.reg_noteAwl ..
    refine ⟨fun h1 h3 => ?_, fun h1 => ?_⟩
    · obtain ⟨e1, e2, e3, e4⟩ := (s.node.noteAwl via).attestReq_plain (fieldB v 0 4) (sliceB v 8 64) (by rw [hreg]; exact h1) (by rw [hreg]; exact h3)
      exact ⟨e1, e2, e3, e4⟩
    · have he : (s.node.noteAwl via).attestReq (fieldB v 0 4) (sliceB v 8 64) none =
          { s.node.noteAwl via with sec := { (s.node.noteAwl via).sec with attestIgnored := (s.node.noteAwl via).sec.attestIgnored + 1 } } :=
        if_pos (hreg.trans h1)
      rw [he, haw]
      exact ⟨rfl, rfl, rfl⟩
  · intro h
    obtain ⟨snap, h1⟩ := n0.reportReady_spec now h
    exact ⟨_, snap, State.on_eq s _, h1⟩
  · intro h
    have he : n0.reportReady now = n0 := if_pos h
    show s.on (n0.reportReady now) = _
    rw [he]
    exact hstay
  · intro v
    by_cases h : v.length ≠ 64 ∨ (n0.comp.slices.any fun e => e.2.state == .bound) = true
    · refine ⟨_, s.pkg, (if_pos h).trans (State.on_eq s _), rfl, rfl, rfl, fun hl hb => ?_, fun _ => rfl⟩
      rcases h with h | h
      · exact absurd hl h
      · obtain ⟨e, he, hst⟩ := List.any_eq_true.mp h
        exact absurd (beq_iff_eq.mp hst) (hb e he)
    · refine ⟨_, _, if_neg h, rfl, rfl, rfl, fun _ _ => ?_, fun hp => ?_⟩
      · rw [Package.current_change]
        exact ⟨rfl, rfl, (s.pkg.change_frame _).1⟩
      · refine absurd (hp.imp id ?_) h
        rintro ⟨e, he, hst⟩
        exact List.any_eq_true.mpr ⟨e, he, beq_iff_eq.mpr hst⟩
  · intro h h0
    obtain ⟨h1, h2, h3, h4⟩ := n0.scanEntry_spec now
    have hexec : exec .scanEntry s = .next { s with node := n0.scanEntry now, mem := [] } := by
      show execScanEntry s = _
      unfold execScanEntry
      rw [if_neg (by rw [not_or]; exact ⟨not_not.mpr h, h0⟩)]
    exact ⟨n0.scanEntry now, hexec, h1, h2, h3, h4⟩
  · intro h
    exact (if_pos h).trans hstay
  · intro h
    exact ⟨_, (if_pos h).trans (State.on_eq s _), (Node.reg_setReg ..).trans (if_pos rfl), rfl⟩
  · intro h
    exact (if_neg h).trans hstay

end Sys2Proof.Machine
end

section
/-!
Staged changes and the last (R51, R54, R55, R58): O30.
-/

namespace Sys2Proof.Machine

/-! ### ARM_RESULT -/

/-- The lowest reason of some failures. -/
def lowReason (fails : List (Nat × Nat)) : Nat := (fails.map (·.1)).foldl Nat.min 0xFF

/-- The regions that failed for a reason, as a mask. -/
def failedRegions (fails : List (Nat × Nat)) (low : Nat) : Nat :=
  (List.range 16).foldl (fun m r => if fails.contains (low, r) then m + 2 ^ r else m) 0

theorem Node.reg_setArmResult (n : Node) (fails : List (Nat × Nat)) (k : Nat) : (n.setArmResult fails).reg k = if k = Reg.armResult then
    lowReason fails * 65536 + (if lowReason fails = 3 ∨ lowReason fails = 4 ∨ lowReason fails = 5 then failedRegions fails (lowReason fails) else 0)
    else n.reg k := by
  unfold Node.setArmResult lowReason failedRegions
  generalize List.range 16 = l
  exact Node.reg_setReg ..

/-- What a refused change leaves where no request was placed for it (R56, R58). -/
theorem Node.refuseChange_spec (n : Node) (now : Nat) (fails : List (Nat × Nat)) (h : n.reg Reg.commitState ≠ 3) :
    (n.refuseChange now fails).reg Reg.commitState = 4 ∧
    (n.refuseChange now fails).reg Reg.armResult = lowReason fails * 65536 +
      (if lowReason fails = 3 ∨ lowReason fails = 4 ∨ lowReason fails = 5 then failedRegions fails (lowReason fails) else 0) ∧
    (n.refuseChange now fails).adm.armed = [] ∧ (n.refuseChange now fails).sched.arming.reported = n.sched.arming.reported := by
  rw [n.refuseChange_idle now fails (.inl h)]
  obtain ⟨hadm, -⟩ := n.refusal_frame now fails
  have hreg : ∀ k, k ≠ Reg.eventSeq → (n.refusal now fails).commitEvent.reg k = ((n.setReg Reg.commitState 4).setArmResult fails).reg k := fun k hk => by
    rw [Node.commitEvent, Node.reg_event, if_neg hk]
    exact Node.reg_congr (m := (n.setReg Reg.commitState 4).setArmResult fails) rfl k
  refine ⟨?_, ?_, by rw [hadm], ?_⟩
  · rw [hreg _ (by decide), Node.reg_setArmResult, if_neg (by decide), Node.reg_setReg, if_pos rfl]
  · rw [hreg _ (by decide), Node.reg_setArmResult, if_pos rfl]
  · rw [Node.commitEvent, Node.event_sched]
    rfl

/-! ### The rows -/

/-- A last image loaded (R51). -/
theorem Node.lastLoad_ok (n : Node) (image : Bytes) (l : Last) (h : Last.parse image = .ok l) : (n.lastLoad image).sched.staged = some l ∧
    (n.lastLoad image).sched.active = n.sched.active ∧ (n.lastLoad image).reg Reg.lastLoadStatus = 0 ∧ (n.lastLoad image).reg Reg.commitState ≠ 0 := by
  have he : n.lastLoad image = (({ n with sched := { n.sched with staged := some l } } : Node).setReg Reg.lastLoadStatus 0).toStaged := by
    unfold Node.lastLoad
    rw [h]
  rw [he]
  generalize hm : (({ n with sched := { n.sched with staged := some l } } : Node).setReg Reg.lastLoadStatus 0) = m
  have hm' : m.sched.staged = some l ∧ m.sched.active = n.sched.active ∧ m.reg Reg.lastLoadStatus = 0 := by
    rw [← hm]
    exact ⟨rfl, rfl, (Node.reg_setReg ..).trans (if_pos rfl)⟩
  obtain ⟨h1, h2, h3⟩ := hm'
  unfold Node.toStaged
  split
  · refine ⟨h1, h2, ?_, ?_⟩
    · rw [Node.reg_setReg, if_neg (by decide)]
      exact h3
    · rw [Node.reg_setReg, if_pos rfl]
      decide
  · next hc => exact ⟨h1, h2, h3, fun h0 => hc (.inl h0)⟩

theorem Node.lastLoad_error (n : Node) (image : Bytes) (k : Nat) (h : Last.parse image = .error k) : (n.lastLoad image).sched.staged = none ∧
    (n.lastLoad image).sched.active = n.sched.active ∧ (n.lastLoad image).reg Reg.lastLoadStatus = k ∧
    (n.lastLoad image).reg Reg.commitState = n.reg Reg.commitState := by
  have he : n.lastLoad image = ({ n with sched := { n.sched with staged := none } } : Node).setReg Reg.lastLoadStatus k := by
    unfold Node.lastLoad
    rw [h]
  rw [he]
  refine ⟨rfl, rfl, (Node.reg_setReg ..).trans (if_pos rfl), ?_⟩
  rw [Node.reg_setReg, if_neg (by decide)]
  rfl

/-- The failures of an ARM (R55). -/
def Node.armFails (n : Node) (now : Nat) : List (Nat × Nat) :=
  (if !n.isRound (n.reg Reg.commitTick) then [(1, 0)] else []) ++ (if n.reg Reg.commitTick < now + n.reg Reg.armLead then [(2, 0)] else [])

theorem Node.armChange_refused (n : Node) (now : Nat) (h2 : n.reg Reg.commitState ≠ 2) (h3 : n.reg Reg.commitState ≠ 3) (hf : n.armFails now ≠ []) :
    n.armChange now = n.refuseChange now (n.armFails now) := by
  unfold Node.armChange
  dsimp only
  rw [if_neg (by rw [not_or]; exact ⟨h2, h3⟩)]
  exact if_pos hf

/-- An ARM that nothing refuses (R55). -/
theorem Node.armChange_armed (n : Node) (now : Nat) (h2 : n.reg Reg.commitState ≠ 2) (h3 : n.reg Reg.commitState ≠ 3) (hf : n.armFails now = []) :
    (n.armChange now).reg Reg.commitState = 2 ∧ (n.armChange now).reg Reg.armResult = 0 ∧ (n.armChange now).sched.arming.armTick = n.reg Reg.commitTick ∧
    (n.armChange now).sched.staged = n.sched.staged := by
  have he : n.armChange now =
      ({ n with sched := { n.sched with arming := { armTick := n.reg Reg.commitTick, affected := 0xFFFF } } }.setReg Reg.commitState 2 |>.setReg Reg.armResult 0) := by
    unfold Node.armChange
    dsimp only
    rw [if_neg (by rw [not_or]; exact ⟨h2, h3⟩)]
    exact if_neg (not_not.mpr hf)
  rw [he]
  refine ⟨?_, (Node.reg_setReg ..).trans (if_pos rfl), rfl, rfl⟩
  rw [Node.reg_setReg, if_neg (by decide), Node.reg_setReg, if_pos rfl]

/-- A change discarded (R54). -/
theorem Node.discardChange_spec (n : Node) (h : n.reg Reg.commitState = 1 ∨ n.reg Reg.commitState = 4) : n.discardChange.reg Reg.commitState = 0 ∧
    n.discardChange.staged = [] ∧ n.discardChange.sched.staged = none ∧ n.discardChange.comp.stagedMap = none ∧
    n.discardChange.tiers.stagedQuota = none ∧ n.discardChange.sched.active = n.sched.active := by
  unfold Node.discardChange
  dsimp only
  rw [if_pos h]
  exact ⟨(Node.reg_setReg ..).trans (if_pos rfl), rfl, rfl, rfl, rfl, rfl⟩

theorem Node.isRound_congr {n m : Node} (h : m.regs = n.regs) (t : Nat) : m.isRound t = n.isRound t := by
  unfold Node.isRound; rw [Node.reg_congr h, Node.reg_congr h]

/-- Settles O30: a loaded last is staged, ARM fixes the commit tick or is refused with its lowest reason, and DISARM and DISCARD take the change back. -/
theorem stagedChange : Obligations.StagedChange := by
  unfold Obligations.StagedChange
  intro via s n0 now c
  have hregs : (n0.noteAwl via).regs = n0.regs := Node.noteAwl_regs ..
  have hsched : (n0.noteAwl via).sched = n0.sched := Node.noteAwl_sched ..
  have hreg : ∀ k, (n0.noteAwl via).reg k = n0.reg k := fun k => Node.reg_congr hregs k
  refine ⟨?_, ?_, ?_, ?_, ?_⟩
  · intro image l h
    refine State.accepts_of s (.lastLoad via image) via 0x1110 5 image (fun n => n.lastLoad image) _ rfl ?_
    obtain ⟨h1, h2, h3, h4⟩ := (n0.noteAwl via).lastLoad_ok image l h
    exact ⟨h1, h2.trans (by rw [hsched]), h3, h4⟩
  · intro image k h
    refine State.accepts_of s (.lastLoad via image) via 0x1110 5 image (fun n => n.lastLoad image) _ rfl ?_
    obtain ⟨h1, h2, h3, h4⟩ := (n0.noteAwl via).lastLoad_error image k h
    exact ⟨h1, h2.trans (by rw [hsched]), h3, h4.trans (hreg _)⟩
  · intro h2 h3
    refine State.accepts_of s (.arm via) via 0x1120 2 [1] (fun n => n.armChange now) _ rfl ?_
    have h2' : (n0.noteAwl via).reg Reg.commitState ≠ 2 := by rw [hreg]; exact h2
    have h3' : (n0.noteAwl via).reg Reg.commitState ≠ 3 := by rw [hreg]; exact h3
    have hfails : (n0.noteAwl via).armFails now = (if !n0.isRound c then [(1, 0)] else []) ++ (if c < now + n0.reg Reg.armLead then [(2, 0)] else []) := by
      unfold Node.armFails
      rw [hreg, hreg, Node.isRound_congr hregs]
    have hrefused : ∀ f k, (n0.noteAwl via).armFails now = f → f ≠ [] → lowReason f = k → k < 3 →
        ((n0.noteAwl via).armChange now).reg Reg.commitState = 4 ∧ ((n0.noteAwl via).armChange now).reg Reg.armResult = k * 65536 := by
      intro f k hf hne hlow hk
      rw [Node.armChange_refused _ now h2' h3' (hf ▸ hne), hf]
      obtain ⟨e1, e2, -⟩ := (n0.noteAwl via).refuseChange_spec now f h3'
      rw [hlow, if_neg (by omega), Nat.add_zero] at e2
      exact ⟨e1, e2⟩
    refine ⟨fun hr hl => ?_, fun hr => ?_, fun hr hl => ?_⟩
    · obtain ⟨e1, e2, e3, e4⟩ := (n0.noteAwl via).armChange_armed now h2' h3' (by rw [hfails, hr, if_neg (Nat.not_lt.mpr hl)]; rfl)
      exact ⟨e1, e2, e3.trans (hreg _), e4.trans (by rw [hsched])⟩
    · rw [hr] at hfails
      by_cases hl : c < now + n0.reg Reg.armLead
      · rw [if_pos hl] at hfails
        exact hrefused [(1, 0), (2, 0)] 1 hfails (by decide) (by decide) (by decide)
      · rw [if_neg hl] at hfails
        exact hrefused [(1, 0)] 1 hfails (by decide) (by decide) (by decide)
    · rw [hr, if_pos hl] at hfails
      exact hrefused [(2, 0)] 2 hfails (by decide) (by decide) (by decide)
  · intro h2 hd
    refine State.accepts_of s (.disarm via) via 0x1120 2 [2] (fun n => n.disarmChange now) _ rfl ?_
    have hdead : (n0.noteAwl via).armDeadlineTick = n0.armDeadlineTick := by
      unfold Node.armDeadlineTick
      rw [hreg, hsched]
    have he : (n0.noteAwl via).disarmChange now = (n0.noteAwl via).refuseChange now [(6, 0)] := by
      unfold Node.disarmChange
      dsimp only
      rw [hreg, hdead, if_pos ⟨.inl h2, hd⟩]
    obtain ⟨e1, e2, e3, -⟩ := (n0.noteAwl via).refuseChange_spec now [(6, 0)] (by rw [hreg]; exact fun h => absurd (h2.symm.trans h) (by decide))
    exact he ▸ ⟨e1, e2, e3⟩
  · intro h
    refine State.accepts_of s (.discard via) via 0x1120 2 [3] (fun n => n.discardChange) _ rfl ?_
    obtain ⟨e1, e2, e3, e4, e5, e6⟩ := (n0.noteAwl via).discardChange_spec (by rw [hreg]; exact h)
    exact ⟨e1, e2, e3, e4, e5, e6.trans (by rw [hsched])⟩

end Sys2Proof.Machine
end

section
/-!
Arming and the commit (R56, R59): O31.
-/

namespace Sys2Proof.Machine

/-! ### Masks -/

theorem bitOf_setBit_same (v i : Nat) : bitOf (setBit v i true) i = true := by
  unfold setBit
  by_cases h : bitOf v i = true
  · rw [if_pos (by rw [h]; rfl)]
    exact h
  · rw [if_neg (by simpa using h), if_pos rfl]
    unfold bitOf at h ⊢
    rw [Nat.add_div_right _ (Nat.two_pow_pos i)]
    simp only [beq_iff_eq] at h ⊢
    omega

/-- The mask of the bits below `n` that are chosen. -/
def maskOf (p : Nat → Bool) (n : Nat) : Nat := (List.range n).foldl (fun m r => if p r then m + 2 ^ r else m) 0

theorem maskOf_succ (p : Nat → Bool) (n : Nat) : maskOf p (n + 1) = if p n then maskOf p n + 2 ^ n else maskOf p n := by
  unfold maskOf
  rw [List.range_succ, List.foldl_append]
  rfl

theorem maskOf_lt (p : Nat → Bool) (n : Nat) : maskOf p n < 2 ^ n := by
  induction n with
  | zero => exact Nat.one_pos
  | succ n ih =>
    rw [maskOf_succ, Nat.pow_succ]
    split <;> omega

theorem bitOf_maskOf (p : Nat → Bool) (n r : Nat) (hr : r < n) : bitOf (maskOf p n) r = p r := by
  induction n with
  | zero => exact absurd hr (Nat.not_lt_zero r)
  | succ n ih =>
    have hlt := maskOf_lt p n
    rw [maskOf_succ]
    by_cases h : r = n
    · subst h
      unfold bitOf
      cases hp : p r with
      | true => rw [if_pos rfl, Nat.add_div_right _ (Nat.two_pow_pos r), Nat.div_eq_of_lt hlt]; rfl
      | false => rw [if_neg (by decide), Nat.div_eq_of_lt hlt]; rfl
    · have hrn : r < n := by omega
      split
      · rw [← ih hrn]
        unfold bitOf
        obtain ⟨d, rfl⟩ : ∃ d, n = r + 1 + d := ⟨n - (r + 1), by omega⟩
        have hpow : 2 ^ (r + 1 + d) = 2 ^ d * 2 * 2 ^ r := by rw [Nat.pow_add, Nat.pow_succ]; ring
        rw [hpow, Nat.add_mul_div_right _ _ (Nat.two_pow_pos r), Nat.add_mul_mod_self_right]
      · exact ih hrn

theorem bitOf_add_mul (v k n r : Nat) (hr : r < n) : bitOf (k * 2 ^ n + v) r = bitOf v r := by
  obtain ⟨d, rfl⟩ : ∃ d, n = r + 1 + d := ⟨n - (r + 1), by omega⟩
  have hpow : k * 2 ^ (r + 1 + d) = k * 2 ^ d * 2 * 2 ^ r := by rw [Nat.pow_add, Nat.pow_succ]; ring
  unfold bitOf
  rw [hpow, Nat.add_comm, Nat.add_mul_div_right _ _ (Nat.two_pow_pos r), Nat.add_mul_mod_self_right]

/-! ### A region's report (R56) -/

/-- The failures that a region reports. -/
def Node.reportFails (n : Node) (r : Nat) (holds : Bool) : List (Nat × Nat) :=
  (if holds then [] else [(3, r)]) ++ (if n.placements.2.contains r then [(4, r)] else []) ++ n.changeReasons.map fun c => (c, r)

/-- The node with a region's report noted. -/
def Node.reportNoted (n : Node) (r : Nat) : Node :=
  { n with sched := { n.sched with arming := { n.sched.arming with reported := setBit n.sched.arming.reported r true } } }

/-- A first report of an affected region, while the change is being armed. -/
theorem Node.regionReport_first (n : Node) (now r : Nat) (holds : Bool) (h2 : n.reg Reg.commitState = 2) (hd : now ≤ n.armDeadlineTick)
    (ha : bitOf n.sched.arming.affected r = true) (hr : bitOf n.sched.arming.reported r = false) : n.regionReport now r holds =
    if n.reportFails r holds ≠ [] then (n.reportNoted r).refuseChange now (n.reportFails r holds)
    else if setBit n.sched.arming.reported r true = n.sched.arming.affected then
      (({ n.reportNoted r with adm := { (n.reportNoted r).adm with armed := n.placements.1 } } : Node).setReg Reg.commitState 3).commitEvent
    else n.reportNoted r := by
  unfold Node.regionReport
  dsimp only
  rw [if_neg (by simp [h2, hr, ha, hd])]
  unfold Node.reportFails Node.reportNoted
  simp only [h2, beq_self_eq_true, if_true, true_and]

/-! ### The commit (R59) -/

/-- The entries that a commit writes beside those of ports and its own. -/
def commitCounters : List Nat := [Reg.prevEpoch, Reg.epoch, Reg.epochState, Reg.drainTick] ++ faultCounters

/-- What the parts of a commit leave: the last and its arming, what is staged, and the entries but the counters and those of ports. -/
structure Node.Commits (n m : Node) : Prop where
  sched : m.sched = n.sched
  staged : m.staged = n.staged
  reg_eq : ∀ k, k < 0x400000 → k ∉ commitCounters → m.reg k = n.reg k

namespace Node.Commits

theorem of_regs {n m : Node} (hr : m.regs = n.regs) (hs : m.sched = n.sched) (ht : m.staged = n.staged) : n.Commits m :=
  ⟨hs, ht, fun k _ _ => Node.reg_congr hr k⟩

theorem refl (n : Node) : n.Commits n := of_regs rfl rfl rfl

theorem trans {n m l : Node} (h : n.Commits m) (h' : m.Commits l) : n.Commits l :=
  ⟨h'.sched.trans h.sched, h'.staged.trans h.staged, fun k hk hc => (h'.reg_eq k hk hc).trans (h.reg_eq k hk hc)⟩

theorem foldl {α : Type} {f : Node → α → Node} (h : ∀ (n : Node) x, n.Commits (f n x)) (xs : List α) (n : Node) : n.Commits (n.foldl xs f) := by
  induction xs generalizing n with
  | nil => exact refl n
  | cons x t ih => exact (h n x).trans (ih _)

theorem setReg (n : Node) (k v : Nat) (hk : k ∈ commitCounters) : n.Commits (n.setReg k v) :=
  ⟨rfl, rfl, fun j _ hj => by rw [Node.reg_setReg, if_neg (by rintro rfl; exact hj hk)]⟩

theorem setPortReg (n : Node) (p k v : Nat) (hk : 0x400000 ≤ k) : n.Commits (n.setPortReg p k v) :=
  ⟨rfl, rfl, fun j hj _ => by rw [Node.setPortReg, Node.reg_setReg, if_neg (by unfold linkKey; omega)]⟩

end Node.Commits

theorem Node.Keeps.commits {n m : Node} (h : n.Faults m) : n.Commits m := by
  refine ⟨?_, ?_, fun k _ hc => h.reg_eq k fun hf => hc (List.mem_append_right _ hf)⟩
  · have := congrArg (fun x : Node => x.sched) h.core_eq
    exact this
  · have := congrArg (fun x : Node => x.staged) h.core_eq
    exact this

theorem Node.commits_trainPort (n : Node) (now p : Nat) : n.Commits (n.trainPort now p) := by
  refine (Node.Commits.setPortReg n p Reg.portState 1 (by decide)).trans ?_
  exact .of_regs rfl rfl rfl

theorem Node.commits_modeCommit (n : Node) (now p v : Nat) : n.Commits (n.modeCommit now p v) := by
  unfold Node.modeCommit
  dsimp only
  have hset : ∀ (m : Node) (k v : Nat), 0x400000 ≤ k → m.Commits (m.setPortReg p k v) := fun m k v hk => .setPortReg m p k v hk
  have hport : ∀ (m : Node) (w : Port), m.Commits (m.setPort p w) := fun m w => .of_regs rfl rfl rfl
  generalize hm : (n.setPortReg p Reg.portState 4).moveReplies now p = m
  have h1 : n.Commits m := by
    rw [← hm]
    exact (hset n Reg.portState 4 (by decide)).trans (Node.ends_moveReplies _ now p).moves.faults.commits
  generalize (List.range 8).flatMap _ = finals
  generalize (m.portReg p Reg.heldDiscards + finals.length) % 2 ^ 64 = w
  generalize List.range 8 = qs
  have h4 : n.Commits ((((m.setPortReg p Reg.heldDiscards w).foldl qs fun n q => n.setQueue p q []).foldl finals fun n r => n.answered r.session r.requestId).setPortReg
      p Reg.portMode v) := by
    refine Node.Commits.trans ?_ (hset _ _ _ (by decide))
    refine Node.Commits.trans ?_ (.foldl (fun n (r : Reply) => (n.ends_answered r.session r.requestId).moves.faults.commits) _ _)
    refine Node.Commits.trans ?_ (.foldl (fun n q => (n.ends_setQueue p q []).moves.faults.commits) _ _)
    exact h1.trans (hset _ _ _ (by decide))
  generalize (((m.setPortReg p Reg.heldDiscards w).foldl qs fun n q => n.setQueue p q []).foldl finals fun n r => n.answered r.session r.requestId).setPortReg
      p Reg.portMode v = k at h4
  split
  · refine Node.Commits.trans ?_ (Node.faults_event ..).commits
    refine Node.Commits.trans ?_ (hset _ _ _ (by decide))
    refine Node.Commits.trans ?_ (hset _ _ _ (by decide))
    refine Node.Commits.trans ?_ (hport _ _)
    exact h4.trans (hset _ _ _ (by decide))
  · refine Node.Commits.trans ?_ (Node.commits_trainPort ..)
    refine Node.Commits.trans ?_ (hport _ _)
    exact h4.trans (hset _ _ _ (by decide))

theorem Node.commits_reserveChange (n : Node) (old : Nat) : n.Commits (n.reserveChange old) := by
  unfold Node.reserveChange
  dsimp only
  refine .foldl (fun n p => ?_) _ _
  exact .of_regs rfl rfl rfl

theorem Node.commits_finalPass (n : Node) (now slice dest : Nat) : n.Commits (n.finalPass now slice dest) := by
  unfold Node.finalPass
  split
  · exact .refl n
  · dsimp only
    exact (Node.Commits.foldl (fun n e => (n.ends_sendNode ..).moves.faults.commits) _ _).trans
      (.foldl (fun n e => (n.ends_sendNode ..).moves.faults.commits) _ _)

theorem Node.commits_commitTakeover (n : Node) (now : Nat) (old new : CompMap) : n.Commits (n.commitTakeover now old new) := by
  unfold Node.commitTakeover
  dsimp only
  have h : n.Commits (n.foldl ((old.members.filter fun x => decide (x < 1024) && !new.members.contains x).filter fun x => n.rcv.lostNodes.contains x) fun n x =>
      n.sessionWide now x stEpochRetired 6 0 none (n.heldSessions x)) := .foldl (fun n x => (n.faults_sessionWide ..).commits) _ _
  split
  · exact h.trans (.of_regs rfl rfl rfl)
  · exact h

theorem Node.commits_setOctet (n : Node) (i v : Nat) : n.Commits (n.setOctet Reg.partnerState i v) := .setReg _ _ _ (by decide)

theorem Node.commits_commitMap (n : Node) (now : Nat) : n.Commits (n.commitMap now) := by
  unfold Node.commitMap
  cases n.comp.stagedMap with
  | none => exact .refl n
  | some m =>
    dsimp only
    have hite : ∀ (a : Node) (c : Prop) [Decidable c] (i : Nat), a.Commits (if c then a else a.setOctet Reg.partnerState i 0) := fun a c _ i => by
      split
      · exact .refl a
      · exact a.commits_setOctet i 0
    refine Node.Commits.trans ?_ (Node.commits_commitTakeover ..)
    refine Node.Commits.trans (Node.Commits.trans ?_ (.foldl (fun n (e : Nat × Nat) => n.commits_finalPass now e.1 e.2) _ _)) (.of_regs rfl rfl rfl)
    refine Node.Commits.trans ?_ (hite _ _ 1)
    refine Node.Commits.trans ?_ (hite _ _ 0)
    refine Node.Commits.trans ?_ (.setReg _ _ _ (by decide))
    refine Node.Commits.trans ?_ (.setReg _ _ _ (by decide))
    refine Node.Commits.trans ?_ (.setReg _ _ _ (by decide))
    refine Node.Commits.trans ?_ (.setReg _ _ _ (by decide))
    exact .of_regs rfl rfl rfl

/-- Entries written one after the other, each once. -/
theorem Node.reg_foldl_setReg (l : List (Nat × Nat)) (n : Node) (k : Nat) (h : (l.map (·.1)).Nodup) :
    (n.foldl l fun n e => n.setReg e.1 e.2).reg k = (Map.find l k).getD (n.reg k) := by
  induction l generalizing n with
  | nil => rfl
  | cons e t ih =>
    obtain ⟨hnot, ht⟩ := List.nodup_cons.mp h
    refine (ih (n.setReg e.1 e.2) ht).trans ?_
    rw [Node.reg_setReg]
    obtain ⟨j, v⟩ := e
    by_cases hk : k = j
    · subst hk
      have hnone : Map.find t k = none := by
        rw [← Option.not_isSome_iff_eq_none]
        intro hs
        obtain ⟨w, hw⟩ := Option.isSome_iff_exists.mp hs
        exact hnot (List.mem_map.mpr ⟨(k, w), Map.find_mem t k w hw, rfl⟩)
      rw [hnone, Map.find, if_pos rfl, if_pos rfl]
      rfl
    · rw [if_neg hk, Map.find, if_neg fun e => hk e.symm]

theorem Node.foldl_setReg_frame (l : List (Nat × Nat)) (n : Node) : (n.foldl l fun n e => n.setReg e.1 e.2).sched = n.sched ∧
    (n.foldl l fun n e => n.setReg e.1 e.2).staged = n.staged :=
  ⟨Node.foldl_keeps (fun n : Node => n.sched) l (fun n e => n.setReg e.1 e.2) (fun _ _ => rfl) n,
    Node.foldl_keeps (fun n : Node => n.staged) l (fun n e => n.setReg e.1 e.2) (fun _ _ => rfl) n⟩

/-- The values of plain entries made active (R59). -/
theorem Node.commitValues_spec (n : Node) (now : Nat) (hn : (n.staged.map (·.1)).Nodup) : (n.commitValues now).sched = n.sched ∧
    (n.commitValues now).staged = [] ∧
    ∀ k, k < 0x400000 → k ∉ commitCounters → (n.commitValues now).reg k = (Map.find n.staged k).getD (n.reg k) := by
  unfold Node.commitValues
  dsimp only
  generalize hm : (List.range 48).filterMap (fun p => (Map.find n.staged (linkKey p Reg.portMode)).map fun v => (p, v)) = modes
  generalize hp : n.staged.filter (fun e => !(modes.any fun m => linkKey m.1 Reg.portMode == e.1)) = plain
  have hplain : (plain.map (·.1)).Nodup := by
    rw [← hp]
    exact hn.sublist (List.filter_sublist.map _)
  have hfind : ∀ k, k < 0x400000 → Map.find plain k = Map.find n.staged k := fun k hk => by
    rw [← hp, Map.find_filter n.staged (fun k => !(modes.any fun m => linkKey m.1 Reg.portMode == k)), if_pos]
    rw [Bool.not_eq_true', List.any_eq_false]
    intro m _
    rw [beq_iff_eq]
    unfold linkKey Reg.portMode
    omega
  have hreg := Node.reg_foldl_setReg plain { n with staged := [] }
  obtain ⟨hsched, hstaged⟩ := Node.foldl_setReg_frame plain { n with staged := [] }
  generalize (({ n with staged := [] } : Node).foldl plain fun n e => n.setReg e.1 e.2) = l at hreg hsched hstaged
  have hc : l.Commits ((l.reserveChange (n.reg Reg.inReserve)).foldl modes fun n m => n.modeCommit now m.1 m.2) :=
    (l.commits_reserveChange _).trans (.foldl (fun n (m : Nat × Nat) => n.commits_modeCommit now m.1 m.2) _ _)
  refine ⟨hc.sched.trans hsched, hc.staged.trans hstaged, fun k hk hcount => ?_⟩
  rw [hc.reg_eq k hk hcount, hreg k hplain, hfind k hk]
  rfl

/-- The node once its new last is active, before the staged values (R59). -/
def Node.lastTaken (n : Node) (c : Nat) : Node := (n.adoptAll c).commitLast c

theorem Node.lastTaken_spec (n : Node) (c : Nat) (l : Last) (h : n.sched.staged = some l) : (n.lastTaken c).staged = n.staged ∧
    (n.lastTaken c).sched.active = l ∧ (n.lastTaken c).sched.staged = none ∧ (n.lastTaken c).reg Reg.lastId = l.id ∧
    (n.lastTaken c).reg Reg.roundLen = l.roundLen ∧ (n.lastTaken c).reg Reg.roundBase = c ∧
    ∀ k, k ≠ Reg.lastId → k ≠ Reg.roundLen → k ≠ Reg.roundBase → (n.lastTaken c).reg k = n.reg k := by
  have hm : (n.adoptAll c).sched.staged = some l ∧ (n.adoptAll c).staged = n.staged ∧ (n.adoptAll c).regs = n.regs := ⟨h, rfl, rfl⟩
  unfold Node.lastTaken
  generalize n.adoptAll c = m at hm
  obtain ⟨hs, ht, hr⟩ := hm
  unfold Node.commitLast
  rw [hs]
  dsimp only
  refine ⟨ht, rfl, rfl, ?_, ?_, ?_, fun k h1 h2 h3 => ?_⟩
  · rw [Node.reg_setReg, if_neg (by decide), Node.reg_setReg, if_neg (by decide), Node.reg_setReg, if_pos rfl]
  · rw [Node.reg_setReg, if_neg (by decide), Node.reg_setReg, if_pos rfl]
  · rw [Node.reg_setReg, if_pos rfl]
  · rw [Node.reg_setReg, if_neg h3, Node.reg_setReg, if_neg h2, Node.reg_setReg, if_neg h1]
    exact Node.reg_congr hr k

/-- The staged quota applied (R286). -/
def Node.quotaTaken (n : Node) : Node :=
  match n.tiers.stagedQuota with
  | some v => ({ n with tiers := { n.tiers with stagedQuota := none } } : Node).applyQuota v
  | none => n

theorem Node.commits_quotaTaken (n : Node) : n.Commits n.quotaTaken := by
  unfold Node.quotaTaken
  split
  · exact .of_regs rfl rfl rfl
  · exact .refl n

/-- The end of a commit (R59). -/
def Node.commitClosed (n : Node) (c : Nat) : Node :=
  let g := n.reg Reg.genTarget
  let n := (n.setReg Reg.configGen (if g = 0 then (n.reg Reg.configGen + 1) % 2 ^ 32 else g)).setReg Reg.genTarget 0
  let n := { n with sched := { n.sched with arming := {} } }
  ((n.setReg Reg.lastCommitTick c).setReg Reg.commitState 0).commitEvent

theorem Node.commitApply_eq (n : Node) (now : Nat) (h3 : n.reg Reg.commitState = 3) (hc : n.sched.arming.armTick ≤ now) : n.commitApply now =
    (((((n.lastTaken n.sched.arming.armTick).commitValues now).quotaTaken).commitMap now).commitClosed n.sched.arming.armTick) := by
  unfold Node.commitApply
  dsimp only
  rw [if_neg (by rw [not_or, not_not, Nat.not_lt]; exact ⟨h3, hc⟩)]
  unfold Node.lastTaken Node.commitClosed Node.quotaTaken
  generalize ((n.adoptAll n.sched.arming.armTick).commitLast n.sched.arming.armTick).commitValues now = m
  cases m.tiers.stagedQuota <;> rfl

theorem Node.commitClosed_spec (n : Node) (c : Nat) : (n.commitClosed c).reg Reg.commitState = 0 ∧ (n.commitClosed c).sched.active = n.sched.active ∧
    (n.commitClosed c).sched.staged = n.sched.staged ∧ (n.commitClosed c).reg Reg.lastCommitTick = c ∧ (n.commitClosed c).staged = n.staged ∧
    (n.commitClosed c).reg Reg.configGen = (if n.reg Reg.genTarget = 0 then (n.reg Reg.configGen + 1) % 2 ^ 32 else n.reg Reg.genTarget) ∧
    ∀ k, k ∉ [Reg.configGen, Reg.genTarget, Reg.lastCommitTick, Reg.commitState, Reg.eventSeq] → (n.commitClosed c).reg k = n.reg k := by
  unfold Node.commitClosed
  dsimp only
  generalize (if n.reg Reg.genTarget = 0 then (n.reg Reg.configGen + 1) % 2 ^ 32 else n.reg Reg.genTarget) = g
  generalize hm : ((n.setReg Reg.configGen g).setReg Reg.genTarget 0) = m
  have hmr : m.reg Reg.configGen = g ∧ m.sched = n.sched ∧ m.staged = n.staged ∧
      ∀ k, k ≠ Reg.configGen → k ≠ Reg.genTarget → m.reg k = n.reg k := by
    rw [← hm]
    refine ⟨?_, rfl, rfl, fun k h1 h2 => ?_⟩
    · rw [Node.reg_setReg, if_neg (by decide), Node.reg_setReg, if_pos rfl]
    · rw [Node.reg_setReg, if_neg h2, Node.reg_setReg, if_neg h1]
  obtain ⟨hgen, hs, ht, hr⟩ := hmr
  generalize hl : ({ m with sched := { m.sched with arming := {} } } : Node) = l
  have hlr : l.regs = m.regs ∧ l.sched.active = m.sched.active ∧ l.sched.staged = m.sched.staged ∧ l.staged = m.staged := by
    rw [← hl]; exact ⟨rfl, rfl, rfl, rfl⟩
  obtain ⟨hlr, ha, hb, hc⟩ := hlr
  have hreg : ∀ k, k ≠ Reg.eventSeq → ((l.setReg Reg.lastCommitTick c).setReg Reg.commitState 0).commitEvent.reg k =
      if k = Reg.commitState then 0 else if k = Reg.lastCommitTick then c else m.reg k := fun k hk => by
    rw [Node.commitEvent, Node.reg_event, if_neg hk, Node.reg_setReg, Node.reg_setReg, Node.reg_congr hlr]
  have hsched : ((l.setReg Reg.lastCommitTick c).setReg Reg.commitState 0).commitEvent.sched = l.sched := Node.event_sched ..
  refine ⟨?_, by rw [hsched, ha, hs], by rw [hsched, hb, hs], ?_, (Node.event_staged ..).trans (hc.trans ht), ?_, fun k hk => ?_⟩
  · rw [hreg _ (by decide), if_pos rfl]
  · rw [hreg _ (by decide), if_neg (by decide), if_pos rfl]
  · rw [hreg _ (by decide), if_neg (by decide), if_neg (by decide), hgen]
  · simp only [List.mem_cons, List.not_mem_nil, or_false, not_or] at hk
    obtain ⟨h1, h2, h3, h4, h5⟩ := hk
    rw [hreg k h5, if_neg h4, if_neg h3, hr k h1 h2]

/-- A key that no plain entry and no entry of a port has is staged by none. -/
theorem find_staged_none (l : Map Nat) (k : Nat) (hl : ∀ e ∈ l, e.1 ∈ stagedKeys ∨ e.1 ∈ stagedPortKeys) (h1 : k ∉ stagedKeys) (h2 : k < 0x400000) :
    Map.find l k = none := by
  rw [← Option.not_isSome_iff_eq_none]
  intro hs
  obtain ⟨w, hw⟩ := Option.isSome_iff_exists.mp hs
  rcases hl _ (Map.find_mem l k w hw) with h | h
  · exact h1 h
  · unfold stagedPortKeys at h
    obtain ⟨p, -, hp⟩ := List.mem_flatMap.mp h
    obtain ⟨j, hj, rfl⟩ := List.mem_map.mp hp
    have hall : ∀ j ∈ [Reg.portMode, Reg.mac, Reg.vlan, Reg.weights, Reg.gateMode], 0x400000 ≤ j := by decide
    have hj' : 0x400000 ≤ j := hall j hj
    exact absurd h2 (Nat.not_lt.mpr (hj'.trans (Nat.le_add_right _ _)))

/-! ### Regions that have not armed -/

theorem foldl_min_const (l : List Nat) (k a : Nat) (h : ∀ x ∈ l, x = k) (ha : k ≤ a) (hl : l ≠ []) : l.foldl Nat.min a = k := by
  induction l generalizing a with
  | nil => exact absurd rfl hl
  | cons x t ih =>
    obtain rfl : x = k := h x List.mem_cons_self
    rw [List.foldl_cons, show Nat.min a x = x from Nat.min_eq_right ha]
    by_cases ht : t = []
    · rw [ht]; rfl
    · exact ih x (fun y hy => h y (List.mem_cons_of_mem _ hy)) (le_refl x) ht

/-- The lowest reason where all failures have the same. -/
theorem lowReason_const (l : List Nat) (k : Nat) (hk : k ≤ 0xFF) (hl : l ≠ []) : lowReason (l.map fun r => (k, r)) = k := by
  unfold lowReason
  refine foldl_min_const _ k 0xFF (fun x hx => ?_) hk ?_
  · obtain ⟨e, he, rfl⟩ := List.mem_map.mp hx
    obtain ⟨r, -, rfl⟩ := List.mem_map.mp he
    rfl
  · simpa using hl

theorem failedRegions_eq (fails : List (Nat × Nat)) (low : Nat) : failedRegions fails low = maskOf (fun r => fails.contains (low, r)) 16 := rfl

/-- What the deadline leaves of ARM_RESULT (R56). -/
theorem armResult_missing (l : List Nat) (r : Nat) (hr : r < 16) (hl : r ∈ l) :
    let v := lowReason (l.map fun r => (5, r)) * 65536 + (if lowReason (l.map fun r => (5, r)) = 3 ∨ lowReason (l.map fun r => (5, r)) = 4 ∨
      lowReason (l.map fun r => (5, r)) = 5 then failedRegions (l.map fun r => (5, r)) (lowReason (l.map fun r => (5, r))) else 0)
    v / 65536 = 5 ∧ bitOf v r = true := by
  rw [lowReason_const l 5 (by decide) (List.ne_nil_of_mem hl), if_pos (by decide), failedRegions_eq]
  have hlt := maskOf_lt (fun r => (l.map fun r => (5, r)).contains (5, r)) 16
  have hbit := bitOf_maskOf (fun r => (l.map fun r => (5, r)).contains (5, r)) 16 r hr
  have hmem : (l.map fun r => (5, r)).contains (5, r) = true := List.contains_iff_mem.mpr (List.mem_map.mpr ⟨r, hl, rfl⟩)
  rw [hmem] at hbit
  generalize maskOf (fun r => (l.map fun r => (5, r)).contains (5, r)) 16 = v at hlt hbit
  exact ⟨by omega, (bitOf_add_mul v 5 16 r hr).trans hbit⟩

/-- Settles O31: a region's report arms it or refuses the change, the deadline refuses it for the regions that are missing, and the commit makes the staged
last and the staged values active. -/
theorem armedChange : Obligations.ArmedChange := by
  unfold Obligations.ArmedChange
  intro s n0 now a
  refine ⟨?_, ?_, ?_⟩
  · intro r holds h2 hd ha hr
    have hexec : exec (.regionArmReport r holds) s = .next (s.withNode (n0.regionReport now r.val holds)) := State.on_eq s _
    have hreport := n0.regionReport_first now r.val holds h2 hd ha hr
    refine ⟨_, hexec, ?_, fun hh hp hc => ?_, fun hh => ?_⟩
    · rw [hreport]
      split
      · rw [((n0.reportNoted r.val).refuseChange_spec now _ (fun h => absurd (h2.symm.trans h) (by decide))).2.2.2]
        exact bitOf_setBit_same ..
      · split
        · rw [Node.commitEvent, Node.event_sched]
          exact bitOf_setBit_same ..
        · exact bitOf_setBit_same ..
    · have hf : n0.reportFails r.val holds = [] := by
        unfold Node.reportFails
        rw [hh, hp, hc]
        rfl
      rw [hreport, if_neg (not_not.mpr hf)]
      refine ⟨fun hs => ?_, fun hs => ?_⟩
      · rw [if_pos hs]
        refine ⟨?_, ?_⟩
        · rw [Node.commitEvent, Node.reg_event, if_neg (by decide), Node.reg_setReg, if_pos rfl]
        · rw [Node.commitEvent, Node.event_adm]
          rfl
      · rw [if_neg hs]
        exact h2
    · have hf : n0.reportFails r.val holds ≠ [] := by
        unfold Node.reportFails
        rw [hh]
        simp
      rw [hreport, if_pos hf]
      exact ((n0.reportNoted r.val).refuseChange_spec now _ (fun h => absurd (h2.symm.trans h) (by decide))).1
  · intro r hr ha hrep h2 hd
    have hmem : r ∈ (List.range 16).filter fun r => bitOf a.affected r && !bitOf a.reported r :=
      List.mem_filter.mpr ⟨List.mem_range.mpr hr, by rw [ha, hrep]; rfl⟩
    have hexec : exec .armDeadline s = s.on (n0.refuseChange now
        (((List.range 16).filter fun r => bitOf a.affected r && !bitOf a.reported r).map fun r => (5, r))) := if_pos ⟨h2, hd⟩
    generalize (List.range 16).filter (fun r => bitOf a.affected r && !bitOf a.reported r) = l at hmem hexec
    obtain ⟨e1, e2, -⟩ := n0.refuseChange_spec now (l.map fun r => (5, r)) (fun h => absurd (h2.symm.trans h) (by decide))
    obtain ⟨e3, e4⟩ := armResult_missing l r hr hmem
    rw [← e2] at e3 e4
    exact ⟨_, hexec.trans (State.on_eq ..), e1, e3, e4⟩
  · intro l h3 hc hl hn hk
    have hexec : exec .commitApply s = .next (s.withNode (n0.commitApply now)) := State.on_eq s _
    refine ⟨_, hexec, ?_⟩
    rw [n0.commitApply_eq now h3 hc]
    obtain ⟨t1, t2, t3, t4, t5, t6, t7⟩ := n0.lastTaken_spec a.armTick l hl
    obtain ⟨v1, v2, v3⟩ := (n0.lastTaken a.armTick).commitValues_spec now (by rw [t1]; exact hn)
    have hq := ((n0.lastTaken a.armTick).commitValues now).commits_quotaTaken.trans (Node.commits_commitMap _ now)
    obtain ⟨c1, c2, c3, c4, c5, c6, c7⟩ := (((n0.lastTaken a.armTick).commitValues now).quotaTaken.commitMap now).commitClosed_spec a.armTick
    generalize n0.lastTaken a.armTick = m at t1 t2 t3 t4 t5 t6 t7 v1 v2 v3 hq c1 c2 c3 c4 c5 c6 c7
    have hreg : ∀ k, k < 0x400000 → k ∉ commitCounters → ((m.commitValues now).quotaTaken.commitMap now).reg k = (Map.find n0.staged k).getD (m.reg k) :=
      fun k h1 h2 => by rw [hq.reg_eq k h1 h2, v3 k h1 h2, t1]
    have hown : ∀ k, k < 0x400000 → k ∉ commitCounters → k ∉ stagedKeys → ((m.commitValues now).quotaTaken.commitMap now).reg k = m.reg k :=
      fun k h1 h2 h4 => by rw [hreg k h1 h2, find_staged_none n0.staged k hk h4 h1]; rfl
    refine ⟨c1, ?_, ?_, ?_, ?_, ?_, c4, c5.trans (hq.staged.trans v2), ?_, fun k hkey => ?_⟩
    · rw [c2, hq.sched, v1, t2]
    · rw [c3, hq.sched, v1, t3]
    · rw [c7 _ (by decide), hown _ (by decide) (by decide) (by decide), t4]
    · rw [c7 _ (by decide), hown _ (by decide) (by decide) (by decide), t5]
    · rw [c7 _ (by decide), hown _ (by decide) (by decide) (by decide), t6]
    · rw [c6, hown Reg.genTarget (by decide) (by decide) (by decide), hown Reg.configGen (by decide) (by decide) (by decide), t7 _ (by decide) (by decide) (by decide),
        t7 _ (by decide) (by decide) (by decide)]
    · have hall : ∀ k ∈ stagedKeys, k < 0x400000 ∧ k ∉ commitCounters ∧ k ∉ [Reg.configGen, Reg.genTarget, Reg.lastCommitTick, Reg.commitState, Reg.eventSeq] ∧
          k ≠ Reg.lastId ∧ k ≠ Reg.roundLen ∧ k ≠ Reg.roundBase := by decide
      obtain ⟨k1, k2, k3, k4, k5, k6⟩ := hall k hkey
      rw [c7 k k3, hreg k k1 k2, t7 k k4 k5 k6]

end Sys2Proof.Machine
end

section
/-!
OBJECT_WRITE of an entry of one value (R53, R61, R493, R501): O28.
-/

namespace Sys2Proof.Machine

theorem Node.toStaged_spec (n : Node) : (n.reg Reg.commitState = 0 → n.toStaged.reg Reg.commitState = 1) ∧
    (∀ j, j ≠ Reg.commitState → n.toStaged.reg j = n.reg j) ∧ n.toStaged.staged = n.staged := by
  unfold Node.toStaged
  split
  · exact ⟨fun _ => (Node.reg_setReg ..).trans (if_pos rfl), fun j hj => (Node.reg_setReg ..).trans (if_neg hj), rfl⟩
  · next h => exact ⟨fun h0 => absurd (.inl h0) h, fun _ _ => rfl, rfl⟩

/-- The value of a write as its entry's access and effect take it (R53, R61, R493). -/
theorem Node.storeValue_spec (n : Node) (index sub : Nat) (e : Entry) (v : Nat) (hk : dkey index sub ≠ Reg.commitState) :
    (e.access = .rw → e.eff ≠ .nextRound → (n.storeValue index sub e v).reg (dkey index sub) = v) ∧
    (e.access = .rw → e.eff = .nextRound → (n.storeValue index sub e v).reg (dkey index sub) = n.reg (dkey index sub) ∧
      Map.find (n.storeValue index sub e v).nextRound (dkey index sub) = some v) ∧
    (e.access = .rws → (n.storeValue index sub e v).reg (dkey index sub) = n.reg (dkey index sub) ∧
      Map.find (n.storeValue index sub e v).staged (dkey index sub) = some v ∧
      (n.reg Reg.commitState = 0 → (n.storeValue index sub e v).reg Reg.commitState = 1)) ∧
    (e.access = .w1c → (n.storeValue index sub e v).reg (dkey index sub) = n.reg (dkey index sub) &&& (256 ^ e.ty.bytes - 1 - v)) ∧
    (∀ j, j ≠ dkey index sub → j ≠ Reg.commitState → (n.storeValue index sub e v).reg j = n.reg j) := by
  unfold Node.storeValue
  dsimp only
  generalize dkey index sub = k at hk
  cases ha : e.access with
  | ro => exact ⟨nofun, nofun, nofun, nofun, fun _ _ _ => rfl⟩
  | wo => exact ⟨nofun, nofun, nofun, nofun, fun _ _ _ => rfl⟩
  | const => exact ⟨nofun, nofun, nofun, nofun, fun _ _ _ => rfl⟩
  | rw =>
    by_cases he : e.eff = .nextRound
    · simp only [if_pos he]
      refine ⟨fun _ h => absurd he h, fun _ _ => ⟨rfl, ?_⟩, nofun, nofun, fun _ _ _ => rfl⟩
      rw [Map.find_put, if_pos rfl]
    · simp only [if_neg he]
      exact ⟨fun _ _ => (Node.reg_setReg ..).trans (if_pos rfl), fun _ h => absurd h he, nofun, nofun, fun j hj _ => (Node.reg_setReg ..).trans (if_neg hj)⟩
  | rws =>
    obtain ⟨h1, h2, h3⟩ := ({ n with staged := Map.put n.staged k v } : Node).toStaged_spec
    refine ⟨nofun, nofun, fun _ => ⟨h2 k hk, ?_, h1⟩, nofun, fun j _ hj => h2 j hj⟩
    rw [h3, Map.find_put, if_pos rfl]
  | w1c => exact ⟨nofun, nofun, nofun, fun _ => (Node.reg_setReg ..).trans (if_pos rfl), fun j hj _ => (Node.reg_setReg ..).trans (if_neg hj)⟩

/-- What one item of a write leaves where its value is plain. -/
theorem State.writeItem_plain (s : State) (via : Via) (index sub : Nat) (v : Bytes) (e : Entry) (hs : s.node.writeStatus via false index sub v = svOk)
    (he : Dict.entry index sub = some e) (h1 : dkey index sub ≠ Reg.fwStaged) (h2 : dkey index sub ≠ Reg.resetReq)
    (hA : s.node.commandA s.clock.tick via.throughAwl (dkey index sub) v = none) (hB : s.node.commandB s.clock.tick (dkey index sub) v = none) :
    s.writeItem via index sub v = (s.put (s.node.storeValue index sub e (leNat v)), some svOk) := by
  unfold State.writeItem
  dsimp only
  rw [hs, if_neg (not_not.mpr rfl), if_neg fun h => h2 h.1]
  unfold State.applyWrite
  dsimp only
  rw [if_neg h1, hA]
  dsimp only
  rw [hB]
  dsimp only
  rw [he]

/-- What one item of a write leaves where it is refused. -/
theorem State.writeItem_refused (s : State) (via : Via) (index sub : Nat) (v : Bytes) (hs : s.node.writeStatus via false index sub v ≠ svOk) :
    s.writeItem via index sub v =
      (s.put (s.node.countRefused (s.node.writeStatus via false index sub v)), some (s.node.writeStatus via false index sub v)) := by
  unfold State.writeItem
  dsimp only
  rw [if_pos hs]

/-- A write served as it comes, from what its item gives. -/
theorem State.objectWrite_eq (s : State) (via : Via) (index : BitVec 16) (sub : BitVec 8) (value : Bytes) (n : Node) (st : Nat)
    (hr : s.node.reachable via.src = true) (hf : s.node.seen via.src via.seq.toNat s.clock.tick = .fresh)
    (hi : (s.put (s.node.noteAwl via)).writeItem via index.toNat sub.toNat value = ((s.put (s.node.noteAwl via)).put n, some st)) :
    exec (.objectWrite via index sub value) s = .next (s.withNode ((n.remember via.src via.seq.toNat s.clock.tick [BitVec.ofNat 8 st, 0, 0, 0]).respond via 0x11
      [BitVec.ofNat 8 st, 0, 0, 0])) := by
  show execObjectWrite via index sub value s = _
  unfold execObjectWrite
  rw [State.serve_fresh s via _ _ hr hf, hi]
  rfl

/-- Settles O28: a write served with status OK is kept as the access and the effect of its entry say, and one with another status changes no entry but the
count of refused frames. -/
theorem entryWrite : Obligations.EntryWrite := by
  unfold Obligations.EntryWrite
  intro via index sub value e s k now st hr hf
  have hregs : (s.node.noteAwl via).regs = s.node.regs := Node.noteAwl_regs ..
  have hreg : ∀ j, (s.node.noteAwl via).reg j = s.node.reg j := fun j => Node.reg_congr hregs j
  refine ⟨fun hs he h1 h2 hk hA hB => ?_, fun hs => ?_⟩
  · have hi := (s.put (s.node.noteAwl via)).writeItem_plain via index.toNat sub.toNat value e hs he h1 h2 hA hB
    obtain ⟨s1, s2, s3, s4, s5⟩ := (s.node.noteAwl via).storeValue_spec index.toNat sub.toNat e (leNat value) hk
    refine ⟨(s.node.noteAwl via).storeValue index.toNat sub.toNat e (leNat value), s.objectWrite_eq via index sub value _ svOk hr hf hi, s1,
      fun ha hn => ?_, fun ha => ?_, fun ha => ?_, fun j hj hc => (s5 j hj hc).trans (hreg j)⟩
    · exact ⟨(s2 ha hn).1.trans (hreg _), (s2 ha hn).2⟩
    · obtain ⟨e1, e2, e3⟩ := s3 ha
      exact ⟨e1.trans (hreg _), e2, fun h0 => e3 ((hreg _).trans h0)⟩
    · rw [s4 ha, hreg]
  · have hi := (s.put (s.node.noteAwl via)).writeItem_refused via index.toNat sub.toNat value hs
    refine ⟨_, s.objectWrite_eq via index sub value _ _ hr hf hi, ?_⟩
    generalize hm : (s.put (s.node.noteAwl via)).node.countRefused ((s.put (s.node.noteAwl via)).node.writeStatus via false index.toNat sub.toNat value) = m
    have hm' : (∀ j, j ≠ Reg.framesRefused → m.reg j = s.node.reg j) ∧ m.staged = s.node.staged ∧ m.nextRound = s.node.nextRound := by
      rw [← hm]
      unfold Node.countRefused
      split
      · exact ⟨fun j hj => (Node.reg_bump_ne _ _ _ hj).trans (hreg j), Node.noteAwl_staged .., Node.noteAwl_nextRound ..⟩
      · exact ⟨fun j _ => hreg j, Node.noteAwl_staged .., Node.noteAwl_nextRound ..⟩
    generalize ([BitVec.ofNat 8 _, 0, 0, 0] : Bytes) = p
    obtain ⟨g, hg⟩ := m.remember_eq via.src via.seq.toNat s.clock.tick p
    rw [hg]
    obtain ⟨g', h', hg'⟩ := Node.respond_eq { m with mgmt := g } via 0x11 p
    rw [hg']
    exact hm'

end Sys2Proof.Machine
end

section
/-!
What a port sends, gates and statistics (R338, R350, R366, R369, R383): O47.
-/

namespace Sys2Proof.Machine

/-! ### Bits set one by one -/

theorem bitOf_eq_of_div (v i w : Nat) (h : i < w) : bitOf v w = bitOf (v / 2 ^ i / 2) (w - i - 1) := by
  unfold bitOf
  obtain ⟨d, rfl⟩ : ∃ d, w = i + 1 + d := ⟨w - i - 1, by omega⟩
  rw [show i + 1 + d - i - 1 = d by omega, Nat.div_div_eq_div_mul, Nat.div_div_eq_div_mul, Nat.pow_add, Nat.pow_succ, Nat.mul_assoc]

theorem bitOf_add_two_pow_lt (v i w : Nat) (h : w < i) : bitOf (v + 2 ^ i) w = bitOf v w := by
  have := bitOf_add_mul v 1 i w h
  rw [Nat.one_mul, Nat.add_comm] at this
  exact this

theorem two_pow_le_of_bit (v i : Nat) (h : v / 2 ^ i % 2 = 1) : 2 ^ i ≤ v := by
  by_contra hlt
  rw [Nat.div_eq_of_lt (Nat.not_le.mp hlt)] at h
  exact absurd h (by decide)

theorem bitOf_setBit_ne (v i w : Nat) (b : Bool) (h : w ≠ i) : bitOf (setBit v i b) w = bitOf v w := by
  unfold setBit
  by_cases he : (bitOf v i == b) = true
  · rw [if_pos he]
  rw [if_neg he]
  cases b with
  | true =>
    have hq : v / 2 ^ i % 2 = 0 := by
      unfold bitOf at he
      simp only [beq_iff_eq] at he
      have := Nat.mod_two_eq_zero_or_one (v / 2 ^ i)
      simp at he
      omega
    rw [if_pos rfl]
    rcases Nat.lt_or_gt_of_ne h with hw | hw
    · exact bitOf_add_two_pow_lt v i w hw
    · rw [bitOf_eq_of_div _ i w hw, bitOf_eq_of_div v i w hw, Nat.add_div_right _ (Nat.two_pow_pos i),
        show (v / 2 ^ i).succ / 2 = v / 2 ^ i / 2 by omega]
  | false =>
    have hq : v / 2 ^ i % 2 = 1 := by
      unfold bitOf at he
      simp at he
      omega
    have hle : 2 ^ i ≤ v := two_pow_le_of_bit v i hq
    rw [if_neg (by decide)]
    obtain ⟨u, rfl⟩ : ∃ u, v = u + 2 ^ i := ⟨v - 2 ^ i, by omega⟩
    rw [Nat.add_sub_cancel]
    rw [Nat.add_div_right _ (Nat.two_pow_pos i)] at hq
    rcases Nat.lt_or_gt_of_ne h with hw | hw
    · exact (bitOf_add_two_pow_lt u i w hw).symm
    · rw [bitOf_eq_of_div _ i w hw, bitOf_eq_of_div (u + 2 ^ i) i w hw, Nat.add_div_right _ (Nat.two_pow_pos i),
        show (u / 2 ^ i).succ / 2 = u / 2 ^ i / 2 by omega]

theorem bitOf_setBit (v i w : Nat) (b : Bool) : bitOf (setBit v i b) w = if w = i then b else bitOf v w := by
  by_cases h : w = i
  · subst h
    rw [if_pos rfl]
    cases b with
    | true => exact bitOf_setBit_same v w
    | false =>
      unfold setBit
      by_cases hb : bitOf v w = false
      · rw [if_pos (by rw [hb]; rfl)]
        exact hb
      · rw [if_neg (by simpa using hb), if_neg (by decide)]
        have hq : v / 2 ^ w % 2 = 1 := by
          unfold bitOf at hb
          simpa using hb
        have hle : 2 ^ w ≤ v := two_pow_le_of_bit v w hq
        obtain ⟨u, rfl⟩ : ∃ u, v = u + 2 ^ w := ⟨v - 2 ^ w, by omega⟩
        rw [Nat.add_div_right _ (Nat.two_pow_pos w)] at hq
        rw [Nat.add_sub_cancel]
        unfold bitOf
        rw [beq_eq_false_iff_ne]
        omega
  · rw [if_neg h, bitOf_setBit_ne v i w b h]

/-- Bits set along a list: each is the value it was set to, or as before. -/
theorem bitOf_foldl_setBit (l : List Nat) (c d : Nat → Bool) (m w : Nat) :
    bitOf (l.foldl (fun m v => if c v then setBit m v (d v) else m) m) w = if w ∈ l ∧ c w = true then d w else bitOf m w := by
  induction l generalizing m with
  | nil => simp
  | cons v t ih =>
    rw [List.foldl_cons, ih]
    by_cases ht : w ∈ t ∧ c w = true
    · rw [if_pos ht, if_pos ⟨List.mem_cons_of_mem _ ht.1, ht.2⟩]
    · rw [if_neg ht]
      by_cases hv : w = v
      · subst hv
        by_cases hc : c w = true
        · rw [if_pos hc, bitOf_setBit, if_pos rfl, if_pos ⟨List.mem_cons_self, hc⟩]
        · rw [if_neg hc, if_neg fun h => hc h.2]
      · have hmem : ¬(w ∈ v :: t ∧ c w = true) := fun h => ht ⟨(List.mem_cons.mp h.1).resolve_left hv, h.2⟩
        rw [if_neg hmem]
        split
        · rw [bitOf_setBit, if_neg hv]
        · rfl

/-! ### Histograms (R383) -/

theorem get_histAdd (h : Map Nat) (k j : Nat) : Map.get 0 (histAdd h k) j = if j = k then Nat.min 0xFFFFFFFF (Map.get 0 h k + 1) else Map.get 0 h j :=
  Map.get_set ..

/-- The two entries that a sample of a queue counts in. -/
def sampleKeys (i : Nat) (v : Option (Nat × Nat)) : List Nat :=
  match v with
  | none => [i * 32, i * 32 + 16]
  | some (d, t) => [i * 32 + histBucket 1 d, i * 32 + 16 + histBucket 2 t]

theorem histBucket_lt (shift v : Nat) : histBucket shift v < 16 := by
  unfold histBucket
  split
  · decide
  · exact Nat.lt_succ_of_le (Nat.min_le_left ..)

theorem sampleKeys_block (i k : Nat) (v : Option (Nat × Nat)) (h : k ∈ sampleKeys i v) : k / 32 = i := by
  unfold sampleKeys at h
  cases v with
  | none =>
    simp only [List.mem_cons, List.not_mem_nil, or_false] at h
    omega
  | some e =>
    obtain ⟨d, t⟩ := e
    have h1 := histBucket_lt 1 d
    have h2 := histBucket_lt 2 t
    simp only [List.mem_cons, List.not_mem_nil, or_false] at h
    omega

/-- One sample counts in its two entries, and in no other. -/
theorem get_histSample (h : Map Nat) (i : Nat) (v : Option (Nat × Nat)) (k : Nat) :
    Map.get 0 (histSample h i v) k = if k ∈ sampleKeys i v then Nat.min 0xFFFFFFFF (Map.get 0 h k + 1) else Map.get 0 h k := by
  have htwo : ∀ a b, a ≠ b → Map.get 0 (histAdd (histAdd h a) b) k = if k ∈ [a, b] then Nat.min 0xFFFFFFFF (Map.get 0 h k + 1) else Map.get 0 h k := by
    intro a b hab
    rw [get_histAdd]
    by_cases hb : k = b
    · subst hb
      rw [if_pos rfl, if_pos (by simp), get_histAdd, if_neg (fun e => hab e.symm)]
    · rw [if_neg hb, get_histAdd]
      by_cases ha : k = a
      · subst ha
        rw [if_pos rfl, if_pos (by simp)]
      · rw [if_neg ha, if_neg (by simp [ha, hb])]
  unfold histSample sampleKeys
  cases v with
  | none => exact htwo _ _ (by omega)
  | some e =>
    obtain ⟨d, t⟩ := e
    have h1 := histBucket_lt 1 d
    exact htwo _ _ (by omega)

/-- Samples along a list of queues: each counts once. -/
theorem get_foldl_histSample (l : List Nat) (hl : l.Nodup) (f : Nat → Option (Nat × Nat)) (h : Map Nat) (i k : Nat) (hk : k ∈ sampleKeys i (f i)) :
    Map.get 0 (l.foldl (fun h i => histSample h i (f i)) h) k = if i ∈ l then Nat.min 0xFFFFFFFF (Map.get 0 h k + 1) else Map.get 0 h k := by
  induction l generalizing h with
  | nil => simp
  | cons j t ih =>
    obtain ⟨hnot, ht⟩ := List.nodup_cons.mp hl
    rw [List.foldl_cons, ih ht, get_histSample]
    by_cases hj : i = j
    · subst hj
      rw [if_neg hnot, if_pos hk, if_pos List.mem_cons_self]
    · have hother : k ∉ sampleKeys j (f j) := fun hkj => hj ((sampleKeys_block i k _ hk).symm.trans (sampleKeys_block j k _ hkj))
      rw [if_neg hother]
      simp only [List.mem_cons, hj, false_or]

/-- The sample of a queue of a port. -/
def Node.queueSample (n : Node) (now i : Nat) : Option (Nat × Nat) :=
  sampleOf now ((n.queue (i / 8) (i % 8)).map fun m => (m.cells, m.queuedAt))

theorem Node.sampleQueues_eq (n : Node) (now : Nat) : ∃ a b c d, (n.sampleQueues now).links.hist =
    histSample (histSample (histSample (histSample ((List.range 384).foldl (fun h i => histSample h i (n.queueSample now i)) n.links.hist) 384 a) 385 b) 386 c) 387 d ∧
    (n.sampleQueues now).links.queues = n.links.queues := ⟨_, _, _, _, rfl, rfl⟩

/-- What a sample of every queue leaves of the histograms (R383). -/
theorem Node.sampleQueues_spec (n : Node) (now i k : Nat) (hi : i < 384) (hk : k ∈ sampleKeys i (n.queueSample now i)) :
    Map.get 0 (n.sampleQueues now).links.hist k = Nat.min 0xFFFFFFFF (Map.get 0 n.links.hist k + 1) := by
  obtain ⟨a, b, c, d, e, -⟩ := n.sampleQueues_eq now
  have hblock := sampleKeys_block i k _ hk
  have hout : ∀ j v, 384 ≤ j → k ∉ sampleKeys j v := fun j v hj hkj => by
    have := sampleKeys_block j k v hkj
    omega
  rw [e, get_histSample, if_neg (hout 387 d (by decide)), get_histSample, if_neg (hout 386 c (by decide)), get_histSample, if_neg (hout 385 b (by decide)),
    get_histSample, if_neg (hout 384 a (by decide)), get_foldl_histSample _ List.nodup_range (n.queueSample now) _ i k hk, if_pos (List.mem_range.mpr hi)]

/-! ### Frames (R366) -/

theorem updateMsg_none (m : OutMsg) (l : List OutMsg) : updateMsg m none l = l.erase m := by
  induction l with
  | nil => rfl
  | cons x t ih =>
    rw [updateMsg, List.erase_cons]
    by_cases h : x = m
    · rw [if_pos h, if_pos (beq_iff_eq.mpr h)]
    · rw [if_neg h, if_neg (by simpa using h), ih]

theorem sliceB_all (bs : Bytes) : sliceB bs 0 bs.length = bs := by
  rw [sliceB_whole bs 0 bs.length (by omega), List.drop_zero, List.take_length]

theorem fieldB_frame_type (ftype vc flags src dst msgId off len keyId nonce pathSeq : Nat) (rest : Bytes) :
    fieldB (camrisHeader ftype vc flags src dst msgId off len keyId nonce pathSeq ++ rest) 1 1 = ftype % 256 := by
  simp [fieldB, camrisHeader, leBytes, leNat]

theorem Node.useKey_spec (n : Node) (now k : Nat) : ((n.useKey now k).keySlot k).nonce = (n.keySlot k).nonce + 1 ∧ (n.useKey now k).links = n.links ∧
    ∀ p, (n.useKey now k).portReg p Reg.framesTx = n.portReg p Reg.framesTx := by
  unfold Node.useKey
  dsimp only
  generalize (if (n.keySlot k).nonce + 1 = 2 ^ 64 - 1 then some (now + 1) else (n.keySlot k).retireAt) = r
  have hset : ∀ v : KeySlot, (n.setKey k v).keySlot k = v := fun v => by rw [Node.keySlot_setKey, if_pos rfl]
  generalize hv : ({ n.keySlot k with nonce := (n.keySlot k).nonce + 1, retireAt := r } : KeySlot) = v
  have hn : v.nonce = (n.keySlot k).nonce + 1 := by rw [← hv]
  have hm : ∀ p, (n.setKey k v).portReg p Reg.framesTx = n.portReg p Reg.framesTx := fun _ => rfl
  have hl : (n.setKey k v).links = n.links := rfl
  have hslot := hset v
  generalize n.setKey k v = m at hm hl hslot
  have hev : ∀ c d, ((m.event c d).keySlot k).nonce = (n.keySlot k).nonce + 1 ∧ (m.event c d).links = n.links ∧
      ∀ p, (m.event c d).portReg p Reg.framesTx = n.portReg p Reg.framesTx :=
    fun c d => ⟨by unfold Node.keySlot; rw [Node.event_sec]; exact (congrArg KeySlot.nonce hslot).trans hn, (Node.event_links ..).trans hl,
      fun p => (m.portReg_event p Reg.framesTx c d (by decide)).trans (hm p)⟩
  split
  · exact hev _ _
  · split
    · exact hev _ _
    · exact ⟨by rw [hslot, hn], hl, hm⟩

theorem Node.replyLeft_frame (n : Node) (now : Nat) (r : Reply) : (n.replyLeft now r).links = n.links ∧ (n.replyLeft now r).sec = n.sec ∧
    ∀ p, (n.replyLeft now r).portReg p Reg.framesTx = n.portReg p Reg.framesTx := by
  have hb : ∀ (m : Node) k, k < 0x400000 → ∀ p, (m.bump k).portReg p Reg.framesTx = m.portReg p Reg.framesTx := fun m k hk p =>
    Node.reg_bump_ne _ _ _ (by unfold linkKey Reg.framesTx; omega)
  unfold Node.replyLeft
  split
  · exact ⟨rfl, rfl, hb n _ (by decide)⟩
  · split
    · dsimp only
      split
      all_goals
        split
        · exact ⟨rfl, rfl, hb n _ (by decide)⟩
        · exact ⟨rfl, rfl, fun _ => rfl⟩
    · exact ⟨rfl, rfl, fun _ => rfl⟩

theorem Node.transmit_links (n : Node) (p : Nat) (frame : Bytes) : (n.transmit p frame).links.queues = n.links.queues ∧ (n.transmit p frame).sec = n.sec := by
  unfold Node.transmit
  dsimp only
  split <;> exact ⟨rfl, rfl⟩

/-- The messages of Q3 to Q5 of an Ethernet port are numbered by path (R352). -/
def Node.numbers (n : Node) (p q : Nat) : Bool := !n.isNative p && decide (3 ≤ q) && decide (q ≤ 5)

/-- The path of a message. -/
def Node.pathOf (n : Node) (q : Nat) (m : OutMsg) : Path := Map.get ({} : Path) n.links.tx (pathKey m.dst q)

/-- The next frame of a message (R341, R354). -/
def Node.frameOf (n : Node) (p q : Nat) (m : OutMsg) (k id : Nat) : Bytes :=
  let len := m.nextLen
  let data := sliceB m.message m.sent len
  let done := m.sent + len == m.message.length
  let flags := (if m.enc then 1 else 0) + (if m.sent = 0 then 2 else 0) + (if done then 4 else 0)
  let slot := n.keySlot k
  let head := camrisHeader m.ftype q flags n.straps m.dst id m.sent len (if m.enc then slot.keyId else 0) (if m.enc then slot.nonce else 0)
    (if n.numbers p q then (n.pathOf q m).next else 0)
  head ++ if m.enc then gcmSeal slot.key (linkNonce n.straps p slot.nonce) head data else data

/-- The node with a frame's key used, and the frame kept for its path where it is numbered. -/
def Node.frameKept (n : Node) (now p q : Nat) (m : OutMsg) (k : Nat) (frame : Bytes) : Node :=
  let path := n.pathOf q m
  let numbered := n.numbers p q
  let n := if m.enc then n.useKey now k else n
  if numbered then
    let t : Path := { path with next := (path.next + 1) % 2 ^ 32, unacked := path.unacked ++ [(path.next, now, 0, frame)] }
    { n with links := { n.links with tx := Map.set ({} : Path) n.links.tx (pathKey m.dst q) t } }
  else n

/-- The node with a frame's credits and its time on the line taken. -/
def Node.frameTimed (n : Node) (now p q : Nat) (m : OutMsg) : Node :=
  let len := m.nextLen
  let l := n.port p
  let c := Map.get 0 l.credits q - frameCells len m.enc
  let n := if n.isNative p ∧ q ≤ 5 then
      n.setPort p { l with credits := Map.set 0 l.credits q c,
                           stalledSince := if c = 0 then Map.put l.stalledSince q now else l.stalledSince }
    else n
  let s := n.shaper p
  let used := (if s.capTick = now then s.capUsed else 0) + if q = 7 then n.lineBytes p len m.enc else 0
  let busy := Nat.max (s.unit * 15625) s.busy + n.linePs p len m.enc
  n.setShaper p { s with busy := busy, capTick := now, capUsed := used, held := s.held.filter fun x => x != q }

/-- A frame sent, and the queue behind it. -/
def Node.frameSent (n : Node) (now p q : Nat) (m : OutMsg) (id : Nat) (frame : Bytes) : Node :=
  let len := m.nextLen
  let done := m.sent + len == m.message.length
  let n := (n.setQueue p q (updateMsg m (if done then none else some { m with sent := m.sent + len, msgId := some id }) (n.queue p q))).transmit p frame
  match m.reply with
  | some r => if done then n.replyLeft now r else n
  | none => n

/-- A frame of a message with its number. -/
def Node.frameStarted (n : Node) (now p q : Nat) (m : OutMsg) (k id : Nat) : Node :=
  ((n.frameKept now p q m k (n.frameOf p q m k id)).frameTimed now p q m).frameSent now p q m id (n.frameOf p q m k id)

/-- The node with the next message number taken. -/
def Node.msgNumbered (n : Node) : Node := { n with links := { n.links with msgNext := (n.links.msgNext + 1) % 2 ^ 32 } }

theorem Node.startFrame_eq (n : Node) (now p q : Nat) (m : OutMsg) (k : Nat) (hk : (if m.enc then n.keyFor m else some 0) = some k) :
    ∃ id, n.startFrame now p q m = n.frameStarted now p q m k id ∨ n.startFrame now p q m = n.msgNumbered.frameStarted now p q m k id := by
  unfold Node.startFrame
  rw [hk]
  cases m.msgId with
  | some i => exact ⟨i, .inl rfl⟩
  | none => exact ⟨n.links.msgNext, .inr rfl⟩

theorem Node.frameKept_spec (n : Node) (now p q : Nat) (m : OutMsg) (k : Nat) (f : Bytes) :
    (n.frameKept now p q m k f).links.queues = n.links.queues ∧ (n.frameKept now p q m k f).portReg p Reg.framesTx = n.portReg p Reg.framesTx ∧
    (m.enc = true → ((n.frameKept now p q m k f).keySlot k).nonce = (n.keySlot k).nonce + 1) := by
  unfold Node.frameKept
  dsimp only
  have hu : (if m.enc then n.useKey now k else n).links = n.links ∧ (if m.enc then n.useKey now k else n).portReg p Reg.framesTx = n.portReg p Reg.framesTx ∧
      (m.enc = true → ((if m.enc then n.useKey now k else n).keySlot k).nonce = (n.keySlot k).nonce + 1) := by
    obtain ⟨h1, h2, h3⟩ := n.useKey_spec now k
    split
    · exact ⟨h2, h3 p, fun _ => h1⟩
    · next h => exact ⟨rfl, rfl, fun he => absurd he h⟩
  generalize (if m.enc then n.useKey now k else n) = l at hu
  obtain ⟨hl, hr, hn⟩ := hu
  have hq : l.links.queues = n.links.queues := by rw [hl]
  split
  · exact ⟨hq, hr, hn⟩
  · exact ⟨hq, hr, hn⟩

theorem Node.frameTimed_frame (n : Node) (now p q : Nat) (m : OutMsg) : (n.frameTimed now p q m).links.queues = n.links.queues ∧
    (n.frameTimed now p q m).sec = n.sec ∧ (n.frameTimed now p q m).portReg p Reg.framesTx = n.portReg p Reg.framesTx := by
  unfold Node.frameTimed
  dsimp only
  split <;> exact ⟨rfl, rfl, rfl⟩

theorem Node.queue_setQueue_same (n : Node) (p q : Nat) (l : List OutMsg) : (n.setQueue p q l).queue p q = l := by
  unfold Node.queue Node.setQueue
  rw [Map.get_set, if_pos rfl]

theorem Node.queue_congr {n m : Node} (h : m.links.queues = n.links.queues) (p q : Nat) : m.queue p q = n.queue p q := by
  unfold Node.queue; rw [h]

/-- What a message's last frame leaves (R366). -/
theorem Node.frameSent_spec (n : Node) (now p q : Nat) (m : OutMsg) (id : Nat) (f : Bytes) (hd : (m.sent + m.nextLen == m.message.length) = true) :
    (n.frameSent now p q m id f).queue p q = (n.queue p q).erase m ∧
    (n.frameSent now p q m id f).portReg p Reg.framesTx = (n.portReg p Reg.framesTx + 1) % 2 ^ 64 ∧
    ((n.frameSent now p q m id f).port p).txFrame = f ∧ (n.frameSent now p q m id f).sec = n.sec := by
  unfold Node.frameSent
  dsimp only
  rw [hd, if_pos rfl, updateMsg_none]
  obtain ⟨h1, h2⟩ := (n.setQueue p q ((n.queue p q).erase m)).transmit_spec p f
  obtain ⟨h3, h4⟩ := (n.setQueue p q ((n.queue p q).erase m)).transmit_links p f
  have hq : ((n.setQueue p q ((n.queue p q).erase m)).transmit p f).queue p q = (n.queue p q).erase m :=
    (Node.queue_congr h3 p q).trans (n.queue_setQueue_same p q _)
  have hr : (n.setQueue p q ((n.queue p q).erase m)).portReg p Reg.framesTx = n.portReg p Reg.framesTx := rfl
  rw [hr] at h1
  generalize (n.setQueue p q ((n.queue p q).erase m)).transmit p f = t at h1 h2 h3 h4 hq
  cases m.reply with
  | none => exact ⟨hq, h1, h2, h4⟩
  | some r =>
    simp only [if_true]
    obtain ⟨l1, l2, l3⟩ := t.replyLeft_frame now r
    refine ⟨(Node.queue_congr (by rw [l1]) p q).trans hq, (l3 p).trans h1, ?_, l2.trans h4⟩
    unfold Node.port
    rw [l1]
    exact h2

/-- What the start of a message of one frame leaves (R366). -/
theorem Node.startFrame_spec (n : Node) (now p q : Nat) (m : OutMsg) (k : Nat) (hk : (if m.enc then n.keyFor m else some 0) = some k) (hs : m.sent = 0)
    (hl : m.message.length ≤ 4096) : (n.startFrame now p q m).queue p q = (n.queue p q).erase m ∧
    (n.startFrame now p q m).portReg p Reg.framesTx = (n.portReg p Reg.framesTx + 1) % 2 ^ 64 ∧
    fieldB ((n.startFrame now p q m).port p).txFrame 1 1 = m.ftype % 256 ∧
    (m.enc = false → ((n.startFrame now p q m).port p).txFrame.drop 32 = m.message) ∧
    (m.enc = true → ((n.startFrame now p q m).keySlot k).nonce = (n.keySlot k).nonce + 1) := by
  have hlen : m.nextLen = m.message.length := by
    unfold OutMsg.nextLen
    rw [hs, Nat.sub_zero]
    exact Nat.min_eq_right hl
  have hd : (m.sent + m.nextLen == m.message.length) = true := by rw [hs, hlen, Nat.zero_add, beq_self_eq_true]
  have hstart : ∀ (a : Node) (id : Nat), a.links.queues = n.links.queues → a.sec = n.sec → a.portReg p Reg.framesTx = n.portReg p Reg.framesTx →
      (a.frameStarted now p q m k id).queue p q = (n.queue p q).erase m ∧
      (a.frameStarted now p q m k id).portReg p Reg.framesTx = (n.portReg p Reg.framesTx + 1) % 2 ^ 64 ∧
      fieldB ((a.frameStarted now p q m k id).port p).txFrame 1 1 = m.ftype % 256 ∧
      (m.enc = false → ((a.frameStarted now p q m k id).port p).txFrame.drop 32 = m.message) ∧
      (m.enc = true → ((a.frameStarted now p q m k id).keySlot k).nonce = (n.keySlot k).nonce + 1) := by
    intro a id hq hsec hr
    have hframe : fieldB (a.frameOf p q m k id) 1 1 = m.ftype % 256 ∧ (m.enc = false → (a.frameOf p q m k id).drop 32 = m.message) := by
      unfold Node.frameOf
      refine ⟨fieldB_frame_type .., fun he => ?_⟩
      dsimp only
      rw [List.drop_append_of_le_length (by rw [camrisHeader_length]), List.drop_of_length_le (by rw [camrisHeader_length]), he, hs, hlen]
      exact sliceB_all m.message
    unfold Node.frameStarted
    generalize a.frameOf p q m k id = f at hframe
    obtain ⟨k1, k2, k3⟩ := a.frameKept_spec now p q m k f
    generalize a.frameKept now p q m k f = b at k1 k2 k3
    obtain ⟨t1, t2, t3⟩ := b.frameTimed_frame now p q m
    generalize b.frameTimed now p q m = c at t1 t2 t3
    obtain ⟨s1, s2, s3, s4⟩ := c.frameSent_spec now p q m id f hd
    have hnonce : ∀ {x y : Node}, x.sec = y.sec → (x.keySlot k).nonce = (y.keySlot k).nonce := fun h => by unfold Node.keySlot; rw [h]
    refine ⟨?_, ?_, by rw [s3]; exact hframe.1, by rw [s3]; exact hframe.2, fun he => ?_⟩
    · rw [s1, Node.queue_congr ((t1.trans k1).trans hq)]
    · rw [s2, t3, k2, hr]
    · rw [hnonce (s4.trans t2), k3 he, hnonce hsec]
  obtain ⟨id, e | e⟩ := n.startFrame_eq now p q m k hk
  · rw [e]
    exact hstart n id rfl rfl rfl
  · rw [e]
    exact hstart n.msgNumbered id rfl rfl rfl

theorem Node.histClear_hist (n : Node) (v : BitVec 8) : (n.histClear v.toNat).links.hist = if v = 1 then [] else n.links.hist := by
  unfold Node.histClear
  by_cases hv : v = 1
  · subst hv
    rfl
  · have hne : v.toNat ≠ 1 := fun h => hv (BitVec.eq_of_toNat_eq h)
    rw [if_neg hv, if_neg hne]

/-- Settles O47: Q7 goes before Q6, a message of one frame leaves its queue with its frame, a sample counts every queue once, and what a peer pauses is what
its frame names. -/
theorem linkSend : Obligations.LinkSend := by
  unfold Obligations.LinkSend
  intro p s n0 now sh ps
  have hstay : s.on s.node = .next s := State.on_eq s s.node
  refine ⟨?_, ?_, ?_, ?_, ?_, ?_, ?_, ?_⟩
  · intro q m k hin hf hsafe hps hq hk hs hl
    have hchoose : n0.chooseFrame p.val now ps = (n0, some (q, m)) := by
      unfold Node.chooseFrame
      rcases hq with ⟨rfl, h⟩ | ⟨rfl, h7, h6⟩
      · rw [h]
      · rw [h7]
        dsimp only
        rw [h6]
    have hstart : n0.frameStart now p.val = n0.startFrame now p.val q m := by
      unfold Node.frameStart
      dsimp only
      rw [if_neg (by simp [hin, hf, hsafe]; exact Nat.max_lt.mp hps), show n0.chooseFrame p.val now _ = _ from hchoose]
    have hexec : exec (.frameStart p) s = s.on (n0.frameStart now p.val) := rfl
    rw [hstart] at hexec
    exact ⟨_, hexec.trans (State.on_eq ..), n0.startFrame_spec now p.val q m k hk hs hl⟩
  · intro hin
    have h : n0.frameStart now p.val = n0 := by
      unfold Node.frameStart
      dsimp only
      rw [if_pos (by simp [hin])]
    show s.on (n0.frameStart now p.val) = _
    rw [h]
    exact hstay
  · refine ⟨_, State.on_eq s _, ?_, Node.portReg_setPortReg_same .., rfl⟩
    exact congrArg Shaper.unit ((Map.get_set ..).trans (if_pos rfl))
  · intro hper
    have hexec : exec .statisticsSample s = s.on (n0.sampleQueues now) := congrArg s.on (if_pos hper)
    refine ⟨_, hexec.trans (State.on_eq ..), ?_, fun i hi => ⟨fun hq k hk => ?_, fun m ms hq k hk => ?_⟩⟩
    · obtain ⟨_, _, _, _, -, e⟩ := n0.sampleQueues_eq now
      exact e
    · refine n0.sampleQueues_spec now i k hi ?_
      unfold Node.queueSample
      rw [hq]
      exact hk
    · refine n0.sampleQueues_spec now i k hi ?_
      unfold Node.queueSample
      rw [hq]
      simpa [sampleOf, sampleKeys, Function.comp_def] using hk
  · intro hper
    have hexec : exec .statisticsSample s = s.on n0 := congrArg s.on (if_neg hper)
    exact hexec.trans hstay
  · intro via v
    refine State.accepts_of s (.histClear via v) via 0x3101 5 [v] (fun n => n.histClear v.toNat) _ rfl ?_
    have hlinks : (s.node.noteAwl via).links = n0.links := Node.noteAwl_links ..
    have h := (s.node.noteAwl via).histClear_hist v
    rw [hlinks] at h
    exact h
  · intro f be hnat h12 h14
    have he : n0.pfcReceive p.val f = _ := if_neg (by rw [hnat, not_or, not_or, not_not, not_not]; exact ⟨by decide, h12, h14⟩)
    have hexec : exec (.pfcReceive p f) s = s.on (n0.pfcReceive p.val f) := rfl
    refine ⟨_, hexec.trans (State.on_eq ..), ?_, fun v hv => ?_⟩
    · rw [he]
      exact Node.portReg_setPortReg_same ..
    · rw [he]
      have hport : ∀ (a : Node) (w : Port) (k x : Nat), ((a.setPort p.val w).setPortReg p.val k x).port p.val = w := fun a w k x =>
        Node.port_setPort_same a p.val w
      rw [hport]
      refine (bitOf_foldl_setBit (List.range 6) (fun v => bitOf (be 16) v) (fun v => be (18 + 2 * v) != 0) _ v).trans ?_
      have hmem : v ∈ List.range 6 := List.mem_range.mpr hv
      simp only [hmem, true_and]
  · exact ⟨_, State.on_eq s _, Node.portReg_setPortReg_same .., rfl⟩

end Sys2Proof.Machine
end

section
/-!
What a port receives (R344): O46.
-/

namespace Sys2Proof.Machine

/-- What the cells of a message freed leave of an entry of the node (R349). -/
theorem Node.reg_freeCells (n : Node) (p vc cells k : Nat) (hk : k < 0x400000) : (n.freeCells p vc cells).reg k = n.reg k := by
  have hbump : ∀ (m : Node) (j : Nat), 0x400000 ≤ j → (m.bumpPort p j).reg k = m.reg k := fun m j hj => by
    rw [Node.bumpPort, Node.setPortReg, Node.reg_setReg, if_neg (by unfold linkKey; omega)]
  unfold Node.freeCells
  split
  · rfl
  · unfold Node.pfcUpdate
    split
    · rfl
    · dsimp only
      split
      · exact hbump _ _ (by decide)
      · split
        · exact hbump _ _ (by decide)
        · rfl

/-- A refusal counts once in REFUSED, an entry of 64 bits (R71). -/
theorem Node.reg_refuse (n : Node) (now : Nat) (r : Request) (status detail info : Nat) :
    (n.refuse now r status detail info).reg Reg.refused = (n.reg Reg.refused + 1) % 2 ^ 64 := by
  unfold Node.refuse
  rw [(Node.ends_queueReply ..).reg_eq _ (by decide), Node.reg_bump _ _ _ rfl]

/-- A request given up after its header has come is refused (R344). -/
theorem Node.reg_reassemblyTimeout (n : Node) (now p src id : Nat) (m : InMsg) (e : Nat × Bytes)
    (hm : (Map.get [] n.links.inbound p).find? (fun (m : InMsg) => m.src == src && m.msgId == id && m.ftype == 1 &&
      decide (m.lastTick + n.reg Reg.reassemblyTicks ≤ now)) = some m)
    (he : m.parts.find? (fun e => e.1 == 0 && decide (64 ≤ e.2.length)) = some e) :
    (n.reassemblyTimeout now p src id).reg Reg.refused = (n.reg Reg.refused + 1) % 2 ^ 64 := by
  unfold Node.reassemblyTimeout
  dsimp only
  rw [hm]
  dsimp only
  rw [he]
  dsimp only
  rw [Node.reg_refuse, Node.bumpPort, Node.setPortReg, Node.reg_setReg, if_neg (by unfold linkKey Reg.refused Reg.reassemblyDrops; omega), Node.reg_freeCells _ _ _ _ _ (by decide)]
  rfl

/-! ### Flits (R339 to R341) -/

theorem Node.portReg_bumpPort_same (n : Node) (p k : Nat) : (n.bumpPort p k).portReg p k = (n.portReg p k + 1) % 2 ^ 64 := Node.portReg_setPortReg_same ..

theorem Port.acknowledge_frame (l : Port) (a : Nat) : (l.acknowledge a).rxSeq = l.rxSeq ∧ (l.acknowledge a).rxStream = l.rxStream ∧
    (l.acknowledge a).credits = l.credits ∧ (l.acknowledge a).replayTicks = l.replayTicks := by
  unfold Port.acknowledge
  dsimp only
  split <;> exact ⟨rfl, rfl, rfl, rfl⟩

theorem Port.credit_frame (l : Port) (v c : Nat) : (l.credit v c).rxSeq = l.rxSeq ∧ (l.credit v c).rxStream = l.rxStream ∧
    (l.credit v c).unacked = l.unacked ∧ (l.credit v c).replayTicks = l.replayTicks ∧ (l.credit v c).lastRx = l.lastRx := by
  unfold Port.credit
  split <;> exact ⟨rfl, rfl, rfl, rfl, rfl⟩

theorem Port.credit_get (l : Port) (v c : Nat) (hc : c ≠ 0) (hv : v ≤ 5) : Map.get 0 (l.credit v c).credits v = Map.get 0 l.credits v + c := by
  unfold Port.credit
  rw [if_neg (by omega), Map.get_set, if_pos rfl]

theorem Port.acknowledge_lastRx (l : Port) (a : Nat) : (l.acknowledge a).lastRx = l.lastRx := by
  unfold Port.acknowledge
  dsimp only
  split <;> rfl

/-- The node with a right flit heard (R340). -/
def Node.flitHeard (n : Node) (now p corrected : Nat) : Node :=
  let m := n.setPortReg p Reg.fecCorrected ((n.portReg p Reg.fecCorrected + corrected) % 2 ^ 64)
  m.setPort p { m.port p with lastRx := now }

/-- A port with a flit's header taken: what it acknowledges and the credits it returns (R340, R348). -/
def Port.header (l : Port) (h : Nat) : Port := (l.acknowledge (h / 2 ^ 36 % 4096)).credit (h / 2 ^ 32 % 8) (h / 2 ^ 20 % 4096)

/-- The node with a flit's header taken. -/
def Node.flitTaken (n : Node) (now p h corrected : Nat) : Node :=
  (n.flitHeard now p corrected).setPort p (((n.flitHeard now p corrected).port p).header h)

theorem Node.flitHeard_port (n : Node) (now p corrected : Nat) : (n.flitHeard now p corrected).port p = { n.port p with lastRx := now } := Node.port_setPort_same ..

theorem Node.flitTaken_spec (n : Node) (now p h corrected : Nat) : (n.flitTaken now p h corrected).port p = Port.header { n.port p with lastRx := now } h ∧
    (n.flitTaken now p h corrected).portReg p Reg.fecCorrected = (n.portReg p Reg.fecCorrected + corrected) % 2 ^ 64 ∧
    (∀ k, k ≠ Reg.fecCorrected → (n.flitTaken now p h corrected).portReg p k = n.portReg p k) ∧
    (∀ k, k < 0x500000 → (n.flitTaken now p h corrected).reg k = n.reg k) := by
  have hreg : ∀ k, (n.flitTaken now p h corrected).reg k =
      (n.setPortReg p Reg.fecCorrected ((n.portReg p Reg.fecCorrected + corrected) % 2 ^ 64)).reg k := fun _ => rfl
  refine ⟨?_, ?_, fun k hk => ?_, fun k hk => ?_⟩
  · unfold Node.flitTaken
    rw [Node.port_setPort_same, Node.flitHeard_port]
  · exact (hreg _).trans (Node.portReg_setPortReg_same ..)
  · exact (hreg _).trans (Node.portReg_setPortReg_ne _ _ _ _ _ hk)
  · rw [hreg, Node.setPortReg, Node.reg_setReg, if_neg (by unfold linkKey Reg.fecCorrected; omega)]

theorem Node.receives_congr {n m : Node} (p : Nat) (hs : m.st = n.st) (hp : m.portReg p Reg.portState = n.portReg p Reg.portState) : m.receives p = n.receives p := by
  unfold Node.receives Node.stopped
  rw [hs, hp]

/-- A right flit whose header is taken (R340). -/
theorem State.flitIn_eq (s : State) (p : Nat) (f : Bytes) (c : Nat) (h3 : ¬3 ≤ fieldB f 0 8 / 2 ^ 60 % 16) : s.flitIn p f c =
    let t := s.node.flitTaken s.clock.tick p (fieldB f 0 8) c
    let n := if bitOf (fieldB f 0 8) 35 then t.replay s.clock.tick p else t
    let l := ((s.node.flitHeard s.clock.tick p c).port p).header (fieldB f 0 8)
    if fieldB f 0 8 / 2 ^ 60 % 16 ≠ 1 ∨ !n.receives p ∨ fieldB f 0 8 / 2 ^ 48 % 4096 ≠ (l.rxSeq + 1) % 4096 then s.put n
    else
      let r := cutFrames (n.reg Reg.camrisVersion) ((l.rxStream ++ f.drop 8).length / 32 + 1) (l.rxStream ++ f.drop 8)
      r.1.foldl (fun s f => s.frameIn p f)
        (s.put (n.setPort p { n.port p with rxSeq := fieldB f 0 8 / 2 ^ 48 % 4096, discarding := false, rxStream := r.2 })) := by
  unfold State.flitIn
  dsimp only
  rw [if_neg h3]
  rfl

/-- A data flit that brings no whole frame (R339). -/
theorem State.flitIn_data (s : State) (p : Nat) (f left : Bytes) (c : Nat) (hr : s.node.receives p = true) (ht : fieldB f 0 8 / 2 ^ 60 % 16 = 1)
    (hseq : fieldB f 0 8 / 2 ^ 48 % 4096 = ((s.node.port p).rxSeq + 1) % 4096) (hnak : bitOf (fieldB f 0 8) 35 = false)
    (hcut : cutFrames (s.node.reg Reg.camrisVersion) (((s.node.port p).rxStream ++ f.drop 8).length / 32 + 1) ((s.node.port p).rxStream ++ f.drop 8) = ([], left)) :
    ∃ l : Port, s.flitIn p f c = s.put ((s.node.flitTaken s.clock.tick p (fieldB f 0 8) c).setPort p l) ∧ l.rxSeq = ((s.node.port p).rxSeq + 1) % 4096 ∧
      l.rxStream = left ∧ l.lastRx = (Port.header { s.node.port p with lastRx := s.clock.tick } (fieldB f 0 8)).lastRx ∧
      l.credits = (Port.header { s.node.port p with lastRx := s.clock.tick } (fieldB f 0 8)).credits := by
  obtain ⟨hport, -, hpreg, hreg⟩ := s.node.flitTaken_spec s.clock.tick p (fieldB f 0 8) c
  have hl : ((s.node.flitHeard s.clock.tick p c).port p).header (fieldB f 0 8) = (s.node.flitTaken s.clock.tick p (fieldB f 0 8) c).port p :=
    (Node.port_setPort_same ..).symm
  obtain ⟨c1, c2, -⟩ := (({ s.node.port p with lastRx := s.clock.tick } : Port).acknowledge (fieldB f 0 8 / 2 ^ 36 % 4096)).credit_frame
    (fieldB f 0 8 / 2 ^ 32 % 8) (fieldB f 0 8 / 2 ^ 20 % 4096)
  obtain ⟨a1, a2, -⟩ := ({ s.node.port p with lastRx := s.clock.tick } : Port).acknowledge_frame (fieldB f 0 8 / 2 ^ 36 % 4096)
  have hrec : (s.node.flitTaken s.clock.tick p (fieldB f 0 8) c).receives p = true :=
    (Node.receives_congr p (hreg Reg.nodeState (by decide)) (hpreg Reg.portState (by decide))).trans hr
  have hseq' : ((s.node.flitTaken s.clock.tick p (fieldB f 0 8) c).port p).rxSeq = (s.node.port p).rxSeq := by rw [hport]; exact c1.trans a1
  have hstream : ((s.node.flitTaken s.clock.tick p (fieldB f 0 8) c).port p).rxStream = (s.node.port p).rxStream := by rw [hport]; exact c2.trans a2
  have he : s.flitIn p f c = s.put ((s.node.flitTaken s.clock.tick p (fieldB f 0 8) c).setPort p
      { (s.node.flitTaken s.clock.tick p (fieldB f 0 8) c).port p with rxSeq := ((s.node.port p).rxSeq + 1) % 4096, discarding := false, rxStream := left }) := by
    rw [s.flitIn_eq p f c (by rw [ht]; decide)]
    dsimp only
    rw [hnak, hl, if_neg (show ¬(false = true) by decide), if_neg (by rw [ht, hrec, hseq, hseq']; simp), hstream, hreg Reg.camrisVersion (by decide), hcut, hseq]
    rfl
  refine ⟨_, he, rfl, rfl, ?_, ?_⟩ <;> rw [← hport]

theorem Port.acknowledge_unacked (l : Port) (t : Nat) (a : Nat) : (({ l with lastRx := t } : Port).acknowledge a).unacked = (l.acknowledge a).unacked := by
  unfold Port.acknowledge
  dsimp only
  split <;> rfl

/-- A NAK that asks for a replay within REPLAY_LIMIT (R340). -/
theorem Node.replay_spec (n : Node) (now p : Nat) (e : Nat × Bytes) (rest : List (Nat × Bytes)) (hu : (n.port p).unacked = e :: rest)
    (hlim : ((n.port p).replayTicks.filter fun t => decide (now < t + n.reg Reg.replaySpan)).length < n.reg Reg.replayLimit) :
    (n.replay now p).portReg p Reg.replays = (n.portReg p Reg.replays + 1) % 2 ^ 64 ∧ ((n.replay now p).port p).replayStart = some (now, e.1) ∧
    ((n.replay now p).port p).unacked = e :: rest := by
  have hbump : ∀ k, k < 0x500000 → (n.bumpPort p Reg.replays).reg k = n.reg k := fun k hk => by
    rw [Node.bumpPort, Node.setPortReg, Node.reg_setReg, if_neg (by unfold linkKey Reg.replays; omega)]
  have he : ∃ ticks, n.replay now p = (n.bumpPort p Reg.replays).setPort p { n.port p with replayTicks := ticks, replayStart := some (now, e.1) } := by
    unfold Node.replay
    dsimp only
    rw [hu]
    dsimp only
    rw [if_neg (by rw [hbump _ (by decide)]; exact Nat.not_le.mpr hlim)]
    exact ⟨_, rfl⟩
  obtain ⟨ticks, he⟩ := he
  rw [he, Node.port_setPort_same]
  exact ⟨n.portReg_bumpPort_same p Reg.replays, rfl, hu⟩

/-- A flit that carries no data and asks for a replay. -/
theorem State.flitIn_nak (s : State) (p : Nat) (f : Bytes) (c : Nat) (ht : fieldB f 0 8 / 2 ^ 60 % 16 = 0) (hnak : bitOf (fieldB f 0 8) 35 = true) :
    s.flitIn p f c = s.put ((s.node.flitTaken s.clock.tick p (fieldB f 0 8) c).replay s.clock.tick p) := by
  rw [s.flitIn_eq p f c (by rw [ht]; decide)]
  dsimp only
  rw [hnak, if_pos rfl, if_pos (.inl (by rw [ht]; decide))]

/-! ### Camris frames (R342 to R344, R354) -/

/-- A message of one frame is whole where that frame is its last. -/
theorem InMsg.whole_single (m : InMsg) (data : Bytes) (hp : m.parts = [(0, data)]) : m.whole = if m.total = some data.length then some data else none := by
  unfold InMsg.whole
  rw [hp]
  simp [sortBy, insertBy]

/-- The message that a first frame begins (R344). -/
def frameMsg (f data : Bytes) (now : Nat) : InMsg :=
  { ftype := fieldB f 1 1, src := fieldB f 4 2, msgId := fieldB f 8 4, vc := fieldB f 2 1, keyId := fieldB f 18 2, parts := [(0, data)],
    total := if fieldB f 3 1 / 4 % 2 = 1 then some data.length else none, lastTick := now }

/-- The messages of a port but the one of a frame. -/
def otherMsgs (f : Bytes) (l : List InMsg) : List InMsg :=
  l.filter fun m => !(m.src == fieldB f 4 2 && m.msgId == fieldB f 8 4 && m.vc == fieldB f 2 1)

/-- The node with the messages that a port's frames have begun. -/
def Node.withInbound (n : Node) (p : Nat) (l : List InMsg) : Node := { n with links := { n.links with inbound := Map.set [] n.links.inbound p l } }

/-- The frame with which a message begins finds none of its own at the port. -/
theorem find_inbound_none {l : List InMsg} {f : Bytes} (hnew : ∀ m ∈ l, ¬(m.src = fieldB f 4 2 ∧ m.msgId = fieldB f 8 4 ∧ m.vc = fieldB f 2 1)) :
    (l.find? fun (m : InMsg) => m.src == fieldB f 4 2 && m.msgId == fieldB f 8 4 && m.vc == fieldB f 2 1) = none := by
  rw [List.find?_eq_none]
  intro m hm h
  simp only [Bool.and_eq_true, beq_iff_eq] at h
  exact hnew m hm ⟨h.1.1, h.1.2, h.2⟩

/-- Such a frame leaves the other messages as they are. -/
theorem filter_inbound_all {l : List InMsg} {f : Bytes} (hnew : ∀ m ∈ l, ¬(m.src = fieldB f 4 2 ∧ m.msgId = fieldB f 8 4 ∧ m.vc = fieldB f 2 1)) :
    (l.filter fun (m : InMsg) => !(m.src == fieldB f 4 2 && m.msgId == fieldB f 8 4 && m.vc == fieldB f 2 1)) = l := by
  rw [List.filter_eq_self]
  intro m hm
  have := hnew m hm
  simp only [Bool.not_eq_true', Bool.and_eq_false_iff, beq_eq_false_iff_ne]
  tauto

/-- A first frame joins no message: what its message becomes (R344). -/
theorem State.joinFrame_first (s : State) (p k : Nat) (f data : Bytes) (h0 : fieldB f 12 4 = 0)
    (hnew : ∀ m ∈ Map.get [] s.node.links.inbound p, ¬(m.src = fieldB f 4 2 ∧ m.msgId = fieldB f 8 4 ∧ m.vc = fieldB f 2 1)) :
    (fieldB f 3 1 / 4 % 2 = 0 → s.joinFrame p k f data =
      s.put ((s.node.withInbound p (Map.get [] s.node.links.inbound p ++ [frameMsg f data s.clock.tick])).pfcUpdate p (fieldB f 2 1))) ∧
    (fieldB f 3 1 / 4 % 2 = 1 → ∃ cells, s.joinFrame p k f data =
      (s.put ((s.node.withInbound p (Map.get [] s.node.links.inbound p)).freeCells p (fieldB f 2 1) cells)).dispatch p (frameMsg f data s.clock.tick) k data) := by
  have hwhole := (frameMsg f data s.clock.tick).whole_single data rfl
  have hm : ({
      ftype := fieldB f 1 1, src := fieldB f 4 2, msgId := fieldB f 8 4, vc := fieldB f 2 1, keyId := fieldB f 18 2,
      parts := ([] : List (Nat × Bytes)).filter (fun (e : Nat × Bytes) => e.1 != 0) ++ [(0, data)],
      total := if fieldB f 3 1 / 4 % 2 = 1 then some (0 + data.length) else none, lastTick := s.clock.tick } : InMsg) = frameMsg f data s.clock.tick := by
    rw [Nat.zero_add]
    rfl
  refine ⟨fun h => ?_, fun h =>
    ⟨((frameMsg f data s.clock.tick).parts.map fun (e : Nat × Bytes) => frameCells e.2.length ((frameMsg f data s.clock.tick).keyId != 0)).sum, ?_⟩⟩
  · unfold State.joinFrame
    dsimp only
    rw [find_inbound_none hnew, filter_inbound_all hnew, h0]
    dsimp only [Option.getD]
    rw [hm, hwhole, if_neg (by simp [frameMsg, h])]
    rfl
  · unfold State.joinFrame
    dsimp only
    rw [find_inbound_none hnew, filter_inbound_all hnew, h0]
    dsimp only [Option.getD]
    rw [hm, hwhole, if_pos (by simp [frameMsg, h])]
    rfl

/-- A frame that carries a request is sealed, on one of the channels 0 to 3 (R354, Table 13-5). -/
theorem Node.frameOk_request {n : Node} {p : Nat} {f : Bytes} (hok : n.frameOk p f = true) (ht : fieldB f 1 1 = 1) :
    (fieldB f 3 1 % 2 == 1) = true ∧ fieldB f 2 1 ≤ 3 := by
  unfold Node.frameOk at hok
  rw [ht] at hok
  dsimp only at hok
  simp only [Bool.and_eq_true, Bool.or_eq_true] at hok
  obtain ⟨⟨⟨⟨⟨⟨⟨⟨⟨⟨⟨-, hvc⟩, -⟩, -⟩, -⟩, -⟩, -⟩, -⟩, -⟩, -⟩, hsealed⟩, -⟩ := hok
  refine ⟨?_, ?_⟩
  · simpa [sealedType] using hsealed
  · simpa [vcAllowed] using hvc

/-- The node with the paths of the frames it has received. -/
def Node.withRx (n : Node) (rx : Map Path) : Node := { n with links := { n.links with rx := rx } }

/-- A new frame of a request that opens, and finds its cells, joins its message (R342, R354, R375). -/
theorem State.frameIn_request (s : State) (p k : Nat) (f data : Bytes) (hok : s.node.frameOk p f = true) (ht : fieldB f 1 1 = 1)
    (hslot : s.node.slotOf 1 (fieldB f 18 2) = some k)
    (hopen : gcmOpen (s.node.keySlot k).key
      (linkNonce (fieldB f 4 2) (if s.node.isNative p then s.node.portReg p Reg.peerPort else Config.open 92 (fieldB f 4 2) % 256) (fieldB f 20 8))
      (sliceB f 0 32) (sliceB f 32 (fieldB f 16 2 + 16)) = some data)
    (hcells : s.node.cellsFor p (fieldB f 2 1) (frameCells (fieldB f 16 2) true) = true)
    (hnew : s.node.isNative p = true ∨ fieldB f 2 1 < 3 ∨ (Map.get ({} : Path) s.node.links.rx (pathKey (fieldB f 4 2) (fieldB f 2 1))).fresh (fieldB f 28 4) = true) :
    ∃ rx, s.frameIn p f = (s.put ((s.node.bumpPort p Reg.framesRx).withRx rx)).joinFrame p k f data := by
  obtain ⟨henc, -⟩ := Node.frameOk_request hok ht
  have hrep : ((!s.node.isNative p && decide (3 ≤ fieldB f 2 1) && decide (fieldB f 2 1 ≤ 5)) &&
      !(Map.get ({} : Path) s.node.links.rx (pathKey (fieldB f 4 2) (fieldB f 2 1))).fresh (fieldB f 28 4)) = false := by
    rcases hnew with h | h | h
    · simp [h]
    · simp [Nat.not_le.mpr h]
    · simp [h]
  by_cases hnum : (!s.node.isNative p && decide (3 ≤ fieldB f 2 1) && decide (fieldB f 2 1 ≤ 5)) = true
  · refine ⟨Map.set {} s.node.links.rx (pathKey (fieldB f 4 2) (fieldB f 2 1))
      ((Map.get ({} : Path) s.node.links.rx (pathKey (fieldB f 4 2) (fieldB f 2 1))).take s.clock.tick (fieldB f 28 4)), ?_⟩
    unfold State.frameIn
    dsimp only
    rw [hok, ht, henc, if_neg (by decide), if_pos rfl, hslot]
    dsimp only
    rw [if_pos rfl, if_pos rfl, hopen]
    dsimp only
    rw [hrep, hcells, if_neg (by decide), if_neg (by decide), if_pos hnum]
    rfl
  · refine ⟨s.node.links.rx, ?_⟩
    unfold State.frameIn
    dsimp only
    rw [hok, ht, henc, if_neg (by decide), if_pos rfl, hslot]
    dsimp only
    rw [if_pos rfl, if_pos rfl, hopen]
    dsimp only
    rw [hrep, hcells, if_neg (by decide), if_neg (by decide), if_neg hnum]
    rfl

/-- What a pause or a credit that freed cells bring leaves of the frame's own count and of the requests (R377, R378). -/
theorem Node.pfcUpdate_frame (n : Node) (p vc : Nat) : (∀ k, k ≠ Reg.pfcTx → (n.pfcUpdate p vc).portReg p k = n.portReg p k) ∧ (n.pfcUpdate p vc).adm = n.adm ∧
    (n.pfcUpdate p vc).links.inbound = n.links.inbound := by
  unfold Node.pfcUpdate
  split
  · exact ⟨fun _ _ => rfl, rfl, rfl⟩
  · dsimp only
    split
    · exact ⟨fun k hk => Node.portReg_setPortReg_ne _ _ _ _ _ hk, rfl, rfl⟩
    · split
      · exact ⟨fun k hk => Node.portReg_setPortReg_ne _ _ _ _ _ hk, rfl, rfl⟩
      · exact ⟨fun _ _ => rfl, rfl, rfl⟩

theorem Node.freeCells_frame (n : Node) (p vc cells : Nat) : (∀ k, k ≠ Reg.pfcTx → (n.freeCells p vc cells).portReg p k = n.portReg p k) ∧
    (n.freeCells p vc cells).adm = n.adm ∧ (n.freeCells p vc cells).links.inbound = n.links.inbound := by
  unfold Node.freeCells
  split
  · exact ⟨fun _ _ => rfl, rfl, rfl⟩
  · exact n.pfcUpdate_frame p vc

/-- A frame heard at a port: the node that takes it. -/
def Node.heard (n : Node) (now p : Nat) : Node := n.setPort p { n.port p with lastRx := now }

theorem exec_flitReceive (p : Fin 48) (flit f : Bytes) (c : Nat) (s : State) (hmode : s.node.portReg p.val Reg.portMode = 1) (hr : s.node.receives p.val = true)
    (hdec : flitDecode flit = some (f, c)) : exec (.flitReceive p flit) s = .next (s.flitIn p.val f c) := by
  show execFlitReceive p flit s = _
  unfold execFlitReceive
  dsimp only
  rw [if_neg (by simp [hmode, hr]), hdec]

theorem exec_camrisFrameReceive (p : Fin 48) (f : Bytes) (s : State) (hr : s.node.receives p.val = true) :
    exec (.camrisFrameReceive p f) s = .next ((s.put (s.node.heard s.clock.tick p.val)).frameIn p.val f) := by
  show execCamrisFrameReceive p f s = _
  unfold execCamrisFrameReceive
  dsimp only
  rw [hr, if_neg (by decide)]
  rfl

/-- What a received request frame does at a port whose messages it begins (R344). -/
theorem State.frameIn_first (s : State) (p k : Nat) (f data : Bytes) (hok : s.node.frameOk p f = true) (ht : fieldB f 1 1 = 1)
    (hslot : s.node.slotOf 1 (fieldB f 18 2) = some k)
    (hopen : gcmOpen (s.node.keySlot k).key
      (linkNonce (fieldB f 4 2) (if s.node.isNative p then s.node.portReg p Reg.peerPort else Config.open 92 (fieldB f 4 2) % 256) (fieldB f 20 8))
      (sliceB f 0 32) (sliceB f 32 (fieldB f 16 2 + 16)) = some data)
    (hcells : s.node.cellsFor p (fieldB f 2 1) (frameCells (fieldB f 16 2) true) = true)
    (hno : ∀ m ∈ Map.get [] s.node.links.inbound p, ¬(m.src = fieldB f 4 2 ∧ m.msgId = fieldB f 8 4 ∧ m.vc = fieldB f 2 1)) (h0 : fieldB f 12 4 = 0)
    (hnew : s.node.isNative p = true ∨ fieldB f 2 1 < 3 ∨ (Map.get ({} : Path) s.node.links.rx (pathKey (fieldB f 4 2) (fieldB f 2 1))).fresh (fieldB f 28 4) = true) :
    (fieldB f 3 1 / 4 % 2 = 0 → ∃ n, s.frameIn p f = s.put n ∧ n.portReg p Reg.framesRx = (s.node.portReg p Reg.framesRx + 1) % 2 ^ 64 ∧ n.adm = s.node.adm ∧
      frameMsg f data s.clock.tick ∈ Map.get [] n.links.inbound p) ∧
    (fieldB f 3 1 / 4 % 2 = 1 → ∃ n : Node, s.frameIn p f = s.put (n.requestArrives s.clock.tick p (fieldB f 4 2) k data) ∧
      n.portReg p Reg.framesRx = (s.node.portReg p Reg.framesRx + 1) % 2 ^ 64 ∧ n.adm = s.node.adm ∧ Map.get [] n.links.inbound p = Map.get [] s.node.links.inbound p) := by
  obtain ⟨rx, he⟩ := s.frameIn_request p k f data hok ht hslot hopen hcells hnew
  obtain ⟨hmore, hlast⟩ := (s.put ((s.node.bumpPort p Reg.framesRx).withRx rx)).joinFrame_first p k f data h0 hno
  refine ⟨fun h => ?_, fun h => ?_⟩
  · obtain ⟨hrx, hadm, hin⟩ := (((s.node.bumpPort p Reg.framesRx).withRx rx).withInbound p
      (Map.get [] s.node.links.inbound p ++ [frameMsg f data s.clock.tick])).pfcUpdate_frame p (fieldB f 2 1)
    refine ⟨_, he.trans (hmore h), (hrx Reg.framesRx (by decide)).trans (s.node.portReg_bumpPort_same p Reg.framesRx), hadm,
      (congrArg (fun m => frameMsg f data s.clock.tick ∈ Map.get [] m p) hin).mpr ?_⟩
    rw [Node.withInbound, Map.get_set, if_pos rfl]
    simp
  · obtain ⟨cells, hjoin⟩ := hlast h
    obtain ⟨hrx, hadm, hin⟩ := (((s.node.bumpPort p Reg.framesRx).withRx rx).withInbound p (Map.get [] s.node.links.inbound p)).freeCells_frame p (fieldB f 2 1) cells
    refine ⟨_, he.trans (hjoin.trans ?_), (hrx Reg.framesRx (by decide)).trans (s.node.portReg_bumpPort_same p Reg.framesRx), hadm, (congrArg (Map.get [] · p) hin).trans ?_⟩
    · unfold State.dispatch
      rw [show (frameMsg f data (s.put ((s.node.bumpPort p Reg.framesRx).withRx rx)).clock.tick).ftype = 1 from ht]
      rfl
    · rw [Node.withInbound, Map.get_set, if_pos rfl]

/-! ### Ethernet frames and paths (R351 to R353) -/

/-- A Camris frame that an Ethernet port takes from a frame with its address (R351, R353). -/
theorem State.ethIn_camris (s : State) (p : Nat) (f : Bytes) (hbe : fieldB f 12 1 * 256 + fieldB f 13 1 = 0x88B6) (hmac : fieldB f 0 6 = s.node.portReg p Reg.mac) :
    s.ethIn p f = (s.put ((s.node.heard s.clock.tick p).setPort p
      { (s.node.heard s.clock.tick p).port p with
        destMac := Map.put ((s.node.heard s.clock.tick p).port p).destMac (fieldB (sliceB f 14 (f.length - 18)) 4 2) (fieldB f 6 6) })).frameIn p
          (sliceB f 14 (f.length - 18)) := by
  unfold State.ethIn
  dsimp only
  rw [if_neg (show ¬fieldB f 12 1 * 256 + fieldB f (12 + 1) 1 = 0x8808 by rw [hbe]; decide), if_neg (fun h => h hmac),
    if_neg (show ¬fieldB f 12 1 * 256 + fieldB f (12 + 1) 1 = 0x8100 by rw [hbe]; decide), if_neg (fun h => h hbe)]
  rfl

theorem seqBefore_self (a : Nat) : seqBefore a a = false := by
  unfold seqBefore
  rw [show (a + 2 ^ 32 - a) % 2 ^ 32 = 0 by omega]
  rfl

/-- The frames that a PATH_ACK leaves unacknowledged: none before its number, and the one of its number (R352). -/
theorem Node.pathAcked_spec (n : Node) (endpoint : Nat) (v : Bytes) :
    (∀ e ∈ (Map.get ({} : Path) (n.pathAcked endpoint v).links.tx (pathKey endpoint (fieldB v 0 1))).unacked,
      e ∈ (Map.get ({} : Path) n.links.tx (pathKey endpoint (fieldB v 0 1))).unacked ∧ seqBefore e.1 (fieldB v 4 4) = false) ∧
    (∀ e ∈ (Map.get ({} : Path) n.links.tx (pathKey endpoint (fieldB v 0 1))).unacked, e.1 = fieldB v 4 4 →
      e ∈ (Map.get ({} : Path) (n.pathAcked endpoint v).links.tx (pathKey endpoint (fieldB v 0 1))).unacked) := by
  unfold Node.pathAcked
  dsimp only
  rw [Map.get_set, if_pos rfl]
  refine ⟨fun e he => ?_, fun e he hcum => ?_⟩
  · obtain ⟨hmem, hnot⟩ := List.mem_filter.mp he
    simp only [Bool.not_eq_true', Bool.or_eq_false_iff] at hnot
    exact ⟨hmem, hnot.1⟩
  · refine List.mem_filter.mpr ⟨he, ?_⟩
    rw [hcum, seqBefore_self, decide_eq_false (show ¬(fieldB v 4 4 + 2 ^ 32 - (fieldB v 4 4 + 1)) % 2 ^ 32 < 64 by omega)]
    rfl

/-- A path that owes an acknowledgement sends it (R352). -/
theorem Node.pathAck_spec (n : Node) (now endpoint vc t q : Nat) (ho : (Map.get ({} : Path) n.links.rx (pathKey endpoint vc)).owedSince = some t)
    (hq : n.ethPort endpoint = some q) :
    (n.pathAck now endpoint vc).queue q 7 = n.queue q 7 ++
      [{ ftype := 10, dst := endpoint, bytes := (Map.get ({} : Path) n.links.rx (pathKey endpoint vc)).ack vc, queuedAt := now }] ∧
    (Map.get ({} : Path) (n.pathAck now endpoint vc).links.rx (pathKey endpoint vc)).owedSince = none := by
  unfold Node.pathAck
  dsimp only
  rw [ho, hq]
  dsimp only
  refine ⟨Node.queue_enqueue_same .., ?_⟩
  rw [show ∀ (m : Node) (x : OutMsg), (m.enqueue q 7 x).links.rx = m.links.rx from fun _ _ => rfl, Map.get_set, if_pos rfl]

theorem Node.setPartner_links (n : Node) (node v : Nat) : (n.setPartner node v).links = n.links := by
  unfold Node.setPartner
  split
  · rfl
  · dsimp only
    split <;> split <;> rfl

theorem Node.suspect_links (n : Node) (node : Nat) : (n.suspect node).links = n.links := by
  have hev : ∀ (m : Node) (a : Nat) (b : Bytes), (m.event a b).links = m.links := Node.event_links
  unfold Node.suspect
  split
  · rfl
  · dsimp only
    split
    · rfl
    · split
      · rfl
      · rw [hev, n.setPartner_links]

theorem Node.transmit_tx (n : Node) (p : Nat) (frame : Bytes) : (n.transmit p frame).links.tx = n.links.tx := by
  unfold Node.transmit
  dsimp only
  split <;> rfl

theorem Node.transmit_regs (n : Node) (p k : Nat) (frame : Bytes) (hk : k ≠ Reg.framesTx) : (n.transmit p frame).portReg p k = n.portReg p k := by
  unfold Node.transmit
  dsimp only
  split <;> exact Node.portReg_setPortReg_ne _ _ _ _ _ hk

/-- A frame unacknowledged too long is sent again (R351). -/
theorem Node.pathRetry_resend (n : Node) (now endpoint vc number sent times q : Nat) (frame : Bytes)
    (hf : (Map.get ({} : Path) n.links.tx (pathKey endpoint vc)).unacked.find? (fun e => e.1 == number) = some (number, sent, times, frame))
    (hlate : sent + n.reg Reg.pathRetryTicks ≤ now) (ht : times < 4) (hq : n.ethPort endpoint = some q) :
    ((n.pathRetry now endpoint vc number).port q).txFrame = frame ∧
    (n.pathRetry now endpoint vc number).portReg q Reg.pathResends = (n.portReg q Reg.pathResends + 1) % 2 ^ 64 ∧
    (number, now, times + 1, frame) ∈ (Map.get ({} : Path) (n.pathRetry now endpoint vc number).links.tx (pathKey endpoint vc)).unacked := by
  unfold Node.pathRetry
  dsimp only
  rw [hf]
  dsimp only
  rw [if_neg (by omega), if_neg (by omega), hq]
  dsimp only
  refine ⟨(Node.transmit_spec ..).2, Node.portReg_setPortReg_same .., ?_⟩
  rw [show ∀ (m : Node) (k v : Nat), (m.setPortReg q k v).links = m.links from fun _ _ _ => rfl, Node.transmit_tx, Map.get_set, if_pos rfl]
  exact List.mem_map.mpr ⟨_, List.mem_of_find?_eq_some hf, by simp⟩

/-- After four repetitions a frame is given up (R351, R457). -/
theorem Node.pathRetry_last (n : Node) (now endpoint vc number sent times : Nat) (frame : Bytes)
    (hf : (Map.get ({} : Path) n.links.tx (pathKey endpoint vc)).unacked.find? (fun e => e.1 == number) = some (number, sent, times, frame))
    (hlate : sent + n.reg Reg.pathRetryTicks ≤ now) (ht : 4 ≤ times) :
    ∀ e ∈ (Map.get ({} : Path) (n.pathRetry now endpoint vc number).links.tx (pathKey endpoint vc)).unacked, e.1 ≠ number := by
  intro e
  unfold Node.pathRetry
  dsimp only
  rw [hf]
  dsimp only
  rw [if_neg (by omega), if_pos ht, Node.suspect_links]
  dsimp only
  rw [Map.get_set, if_pos rfl]
  intro he
  simpa using (List.mem_filter.mp he).2

/-! ### Reassembly (R344) -/

/-- What a reply leaves of the counters, of the messages that arrive and of the pool. -/
theorem Node.queueReply_keeps (n : Node) (now port : Nat) (rep : Reply) (notice : Option Nat) (w b : Nat) :
    (n.queueReply now port rep notice w b).links.inbound = n.links.inbound ∧ (n.queueReply now port rep notice w b).adm.pool = n.adm.pool ∧
    ∀ k, k ≠ Reg.hostRepliesLost → (n.queueReply now port rep notice w b).reg k = n.reg k := by
  unfold Node.queueReply
  dsimp only
  split
  · split <;> exact ⟨rfl, rfl, fun _ _ => rfl⟩
  · split
    · exact ⟨rfl, rfl, fun _ _ => rfl⟩
    · split <;> exact ⟨rfl, rfl, fun k hk => n.reg_bump_ne _ k hk⟩

/-- A request given up after its header has come leaves its port and is refused (R344). -/
theorem Node.reassemblyTimeout_spec (n : Node) (now p src id : Nat) (m : InMsg) (e : Nat × Bytes)
    (hm : (Map.get [] n.links.inbound p).find? (fun (m : InMsg) => m.src == src && m.msgId == id && m.ftype == 1 &&
      decide (m.lastTick + n.reg Reg.reassemblyTicks ≤ now)) = some m)
    (he : m.parts.find? (fun e => e.1 == 0 && decide (64 ≤ e.2.length)) = some e) :
    (n.reassemblyTimeout now p src id).portReg p Reg.reassemblyDrops = (n.portReg p Reg.reassemblyDrops + 1) % 2 ^ 64 ∧
    (∀ x ∈ Map.get [] (n.reassemblyTimeout now p src id).links.inbound p, x ≠ m) ∧
    (n.reassemblyTimeout now p src id).adm.pool = n.adm.pool := by
  unfold Node.reassemblyTimeout
  dsimp only
  rw [hm]
  dsimp only
  rw [he]
  dsimp only
  generalize (m.parts.map fun (e : Nat × Bytes) => frameCells e.2.length (m.keyId != 0)).sum = cells
  obtain ⟨hregs, hadm, hin⟩ := (n.withInbound p ((Map.get [] n.links.inbound p).filter fun x => x != m)).freeCells_frame p m.vc cells
  obtain ⟨rin, rpool, rregs⟩ := Node.queueReply_keeps (((((n.withInbound p ((Map.get [] n.links.inbound p).filter fun x => x != m)).freeCells p m.vc cells).bumpPort p
    Reg.reassemblyDrops)).bump Reg.refused) now (Node.replyPort (((n.withInbound p ((Map.get [] n.links.inbound p).filter fun x => x != m)).freeCells p m.vc cells).bumpPort p
    Reg.reassemblyDrops) (Request.ofBytes e.2 p)) ((Request.ofBytes e.2 p).reply stFormat 0x21 0xFFFFFFFF []) none 0 0
  refine ⟨?_, fun x hx => ?_, ?_⟩
  · refine (rregs _ (by unfold linkKey Reg.reassemblyDrops Reg.hostRepliesLost; omega)).trans ((Node.reg_bump_ne _ _ _ (by unfold linkKey Reg.reassemblyDrops Reg.refused; omega)).trans ?_)
    refine (Node.portReg_bumpPort_same ..).trans ?_
    rw [hregs _ (by decide)]
    rfl
  · have hx' := (congrArg (fun l => x ∈ Map.get [] l p) (rin.trans hin)).mp hx
    rw [Node.withInbound, Map.get_set, if_pos rfl] at hx'
    simpa using (List.mem_filter.mp hx').2
  · exact rpool.trans (congrArg Admission.pool hadm)

/-- Settles O46: a flit's header, data and NAK, a frame dropped and a request's first frame, frames and acknowledgements of the Ethernet mode, and a message
given up, each with what it counts. That a frame for another node, or with a Reserved bit set, counts in FRAMES_DROPPED is log entry 29's choice, and the port
byte of a nonce on Ethernet is log entry 92's. -/
theorem linkReceive : Obligations.LinkReceive := by
  unfold Obligations.LinkReceive
  intro p s n0 now l counts
  have hport : ∀ (t k : Nat) (q : Nat), (n0.heard t q).portReg q k = n0.portReg q k := fun _ _ _ => rfl
  refine ⟨fun flit hmode hrec => ⟨fun hnone => ?_, ?_, ?_⟩, fun f hrec => ⟨fun hbad => ?_, ?_⟩, ?_, ?_, ?_, ?_, ?_⟩
  · have hexec : exec (.flitReceive p flit) s =
        s.on ((n0.bumpPort p.val Reg.flitErrors).setPort p.val { n0.port p.val with discarding := true, nakOwed := true }) := by
      show execFlitReceive p flit s = _
      unfold execFlitReceive
      dsimp only
      rw [if_neg (by simp [show s.node.portReg p.val Reg.portMode = 1 from hmode, show s.node.receives p.val = true from hrec]), hnone]
    refine ⟨_, hexec.trans (State.on_eq ..), n0.portReg_bumpPort_same p.val Reg.flitErrors, ?_⟩
    rw [Node.port_setPort_same]
    exact ⟨rfl, rfl, rfl⟩
  · intro f c left hdec h htype hseq hnak hcut
    obtain ⟨m, he, hrx, hstream, hlast, hcred⟩ := s.flitIn_data p.val f left c hrec htype hseq hnak hcut
    obtain ⟨-, hfec, -, -⟩ := n0.flitTaken_spec now p.val h c
    refine ⟨_, (exec_flitReceive p flit f c s hmode hrec hdec).trans (congrArg Host.Outcome.next he), hfec, ?_⟩
    rw [Node.port_setPort_same]
    refine ⟨hrx, hstream, hlast.trans ?_, fun hc hv => ?_⟩
    · exact (Port.credit_frame _ _ _).2.2.2.2.trans (Port.acknowledge_lastRx _ _)
    · rw [hcred, Port.header, Port.credit_get _ _ _ hc hv, (Port.acknowledge_frame _ _).2.2.1]
  · intro f c e rest hdec h htype hnak hun hlim
    obtain ⟨hport, -, hpreg, hreg⟩ := n0.flitTaken_spec now p.val h c
    have hu : ((n0.flitTaken now p.val h c).port p.val).unacked = e :: rest := by
      rw [hport, Port.header, (Port.credit_frame _ _ _).2.2.1, Port.acknowledge_unacked]
      exact hun
    have ht : ((n0.flitTaken now p.val h c).port p.val).replayTicks = l.replayTicks := by
      rw [hport, Port.header, (Port.credit_frame _ _ _).2.2.2.1, (Port.acknowledge_frame _ _).2.2.2]
    obtain ⟨hcount, hstart, hleft⟩ := Node.replay_spec _ now p.val e rest hu (by rw [ht, hreg _ (by decide), hreg _ (by decide)]; exact hlim)
    refine ⟨_, (exec_flitReceive p flit f c s hmode hrec hdec).trans (congrArg Host.Outcome.next (s.flitIn_nak p.val f c htype hnak)), ?_, hstart, hleft⟩
    exact hcount.trans (congrArg (fun x => (x + 1) % 2 ^ 64) (hpreg _ (by decide)))
  · refine ⟨(n0.heard now p.val).bumpPort p.val Reg.framesDropped, (exec_camrisFrameReceive p f s hrec).trans ?_, Node.portReg_bumpPort_same .., rfl⟩
    unfold State.frameIn
    dsimp only
    rw [show (s.put (s.node.heard s.clock.tick p.val)).node.frameOk p.val f = false from hbad, if_pos (by rfl)]
    rfl
  · intro k data hok ht hslot hopen hcells _ hno h0 hnew
    obtain ⟨hmore, hlast⟩ := (s.put (s.node.heard s.clock.tick p.val)).frameIn_first p.val k f data hok ht hslot hopen hcells hno h0 hnew
    refine ⟨fun h => ?_, fun h => ?_⟩
    · obtain ⟨n, he, hrx, hadm, hin⟩ := hmore h
      exact ⟨n, (exec_camrisFrameReceive p f s hrec).trans (congrArg Host.Outcome.next he), hrx, hadm, _, hin, rfl, rfl, rfl, rfl⟩
    · obtain ⟨n, he, hrx, hadm, hin⟩ := hlast h
      exact ⟨n, (exec_camrisFrameReceive p f s hrec).trans (congrArg Host.Outcome.next he), hrx, hadm, hin⟩
  · intro f hnat hrec be right
    refine ⟨fun hwrong => ?_, fun hright hlen hbe hmac => ?_⟩
    · have hexec : exec (.ethFrameReceive p f) s = s.on (n0.bumpPort p.val Reg.fcsErrors) := by
        show execEthFrameReceive p f s = _
        unfold execEthFrameReceive
        dsimp only
        rw [if_neg (by simp [show s.node.isNative p.val = false from hnat, show s.node.receives p.val = true from hrec]), if_pos (.inr hwrong)]
      exact ⟨_, hexec.trans (State.on_eq ..), n0.portReg_bumpPort_same p.val Reg.fcsErrors, rfl⟩
    · have hexec : exec (.ethFrameReceive p f) s = .next (s.ethIn p.val f) := by
        show execEthFrameReceive p f s = _
        unfold execEthFrameReceive
        dsimp only
        rw [if_neg (by simp [show s.node.isNative p.val = false from hnat, show s.node.receives p.val = true from hrec]), if_neg]
        rintro (h | h)
        · omega
        · exact h hright
      refine ⟨_, hexec.trans (congrArg Host.Outcome.next (s.ethIn_camris p.val f hbe hmac)), ?_, ?_, rfl, rfl⟩
      · rw [Node.port_setPort_same, Node.heard, Node.port_setPort_same]
      · rw [Node.port_setPort_same, Map.find_put, if_pos rfl]
  · intro f hnat hft hver k cum
    have hexec : exec (.pathAckReceive p f) s = s.on (n0.pathAcked (fieldB f 4 2) (f.drop 32)) := by
      show execPathAckReceive p f s = _
      unfold execPathAckReceive
      dsimp only
      rw [if_neg (by simp [show s.node.isNative p.val = false from hnat, hft, hver])]
    exact ⟨_, hexec.trans (State.on_eq ..), n0.pathAcked_spec _ _⟩
  · intro endpoint vc t q k ho hq
    obtain ⟨hqueue, howed⟩ := n0.pathAck_spec now endpoint.toNat vc.val t q ho hq
    exact ⟨_, _, State.on_eq s _, hqueue, rfl, rfl, rfl, howed⟩
  · intro endpoint vc num sent times frame k hf hlate
    refine ⟨fun q ht hq => ⟨_, State.on_eq s _, n0.pathRetry_resend now _ _ _ _ _ q frame hf hlate ht hq⟩,
      fun ht => ⟨_, State.on_eq s _, n0.pathRetry_last now _ _ _ _ _ frame hf hlate ht⟩⟩
  · intro src id m e hm he
    obtain ⟨hdrops, hgone, hpool⟩ := n0.reassemblyTimeout_spec now p.val src.toNat id.toNat m e hm he
    exact ⟨_, State.on_eq s _, hdrops, hgone, n0.reg_reassemblyTimeout now p.val src.toNat id.toNat m e hm he, hpool⟩

end Sys2Proof.Machine
end

section
/-!
The services of the rings (R484, R488, R492 to R499): O58.
-/

namespace Sys2Proof.Machine

/-! ### A frame's way to its service -/

theorem Node.ringSource_reachable (n : Node) (ring : Ring) (f : Voxley) (h : n.ringState (ringNum ring) ≠ 2) : n.reachable (f.via ring).src = true := by
  cases ring <;> simpa [Node.reachable, Voxley.via, Source.ring, ringNum] using h

/-- A row's frame that this node hears is counted and consumed (R484, R488). -/
theorem State.ringRow_hears (s : State) (ring : Ring) (frame : Bytes) (vtype : Nat) (f : Voxley) (p : Bytes) (h : s.hears ring frame vtype f p)
    (hk : knownVtype vtype = true) : s.ringRow ring frame vtype = .next ((s.withNode (s.node.frameCounted (ringNum ring))).consume (ringNum ring) f) := by
  obtain ⟨hv, hr, hsound, hf, hsrc, hhops, hdst, -⟩ := h
  unfold State.ringRow
  rw [if_pos hv, State.ringIn_sound s _ _ f hr hsound hf, if_neg hsrc, (voxleyOf_vtype _ _ hf).trans hv, hk, if_neg hhops]
  have hon : (f.dst != s.node.straps && (s.node.ringUnit (ringNum ring)).eastUp && (s.node.ringUnit (ringNum ring)).westUp) = false := by simp [hdst]
  dsimp only
  rw [hon, if_neg (show ¬(false = true) by decide), if_neg (show ¬((!true) = true) by decide), if_pos (show f.dst = (s.node.frameCounted (ringNum ring)).straps ∨ f.dst = 0xFFFF from .inl hdst)]
  rfl

/-- A frame of a service is served with its payload as it opens (R488, R489). -/
theorem State.consume_service (s : State) (ring : Ring) (f : Voxley) (p : Bytes) (hp : s.node.voxleyPayload s.clock.tick f = some p)
    (hresp : bitOf f.flags 1 = false) (h1 : f.vtype ≠ 1) (h2 : f.vtype ≠ 2) (h20 : f.vtype ≠ 0x20) :
    s.consume (ringNum ring) f = s.serve (f.via ring) f.vtype (State.service (f.via ring) f.vtype f.flags 1440 1424 p) := by
  unfold State.consume
  dsimp only
  rw [hp]
  dsimp only
  rw [if_neg (by simp [hresp, h2]), if_neg h1, if_neg h20]
  cases ring <;> rfl

theorem State.consume_discover (s : State) (ring : Ring) (f : Voxley) (p : Bytes) (hp : s.node.voxleyPayload s.clock.tick f = some p)
    (hresp : bitOf f.flags 1 = false) (h1 : f.vtype = 1) :
    s.consume (ringNum ring) f = s.serve { f.via ring with awl := false } 1 fun s =>
      (s, some (leBytes 32 (s.node.reg Reg.identity) ++ leBytes 2 s.node.straps ++ leBytes 1 s.node.st ++ leBytes 1 (129 - f.hops))) := by
  unfold State.consume
  dsimp only
  rw [hp]
  dsimp only
  rw [if_neg (by simp [hresp, h1]), if_pos h1]
  cases ring <;> rfl

/-- A frame of a service that this node hears comes to that service, fresh (R488, R491). -/
theorem State.ringRow_serve (s : State) (ring : Ring) (frame : Bytes) (vtype : Nat) (f : Voxley) (p : Bytes) (h : s.hears ring frame vtype f p)
    (hk : knownVtype vtype = true) (h1 : vtype ≠ 1) (h2 : vtype ≠ 2) (h20 : vtype ≠ 0x20) :
    s.ringRow ring frame vtype = .next ((s.withNode (s.node.frameCounted (ringNum ring))).serve (f.via ring) vtype
      (State.service (f.via ring) vtype f.flags 1440 1424 p)) := by
  have hrow := s.ringRow_hears ring frame vtype f p h hk
  obtain ⟨hv, -, -, hf, -, -, -, hp, hresp, -⟩ := h
  obtain rfl := (voxleyOf_vtype _ _ hf).trans hv
  rw [hrow, (s.withNode (s.node.frameCounted (ringNum ring))).consume_service ring f p hp hresp h1 h2 h20]

/-- A service of a frame that this node hears, answered (R488). -/
theorem State.answers_of (s : State) (c : Instr) (ring : Ring) (frame : Bytes) (vtype : Nat) (f : Voxley) (p out : Bytes) (t : State) (h : s.hears ring frame vtype f p)
    (hk : knownVtype vtype = true) (h1 : vtype ≠ 1) (h2 : vtype ≠ 2) (h20 : vtype ≠ 0x20) (hc : exec c s = s.ringRow ring frame vtype)
    (hgo : State.service (f.via ring) vtype f.flags 1440 1424 p (s.withNode ((s.node.frameCounted (ringNum ring)).noteAwl (f.via ring))) = (t, some out)) {P : State → Bytes → Prop}
    (hP : P t out) : s.answers c (f.via ring) vtype P := by
  refine ⟨t, out, ?_, hP⟩
  have hserve := State.serve_fresh (s.withNode (s.node.frameCounted (ringNum ring))) (f.via ring) vtype (State.service (f.via ring) vtype f.flags 1440 1424 p)
    (Node.ringSource_reachable _ ring f h.2.1) h.2.2.2.2.2.2.2.2.2
  have hgo' : State.service (f.via ring) vtype f.flags 1440 1424 p ((s.withNode (s.node.frameCounted (ringNum ring))).put
    ((s.withNode (s.node.frameCounted (ringNum ring))).node.noteAwl (f.via ring))) = (t, some out) := hgo
  rw [hc, s.ringRow_serve ring frame vtype f p h hk h1 h2 h20, hserve, hgo']
  rfl

/-! ### READ (R492) -/

theorem Node.countRefused_frame (n : Node) (st : Nat) : (∀ k, k ≠ Reg.framesRefused → (n.countRefused st).reg k = n.reg k) ∧ (n.countRefused st).staged = n.staged ∧
    (n.countRefused st).adm = n.adm := by
  unfold Node.countRefused
  split
  · exact ⟨fun k hk => n.reg_bump_ne _ k hk, rfl, rfl⟩
  · exact ⟨fun _ _ => rfl, rfl, rfl⟩

theorem Node.readItems_frame (now : Nat) (via : Via) (limit : Nat) (items : List (Nat × Nat)) (out : Bytes) (n : Node) :
    (∀ k, k ≠ Reg.framesRefused → (Node.readItems now via limit items out n).1.reg k = n.reg k) ∧
    (Node.readItems now via limit items out n).1.staged = n.staged ∧ (Node.readItems now via limit items out n).1.adm = n.adm := by
  induction items generalizing out n with
  | nil => exact ⟨fun _ _ => rfl, rfl, rfl⟩
  | cons i rest ih =>
    obtain ⟨index, sub⟩ := i
    unfold Node.readItems
    dsimp only
    exact ⟨fun k hk => ((ih _ _).1 k hk).trans ((n.countRefused_frame _).1 k hk), (ih _ _).2.1.trans (n.countRefused_frame _).2.1,
      (ih _ _).2.2.trans (n.countRefused_frame _).2.2⟩

theorem pad4_length (b : Bytes) : (pad4 b).length = b.length + (4 - b.length % 4) % 4 := by
  simp [pad4]

theorem Node.valueBytes_length (n : Node) (now index : Nat) (e : Entry) (staged : Bool) : (n.valueBytes now index e staged).length = e.ty.bytes := leBytes_length ..

/-- A READ of one entry that fits (R492, R501). -/
theorem Node.readItems_one (n : Node) (now : Nat) (via : Via) (index sub : Nat) (e : Entry) (ha : n.authentic via = true ∨ openRead index sub = true)
    (hi : n.hasIndex index = true) (h0 : sub ≠ 0) (h80 : sub < 0x80) (he : Dict.entry index sub = some e) (hd : e.ty ≠ .domain) (hb : e.ty.bytes ≤ 1424) :
    (Node.readItems now via 1440 [(index, sub)] [] n).2 =
      leBytes 1 0 ++ leBytes 1 e.ty.code ++ leBytes 2 e.ty.bytes ++ pad4 (n.valueBytes now index e false) := by
  have hitem : n.readItem now via index sub = (svOk, e.ty.code, n.valueBytes now index e false) := by
    unfold Node.readItem
    rw [if_neg (by rcases ha with h | h <;> simp [h]), hi, if_neg (by decide), if_neg h0, viewedEntry, if_pos h80, he]
    dsimp only [Option.map]
    rw [if_neg hd]
  have hfits : (decide (([] : Bytes).length + 4 + (pad4 (n.valueBytes now index e false)).length + 4 * ([] : List (Nat × Nat)).length ≤ 1440)) = true := by
    rw [decide_eq_true_eq, pad4_length, Node.valueBytes_length]
    simp only [List.length_nil]
    omega
  unfold Node.readItems
  rw [hitem]
  dsimp only
  rw [hfits]
  simp [Node.readItems, Node.valueBytes_length, svOk]

/-! ### BLOCK_READ and BLOCK_WRITE (R495) -/

theorem Node.inspect_frame (n : Node) (now : Nat) (l : List Nat) : (n.inspect now l).staged = n.staged ∧ (n.inspect now l).adm = n.adm ∧
    (n.inspect now l).sec.awlUsed = n.sec.awlUsed := by
  unfold Node.inspect
  split <;> exact ⟨rfl, rfl, rfl⟩

theorem State.serveBlockRead_spec (s : State) (via : Via) (p : Bytes) (hp : p.length = 12) (h0 : fieldB p 8 2 ≠ 0) (hmost : fieldB p 8 2 ≤ 1424) :
    ∃ n, s.serveBlockRead via 1424 p = (s.put n, some (leBytes 1 (s.blockRead via (fieldB p 0 2) (fieldB p 2 1) (fieldB p 4 4) (fieldB p 8 2)).1 ++ leBytes 3 0 ++
      leBytes 4 (s.blockRead via (fieldB p 0 2) (fieldB p 2 1) (fieldB p 4 4) (fieldB p 8 2)).2.1 ++
      (s.blockRead via (fieldB p 0 2) (fieldB p 2 1) (fieldB p 4 4) (fieldB p 8 2)).2.2)) ∧ n.staged = s.node.staged ∧ n.adm = s.node.adm := by
  unfold State.serveBlockRead
  dsimp only
  rw [if_neg (show ¬(fieldB p 8 2 = 0 ∧ 1424 = 65536) from fun h => h0 h.1), if_neg (by omega)]
  obtain ⟨-, c2, c3⟩ := s.node.countRefused_frame (s.blockRead via (fieldB p 0 2) (fieldB p 2 1) (fieldB p 4 4) (fieldB p 8 2)).1
  refine ⟨_, rfl, ?_⟩
  split
  · obtain ⟨i1, i2, -⟩ := Node.inspect_frame (s.node.countRefused (s.blockRead via (fieldB p 0 2) (fieldB p 2 1) (fieldB p 4 4) (fieldB p 8 2)).1) s.clock.tick
      ((s.node.countRefused (s.blockRead via (fieldB p 0 2) (fieldB p 2 1) (fieldB p 4 4) (fieldB p 8 2)).1).tokenTenants
        (((s.node.countRefused (s.blockRead via (fieldB p 0 2) (fieldB p 2 1) (fieldB p 4 4) (fieldB p 8 2)).1).windowBase via.src + fieldB p 4 4) / 160)
        ((s.blockRead via (fieldB p 0 2) (fieldB p 2 1) (fieldB p 4 4) (fieldB p 8 2)).2.2.length / 160))
    exact ⟨i1.trans c2, i2.trans c3⟩
  · exact ⟨c2, c3⟩

/-- The first segment of a block write that no other source holds open (R495). -/
theorem Node.segment_first (n : Node) (now source key : Nat) (final : Bool) (data : Bytes)
    (hfree : ∀ x ∈ n.mgmt.blocks, x.key = key → x.source = source ∨ x.discarded = true) :
    n.segment now source key 0 final data = if final then (svOk, some data, n.dropBlock source key)
      else (svOk, none, n.putBlock { source := source, key := key, data := data, lastTick := now }) := by
  have hother : (n.mgmt.blocks.any fun x => x.key == key && x.source != source && !x.discarded) = false := by
    rw [List.any_eq_false]
    intro x hx h
    simp only [Bool.and_eq_true, beq_iff_eq, bne_iff_ne, Bool.not_eq_true'] at h
    obtain ⟨⟨hk, hs⟩, hd⟩ := h
    rcases hfree x hx hk with h | h
    · exact hs h
    · rw [h] at hd
      exact absurd hd (by decide)
  unfold Node.segment
  dsimp only
  rw [hother]
  cases n.openBlock source key with
  | none => rfl
  | some b => rfl

theorem State.serveBlockWrite_first (s : State) (via : Via) (final : Bool) (p : Bytes) (hlo : 13 ≤ p.length) (hhi : p.length ≤ 1436)
    (hlen : (p.length - 12) % 65536 = fieldB p 8 2) (hgate : s.node.blockGate via (fieldB p 0 2) (fieldB p 2 1) = svOk)
    (hfree : ∀ x ∈ s.node.mgmt.blocks, x.key = dkey (fieldB p 0 2) (fieldB p 2 1) → x.source = via.src.number ∨ x.discarded = true) (hoff : fieldB p 4 4 = 0) :
    (final = false → s.serveBlockWrite via 1424 final p = (s.put (s.node.putBlock
      { source := via.src.number, key := dkey (fieldB p 0 2) (fieldB p 2 1), data := p.drop 12, lastTick := s.clock.tick }), some [0, 0, 0, 0])) ∧
    (final = true → s.node.writeStatus via true (fieldB p 0 2) (fieldB p 2 1) (p.drop 12) = svOk → s.serveBlockWrite via 1424 final p =
      ((s.put (s.node.dropBlock via.src.number (dkey (fieldB p 0 2) (fieldB p 2 1)))).applyWrite via (fieldB p 0 2) (fieldB p 2 1) (p.drop 12), some [0, 0, 0, 0])) := by
  have hseg := s.node.segment_first s.clock.tick via.src.number (dkey (fieldB p 0 2) (fieldB p 2 1)) final (p.drop 12) hfree
  have hbad : ¬(p.length < 13 ∨ 1424 < (p.drop 12).length ∨ (p.drop 12).length % 65536 ≠ fieldB p 8 2) := by
    rw [List.length_drop]
    omega
  refine ⟨fun hf => ?_, fun hf hst => ?_⟩
  · rw [hf] at hseg ⊢
    unfold State.serveBlockWrite
    dsimp only
    rw [if_neg hbad, hgate, if_neg (by decide), hoff, hseg]
    rfl
  · rw [hf] at hseg ⊢
    have hst' : (s.node.dropBlock via.src.number (dkey (fieldB p 0 2) (fieldB p 2 1))).writeStatus via true (fieldB p 0 2) (fieldB p 2 1) (p.drop 12) = svOk := hst
    unfold State.serveBlockWrite
    dsimp only
    rw [if_neg hbad, hgate, if_neg (by decide), hoff, hseg, if_pos rfl]
    dsimp only
    rw [hst', if_pos rfl]
    rfl

/-! ### DESCRIBE and COMMIT (R496, R498) -/

theorem State.serveDescribe_spec (s : State) (p : Bytes) (hp : p.length = 4) (hi : s.node.hasIndex (fieldB p 0 2) = true) (h0 : fieldB p 2 1 ≠ 0) :
    ∃ out, s.serveDescribe p = (s, some out) ∧
      (∀ e, Dict.entry (fieldB p 0 2) (fieldB p 2 1) = some e → out = leBytes 1 0 ++ leBytes 3 0 ++ s.descriptor (fieldB p 0 2) e) ∧
      (Dict.entry (fieldB p 0 2) (fieldB p 2 1) = none → out = leBytes 1 svNoSub ++ leBytes 3 0 ++ leBytes 64 0) := by
  unfold State.serveDescribe
  dsimp only
  rw [hi, if_neg (not_not.mpr hp), if_neg (by decide), if_neg h0]
  cases he : Dict.entry (fieldB p 0 2) (fieldB p 2 1) with
  | none => exact ⟨_, rfl, nofun, fun _ => rfl⟩
  | some e =>
    refine ⟨_, rfl, fun e' h => ?_, nofun⟩
    obtain rfl := Option.some.inj h
    rfl

/-- What an ARM leaves of the registers. -/
theorem Node.armChange_reg (n : Node) (now k : Nat) (h1 : k ≠ Reg.commitState) (h2 : k ≠ Reg.armResult) (h3 : k ≠ Reg.eventSeq) :
    (n.armChange now).reg k = n.reg k := by
  by_cases hs : n.reg Reg.commitState = 2 ∨ n.reg Reg.commitState = 3
  · unfold Node.armChange
    dsimp only
    rw [if_pos hs]
  · obtain ⟨hs2, hs3⟩ := not_or.mp hs
    by_cases hf : n.armFails now = []
    · unfold Node.armChange
      dsimp only
      rw [if_neg hs]
      refine (congrArg (Node.reg · k) (if_neg (not_not.mpr hf))).trans ?_
      rw [Node.reg_setReg, if_neg h2, Node.reg_setReg, if_neg h1]
      rfl
    · rw [n.armChange_refused now hs2 hs3 hf, n.refuseChange_idle now _ (.inl hs3), Node.commitEvent, Node.reg_event, if_neg h3]
      refine (Node.reg_congr (m := (n.setReg Reg.commitState 4).setArmResult (n.armFails now)) rfl k).trans ?_
      rw [Node.reg_setArmResult, if_neg h2, Node.reg_setReg, if_neg h1]

/-- A COMMIT's ARM leaves the tick and the generation it came with (R496, R55). -/
theorem Node.commitFrame_arm (n : Node) (now gen tick : Nat) : (n.commitFrame now 1 gen tick).reg Reg.commitTick = tick ∧
    (n.commitFrame now 1 gen tick).reg Reg.genTarget = gen := by
  have he : n.commitFrame now 1 gen tick = ((n.setReg Reg.commitTick tick).setReg Reg.genTarget gen).armChange now := rfl
  have hset : ((n.setReg Reg.commitTick tick).setReg Reg.genTarget gen).reg Reg.commitTick = tick ∧
      ((n.setReg Reg.commitTick tick).setReg Reg.genTarget gen).reg Reg.genTarget = gen := by
    refine ⟨?_, (Node.reg_setReg ..).trans (if_pos rfl)⟩
    rw [Node.reg_setReg, if_neg (by decide), Node.reg_setReg, if_pos rfl]
  rw [he]
  generalize (n.setReg Reg.commitTick tick).setReg Reg.genTarget gen = m at hset
  obtain ⟨h1, h2⟩ := hset
  have hkeep := fun k h2 h3 h4 => m.armChange_reg now k h2 h3 h4
  exact ⟨(hkeep _ (by decide) (by decide) (by decide)).trans h1, (hkeep _ (by decide) (by decide) (by decide)).trans h2⟩

theorem State.serveCommit_spec (s : State) (via : Via) (p : Bytes) (hp : p.length = 16) (h0 : fieldB p 0 1 ≠ 0) (h3 : fieldB p 0 1 ≤ 3) :
    (fieldB p 2 2 = 0xFFFF ∨ (∀ x, s.node.comp.current = some x → x.group = fieldB p 2 2) →
      s.node.writeStatus via false 0x1120 2 (leBytes 1 (fieldB p 0 1)) = svOk →
      s.serveCommit via p = (s.put (s.node.commitFrame s.clock.tick (fieldB p 0 1) (fieldB p 4 4) (fieldB p 8 8)),
        some (leBytes 1 0 ++ leBytes 1 ((s.node.commitFrame s.clock.tick (fieldB p 0 1) (fieldB p 4 4) (fieldB p 8 8)).reg Reg.commitState) ++ leBytes 2 0 ++
          leBytes 4 ((s.node.commitFrame s.clock.tick (fieldB p 0 1) (fieldB p 4 4) (fieldB p 8 8)).reg Reg.armResult)))) ∧
    (∀ x, fieldB p 2 2 ≠ 0xFFFF → s.node.comp.current = some x → x.group ≠ fieldB p 2 2 → s.serveCommit via p = (s, none)) := by
  refine ⟨fun hg hst => ?_, fun x hg hx hother => ?_⟩
  · unfold State.serveCommit
    dsimp only
    rw [if_neg (by omega), if_neg, hst, if_neg (by decide)]
    intro h
    rw [Bool.and_eq_true] at h
    obtain ⟨hne, hm⟩ := h
    rcases hg with hg | hg
    · simp [hg] at hne
    · cases hx : s.node.comp.current with
      | none => simp [hx] at hm
      | some x => simp [hx, hg x hx] at hm
  · unfold State.serveCommit
    dsimp only
    rw [if_neg (by omega), hx, if_pos (by simp [hg, hother])]

/-! ### The awl's frame (R499) -/

/-- The node with the awl used (Table 16-7). -/
def Node.awlNoted (n : Node) : Node := { n with sec := { n.sec with awlUsed := true } }

/-- An access of on-die memory through the awl, of a slice that is not going (R499). -/
theorem State.awlRead_space3 (s : State) (off len : Nat) (hrun : runOk off len = true) (hs : s.node.slicesOver off SliceState.goes = []) :
    (s.awlRead 3 off len).status = svOk ∧ (s.awlRead 3 off len).data = Memory.read s.mem off len := by
  unfold State.awlRead State.awlSpace3
  dsimp only
  rw [hrun, if_neg (by decide), hs]
  exact ⟨rfl, rfl⟩

theorem State.serveAwl_spec (s : State) (via : Via) (p : Bytes) (ha : s.node.authentic via = true) (h0 : fieldB p 4 4 ≠ 0) (hmax : fieldB p 4 4 ≤ 1024)
    (hnode : fieldB p 8 8 / 2 ^ 54 = s.node.straps) (hspace : fieldB p 8 8 / 2 ^ 51 % 8 = 3) (hrun : runOk (fieldB p 8 8 % 2 ^ 51) (fieldB p 4 4) = true)
    (hs : s.node.slicesOver (fieldB p 8 8 % 2 ^ 51) SliceState.goes = []) :
    (fieldB p 0 1 = 1 → 16 ≤ p.length → ∃ t, s.serveAwl via p = (t, some (leBytes 1 0 ++ leBytes 3 0 ++ Memory.read s.mem (fieldB p 8 8 % 2 ^ 51) (fieldB p 4 4))) ∧
      t.mem = s.mem ∧ t.node.sec.awlUsed = true) ∧
    (fieldB p 0 1 = 2 → p.length = 16 + fieldB p 4 4 → ∃ t, s.serveAwl via p = (t, some (leBytes 1 0 ++ leBytes 3 0)) ∧
      t.mem = Memory.write s.mem (fieldB p 8 8 % 2 ^ 51) (p.drop 16) ∧ t.node.sec.awlUsed = true) := by
  obtain ⟨hst, hdata⟩ := (s.put s.node.awlNoted).awlRead_space3 (fieldB p 8 8 % 2 ^ 51) (fieldB p 4 4) hrun hs
  obtain ⟨hst', hdata'⟩ := s.awlRead_space3 (fieldB p 8 8 % 2 ^ 51) (fieldB p 4 4) hrun hs
  refine ⟨fun hop hlen => ?_, fun hop hlen => ?_⟩
  · refine ⟨(s.put s.node.awlNoted).put (s.node.awlNoted.inspect s.clock.tick (s.awlRead 3 (fieldB p 8 8 % 2 ^ 51) (fieldB p 4 4)).tenants), ?_, rfl,
      (Node.inspect_frame _ _ _).2.2⟩
    unfold State.serveAwl
    dsimp only
    rw [ha, if_neg (by decide), if_neg (by omega), if_neg (by rw [hnode]; omega), if_pos hop, hspace, hst', hdata', if_pos rfl]
    rfl
  · have hwrite : (s.put s.node.awlNoted).awlWrite 3 (fieldB p 8 8 % 2 ^ 51) (p.drop 16) =
        (svOk, { s.put s.node.awlNoted with mem := Memory.write s.mem (fieldB p 8 8 % 2 ^ 51) (p.drop 16) }) := by
      have hl : (p.drop 16).length = fieldB p 4 4 := by rw [List.length_drop]; omega
      unfold State.awlWrite
      dsimp only
      rw [hl, hst, if_neg (by decide), if_pos (show (s.put s.node.awlNoted).node.slicesOver _ _ = [] from hs)]
      rfl
    refine ⟨{ s.put (s.node.awlNoted.inspect s.clock.tick (s.awlRead 3 (fieldB p 8 8 % 2 ^ 51) (fieldB p 4 4)).tenants) with
      mem := Memory.write s.mem (fieldB p 8 8 % 2 ^ 51) (p.drop 16) }, ?_, rfl, (Node.inspect_frame _ _ _).2.2⟩
    unfold State.serveAwl
    dsimp only
    rw [ha, if_neg (by decide), if_neg (by omega), if_neg (by rw [hnode]; omega), if_neg (by omega), hspace]
    rw [show ∀ n : Node, { n with sec := { n.sec with awlUsed := true } } = n.awlNoted from fun _ => rfl, hwrite, if_pos rfl]
    rfl

/-! ### Frames for other stations (R484) -/

/-- A frame that goes on leaves the entries and the requests, and is queued behind what waits. -/
theorem Node.ringOut_spec (n : Node) (x : RingOut) (hr : n.ringState x.ring ≠ 2) : (n.ringOut x).mgmt.out = n.mgmt.out ++ [x] ∧ (n.ringOut x).regs = n.regs ∧
    (n.ringOut x).adm = n.adm := by
  unfold Node.ringOut
  rw [if_neg hr]
  dsimp only
  split <;> split <;> exact ⟨rfl, rfl, rfl⟩

theorem Node.ringOut_straps (n : Node) (x : RingOut) : (n.ringOut x).straps = n.straps := by
  unfold Node.ringOut
  split
  · rfl
  · dsimp only
    split <;> split <;> rfl

theorem State.ringIn_onward (s : State) (r : Nat) (frame : Bytes) (f : Voxley) (hr : s.node.ringState r ≠ 2) (hs : voxleySound frame = true)
    (hf : voxleyOf frame = some f) (hsrc : f.src ≠ s.node.straps) (hk : knownVtype f.vtype = true) (hh : f.hops ≠ 0) (hd : f.dst ≠ s.node.straps) (ha : f.dst ≠ 0xFFFF)
    (he : (s.node.ringUnit r).eastUp = true) (hw : (s.node.ringUnit r).westUp = true) :
    s.ringIn r frame = s.put ((s.node.frameCounted r).ringOut (f.onward r frame (s.node.onwardPort r))) := by
  have hst : ((s.node.frameCounted r).ringOut (f.onward r frame (s.node.onwardPort r))).straps = s.node.straps :=
    (Node.ringOut_straps _ _).trans rfl
  have hon : (f.dst != s.node.straps && (s.node.ringUnit r).eastUp && (s.node.ringUnit r).westUp) = true := by simp [hd, he, hw]
  rw [State.ringIn_sound s _ _ f hr hs hf, if_neg hsrc, hk, if_neg (by decide), if_neg hh]
  dsimp only
  rw [hon, if_pos (show true = true from rfl), hst, if_neg (not_or.mpr ⟨hd, ha⟩)]

/-! ### The obligation -/

theorem Node.authentic_noteAwl (n : Node) (via v : Via) : (n.noteAwl via).authentic v = n.authentic v := by
  obtain ⟨c, h⟩ := n.noteAwl_eq via
  rw [h]
  rfl

theorem Node.slicesOver_noteAwl (n : Node) (via : Via) (off : Nat) (g : SliceState → Bool) : (n.noteAwl via).slicesOver off g = n.slicesOver off g := by
  obtain ⟨c, h⟩ := n.noteAwl_eq via
  rw [h]
  rfl

/-- A DISCOVER uses no awl (Table 16-7). -/
theorem Node.noteAwl_off (n : Node) (ring : Ring) (f : Voxley) : n.noteAwl { f.via ring with awl := false } = n := by
  unfold Node.noteAwl
  cases ring <;> simp [Via.throughAwl, Voxley.via]

/-- A service of a frame that this node hears, where no response leaves (R496). -/
theorem State.ringRow_silent (s t : State) (ring : Ring) (frame : Bytes) (vtype : Nat) (f : Voxley) (p : Bytes) (h : s.hears ring frame vtype f p)
    (hk : knownVtype vtype = true) (h1 : vtype ≠ 1) (h2 : vtype ≠ 2) (h20 : vtype ≠ 0x20)
    (hgo : State.service (f.via ring) vtype f.flags 1440 1424 p (s.withNode ((s.node.frameCounted (ringNum ring)).noteAwl (f.via ring))) = (t, none)) :
    s.ringRow ring frame vtype = .next t := by
  have hserve := State.serve_fresh (s.withNode (s.node.frameCounted (ringNum ring))) (f.via ring) vtype (State.service (f.via ring) vtype f.flags 1440 1424 p)
    (Node.ringSource_reachable _ ring f h.2.1) h.2.2.2.2.2.2.2.2.2
  have hgo' : State.service (f.via ring) vtype f.flags 1440 1424 p ((s.withNode (s.node.frameCounted (ringNum ring))).put
    ((s.withNode (s.node.frameCounted (ringNum ring))).node.noteAwl (f.via ring))) = (t, none) := hgo
  rw [s.ringRow_serve ring frame vtype f p h hk h1 h2 h20, hserve, hgo']
  rfl

/-- A WRITE of one item is a write of that entry (R492, R493). -/
theorem State.serveWrite_one (s : State) (via : Via) (p : Bytes) (i j : Nat) (v : Bytes) (h : writeTriples 32 p = some [(i, j, v)]) :
    s.serveWrite via p = match s.writeItem via i j v with
      | (t, some st) => (t, some [BitVec.ofNat 8 st, 0, 0, 0])
      | (t, none) => (t, none) := by
  unfold State.serveWrite
  rw [h]
  dsimp only
  unfold State.writeItems
  rcases s.writeItem via i j v with ⟨t, _ | st⟩ <;> rfl

/-- Settles O58: each service of a frame that this node hears, with what it changes and what it answers; a frame for another station goes on. That the station
index of a DISCOVER is 129 - HOPS is log entry 107's choice, the layout of the AWL response log entry 108's, and that a COMMIT of another group is not
answered log entry 23's. -/
theorem ringServices : Obligations.RingServices := by
  unfold Obligations.RingServices
  intro ring frame f p s now via c0 m sm index sub
  have hreg : ∀ k, m.reg k = s.node.reg k := fun k => Node.reg_congr (Node.noteAwl_regs _ _) k
  have hregs : m.regs = s.node.regs := Node.noteAwl_regs _ _
  have hstaged : m.staged = s.node.staged := Node.noteAwl_staged _ _
  have hadm : m.adm = s.node.adm := Node.noteAwl_adm _ _
  refine ⟨fun h items hi => ?_, fun h i j v hw hi hj => ?_, fun h => ?_, fun h hlen h0 hmost => ?_, fun h hlo hhi hlen hgate hfree hoff => ⟨fun hf => ?_, fun hf hst => ?_⟩,
    fun h hlen hidx h0 => ?_, fun h hlen h0 h3 => ⟨fun hg hst => ?_, fun x hg hx ho => ?_⟩, fun h ha h0 hmax hnode hspace => ?_, ?_, fun h => ?_⟩
  · have hgo : State.service via 0x10 f.flags 1440 1424 p sm = (sm.put (Node.readItems now via 1440 items [] m).1, some (Node.readItems now via 1440 items [] m).2) := by
      show State.serveRead via 1440 p sm = _
      unfold State.serveRead
      rw [hi]
      rfl
    obtain ⟨r1, r2, r3⟩ := Node.readItems_frame now via 1440 items [] m
    refine s.answers_of _ ring frame 0x10 f p _ _ h (by decide) (by decide) (by decide) (by decide) rfl hgo
      ⟨rfl, fun k hk => (r1 k hk).trans (hreg k), r2.trans hstaged, r3.trans hadm, rfl, fun e he ha hidx h0 h80 hent hd hb => ?_⟩
    rw [he]
    exact m.readItems_one now via index sub e (ha.imp (fun ha => (Node.authentic_noteAwl _ _ _).trans ha) id) hidx h0 h80 hent hd hb
  · show s.ringRow ring frame 0x11 = execObjectWrite via (BitVec.ofNat 16 i) (BitVec.ofNat 8 j) v (s.withNode c0)
    rw [s.ringRow_serve ring frame 0x11 f p h (by decide) (by decide) (by decide) (by decide)]
    unfold execObjectWrite
    refine congrArg (fun go => Host.Outcome.next ((s.withNode c0).serve via 0x11 go)) (funext fun t => ?_)
    rw [BitVec.toNat_ofNat, BitVec.toNat_ofNat, Nat.mod_eq_of_lt hi, Nat.mod_eq_of_lt hj]
    exact t.serveWrite_one via p i j v hw
  · refine ⟨s.withNode c0, _, ?_, rfl, rfl⟩
    show s.ringRow ring frame 0x01 = _
    have hrow := s.ringRow_hears ring frame 0x01 f p h (by decide)
    obtain ⟨hv, hr, -, hf, -, -, -, hp, hresp, hfresh⟩ := h
    refine hrow.trans ((congrArg Host.Outcome.next (((s.withNode c0).consume_discover ring f p hp hresp ((voxleyOf_vtype _ _ hf).trans hv)).trans
      (State.serve_fresh (s.withNode c0) { f.via ring with awl := false } 1 _ (c0.ringSource_reachable ring f hr) hfresh))).trans ?_)
    rw [show (s.withNode c0).node.noteAwl { f.via ring with awl := false } = c0 from c0.noteAwl_off ring f]
    rfl
  · obtain ⟨n, hn, h1, h2⟩ := sm.serveBlockRead_spec via p hlen h0 hmost
    exact s.answers_of _ ring frame 0x12 f p _ _ h (by decide) (by decide) (by decide) (by decide) rfl hn ⟨rfl, h1.trans hstaged, h2.trans hadm, rfl⟩
  · have hgo := (sm.serveBlockWrite_first via (bitOf f.flags 2) p hlo hhi hlen hgate (by rw [show sm.node.mgmt = c0.mgmt from Node.noteAwl_mgmt _ _]; exact hfree) hoff).1 hf
    refine s.answers_of _ ring frame 0x13 f p _ _ h (by decide) (by decide) (by decide) (by decide) rfl hgo ⟨rfl, hregs, rfl, ?_⟩
    exact List.mem_append_right _ (List.mem_singleton.mpr rfl)
  · have hgo := (sm.serveBlockWrite_first via (bitOf f.flags 2) p hlo hhi hlen hgate (by rw [show sm.node.mgmt = c0.mgmt from Node.noteAwl_mgmt _ _]; exact hfree) hoff).2 hf hst
    exact s.answers_of _ ring frame 0x13 f p _ _ h (by decide) (by decide) (by decide) (by decide) rfl hgo ⟨rfl, rfl⟩
  · obtain ⟨out, hgo, h1, h2⟩ := sm.serveDescribe_spec p hlen hidx h0
    exact s.answers_of _ ring frame 0x14 f p _ _ h (by decide) (by decide) (by decide) (by decide) rfl hgo ⟨rfl, h1, h2⟩
  · have hgo := (sm.serveCommit_spec via p hlen h0 h3).1 (by rw [show sm.node.comp = s.node.comp from Node.noteAwl_comp _ _]; exact hg) hst
    refine s.answers_of _ ring frame 0x18 f p _ _ h (by decide) (by decide) (by decide) (by decide) rfl hgo ⟨rfl, fun h1 => ?_, rfl⟩
    rw [h1]
    exact m.commitFrame_arm now _ _
  · have hgo := (sm.serveCommit_spec via p hlen h0 h3).2 x hg (by rw [show sm.node.comp = s.node.comp from Node.noteAwl_comp _ _]; exact hx) ho
    exact s.ringRow_silent _ ring frame 0x18 f p h (by decide) (by decide) (by decide) (by decide) hgo
  · intro off len hrun hs
    obtain ⟨hread, hwrite⟩ := sm.serveAwl_spec via p ((Node.authentic_noteAwl _ _ _).trans ha) h0 hmax
      (hnode.trans ((Node.noteAwl_straps c0 via).trans rfl).symm) hspace hrun ((Node.slicesOver_noteAwl _ _ _ _).trans hs)
    refine ⟨fun hop hlen => ?_, fun hop hlen => ?_⟩
    · obtain ⟨t, hgo, hmem, hu⟩ := hread hop hlen
      exact s.answers_of _ ring frame 0x40 f p _ _ h (by decide) (by decide) (by decide) (by decide) rfl hgo ⟨hmem, hu, rfl⟩
    · obtain ⟨t, hgo, hmem, hu⟩ := hwrite hop hlen
      have hl : (p.drop 16).length = len := by rw [List.length_drop]; omega
      obtain ⟨hin, hout⟩ := Memory.write_spec s.mem off (p.drop 16)
      refine s.answers_of _ ring frame 0x40 f p _ _ h (by decide) (by decide) (by decide) (by decide) rfl hgo ⟨hu, rfl, fun i hi => ?_, fun a ha => ?_⟩
      · rw [hmem]
        refine (hin i (by omega)).trans ?_
        simp [List.getD_eq_getElem?_getD, List.getElem?_drop]
      · rw [hmem]
        exact hout a (by omega)
  · intro hr hsound hf hsrc hk hh hd ha he hw
    obtain ⟨hout, hregs', hadm'⟩ := c0.ringOut_spec (f.onward (ringNum ring) frame (s.node.onwardPort (ringNum ring))) hr
    refine ⟨_, _, congrArg Host.Outcome.next (s.ringIn_onward (ringNum ring) frame f hr hsound hf hsrc hk hh hd ha he hw), hout, rfl, rfl, ?_, hregs', hadm'⟩
    exact Nat.succ_pred_eq_of_ne_zero hh
  · show s.ringRow ring frame 0x10 = _
    unfold State.ringRow
    rcases h with h | h
    · have hlost : s.ringIn (ringNum ring) frame = s := by
        unfold State.ringIn
        rw [if_pos h]
      rw [hlost, ite_self]
    · rw [if_neg h]

end Sys2Proof.Machine
end

section
/-!
TICK_BOUNDARY and ROUND_BOUNDARY (R43, R47, R61): O27.
-/

namespace Sys2Proof.Machine

/-- A node at tick 4,000, the boundary of round 2, that holds a pending value of 1,000 for ROUND_LEN. -/
def pendingRoundLen : State :=
  { State.reset with clock := { State.reset.clock with tick := 4000 }, node := { State.reset.node with nextRound := [(Reg.roundLen, 1000)] } }

/-- The round that the power unit notes after a step. -/
def roundNoted : Host.Outcome State Fault Refusal → Nat
  | .next t => t.node.power.round
  | _ => 0

/-- The pending length has taken effect by the time the round is noted: tick 4,000 is the boundary of round 4 of that length. -/
theorem roundNoted_pendingRoundLen : roundNoted (exec .roundBoundary pendingRoundLen) = 4 := rfl

/-- Refutes O27: the statement admits any pending value, and one for ROUND_LEN, which no command places there, takes effect before the round is noted; at tick
4,000 with 1,000 pending in place of 2,000 the node notes round 4, where the count of the round that begins was 2. -/
theorem not_boundaries : ¬ Obligations.Boundaries := by
  unfold Obligations.Boundaries
  intro h
  obtain ⟨-, hround, -⟩ := h ⟨0, 0, 0, 0, 0, 0⟩ pendingRoundLen
  obtain ⟨t, he, -, -, -, hnoted, -⟩ := hround (by decide) (by decide)
  have h4 := roundNoted_pendingRoundLen
  rw [he] at h4
  have h2 : pendingRoundLen.node.roundAt pendingRoundLen.clock.tick = 2 := by decide
  exact absurd (h4.symm.trans (hnoted.trans h2)) (by decide)

end Sys2Proof.Machine
end

section
/-!
Round headers, HOLD, rejoin and disputes (R408 to R412): O53.
-/

namespace Sys2Proof.Machine

/-! ### Round headers (R408) -/

/-- The node with the header of a member kept. -/
def Node.headerKept (n : Node) (node : Nat) (p : PeerHeader) : Node :=
  { n with comp := { n.comp with headers := Map.put n.comp.headers node p, silent := n.comp.silent.filter fun x => x != node } }

theorem Node.headerReceive_split (n : Node) (now : Nat) (h : Bytes) (hlen : h.length = 80) (hver : fieldB h 0 1 = 1) (hnode : fieldB h 2 2 % 1024 ≠ n.straps)
    (hin : n.inRounds = true) (hc : n.time.counted = true) (hs : n.headerSplit now h = true) : n.headerReceive now h = n.leaveRounds now 2 := by
  unfold Node.headerReceive
  dsimp only
  rw [if_neg (by simp [hlen, hver, hnode, hin]), if_pos (by simp [hc, hs])]

/-- The first header of a member in time: kept, and its digest compared (R408). -/
theorem Node.headerReceive_kept (n : Node) (now : Nat) (h : Bytes) (hlen : h.length = 80) (hver : fieldB h 0 1 = 1) (hnode : fieldB h 2 2 % 1024 ≠ n.straps)
    (hin : n.inRounds = true) (hs : (n.time.counted && n.headerSplit now h) = false) (hm : fieldB h 2 2 % 1024 ∈ n.members)
    (hnew : Map.find n.comp.headers (fieldB h 2 2 % 1024) = none) (hround : fieldB h 16 8 = n.roundAt (now - 1))
    (hwait : n.offset (now - 1) ≤ n.reg Reg.headerWait) : n.headerReceive now h =
      if sliceB h 40 32 == n.digest then
        n.headerKept (fieldB h 2 2 % 1024) { raw := h, tick := now, round := n.roundAt (now - 1), matched := sliceB h 40 32 == n.digest }
      else ((n.headerKept (fieldB h 2 2 % 1024) { raw := h, tick := now, round := n.roundAt (now - 1), matched := sliceB h 40 32 == n.digest }).bump
        Reg.digestMismatches).setReg Reg.groupState 1 := by
  unfold Node.headerReceive
  dsimp only
  rw [if_neg (by simp [hlen, hver, hnode, hin]), hs, if_neg (by decide), if_neg (by simp [hm]), hnew, if_neg (by simp [hround, Nat.not_lt.mpr hwait])]
  rfl

theorem Node.headerKept_spec (n : Node) (node : Nat) (p : PeerHeader) : Map.find (n.headerKept node p).comp.headers node = some p ∧
    node ∉ (n.headerKept node p).comp.silent := by
  refine ⟨?_, fun h => ?_⟩
  · unfold Node.headerKept
    rw [Map.find_put, if_pos rfl]
  · simpa using (List.mem_filter.mp h).2

/-- Reporting members as silent makes them so, and leaves the others that are. -/
theorem Node.silent_foldl (l : List Nat) (n : Node) :
    ((n.foldl l fun n x => { n with comp := { n.comp with silent := n.comp.silent ++ [x] } }.event 0x0032 (leBytes 2 x)).comp.silent) = n.comp.silent ++ l := by
  induction l generalizing n with
  | nil => exact (List.append_nil _).symm
  | cons x t ih =>
    refine (ih _).trans ?_
    rw [Node.event_comp, List.append_assoc]
    rfl

theorem Node.headerWaitExpiry_spec (n : Node) (now : Nat) (hin : n.inRounds = true) (hbase : n.reg Reg.roundBase ≤ now) (hw : n.reg Reg.headerWait < n.offset now) :
    (∀ x ∈ n.comp.silent, x ∈ (n.headerWaitExpiry now).comp.silent) ∧
    ∀ x ∈ n.members, (∀ p, Map.find n.comp.headers x = some p → p.round ≠ n.roundAt now) → x ∈ (n.headerWaitExpiry now).comp.silent := by
  unfold Node.headerWaitExpiry
  rw [if_neg (by simp [hin, Nat.not_lt.mpr hbase, hw])]
  dsimp only
  rw [Node.silent_foldl]
  refine ⟨fun x hx => List.mem_append_left _ hx, fun x hx hno => ?_⟩
  by_cases hs : x ∈ n.comp.silent
  · exact List.mem_append_left _ hs
  · refine List.mem_append_right _ (List.mem_filter.mpr ⟨List.mem_filter.mpr ⟨hx, ?_⟩, by simp [hs]⟩)
    cases hf : Map.find n.comp.headers x with
    | none => rfl
    | some p => simpa using hno p hf

/-! ### Return to rounds (R410) -/

theorem Node.rejoin_ok (n : Node) (hin : n.inRounds = false) (hr : n.rejoinInput.isSome = true) :
    n.rejoin 1 = { n with comp := { n.comp with rejoinPending := true } } := by
  unfold Node.rejoin
  rw [if_neg (by decide), hin, hr, if_pos (by decide)]

theorem Node.rejoin_refused (n : Node) (h : n.inRounds = true ∨ n.rejoinInput = none) : n.rejoin 1 = n.bump32 Reg.rejoinRefused := by
  unfold Node.rejoin
  rw [if_neg (by decide), if_neg (by rcases h with h | h <;> simp [h])]

/-! ### Settling a dispute (R412) -/

theorem Node.seqs_removePageNode (n : Node) (p : Nat) : (n.removePageNode p).seqs.seqs = n.seqs.seqs := by
  unfold Node.removePageNode
  split
  · rfl
  · unfold Node.removeNodes
    dsimp only
    split <;> rfl

theorem Node.seqs_stopPacker (n : Node) (p : Nat) : (n.stopPacker p).seqs.seqs = n.seqs.seqs := by
  unfold Node.stopPacker
  dsimp only
  split <;> rfl

/-- A reference given up leaves the sequences (R149). -/
theorem Node.seqs_releaseRef (n : Node) (p : Nat) : (n.releaseRef p).seqs.seqs = n.seqs.seqs := by
  unfold Node.releaseRef
  dsimp only
  split
  · have h := (Node.seqs_stopPacker ((n.setPage p { n.page p with ref := (n.page p).ref - 1 }).removePageNode p) p).trans (Node.seqs_removePageNode _ p)
    generalize ((n.setPage p { n.page p with ref := (n.page p).ref - 1 }).removePageNode p).stopPacker p = m at h ⊢
    exact h
  · rfl

theorem Node.seqs_dropPage (n : Node) (p : Nat) : (n.dropPage p).seqs.seqs = n.seqs.seqs := by
  unfold Node.dropPage Node.freePageSlots
  dsimp only
  cases (n.page p).t1 <;> cases (n.page p).slow <;> rfl

/-- Undoing leaves the losses reported. -/
theorem Node.losses_undoes {n m : Node} (h : n.Undoes m) : m.rcv.losses = n.rcv.losses := by
  have hc := congrArg (fun x : Node => x.rcv.losses) h.core_eq
  exact hc

theorem Node.sequenceReply_frame (n : Node) (now status detail node id session host info : Nat) :
    (n.sequenceReply now status detail node id session host info).seqs = n.seqs ∧ (n.sequenceReply now status detail node id session host info).rcv = n.rcv := by
  unfold Node.sequenceReply
  split
  · exact ⟨rfl, rfl⟩
  · split <;> exact ⟨rfl, rfl⟩

theorem Node.lossReport_spec (n : Node) (now id session node host reason : Nat) : (n.lossReport now id session node host reason).seqs = n.seqs ∧
    ({ seqId := id, session := session, node := node, host := host, reason := reason, tick := now } : LossRec) ∈
      (n.lossReport now id session node host reason).rcv.losses := by
  unfold Node.lossReport
  dsimp only
  refine ⟨(Node.sequenceReply_frame ..).1, ?_⟩
  rw [(Node.sequenceReply_frame ..).2]
  exact List.mem_append_right _ (List.mem_singleton.mpr rfl)

/-- A sequence that is lost (R462). -/
theorem Node.loseSeq_spec (n : Node) (now k reason : Nat) (h0 : (n.seq k).state ≠ .free) (h1 : (n.seq k).state ≠ .lost) :
    ((n.loseSeq now k reason).seq k).state = .lost ∧ ∃ r ∈ (n.loseSeq now k reason).rcv.losses, r.seqId = (n.seq k).id ∧ r.reason = reason ∧ r.tick = now := by
  unfold Node.loseSeq
  dsimp only
  rw [if_neg (by simp [h0, h1])]
  obtain ⟨hs, hl⟩ := Node.lossReport_spec (((n.endAll now stSeqLost 0 false fun a => a.names k).setSeq k
    { (n.endAll now stSeqLost 0 false fun a => a.names k).seq k with state := .lost, publish := none })) now (n.seq k).id (n.seq k).session
    ((n.endAll now stSeqLost 0 false fun a => a.names k).setSeq k
      { (n.endAll now stSeqLost 0 false fun a => a.names k).seq k with state := .lost, publish := none }).straps
    (Map.get 0xFFFF ((n.endAll now stSeqLost 0 false fun a => a.names k).setSeq k
      { (n.endAll now stSeqLost 0 false fun a => a.names k).seq k with state := .lost, publish := none }).links.replyDst (n.seq k).session) reason
  refine ⟨?_, _, hl, rfl, rfl, rfl⟩
  rw [Node.seq, hs, Node.setSeq, Map.get_set, if_pos rfl]

/-- DROP: the sequence is LOST, without pages (R412). -/
theorem Node.quarantineDrop_spec (n : Node) (now k : Nat) (hq : (n.seq k).state = .quarantined) :
    ((n.quarantineDrop now k).seq k).state = .lost ∧ (∀ t ∈ ((n.quarantineDrop now k).seq k).tracks, t.pages = [] ∧ t.spare = none) ∧
    ∃ r ∈ (n.quarantineDrop now k).rcv.losses, r.seqId = (n.seq k).id ∧ r.reason = 1 ∧ r.tick = now := by
  obtain ⟨hstate, hloss⟩ := n.loseSeq_spec now k 1 (by rw [hq]; nofun) (by rw [hq]; nofun)
  unfold Node.quarantineDrop
  dsimp only
  generalize n.loseSeq now k 1 = m at hstate hloss
  generalize (n.seq k).tracks.flatMap (fun t => t.pages) = ps
  generalize (n.seq k).tracks.filterMap (fun t => t.spare) = spares
  have hu : m.Undoes ((m.foldl ps fun n p => n.releaseRef p).foldl spares fun n p => n.dropPage p) :=
    (Node.Keeps.foldl Node.undoes_releaseRef ps m).trans (.foldl Node.undoes_dropPage spares _)
  have hs : ((m.foldl ps fun n p => n.releaseRef p).foldl spares fun n p => n.dropPage p).seqs.seqs = m.seqs.seqs :=
    (Node.foldl_keeps (fun x => x.seqs.seqs) spares (fun n p => n.dropPage p) Node.seqs_dropPage _).trans
      (Node.foldl_keeps (fun x => x.seqs.seqs) ps (fun n p => n.releaseRef p) Node.seqs_releaseRef _)
  have hl := Node.losses_undoes hu
  generalize (m.foldl ps fun n p => n.releaseRef p).foldl spares (fun n p => n.dropPage p) = d at hs hl
  have hseq : d.seq k = m.seq k := by rw [Node.seq, hs]; rfl
  rw [Node.seq, Node.setSeq, Map.get_set, if_pos rfl]
  refine ⟨(congrArg Seq.state hseq).trans hstate, fun t ht => ?_, hl ▸ hloss⟩
  obtain ⟨x, -, rfl⟩ := List.mem_map.mp ht
  exact ⟨rfl, rfl⟩

/-- A page back in the state it had before the dispute. -/
def Page.settled (d : Page) : Page := { d with state := d.prior, prior := .free, replicated := false }

theorem Node.page_setPage (n : Node) (p q : Nat) (d : Page) : (n.setPage p d).page q = if q = p then d else n.page q := Map.get_set ..

/-- Settling pages once each settles those and no others, and leaves the sequences. -/
theorem Node.settlePages_spec (ps : List Nat) (n : Node) (hn : ps.Nodup) :
    (∀ p ∈ ps, (n.foldl ps fun n p => n.setPage p (n.page p).settled).page p = (n.page p).settled) ∧
    (∀ p, p ∉ ps → (n.foldl ps fun n p => n.setPage p (n.page p).settled).page p = n.page p) ∧
    (n.foldl ps fun n p => n.setPage p (n.page p).settled).seqs.seqs = n.seqs.seqs := by
  induction ps generalizing n with
  | nil => exact ⟨nofun, fun _ _ => rfl, rfl⟩
  | cons x t ih =>
    obtain ⟨hx, ht⟩ := List.nodup_cons.mp hn
    obtain ⟨h1, h2, h3⟩ := ih (n.setPage x (n.page x).settled) ht
    refine ⟨fun p hp => ?_, fun p hp => ?_, h3⟩
    · rcases List.mem_cons.mp hp with rfl | hp
      · exact (h2 _ hx).trans ((n.page_setPage ..).trans (if_pos rfl))
      · refine (h1 p hp).trans (congrArg Page.settled ((n.page_setPage ..).trans (if_neg fun e : p = x => hx (e ▸ hp))))
    · obtain ⟨hne, hpt⟩ := not_or.mp (fun h => hp (List.mem_cons.mpr h))
      exact (h2 p hpt).trans ((n.page_setPage ..).trans (if_neg hne))

/-- A sequence open, or without a page in dispute. -/
def Node.Settles (n : Node) (k : Nat) : Prop :=
  (n.seq k).state = .opened ∨ ((n.seq k).state = .quarantined ∧ ((n.seq k).tracks.any fun t => t.pages.any fun p => (n.page p).state == .quarantined) = false)

theorem Node.settleSeq_page (n : Node) (j p : Nat) : (n.settleSeq j).page p = n.page p := by
  unfold Node.settleSeq
  dsimp only
  split <;> rfl

theorem Node.seq_setSeq (n : Node) (j k : Nat) (q : Seq) : (n.setSeq j q).seq k = if k = j then q else n.seq k := Map.get_set ..

theorem Node.settleSeq_same {n : Node} {k : Nat} (h : n.Settles k) : ((n.settleSeq k).seq k).state = .opened := by
  unfold Node.settleSeq
  dsimp only
  rcases h with h | ⟨h, hp⟩
  · rw [if_neg (by rw [h]; rintro ⟨h, -⟩; exact nomatch h)]
    exact h
  · rw [if_pos ⟨h, by rw [hp]; rfl⟩, Node.seq_setSeq, if_pos rfl]

theorem Node.settleSeq_settles {n : Node} {k : Nat} (j : Nat) (h : n.Settles k) : (n.settleSeq j).Settles k := by
  by_cases hj : k = j
  · exact .inl (hj ▸ Node.settleSeq_same (hj ▸ h))
  · have hseq : (n.settleSeq j).seq k = n.seq k := by
      unfold Node.settleSeq
      dsimp only
      split
      · rw [Node.seq_setSeq, if_neg hj]
      · rfl
    unfold Node.Settles
    rw [hseq]
    simp only [Node.settleSeq_page]
    exact h

/-- Settling a list of sequences opens one that is among them and has no page in dispute. -/
theorem Node.settle_opens (l : List Nat) (n : Node) (k : Nat) (h : n.Settles k) : (n.foldl l Node.settleSeq).Settles k ∧
    (k ∈ l → ((n.foldl l Node.settleSeq).seq k).state = .opened) ∧ ∀ p, (n.foldl l Node.settleSeq).page p = n.page p := by
  have hopen : ∀ (l : List Nat) (n : Node), (n.seq k).state = .opened → ((n.foldl l Node.settleSeq).seq k).state = .opened := fun l => by
    induction l with
    | nil => exact fun _ h => h
    | cons x t ih =>
      intro n h
      refine ih _ ?_
      by_cases hx : k = x
      · exact hx ▸ Node.settleSeq_same (.inl (hx ▸ h))
      · unfold Node.settleSeq
        dsimp only
        split
        · rw [Node.seq_setSeq, if_neg hx]
          exact h
        · exact h
  induction l generalizing n with
  | nil => exact ⟨h, nofun, fun _ => rfl⟩
  | cons x t ih =>
    obtain ⟨h1, h2, h3⟩ := ih (n.settleSeq x) (Node.settleSeq_settles x h)
    refine ⟨h1, fun hk => ?_, fun p => (h3 p).trans (n.settleSeq_page x p)⟩
    rcases List.mem_cons.mp hk with rfl | hk
    · exact hopen t _ (Node.settleSeq_same h)
    · exact h2 hk

/-- KEEP: the sequence is open again, its pages in the states they had (R412). -/
theorem Node.quarantineKeep_spec (n : Node) (k : Nat) (hq : (n.seq k).state = .quarantined) (hn : (n.disputed k).Nodup) (hne : n.disputed k ≠ [])
    (hp : ∀ p ∈ n.disputed k, (n.page p).prior ≠ .quarantined) :
    ((n.quarantineKeep k).seq k).state = .opened ∧
    ∀ p ∈ n.disputed k, ((n.quarantineKeep k).page p).state = (n.page p).prior ∧ ((n.quarantineKeep k).page p).replicated = false := by
  obtain ⟨h1, h2, h3⟩ := Node.settlePages_spec (n.disputed k) n hn
  have he : n.quarantineKeep k = (n.foldl (n.disputed k) fun n p => n.setPage p (n.page p).settled).foldl
      ((n.disputed k).flatMap (n.foldl (n.disputed k) fun n p => n.setPage p (n.page p).settled).seqsWith) Node.settleSeq := rfl
  rw [he]
  generalize hm : (n.foldl (n.disputed k) fun n p => n.setPage p (n.page p).settled) = m at h1 h2 h3
  have hseq : m.seq k = n.seq k := by rw [Node.seq, h3]; rfl
  have hset : m.Settles k := by
    refine .inr ⟨by rw [hseq, hq], ?_⟩
    rw [hseq, List.any_eq_false]
    intro t ht hany
    obtain ⟨p, hpt, hps⟩ := List.any_eq_true.mp hany
    by_cases hd : p ∈ n.disputed k
    · rw [h1 p hd] at hps
      exact hp p hd (by simpa [Page.settled] using hps)
    · rw [h2 p hd] at hps
      exact hd (List.mem_filter.mpr ⟨List.mem_flatMap.mpr ⟨t, ht, hpt⟩, hps⟩)
  obtain ⟨-, hopen, hpage⟩ := Node.settle_opens ((n.disputed k).flatMap m.seqsWith) m k hset
  refine ⟨hopen ?_, fun p hd => ?_⟩
  · obtain ⟨p, hd⟩ := List.exists_mem_of_ne_nil _ hne
    obtain ⟨hmem, -⟩ := List.mem_filter.mp hd
    obtain ⟨t, ht, hpt⟩ := List.mem_flatMap.mp hmem
    have hent : (k, m.seq k) ∈ m.seqs.seqs := (Map.get_mem ({} : Seq) m.seqs.seqs k).resolve_left fun h => by
      have hdef : (n.seq k).state = ({} : Seq).state := by rw [← hseq]; exact congrArg Seq.state h
      rw [hq] at hdef
      exact nomatch hdef
    refine List.mem_flatMap.mpr ⟨p, hd, List.mem_map.mpr ⟨_, List.mem_filter.mpr ⟨hent, ?_⟩, rfl⟩⟩
    rw [hseq]
    exact List.any_eq_true.mpr ⟨t, ht, by simpa using hpt⟩
  · rw [hpage, h1 p hd]
    exact ⟨rfl, rfl⟩

theorem Node.quarantineCmd_eq (n : Node) (now : Nat) (v : Bytes) (hq : (n.seq (seqLocal (fieldB v 2 6))).state = .quarantined)
    (hid : (n.seq (seqLocal (fieldB v 2 6))).id = fieldB v 2 6) :
    (fieldB v 0 1 = 1 → n.quarantineCmd now v = n.quarantineKeep (seqLocal (fieldB v 2 6))) ∧
    (fieldB v 0 1 = 2 → n.quarantineCmd now v = n.quarantineYield now (seqLocal (fieldB v 2 6))) ∧
    (fieldB v 0 1 = 3 → n.quarantineCmd now v = n.quarantineDrop now (seqLocal (fieldB v 2 6))) := by
  unfold Node.quarantineCmd
  dsimp only
  rw [if_neg (by simp [hq, hid])]
  refine ⟨fun h => if_pos h, fun h => ?_, fun h => ?_⟩
  · rw [if_neg (by omega), if_pos h]
  · rw [if_neg (by omega), if_neg (by omega), if_pos h]

/-! ### The obligation -/

/-- Settles O53: a header splits the time or is kept and compared, silent members are reported, and HOLD_STOP, REJOIN and the three ways to settle a dispute act
as R409 to R412 have them. The bytes of the YIELD message are log entry 78's choice, when a header splits the time log entry 81's, and the number of the cause
log entry 37's. -/
theorem groupAndDisputes : Obligations.GroupAndDisputes := by
  unfold Obligations.GroupAndDisputes
  intro s n0 now
  refine ⟨?_, fun hin hbase hw => ?_, fun via v => ?_, fun via v => ?_, ?_, ?_, ?_⟩
  · intro h node hears
    refine ⟨?_, ?_⟩
    · rintro ⟨hlen, hver, hnode, hin⟩ hc hs
      have he := n0.headerReceive_split now h hlen hver hnode hin hc hs
      obtain ⟨hout, hcause, -⟩ := n0.leaveRounds_spec now 2 hin
      exact ⟨_, (State.on_eq s _), by rw [he]; exact hout, by rw [he]; exact hcause⟩
    · rintro ⟨hlen, hver, hnode, hin⟩ hs hm hnew hround hwait
      have he := n0.headerReceive_kept now h hlen hver hnode hin hs hm hnew hround hwait
      obtain ⟨hfind, hsilent⟩ := n0.headerKept_spec node { raw := h, tick := now, round := n0.roundAt (now - 1), matched := sliceB h 40 32 == n0.digest }
      refine ⟨n0.headerReceive now h, { raw := h, tick := now, round := n0.roundAt (now - 1), matched := sliceB h 40 32 == n0.digest }, State.on_eq s _, ?_⟩
      rw [he]
      by_cases hd : sliceB h 40 32 = n0.digest
      · rw [if_pos (beq_iff_eq.mpr hd)]
        exact ⟨hfind, rfl, rfl, hsilent, fun _ => rfl, fun hne => absurd hd hne⟩
      · rw [if_neg (fun h => hd (beq_iff_eq.mp h))]
        refine ⟨hfind, rfl, rfl, hsilent, fun h => absurd h hd, fun _ => ⟨(Node.reg_setReg ..).trans (if_pos rfl), ?_⟩⟩
        rw [Node.reg_setReg, if_neg (by decide), Node.reg_bump _ _ _ rfl]
        rfl
  · exact ⟨_, State.on_eq s _, n0.headerWaitExpiry_spec now hin hbase hw⟩
  · refine State.accepts_of s (.holdStop via v) via 0x3204 7 [v] (fun n => n.holdStop s.clock.tick v.toNat) _ rfl ?_
    refine ⟨fun hv hg hn => ?_, fun h => ?_⟩
    · have he : (s.node.noteAwl via).holdStop s.clock.tick v.toNat = (s.node.noteAwl via).endAll now stGroupHold 2 true fun _ => true := by
        unfold Node.holdStop
        rw [if_pos ⟨by rw [hv]; rfl, (Node.reg_noteAwl ..).trans hg⟩]
      rw [he]
      exact Node.unfinished_endAll _ _ _ _ _ (by rw [Node.noteAwl_adm]; exact hn)
    · have he : (s.node.noteAwl via).holdStop s.clock.tick v.toNat = s.node.noteAwl via := by
        unfold Node.holdStop
        rw [if_neg]
        rintro ⟨h1, h2⟩
        rcases h with h | h
        · exact h (BitVec.eq_of_toNat_eq h1)
        · exact h ((Node.reg_noteAwl ..).symm.trans h2)
      rw [he]
      exact ⟨Node.noteAwl_adm .., Node.noteAwl_regs ..⟩
  · obtain ⟨c, haw⟩ := s.node.noteAwl_eq via
    refine State.accepts_of s (.rejoin via v) via 0x3204 8 [v] (fun n => n.rejoin v.toNat) _ rfl ?_
    refine ⟨fun hv hin hr => ?_, fun hv h => ?_⟩
    · rw [haw, hv, show BitVec.toNat (1 : BitVec 8) = 1 from rfl, Node.rejoin_ok { s.node with sec := c } hin hr]
      exact ⟨rfl, rfl⟩
    · rw [haw, hv, show BitVec.toNat (1 : BitVec 8) = 1 from rfl, Node.rejoin_refused { s.node with sec := c } h]
      exact ⟨(Node.reg_setReg ..).trans (if_pos rfl), rfl⟩
  · intro via v id k
    obtain ⟨c, haw⟩ := s.node.noteAwl_eq via
    refine State.accepts_of s (.quarantineKeep via v) via 0x3204 6 (forceOp 1 v) (fun n => n.quarantineCmd s.clock.tick (forceOp 1 v)) _ rfl ?_
    intro hq hid hn hne hp
    rw [haw, (Node.quarantineCmd_eq { s.node with sec := c } s.clock.tick (forceOp 1 v) hq hid).1 rfl]
    exact Node.quarantineKeep_spec { s.node with sec := c } k hq hn hne hp
  · intro via v id k
    obtain ⟨c, haw⟩ := s.node.noteAwl_eq via
    refine State.accepts_of s (.quarantineYield via v) via 0x3204 6 (forceOp 2 v) (fun n => n.quarantineCmd s.clock.tick (forceOp 2 v)) _ rfl ?_
    intro w ws p q hq hid hw hd hr
    rw [haw, (Node.quarantineCmd_eq { s.node with sec := c } s.clock.tick (forceOp 2 v) hq hid).2.1 rfl]
    have he : ({ s.node with sec := c } : Node).quarantineYield s.clock.tick k =
        ({ s.node with sec := c } : Node).sendNode now 6 3 w (n0.page p).slice (leBytes 1 1 ++ leBytes 4 p) := by
      unfold Node.quarantineYield
      rw [show ({ s.node with sec := c } : Node).partners = w :: ws from hw, show ({ s.node with sec := c } : Node).disputed k = [p] from hd]
      rfl
    rw [show seqLocal (fieldB (forceOp 2 v) 2 6) = k from rfl, he]
    have hsent := Node.sendNode_queue { s.node with sec := c } now 6 3 w (n0.page p).slice q (leBytes 1 1 ++ leBytes 4 p) hr
    refine ⟨?_, _, hsent, rfl, rfl⟩
    unfold Node.sendNode
    split <;> rfl
  · intro via v id k
    obtain ⟨c, haw⟩ := s.node.noteAwl_eq via
    refine State.accepts_of s (.quarantineDrop via v) via 0x3204 6 (forceOp 3 v) (fun n => n.quarantineCmd s.clock.tick (forceOp 3 v)) _ rfl ?_
    intro hq hid
    rw [haw, (Node.quarantineCmd_eq { s.node with sec := c } s.clock.tick (forceOp 3 v) hq hid).2.2 rfl]
    obtain ⟨h1, h2, r, hr, hrid, hrest⟩ := Node.quarantineDrop_spec { s.node with sec := c } now k hq
    exact ⟨h1, h2, r, hr, hrid.trans hid, hrest⟩

end Sys2Proof.Machine
end

section
/-!
Epochs and moves (R396 to R403): O52.
-/

namespace Sys2Proof.Machine

/-! ### What the release of a slice leaves of the epochs (R399, R436) -/

/-- A step that leaves the previous map, and only ends requests. -/
structure Node.Passes (n m : Node) : Prop where
  previous_eq : m.comp.previous = n.comp.previous
  ages : n.Ages m

namespace Node.Passes

variable {n m l : Node}

theorem of_eq (hp : m.comp.previous = n.comp.previous) (ha : m.adm.admitted = n.adm.admitted) : n.Passes m := ⟨hp, .of_eq ha⟩

theorem refl (n : Node) : n.Passes n := of_eq rfl rfl

theorem trans (h : n.Passes m) (h' : m.Passes l) : n.Passes l := ⟨h'.previous_eq.trans h.previous_eq, h.ages.trans h'.ages⟩

theorem foldl {α : Type} {f : Node → α → Node} (h : ∀ (n : Node) x, n.Passes (f n x)) (xs : List α) (n : Node) : n.Passes (n.foldl xs f) := by
  induction xs generalizing n with
  | nil => exact refl n
  | cons x t ih => exact (h n x).trans (ih _)

theorem of_ends (h : n.Ends m) (ha : n.Ages m) : n.Passes m := by
  have hp := congrArg (fun x : Node => x.comp.previous) h.core_eq
  exact ⟨hp, ha⟩

theorem of_undoes (h : n.Undoes m) : n.Passes m := by
  have ha := congrArg (fun x : Node => x.adm.admitted) h.core_eq
  exact of_ends h.ends (.of_eq ha)

end Node.Passes

theorem Node.ages_replyTaken (n : Node) (now port : Nat) (m : OutMsg) : n.Ages (n.replyTaken now port m) := by
  unfold Node.replyTaken
  cases m.reply with
  | none => exact .refl n
  | some r =>
    dsimp only
    split
    · exact .refl n
    · split
      · exact n.ages_queueReply ..
      · exact n.ages_answered ..

theorem Node.passes_discardTraffic (n : Node) (now s : Nat) : n.Passes (n.discardTraffic now s) := by
  have hreply : ∀ (n : Node) (p : Nat) (m : OutMsg), n.Passes (n.replyTaken now p m) := fun n p m => .of_ends (n.ends_replyTaken now p m) (n.ages_replyTaken now p m)
  rw [Node.discardTraffic_eq]
  have h : n.Passes (n.foldl (List.range 384) fun n i => n.discardQueued now s i) := .foldl (fun n i => by
    unfold Node.discardQueued
    dsimp only
    split
    · refine Node.Passes.trans ?_ (.foldl (fun n m => hreply n (i / 8) m) _ _)
      exact .of_eq rfl rfl
    · exact .refl n) _ _
  generalize (n.foldl (List.range 384) fun n i => n.discardQueued now s i) = m at h
  dsimp only
  have hc : m.Passes (m.hostCleared s) := .of_eq rfl rfl
  exact (h.trans hc).trans (.foldl (fun n (x : OutMsg) => hreply n x.dst x) _ _)

theorem Node.passes_retireKey (n : Node) (k : Nat) : n.Passes (n.retireKey k) := by
  unfold Node.retireKey
  dsimp only
  split <;> exact .of_eq rfl rfl

theorem Node.passes_trafficGone (n : Node) (now s : Nat) (b : Slice) : n.Passes (n.trafficGone now s b) := by
  unfold Node.trafficGone
  have hk : n.Passes (n.keysGone s) := .foldl Node.passes_retireKey _ _
  generalize n.keysGone s = m at hk
  have hg : m.Passes (m.sessionsGone now b.holds) := by
    have h : ({ m with adm := { m.adm with pool := m.adm.pool.filter fun w => !b.holds w.req.sess } } : Node).comp.previous = m.comp.previous := rfl
    have hp := congrArg (fun x : Node => x.comp.previous) (m.sessionsGone_ends now b.holds).core_eq
    refine ⟨(show (m.sessionsGone now b.holds).comp.previous = _ from hp).trans h, ?_⟩
    exact (m.ages_endWaiting now stTenantGone fun w => b.holds w.req.sess).trans (Node.ages_endAll ..)
  exact (hk.trans hg).trans (Node.passes_discardTraffic ..)

theorem Node.passes_dropDomain (n : Node) (d : Nat) : n.Passes (n.dropDomain d) := by
  unfold Node.dropDomain
  dsimp only
  have hk := n.passes_retireKey (Map.get {} n.share.domains d).keySlot
  generalize n.retireKey (Map.get {} n.share.domains d).keySlot = m at hk
  have hr := Node.Passes.of_undoes (Node.undoes_removeNodes { m with share := { m.share with domains := Map.erase m.share.domains d } } fun _ x => x.domain == d)
  generalize Node.removeNodes { m with share := { m.share with domains := Map.erase m.share.domains d } } (fun _ x => x.domain == d) = l at hr
  have hm : m.Passes { m with share := { m.share with domains := Map.erase m.share.domains d } } := .of_eq rfl rfl
  exact ((hk.trans hm).trans hr).trans (.of_eq rfl rfl)

theorem Node.passes_objectsGone (n : Node) (now s : Nat) : n.Passes (n.objectsGone now s) := by
  unfold Node.objectsGone
  dsimp only
  have hq : n.Passes (n.quotaUnstaged s) := by
    unfold Node.quotaUnstaged
    split
    · split <;> exact .of_eq rfl rfl
    · exact .refl n
  generalize n.quotaUnstaged s = m at hq
  refine hq.trans (Node.Passes.trans (.foldl Node.passes_dropDomain ((m.share.domains.filter fun e => e.2.slice == s).map (·.1)) m) ?_)
  generalize m.foldl ((m.share.domains.filter fun e => e.2.slice == s).map (·.1)) Node.dropDomain = l
  have hi : l.Passes (l.foldl ((l.indexes.filter fun e => e.2.slice == s).map (·.1)) fun n k => n.retireIndex now k) := .foldl (fun n k => by
    unfold Node.retireIndex
    dsimp only
    split <;> exact .of_eq rfl rfl) _ _
  generalize l.foldl ((l.indexes.filter fun e => e.2.slice == s).map (·.1)) (fun n k => n.retireIndex now k) = i at hi
  have hd : i.Passes (i.dropSequences s) := by
    unfold Node.dropSequences
    dsimp only
    refine Node.Passes.trans ?_ (.foldl (fun n k => .of_undoes (n.undoes_releaseSeq k)) _ _)
    exact .of_eq rfl rfl
  exact (hi.trans hd).trans (.of_eq rfl rfl)

theorem Node.passes_contentsGone (n : Node) (now s : Nat) (b : Slice) : n.Passes (n.contentsGone now s b) := by
  unfold Node.contentsGone
  dsimp only
  have ht := n.passes_trafficGone now s b
  generalize n.trafficGone now s b = m at ht
  have hs : m.Passes (m.sessionsShut b.holds) := .of_eq rfl rfl
  generalize m.sessionsShut b.holds = l at hs
  have hd : l.Passes (l.foldl ((l.adm.sessions.filter fun e => b.holds e.1).map (·.1)) Node.dropSession) :=
    .foldl (fun n x => show n.Passes (n.dropSession x) from .of_eq rfl rfl) _ _
  exact ((ht.trans hs).trans hd).trans (Node.passes_objectsGone ..)

theorem Node.contentsGone_slices (n : Node) (now s : Nat) (b : Slice) : (n.contentsGone now s b).comp.slices = n.comp.slices := by
  unfold Node.contentsGone
  dsimp only
  have ht := (n.trafficGone_spec now s b).slices_eq
  generalize n.trafficGone now s b = m at ht
  have hd : (m.sessionsShut b.holds).Lets ((m.sessionsShut b.holds).foldl (((m.sessionsShut b.holds).adm.sessions.filter fun e => b.holds e.1).map (·.1)) Node.dropSession) :=
    .foldl Node.lets_dropSession _ _
  have hm : (m.sessionsShut b.holds).comp.slices = m.comp.slices := rfl
  generalize m.sessionsShut b.holds = k at hd hm
  generalize k.foldl ((k.adm.sessions.filter fun e => b.holds e.1).map (·.1)) Node.dropSession = l at hd
  have h := congrArg (fun x : Node => x.comp.slices) (hd.trans (l.releases_objectsGone now s).lets).core_eq
  exact (show (l.objectsGone now s).comp.slices = k.comp.slices from h).trans (hm.trans ht)

/-- The release of a slice passes, and leaves the other slices and every entry that no release writes. -/
theorem Node.releaseSlice_frame (n : Node) (now s : Nat) : n.Passes (n.releaseSlice now s) ∧
    (∀ j, j ≠ s → (n.releaseSlice now s).slice j = n.slice j) ∧ ∀ k, k ∉ bindCounters → (n.releaseSlice now s).reg k = n.reg k := by
  by_cases h : 63 < s ∨ (n.slice s).state ≠ .bound
  · rw [n.releaseSlice_idle now s h]
    exact ⟨.refl n, fun _ _ => rfl, fun _ _ => rfl⟩
  · obtain ⟨hs, hb⟩ := not_or.mp h
    have hrel := n.releaseSlice_spec now s (by omega) (not_not.mp hb)
    refine ⟨?_, ?_, hrel.reg_eq⟩
    · rw [n.releaseSlice_eq now s (by omega) (not_not.mp hb)]
      dsimp only
      have hc := n.passes_contentsGone now s (n.slice s)
      generalize n.contentsGone now s (n.slice s) = m at hc
      generalize hb' : ({ n.slice s with drainTick := now + m.reg Reg.drainTicks, usedAtRelease := m.t1Used s } : Slice) = b
      have hst : m.Passes ((m.setSlice s b).setSliceState now s .releasing) := by
        unfold Node.setSliceState
        exact .of_eq (by rw [Node.event_comp]; rfl) (by rw [Node.event_adm]; rfl)
      generalize (m.setSlice s b).setSliceState now s .releasing = l at hst
      have hj : l.Passes (l.journal 7 0 (s + 1) 0 []) := .of_eq rfl rfl
      split
      · exact (hc.trans hst).trans hj
      · exact ((hc.trans hst).trans hj).trans (.of_eq rfl rfl)
    · intro j hj
      rw [n.releaseSlice_eq now s (by omega) (not_not.mp hb)]
      dsimp only
      have hsl := n.contentsGone_slices now s (n.slice s)
      generalize n.contentsGone now s (n.slice s) = m at hsl
      generalize hb' : ({ n.slice s with drainTick := now + m.reg Reg.drainTicks, usedAtRelease := m.t1Used s } : Slice) = b
      have hset : ((m.setSlice s b).setSliceState now s .releasing).slice j = n.slice j := by
        rw [((m.setSlice s b).setSliceState_spec now s .releasing).1, if_neg hj, Node.slice_setSlice, if_neg hj, Node.slice, hsl]
        rfl
      generalize (m.setSlice s b).setSliceState now s .releasing = l at hset
      split <;> exact hset

/-- Releasing slices that are different: those that are bound are releasing afterwards. -/
theorem Node.releaseSlices_spec (now : Nat) (l : List (Nat × Nat)) (n : Node) (hn : (l.map (·.1)).Nodup) (hl : ∀ e ∈ l, e.1 < 64) :
    n.Passes (n.foldl l fun n e => n.releaseSlice now e.1) ∧ (∀ k, k ∉ bindCounters → (n.foldl l fun n e => n.releaseSlice now e.1).reg k = n.reg k) ∧
    (∀ e ∈ l, (n.slice e.1).state = .bound → ((n.foldl l fun n e => n.releaseSlice now e.1).slice e.1).state = .releasing) ∧
    ∀ j, j ∉ l.map (·.1) → (n.foldl l fun n e => n.releaseSlice now e.1).slice j = n.slice j := by
  induction l generalizing n with
  | nil => exact ⟨.refl n, fun _ _ => rfl, nofun, fun _ _ => rfl⟩
  | cons x t ih =>
    obtain ⟨hx, ht⟩ := List.nodup_cons.mp hn
    obtain ⟨hp, hother, hreg⟩ := n.releaseSlice_frame now x.1
    obtain ⟨i1, i2, i3, i4⟩ := ih (n.releaseSlice now x.1) ht fun e he => hl e (List.mem_cons_of_mem _ he)
    refine ⟨hp.trans i1, fun k hk => (i2 k hk).trans (hreg k hk), fun e he hb => ?_, fun j hj => ?_⟩
    · rcases List.mem_cons.mp he with rfl | he
      · refine (congrArg Slice.state (i4 e.1 hx)).trans ?_
        exact (n.releaseSlice_spec now e.1 (by have := hl e List.mem_cons_self; omega) hb).state
      · refine i3 e he ?_
        rw [hother e.1 fun h => hx (List.mem_map.mpr ⟨e, he, h⟩)]
        exact hb
    · obtain ⟨hne, hjt⟩ := not_or.mp fun h => hj (List.mem_cons.mpr h)
      exact (i4 j hjt).trans (hother j hne)

theorem CompMap.slicesIn_nodup (m : CompMap) (role : Nat) : ((m.slicesIn role).map (·.1)).Nodup ∧ ∀ e ∈ m.slicesIn role, e.1 < 64 := by
  unfold CompMap.slicesIn
  refine ⟨?_, fun e he => ?_⟩
  · rw [List.map_map]
    rw [show ((fun x : Nat × Nat => x.1) ∘ fun s => (s, fieldB m.raw (1170 + 4 * s) 2)) = id from rfl, List.map_id]
    exact List.Nodup.filter _ List.nodup_range
  · obtain ⟨x, hx, rfl⟩ := List.mem_map.mp he
    exact List.mem_range.mp (List.mem_filter.mp hx).1

/-- The node once the stragglers of the previous epoch have ended (R399). -/
def Node.stragglersGone (n : Node) (now : Nat) : Node :=
  let m := n.bumpBy Reg.epochRetiredCount (n.unfinished.filter fun q => q.req.hdr.epoch.toNat == n.reg Reg.prevEpoch).length
  m.endAll now stEpochRetired 0 false fun q => q.req.hdr.epoch.toNat == n.reg Reg.prevEpoch

/-- The node without its previous epoch. -/
def Node.epochGone (n : Node) : Node := ({ n with comp := { n.comp with previous := none } }.setReg Reg.epochState 0).setReg Reg.prevEpoch 0

theorem Node.epochDrained_eq (n : Node) (now : Nat) (h2 : n.reg Reg.epochState = 2) (hd : n.reg Reg.drainTick ≤ now) : n.epochDrained now =
    (n.stragglersGone now).epochGone.foldl ((n.stragglersGone now).comp.current.elim [] fun m => m.slicesIn 2) fun n e => n.releaseSlice now e.1 := by
  have hfold : ∀ (l : List Admitted) (m : Node), (m.foldl l fun n q => n.endRequest now q.req.key stEpochRetired 0) =
      m.foldl (l.map fun q => q.req.key) fun n k => if false then n.endWithNotice now k stEpochRetired 0 else n.endRequest now k stEpochRetired 0 := fun l m => by
    simp [Node.foldl, List.foldl_map]
  unfold Node.epochDrained
  rw [if_neg (by rw [not_or]; exact ⟨not_not.mpr h2, Nat.not_lt.mpr hd⟩)]
  dsimp only
  rw [hfold]
  have hg : ((n.bumpBy Reg.epochRetiredCount (n.unfinished.filter fun q => q.req.hdr.epoch.toNat == n.reg Reg.prevEpoch).length).foldl
      ((n.unfinished.filter fun q => q.req.hdr.epoch.toNat == n.reg Reg.prevEpoch).map fun q => q.req.key)
      fun n k => if false then n.endWithNotice now k stEpochRetired 0 else n.endRequest now k stEpochRetired 0) = n.stragglersGone now := rfl
  rw [hg]
  generalize n.stragglersGone now = g
  refine congrArg (fun l => g.epochGone.foldl l fun n (e : Nat × Nat) => n.releaseSlice now e.1) ?_
  cases g.comp.current <;> rfl

theorem Node.stragglersGone_spec (n : Node) (now : Nat) (hn : (n.adm.admitted.map fun q => q.req.key).Nodup) :
    (n.stragglersGone now).comp.current = n.comp.current ∧ (n.stragglersGone now).comp.slices = n.comp.slices ∧
    ∀ q ∈ (n.stragglersGone now).adm.admitted, q.req.hdr.epoch.toNat = n.reg Reg.prevEpoch → 2 ≤ q.phase := by
  unfold Node.stragglersGone
  dsimp only
  have hb : ∀ d, (n.bumpBy Reg.epochRetiredCount d).comp = n.comp ∧ (n.bumpBy Reg.epochRetiredCount d).adm = n.adm := fun _ => ⟨rfl, rfl⟩
  obtain ⟨hc, ha⟩ := hb (n.unfinished.filter fun q => q.req.hdr.epoch.toNat == n.reg Reg.prevEpoch).length
  generalize n.bumpBy Reg.epochRetiredCount (n.unfinished.filter fun q => q.req.hdr.epoch.toNat == n.reg Reg.prevEpoch).length = m at hc ha
  have he := (m.ends_endAll now stEpochRetired 0 false fun q => q.req.hdr.epoch.toNat == n.reg Reg.prevEpoch).core_eq
  have hfin := m.endAll_finished now stEpochRetired 0 false (fun q => q.req.hdr.epoch.toNat == n.reg Reg.prevEpoch) (by rw [ha]; exact hn)
  generalize m.endAll now stEpochRetired 0 false (fun q => q.req.hdr.epoch.toNat == n.reg Reg.prevEpoch) = g at he hfin
  have h1 := congrArg (fun x : Node => x.comp.current) he
  have h2 := congrArg (fun x : Node => x.comp.slices) he
  refine ⟨(show g.comp.current = m.comp.current from h1).trans (congrArg Compose.current hc), (show g.comp.slices = m.comp.slices from h2).trans (congrArg Compose.slices hc),
    fun q hq hp => ?_⟩
  obtain ⟨y, -, hf, hy⟩ := hfin q hq
  exact hy (by rw [← hf.1]; simpa using hp)

theorem Node.epochDrained_spec (n : Node) (now : Nat) (h2 : n.reg Reg.epochState = 2) (hd : n.reg Reg.drainTick ≤ now) (hn : (n.adm.admitted.map fun q => q.req.key).Nodup) :
    (n.epochDrained now).reg Reg.epochState = 0 ∧ (n.epochDrained now).reg Reg.prevEpoch = 0 ∧ (n.epochDrained now).comp.previous = none ∧
    (∀ q ∈ (n.epochDrained now).adm.admitted, q.req.hdr.epoch.toNat = n.reg Reg.prevEpoch → 2 ≤ q.phase) ∧
    (∀ m, n.comp.current = some m → ∀ e ∈ m.slicesIn 2, (n.slice e.1).state = .bound → ((n.epochDrained now).slice e.1).state = .releasing) := by
  obtain ⟨hcur, hslices, hphase⟩ := n.stragglersGone_spec now hn
  rw [n.epochDrained_eq now h2 hd]
  generalize n.stragglersGone now = g at hcur hslices hphase
  have hlist : ((g.comp.current.elim [] fun m => m.slicesIn 2).map (·.1)).Nodup ∧ ∀ e ∈ g.comp.current.elim [] fun m => m.slicesIn 2, e.1 < 64 := by
    cases g.comp.current with
    | none => exact ⟨List.nodup_nil, nofun⟩
    | some m => exact m.slicesIn_nodup 2
  obtain ⟨r1, r2, r3, -⟩ := Node.releaseSlices_spec now (g.comp.current.elim [] fun m => m.slicesIn 2) g.epochGone hlist.1 hlist.2
  refine ⟨(r2 _ (by decide)).trans ?_, (r2 _ (by decide)).trans ((Node.reg_setReg ..).trans (if_pos rfl)), r1.previous_eq, fun q hq he => ?_, fun m hm e he hb => ?_⟩
  · unfold Node.epochGone
    rw [Node.reg_setReg, if_neg (by decide), Node.reg_setReg, if_pos rfl]
  · obtain ⟨y, hy, hf⟩ := r1.ages.follows q hq
    exact hf.2.2.2 (hphase y hy (by rw [← hf.1]; exact he))
  · refine r3 e ?_ ?_
    · rw [hcur, hm]
      exact he
    · have hs : g.epochGone.slice e.1 = n.slice e.1 := by
        show Map.get {} g.comp.slices e.1 = _
        rw [hslices]
        rfl
      rw [hs]
      exact hb

/-! ### Copies and moves (R401, R403, R453) -/

/-- The only slice that moves out, with one page not copied yet, in its window (R401). -/
theorem Node.preCopy_one (n : Node) (now sl dest p q : Nat) (m : CompMap) (hm : n.comp.stagedMap = some m) (h0 : n.reg Reg.commitState ≠ 0)
    (h4 : n.reg Reg.commitState ≠ 4) (hs : m.slicesIn 2 = [(sl, dest)]) (hp : n.movePages sl = [p]) (hnew : p ∉ n.comp.preCopied)
    (hw : n.copyWindow now p dest = true) (hr : n.route dest = some q) :
    n.preCopy now = { n.sendNode now 6 3 dest sl (n.movePage sl p) with comp := { n.comp with preCopied := n.comp.preCopied ++ [p] } } := by
  unfold Node.preCopy
  rw [hm]
  dsimp only
  rw [if_neg (by rw [not_or]; exact ⟨h0, h4⟩), hs]
  show n.foldl ((n.movePages sl).filter fun p => !n.comp.preCopied.contains p) _ = _
  rw [hp, List.filter_cons_of_pos (by simpa using hnew)]
  show (if _ then _ else _) = _
  rw [if_neg (by simp [hw, hr])]

theorem Node.sendNode_seqs (n : Node) (now ftype queue node slice : Nat) (bytes : Bytes) : (n.sendNode now ftype queue node slice bytes).seqs = n.seqs := by
  unfold Node.sendNode
  split <;> rfl

theorem Node.answerRestore_replica (n : Node) (now source page : Nat) (r : Replica) (h : n.replicaOf source page = some r) :
    n.answerRestore now source page = n.sendNode now 6 3 source r.slice (leBytes 1 2 ++ leBytes 4 page ++ n.replicaPart r) := by
  unfold Node.answerRestore
  rw [h]

/-- The record of a sequence whose descriptor has come (R403). -/
def incomingOf (src : Nat) (v : Bytes) : Incoming :=
  { source := src, slice := fieldB v 1 1, image := v.drop 14, lost := if fieldB v 2 2 = 0xFFFF then none else some (fieldB v 2 2),
    cutTick := fieldB v 4 8, session := fieldB v 12 2 }

/-- The first sequence to come in. -/
theorem Node.moveSeqIn_first (n : Node) (src : Nat) (v : Bytes) (hi : n.rcv.incoming = []) (hb : (n.slice (fieldB v 1 1)).state = .bound)
    (hf : (n.seq (seqLocal (fieldB (v.drop 14) 0 6))).state = .free) : n.moveSeqIn src v =
      { n with rcv := { n.rcv with incoming := [(fieldB (v.drop 14) 0 6, incomingOf src v)] },
               comp := { n.comp with moving := insertNat (seqLocal (fieldB (v.drop 14) 0 6)) n.comp.moving } } := by
  unfold Node.moveSeqIn
  dsimp only
  rw [if_neg (by simp [hb, hf]), hi]
  rfl

theorem Node.moveReceive_descriptor (n : Node) (now src : Nat) (v : Bytes) (hk : fieldB v 0 1 = 4) (hi : n.rcv.incoming = []) (hb : (n.slice (fieldB v 1 1)).state = .bound)
    (hf : (n.seq (seqLocal (fieldB (v.drop 14) 0 6))).state = .free) :
    n.moveReceive now src v = (n.moveSeqIn src v).tryMoved now (fieldB (v.drop 14) 0 6) := by
  have hin : (n.moveSeqIn src v).rcv.incoming = [(fieldB (v.drop 14) 0 6, incomingOf src v)] := by rw [n.moveSeqIn_first src v hi hb hf]
  unfold Node.moveReceive
  dsimp only
  rw [if_neg (by omega), if_neg (by omega), if_neg (by omega), if_pos hk, hin, List.filter_cons_of_pos (by simp [incomingOf])]
  rfl

theorem mem_insertNat_self (k : Nat) (l : List Nat) : k ∈ insertNat k l := by
  induction l with
  | nil => exact List.mem_singleton.mpr rfl
  | cons a t ih =>
    unfold insertNat
    split
    · exact List.mem_cons_self
    · split
      · next h => exact h ▸ List.mem_cons_self
      · exact List.mem_cons_of_mem _ ih

theorem Node.pushPages_frame (n : Node) (k t : Nat) (ps : List Nat) : ((n.pushPages k t ps).seq k).state = (n.seq k).state ∧
    (n.pushPages k t ps).rcv = n.rcv := by
  unfold Node.pushPages Node.setTrack
  dsimp only
  refine ⟨?_, rfl⟩
  rw [Node.seq_setSeq, if_pos rfl]
  rfl

/-- A sequence that has come whole is OPEN, and no longer on its way (R403, R460). -/
theorem Node.openIncoming_spec (n m : Node) (now id : Nat) (h : n.openIncoming now id = some m) : (m.seq (seqLocal id)).state = .opened ∧
    Map.find m.rcv.incoming id = none := by
  unfold Node.openIncoming at h
  cases hf : Map.find n.rcv.incoming id with
  | none => rw [hf] at h; cases h
  | some c =>
    rw [hf] at h
    dsimp only at h
    split at h
    · cases h
    · cases ht : n.takeTracks now c (Seq.ofImage c.image) (Seq.ofImage c.image).tracks.zipIdx with
      | none => rw [ht] at h; cases h
      | some r =>
        obtain ⟨ts, l⟩ := r
        rw [ht] at h
        dsimp only at h
        have hfold : ∀ (xs : List ((Track × List Nat) × Nat)) (x : Node), ((x.foldl xs fun n e => n.pushPages (seqLocal id) e.2 e.1.2).seq (seqLocal id)).state =
            (x.seq (seqLocal id)).state := fun xs x =>
          Node.foldl_keeps (fun y => (y.seq (seqLocal id)).state) xs (fun n e => n.pushPages (seqLocal id) e.2 e.1.2) (fun y e => (y.pushPages_frame ..).1) x
        obtain rfl := Option.some.inj h
        refine ⟨?_, ?_⟩
        · refine (hfold ts.zipIdx _).trans ?_
          rw [Node.seq_setSeq, if_pos rfl]
        · dsimp only
          rw [Map.find_erase, if_pos rfl]

theorem Node.loseIncoming_spec (n : Node) (now id reason : Nat) (c : Incoming) (h : Map.find n.rcv.incoming id = some c) :
    Map.find (n.loseIncoming now id reason).rcv.incoming id = none ∧
    ∃ r ∈ (n.loseIncoming now id reason).rcv.losses, r.seqId = id ∧ r.reason = reason ∧ r.tick = now := by
  unfold Node.loseIncoming
  rw [h]
  dsimp only
  generalize (match n.rcv.rosters.find? fun r => r.seqId == id && r.op == 1 with
    | some r => r.host
    | none => Map.get 0xFFFF n.links.replyDst c.session) = host
  generalize hm : ({ n with rcv := { n.rcv with incoming := Map.erase n.rcv.incoming id },
                            comp := { n.comp with moving := n.comp.moving.filter fun k => k != seqLocal id } } : Node) = m
  have hfind : Map.find m.rcv.incoming id = none := by
    rw [← hm]
    exact (Map.find_erase ..).trans (if_pos rfl)
  refine ⟨?_, _, (m.lossReport_spec ..).2, rfl, rfl, rfl⟩
  unfold Node.lossReport
  dsimp only
  rw [(Node.sequenceReply_frame ..).2]
  exact hfind

/-- A member of a map is found under its key. -/
theorem Map.find_of_mem {α : Type} (m : Map α) (k : Nat) (v : α) (h : (k, v) ∈ m) : ∃ w, Map.find m k = some w := by
  induction m with
  | nil => exact absurd h List.not_mem_nil
  | cons e t ih =>
    obtain ⟨j, w⟩ := e
    by_cases hj : j = k
    · exact ⟨w, by simp [Map.find, hj]⟩
    · rcases List.mem_cons.mp h with he | ht
      · exact absurd (congrArg Prod.fst he).symm hj
      · obtain ⟨x, hx⟩ := ih ht
        exact ⟨x, by simp [Map.find, hj, hx]⟩

/-! ### The obligation -/

/-- Settles O52: what is copied before a commit, what a MOVE message brings, a sequence that does not come in time, and the end of an epoch. The layout of MOVE
messages is log entry 78's choice, the reason of MOVE_TIMEOUT's report log entry 84's; what the step of these commands does at once is log entry 65's. -/
theorem epochsAndMoves : Obligations.EpochsAndMoves := by
  unfold Obligations.EpochsAndMoves
  intro s n0 now
  have hstay : s.on n0 = .next s := State.on_eq s s.node
  refine ⟨fun hm => ?_, fun m sl dest p q hm h0 h4 hs hp hnew hw hr => ?_, ?_, fun sq id c hc => ⟨fun hdue => ?_, fun hearly => ?_⟩,
    fun t ht => ⟨fun hle h1 => ?_, fun hlt => ?_⟩, fun h2 hd hn => ?_, fun h => ?_⟩
  · have he : n0.preCopy now = n0 := by
      unfold Node.preCopy
      rw [hm]
    exact (congrArg s.on he).trans hstay
  · have he := n0.preCopy_one now sl dest p q m hm h0 h4 hs hp hnew hw hr
    refine ⟨n0.preCopy now, { ftype := 6, dst := dest, bytes := n0.movePage sl p, queuedAt := now, slice := sl }, State.on_eq s _, ?_, rfl, rfl, rfl, ?_, ?_⟩
    · rw [he]
      exact n0.sendNode_queue now 6 3 dest sl q (n0.movePage sl p) hr
    · rw [he]
    · rw [he]
      exact n0.sendNode_seqs ..
  · intro src v page id
    refine ⟨fun r q hk hr hq => ?_, fun hk hi hb hf => ⟨fun hl => ?_, fun m hl hm => ?_⟩⟩
    · have he : n0.moveReceive now src.toNat v = n0.sendNode now 6 3 src.toNat r.slice (leBytes 1 2 ++ leBytes 4 page ++ n0.replicaPart r) := by
        unfold Node.moveReceive
        dsimp only
        rw [if_pos hk, n0.answerRestore_replica now src.toNat page r hr]
      refine ⟨n0.moveReceive now src.toNat v,
        { ftype := 6, dst := src.toNat, bytes := leBytes 1 2 ++ leBytes 4 page ++ n0.replicaPart r, queuedAt := now, slice := r.slice }, State.on_eq s _, ?_, rfl, rfl, rfl, ?_⟩
      · rw [he]
        exact n0.sendNode_queue now 6 3 src.toNat r.slice q _ hq
      · rw [he]
        exact n0.sendNode_seqs ..
    · have he : n0.moveReceive now src.toNat v = n0.moveSeqIn src.toNat v := by
        rw [n0.moveReceive_descriptor now src.toNat v hk hi hb hf, n0.moveSeqIn_first src.toNat v hi hb hf]
        unfold Node.tryMoved
        simp [Map.find, incomingOf, hl]
      refine ⟨n0.moveSeqIn src.toNat v, incomingOf src.toNat v, (State.on_eq s _).trans (by rw [he]), ?_⟩
      rw [n0.moveSeqIn_first src.toNat v hi hb hf]
      exact ⟨by simp [Map.find, id], rfl, rfl, rfl, by simp [incomingOf, hl], rfl, mem_insertNat_self .., rfl⟩
    · have he : n0.moveReceive now src.toNat v = m := by
        rw [n0.moveReceive_descriptor now src.toNat v hk hi hb hf]
        unfold Node.tryMoved
        rw [hm, n0.moveSeqIn_first src.toNat v hi hb hf]
        simp [Map.find, incomingOf, hl]
      exact ⟨m, (State.on_eq s _).trans (by rw [he]), Node.openIncoming_spec _ m now id hm⟩
  · obtain ⟨c', hfind⟩ := Map.find_of_mem n0.rcv.incoming id c (List.mem_of_find?_eq_some hc)
    have hexec : exec (.moveTimeout sq) s = s.on (n0.loseIncoming now id 2) := by
      show execMoveTimeout sq s = _
      unfold execMoveTimeout
      dsimp only
      rw [hc]
      dsimp only
      rw [if_pos hdue]
    exact ⟨_, hexec.trans (State.on_eq ..), n0.loseIncoming_spec now id 2 c' hfind⟩
  · show execMoveTimeout sq s = _
    unfold execMoveTimeout
    dsimp only
    rw [hc]
    dsimp only
    rw [if_neg (Nat.not_le.mpr hearly)]
    exact hstay
  · have he : n0.epochAdmissionEnd now =
        (({ n0 with comp := { n0.comp with admissionEnd := none } } : Node).setReg Reg.epochState 2).setReg Reg.drainTick (t + n0.comp.prevLead) := by
      unfold Node.epochAdmissionEnd
      rw [ht]
      dsimp only
      rw [if_neg (by rw [not_or]; exact ⟨Nat.not_lt.mpr hle, not_not.mpr h1⟩)]
    refine ⟨n0.epochAdmissionEnd now, State.on_eq s _, ?_⟩
    rw [he]
    refine ⟨?_, (Node.reg_setReg ..).trans (if_pos rfl), rfl⟩
    rw [Node.reg_setReg, if_neg (by decide), Node.reg_setReg, if_pos rfl]
  · have he : n0.epochAdmissionEnd now = n0 := by
      unfold Node.epochAdmissionEnd
      rw [ht]
      exact if_pos (.inl hlt)
    exact (congrArg s.on he).trans hstay
  · exact ⟨_, State.on_eq s _, n0.epochDrained_spec now h2 hd hn⟩
  · have he : n0.epochDrained now = n0 := by
      unfold Node.epochDrained
      exact if_pos h
    exact (congrArg s.on he).trans hstay

end Sys2Proof.Machine
end

section
/-!
Cuts, restores and takeovers (R453 to R462): O57.
-/

namespace Sys2Proof.Machine

/-! ### Cuts at the source (R455, R457) -/

theorem Node.sendNode_frame (n : Node) (now ftype queue node slice : Nat) (bytes : Bytes) : (n.sendNode now ftype queue node slice bytes).rcv = n.rcv ∧
    (n.sendNode now ftype queue node slice bytes).regs = n.regs := by
  unfold Node.sendNode
  split <;> exact ⟨rfl, rfl⟩

theorem Node.sendCut_frame (n : Node) (now round : Nat) (entries : List JEntry) (pages : List Nat) (w : Nat) : (n.sendCut now round entries pages w).rcv = n.rcv ∧
    (n.sendCut now round entries pages w).regs = n.regs := by
  unfold Node.sendCut
  dsimp only
  refine ⟨?_, ?_⟩
  · refine (Node.foldl_keeps (fun n : Node => n.rcv) pages _ (fun n p => (n.sendNode_frame ..).1) _).trans ?_
    exact Node.foldl_keeps (fun n : Node => n.rcv) _ _ (fun n p => (n.sendNode_frame ..).1) n
  · refine (Node.foldl_keeps (fun n : Node => n.regs) pages _ (fun n p => (n.sendNode_frame ..).2) _).trans ?_
    exact Node.foldl_keeps (fun n : Node => n.regs) _ _ (fun n p => (n.sendNode_frame ..).2) n

/-- The pages that a cut sends (R455). -/
def Node.cutPages (n : Node) : List Nat :=
  (n.seqs.pages.filter fun e => (e.2.state == .compressed || e.2.state == .spilled) && !e.2.replicated && !(n.rcv.cuts.flatMap fun c => c.pages).contains e.1).map (·.1)

/-- The cut of a round (R455). -/
def Node.cutNow (n : Node) (now : Nat) : Cut :=
  { round := n.roundAt now, tick := now, pages := n.cutPages, seqs := (n.rcv.journal.filter fun e => decide (e.kind ≤ 5)).map fun e => e.seq, waiting := n.partners }

/-- The node with a cut begun, before it is sent. -/
def Node.cutBegun (n : Node) (now : Nat) : Node :=
  { n with rcv := { n.rcv with journal := [], cutRound := some (n.roundAt now), cuts := n.rcv.cuts ++ [n.cutNow now] } }

/-- The node with a cut sent to the partners and the spare. -/
def Node.cutSent (n : Node) (now : Nat) : Node :=
  let m := ((n.cutBegun now).foldl n.partners fun m w => m.sendCut now (n.roundAt now) n.rcv.journal n.cutPages w).bump Reg.cutsSent
  match m.comp.current with
  | some x => if x.spare < 1024 ∧ m.rosterRecords n.rcv.journal ≠ [] then
      m.sendNode now 5 4 x.spare ((n.rcv.journal.headD { kind := 0, seq := 0 }).slice) (leBytes 1 8 ++ m.rosterRecords n.rcv.journal) else m
  | none => m

theorem Node.journalCut_eq (n : Node) (now : Nat) (hin : n.inRounds = true) (hb : n.reg Reg.roundBase ≤ now) (hp : n.partners ≠ [])
    (ho : n.cutOffset = some (n.offset now)) (hr : n.rcv.cutRound ≠ some (n.roundAt now)) :
    n.journalCut now = if n.rcv.journal = [] ∧ n.cutPages = [] then (n.cutSent now).cutDone (n.cutNow now) else n.cutSent now := by
  unfold Node.journalCut
  dsimp only
  rw [if_neg (by simp [hin, Nat.not_lt.mpr hb, hp, ho, hr])]
  rfl

theorem Node.cutSent_spec (n : Node) (now : Nat) : (n.cutSent now).rcv = (n.cutBegun now).rcv ∧
    (n.cutSent now).reg Reg.cutsSent = (n.reg Reg.cutsSent + 1) % 2 ^ 64 := by
  have hfold : ((n.cutBegun now).foldl n.partners fun m w => m.sendCut now (n.roundAt now) n.rcv.journal n.cutPages w).rcv = (n.cutBegun now).rcv :=
    Node.foldl_keeps (fun m : Node => m.rcv) _ _ (fun m w => (m.sendCut_frame ..).1) _
  have hregs : ((n.cutBegun now).foldl n.partners fun m w => m.sendCut now (n.roundAt now) n.rcv.journal n.cutPages w).regs = n.regs :=
    Node.foldl_keeps (fun m : Node => m.regs) _ _ (fun m w => (m.sendCut_frame ..).2) _
  unfold Node.cutSent
  dsimp only
  generalize (n.cutBegun now).foldl n.partners (fun m w => m.sendCut now (n.roundAt now) n.rcv.journal n.cutPages w) = m at hfold hregs
  have hm : (m.bump Reg.cutsSent).rcv = (n.cutBegun now).rcv ∧ (m.bump Reg.cutsSent).reg Reg.cutsSent = (n.reg Reg.cutsSent + 1) % 2 ^ 64 := by
    refine ⟨hfold, ?_⟩
    rw [Node.reg_bump _ _ _ rfl, Node.reg_congr hregs]
  generalize m.bump Reg.cutsSent = l at hm
  split
  · split
    · exact ⟨(Node.sendNode_frame ..).1.trans hm.1, (Node.reg_congr (Node.sendNode_frame ..).2 _).trans hm.2⟩
    · exact hm
  · exact hm

theorem Node.cutDone_spec (n : Node) (c : Cut) : (n.cutDone c).rcv = { n.rcv with cuts := n.rcv.cuts.filter fun x => x != c } ∧
    ∀ k, (n.cutDone c).reg k = if k = Reg.lastAckedCut then c.tick else n.reg k := by
  unfold Node.cutDone
  exact ⟨rfl, fun k => Node.reg_setReg ..⟩

/-- A cut goes out once a round, and is acknowledged at once where it holds nothing (R455). -/
theorem Node.journalCut_spec (n : Node) (now : Nat) (hin : n.inRounds = true) (hb : n.reg Reg.roundBase ≤ now) (hp : n.partners ≠ [])
    (ho : n.cutOffset = some (n.offset now)) (hr : n.rcv.cutRound ≠ some (n.roundAt now)) :
    (n.journalCut now).rcv.cutRound = some (n.roundAt now) ∧ (n.journalCut now).rcv.journal = [] ∧
    (n.journalCut now).reg Reg.cutsSent = (n.reg Reg.cutsSent + 1) % 2 ^ 64 ∧
    (n.rcv.journal = [] → (∀ e ∈ n.seqs.pages, e.2.state ≠ .compressed ∧ e.2.state ≠ .spilled) → (n.journalCut now).reg Reg.lastAckedCut = now) ∧
    (n.rcv.journal ≠ [] → ∃ c ∈ (n.journalCut now).rcv.cuts, c.round = n.roundAt now ∧ c.tick = now ∧ c.waiting = n.partners) := by
  obtain ⟨hrcv, hsent⟩ := n.cutSent_spec now
  obtain ⟨d1, d2⟩ := (n.cutSent now).cutDone_spec (n.cutNow now)
  rw [n.journalCut_eq now hin hb hp ho hr]
  by_cases he : n.rcv.journal = [] ∧ n.cutPages = []
  · rw [if_pos he, d1, hrcv, d2, d2, if_neg (by decide), if_pos rfl]
    exact ⟨rfl, rfl, hsent, fun _ _ => rfl, fun h => absurd he.1 h⟩
  · rw [if_neg he, hrcv]
    refine ⟨rfl, rfl, hsent, fun hj hpages => absurd ⟨hj, ?_⟩ he, fun _ => ⟨n.cutNow now, List.mem_append_right _ (List.mem_singleton.mpr rfl), rfl, rfl, rfl⟩⟩
    unfold Node.cutPages
    rw [List.map_eq_nil_iff, List.filter_eq_nil_iff]
    intro e hm
    obtain ⟨h1, h2⟩ := hpages e hm
    simp [h1, h2]

theorem Node.journalCut_idle (n : Node) (now : Nat) (h : n.rcv.cutRound = some (n.roundAt now) ∨ n.partners = []) : n.journalCut now = n := by
  unfold Node.journalCut
  dsimp only
  rw [if_pos]
  rcases h with h | h <;> simp [h]

/-! ### Acknowledgements and suspicion (R455, R457) -/

theorem Node.setPartner_frame (n : Node) (node v : Nat) : (n.setPartner node v).rcv = n.rcv ∧ (n.setPartner node v).comp = n.comp ∧
    ∀ k, k ≠ Reg.partnerState → (n.setPartner node v).reg k = n.reg k := by
  have hset : ∀ (m : Node) (i k : Nat), k ≠ Reg.partnerState → (m.setOctet Reg.partnerState i v).reg k = m.reg k := fun m i k hk => by
    rw [Node.setOctet, Node.reg_setReg, if_neg hk]
  unfold Node.setPartner
  split
  · exact ⟨rfl, rfl, fun _ _ => rfl⟩
  · dsimp only
    split <;> split
    · exact ⟨rfl, rfl, fun k hk => (hset _ _ k hk).trans (hset _ _ k hk)⟩
    · exact ⟨rfl, rfl, fun k hk => hset _ _ k hk⟩
    · exact ⟨rfl, rfl, fun k hk => hset _ _ k hk⟩
    · exact ⟨rfl, rfl, fun _ _ => rfl⟩

/-- The node with a partner's acknowledgement of a cut taken (R455). -/
def Node.cutHeard (n : Node) (src : Nat) (c : Cut) : Node :=
  let m := { n with rcv := { n.rcv with cuts := n.rcv.cuts.map fun x => if x = c then { c with waiting := c.waiting.filter fun w => w != src } else x } }
  if n.rcv.lostNodes.contains src then m else m.setPartner src 0

theorem Node.cutAck_eq (n : Node) (src : Nat) (v : Bytes) (c : Cut)
    (hc : n.rcv.cuts.find? (fun c => c.round == fieldB v 1 8 && c.waiting.contains src) = some c) : n.cutAck src v =
      if (c.waiting.filter fun w => w != src) = [] then (n.cutHeard src c).cutDone { c with waiting := c.waiting.filter fun w => w != src } else n.cutHeard src c := by
  unfold Node.cutAck
  dsimp only
  rw [hc]
  rfl

theorem Node.cutHeard_spec (n : Node) (src : Nat) (c : Cut) : (n.cutHeard src c).reg Reg.lastAckedCut = n.reg Reg.lastAckedCut ∧
    (n.cutHeard src c).rcv.cuts = n.rcv.cuts.map fun x => if x = c then { c with waiting := c.waiting.filter fun w => w != src } else x := by
  unfold Node.cutHeard
  dsimp only
  split
  · exact ⟨rfl, rfl⟩
  · obtain ⟨h1, -, h3⟩ := Node.setPartner_frame
      { n with rcv := { n.rcv with cuts := n.rcv.cuts.map fun x => if x = c then { c with waiting := c.waiting.filter fun w => w != src } else x } } src 0
    exact ⟨h3 _ (by decide), by rw [h1]⟩

theorem Node.cutAck_last (n : Node) (src : Nat) (v : Bytes) (c : Cut)
    (hc : n.rcv.cuts.find? (fun c => c.round == fieldB v 1 8 && c.waiting.contains src) = some c) (hw : c.waiting = [src]) :
    (n.cutAck src v).reg Reg.lastAckedCut = c.tick ∧ c ∉ (n.cutAck src v).rcv.cuts := by
  have hnil : (c.waiting.filter fun w => w != src) = [] := by simp [hw]
  obtain ⟨-, hcuts⟩ := n.cutHeard_spec src c
  rw [n.cutAck_eq src v c hc, if_pos hnil]
  obtain ⟨d1, d2⟩ := (n.cutHeard src c).cutDone_spec { c with waiting := c.waiting.filter fun w => w != src }
  refine ⟨(d2 _).trans (if_pos rfl), fun hm => ?_⟩
  rw [d1] at hm
  obtain ⟨hm, -⟩ := List.mem_filter.mp hm
  rw [hcuts] at hm
  obtain ⟨x, -, hx⟩ := List.mem_map.mp hm
  split at hx
  · have := congrArg Cut.waiting hx
    rw [hnil, hw] at this
    cases this
  · next hne => exact hne hx

theorem Node.cutAck_more (n : Node) (src : Nat) (v : Bytes) (c : Cut)
    (hc : n.rcv.cuts.find? (fun c => c.round == fieldB v 1 8 && c.waiting.contains src) = some c) (hw : ∃ w ∈ c.waiting, w ≠ src) :
    (n.cutAck src v).reg Reg.lastAckedCut = n.reg Reg.lastAckedCut ∧ { c with waiting := c.waiting.filter fun w => w != src } ∈ (n.cutAck src v).rcv.cuts := by
  obtain ⟨w, hm, hne⟩ := hw
  obtain ⟨hreg, hcuts⟩ := n.cutHeard_spec src c
  rw [n.cutAck_eq src v c hc, if_neg (List.ne_nil_of_mem (List.mem_filter.mpr ⟨hm, by simpa using hne⟩)), hcuts]
  exact ⟨hreg, List.mem_map.mpr ⟨c, List.mem_of_find?_eq_some hc, if_pos rfl⟩⟩

/-- Suspicion leaves the map, and a partner that is suspected stays so (R457). -/
theorem Node.suspect_spec (n : Node) (node : Nat) (m : CompMap) (hm : n.comp.current = some m) : (n.suspect node).comp.current = some m ∧
    (n.octet Reg.partnerState 0 ≠ 0 → (n.suspect node).octet Reg.partnerState 0 ≠ 0) ∧
    (node = m.weltA → (n.suspect node).octet Reg.partnerState 0 ≠ 0) := by
  have hset : ∀ (x : Node), x.comp.current = some m → ((x.setPartner node 1).event 0x0031 (leBytes 2 node)).comp.current = some m ∧
      (x.octet Reg.partnerState 0 ≠ 0 ∨ node = m.weltA → ((x.setPartner node 1).event 0x0031 (leBytes 2 node)).octet Reg.partnerState 0 ≠ 0) := fun x hx => by
    refine ⟨by rw [Node.event_comp, (x.setPartner_frame node 1).2.1, hx], fun h => ?_⟩
    rw [Node.octet, Node.reg_event, if_neg (by decide)]
    show (x.setPartner node 1).octet Reg.partnerState 0 ≠ 0
    unfold Node.setPartner
    rw [hx]
    dsimp only
    by_cases ha : m.weltA = node
    · rw [if_pos ha]
      split
      · rw [Node.octet_zero_setOctet_one, Node.octet_setOctet]
        decide
      · rw [Node.octet_setOctet]
        decide
    · rw [if_neg ha]
      have h0 := h.resolve_right fun e => ha e.symm
      split
      · rw [Node.octet_zero_setOctet_one]
        exact h0
      · exact h0
  have hs := hset n hm
  unfold Node.suspect
  rw [hm]
  dsimp only
  by_cases ha : m.weltA = node
  · rw [if_pos ha]
    dsimp only
    split
    · next h0 => exact ⟨hm, id, fun _ => h0⟩
    · exact ⟨hs.1, fun h => hs.2 (.inl h), fun h => hs.2 (.inr h)⟩
  · rw [if_neg ha]
    split
    · exact ⟨hm, id, fun h => absurd h.symm ha⟩
    · split
      · exact ⟨hm, id, fun h => absurd h.symm ha⟩
      · exact ⟨hs.1, fun h => hs.2 (.inl h), fun h => hs.2 (.inr h)⟩

theorem Node.suspects_spec (m : CompMap) (l : List Nat) (n : Node) (hm : n.comp.current = some m) :
    (n.octet Reg.partnerState 0 ≠ 0 ∨ m.weltA ∈ l → (n.foldl l Node.suspect).octet Reg.partnerState 0 ≠ 0) := by
  induction l generalizing n with
  | nil => exact fun h => h.resolve_right List.not_mem_nil
  | cons x t ih =>
    obtain ⟨h1, h2, h3⟩ := n.suspect_spec x m hm
    intro h
    refine ih _ h1 ?_
    rcases h with h | h
    · exact .inl (h2 h)
    · rcases List.mem_cons.mp h with h | h
      · exact .inl (h3 h.symm)
      · exact .inr h

end Sys2Proof.Machine
end

section
/-!
Replicas, restores and takeovers (R453 to R462): O57.
-/

namespace Sys2Proof.Machine

/-! ### Cuts and replicas at the partner (R455) -/

/-- The last message of a cut that is not under way (R455). -/
theorem Node.cutPart_last (n : Node) (now source round tick total slice : Nat) (ht : total ≤ 1) (hno : ∀ c ∈ n.rcv.cutsIn, ¬(c.source = source ∧ c.round = round)) :
    ∃ m : Node, n.cutPart now source round tick total slice = m.sendNode now 5 4 source slice (leBytes 1 7 ++ leBytes 8 round) ∧
      m.rcv.cutsHeld = Map.put n.rcv.cutsHeld source (round, tick) ∧ m.rcv.heldJournal = n.rcv.heldJournal ∧ m.links = n.links ∧ m.comp = n.comp := by
  have hfind : (n.rcv.cutsIn.find? fun c => c.source == source && c.round == round) = none := by
    rw [List.find?_eq_none]
    intro c hc h
    simp only [Bool.and_eq_true, beq_iff_eq] at h
    exact hno c hc h
  unfold Node.cutPart
  dsimp only
  rw [hfind]
  dsimp only
  rw [if_neg (by omega)]
  exact ⟨_, rfl, rfl, rfl, rfl, rfl⟩

theorem Node.cutPart_replicas (n : Node) (now source round tick total slice : Nat) : (n.cutPart now source round tick total slice).rcv.replicas = n.rcv.replicas := by
  unfold Node.cutPart
  dsimp only
  split
  · split
    · rfl
    · rw [(Node.sendNode_frame ..).1]
  · split
    · rfl
    · rw [(Node.sendNode_frame ..).1]

/-- A replica that is stored is the one held for its page (R454). -/
theorem Node.storeReplica_spec (n m : Node) (source page slice : Nat) (v : Bytes) (h : n.storeReplica source page slice v = some m) :
    ∃ r, m.replicaOf source page = some r ∧ r.slice = slice ∧ r.tokens = fieldB v 1 2 ∧ r.format = fieldB v 3 1 := by
  have hlast : ∀ (l : List Replica) (r : Replica), r.source = source → r.page = page →
      ((l.filter fun x => !(x.source == source && x.page == page)) ++ [r]).find? (fun r => r.source == source && r.page == page) = some r := fun l r hs hp => by
    rw [List.find?_append]
    have hnone : ((l.filter fun x => !(x.source == source && x.page == page)).find? fun r => r.source == source && r.page == page) = none := by
      rw [List.find?_eq_none]
      intro x hx h
      obtain ⟨-, hne⟩ := List.mem_filter.mp hx
      rw [h] at hne
      exact absurd hne (by decide)
    rw [hnone]
    simp [hs, hp]
  unfold Node.storeReplica at h
  dsimp only at h
  split at h
  · cases h
  · obtain rfl := Option.some.inj h
    exact ⟨_, hlast _ _ rfl rfl, rfl, rfl, rfl⟩

theorem fieldB_drop (v : Bytes) (k off n : Nat) : fieldB (v.drop k) off n = fieldB v (k + off) n := by
  unfold fieldB
  rw [List.drop_drop]

theorem Node.rosterReceive_one (n : Node) (v : Bytes) (h : v.length = 16) : (n.rosterReceive v).regs = n.regs ∧
    (n.rosterReceive v).rcv.rosters = n.rcv.rosters ++
      [{ seqId := fieldB v 0 6, session := fieldB v 6 2, host := fieldB v 8 2, node := fieldB v 10 2 % 1024, op := fieldB v 12 1 }] := by
  have hv : sliceB v (16 * 0) 16 = v := by
    rw [sliceB_whole _ _ _ (by omega), Nat.mul_zero, List.drop_zero, List.take_of_length_le (by omega)]
  unfold Node.rosterReceive
  rw [h]
  refine ⟨rfl, ?_⟩
  show n.rcv.rosters ++ (List.range 1).map _ = _
  rw [List.range_one, List.map_singleton, hv]

/-! ### Poisoned pages (R453) -/

theorem Node.writeSlotGo_frame (g owner tag fuel : Nat) : ∀ (off : Nat) (bs : Bytes) (n : Node), (Node.writeSlotGo g owner tag fuel off bs n).seqs = n.seqs ∧
    (Node.writeSlotGo g owner tag fuel off bs n).rcv = n.rcv ∧ (Node.writeSlotGo g owner tag fuel off bs n).regs = n.regs := by
  induction fuel with
  | zero => exact fun _ _ _ => ⟨rfl, rfl, rfl⟩
  | succ fuel ih =>
    intro off bs n
    unfold Node.writeSlotGo
    split
    · exact ⟨rfl, rfl, rfl⟩
    · exact ih _ _ _

theorem Node.writeSlot_frame (n : Node) (g off : Nat) (bs : Bytes) (owner tag : Nat) : (n.writeSlot g off bs owner tag).seqs = n.seqs ∧
    (n.writeSlot g off bs owner tag).rcv = n.rcv ∧ (n.writeSlot g off bs owner tag).regs = n.regs := Node.writeSlotGo_frame g owner tag 257 off bs n

/-- What storing a page's image leaves of it (R242). -/
theorem Node.storeImage_spec (n : Node) (p a b : Nat) (img : Bytes) : ((n.storeImage p a b img).page p).state = (n.page p).state ∧
    ((n.storeImage p a b img).page p).tokens = (n.page p).tokens ∧ (n.storeImage p a b img).rcv = n.rcv ∧ (n.storeImage p a b img).regs = n.regs := by
  unfold Node.storeImage
  dsimp only
  cases (n.page p).t1 with
  | none => exact ⟨rfl, rfl, rfl, rfl⟩
  | some g =>
    dsimp only
    split
    · obtain ⟨-, h2, h3⟩ := n.writeSlot_frame g 0 (tileImage (elemOf (n.page p).format) a b img) p (n.tagOf true kindPage (n.page p).slice)
      generalize n.writeSlot g 0 (tileImage (elemOf (n.page p).format) a b img) p (n.tagOf true kindPage (n.page p).slice) = m at h2 h3
      rw [Node.page_setPage, if_pos rfl]
      exact ⟨rfl, rfl, h2, h3⟩
    · obtain ⟨-, h2, h3⟩ := n.writeSlot_frame g 0 img p (n.tagOf true kindPage (n.page p).slice)
      generalize n.writeSlot g 0 img p (n.tagOf true kindPage (n.page p).slice) = m at h2 h3
      rw [Node.page_setPage, if_pos rfl]
      exact ⟨rfl, rfl, h2, h3⟩

/-- A restored page is back, and no longer asked for (R453). -/
structure Node.Restores (n m : Node) (r : Replica) : Prop where
  state : (m.page r.page).state = (if r.tokens < 16 ∨ r.state = PState.tail.code then .tail else .compressed)
  tokens : (m.page r.page).tokens = r.tokens
  count : m.reg Reg.pagesRestored = (n.reg Reg.pagesRestored + 1) % 2 ^ 64
  arrived : ∀ x ∈ m.rcv.arrivedPages, x.page ≠ r.page
  asked : ∀ x ∈ m.rcv.restores, x.1 ≠ r.page

/-- A restored page is a tail: not full, or sent as one (R453). -/
def Replica.isTail (r : Replica) : Bool := decide (r.tokens < 16) || r.state == PState.tail.code

/-- The node with a restored page in its state, before a rebuilt one is packed anew (R453). -/
def Node.pageMarked (n : Node) (r : Replica) : Node :=
  let d := n.page r.page
  let n := n.setPage r.page { d with state := if r.isTail then .tail else .compressed, tokens := r.tokens, replicated := true, dirty := true,
                                     blockLen := if r.isTail then [] else r.blockLen }
  let n := { n with rcv := { n.rcv with arrivedPages := n.rcv.arrivedPages.filter (fun x => x.page != r.page),
                                        restores := n.rcv.restores.filter (fun e => e.1 != r.page) } }
  n.bump Reg.pagesRestored

theorem Node.pageMarked_spec (n : Node) (r : Replica) : n.Restores (n.pageMarked r) r := by
  have hiff : (r.isTail = true) = (r.tokens < 16 ∨ r.state = PState.tail.code) := by simp [Replica.isTail]
  refine ⟨?_, ?_, ?_, fun x hx => ?_, fun x hx => ?_⟩
  · refine (congrArg Page.state ((n.page_setPage r.page r.page _).trans (if_pos rfl))).trans ?_
    simp only [hiff]
  · exact congrArg Page.tokens ((n.page_setPage r.page r.page _).trans (if_pos rfl))
  · exact Node.reg_bump _ _ _ rfl
  · have hx' : x ∈ n.rcv.arrivedPages.filter fun x => x.page != r.page := hx
    simpa using (List.mem_filter.mp hx').2
  · have hx' : x ∈ n.rcv.restores.filter fun e => e.1 != r.page := hx
    simpa using (List.mem_filter.mp hx').2

theorem Node.pageBack_spec (n : Node) (r : Replica) : n.Restores (n.pageBack r) r := by
  have hm := n.pageMarked_spec r
  have he : n.pageBack r = n.pageMarked r ∨ ∃ a b img, n.pageBack r = (n.pageMarked r).storeImage r.page a b img := by
    unfold Node.pageBack
    dsimp only
    split
    · exact .inl rfl
    · split
      · exact .inl rfl
      · exact .inr ⟨_, _, _, rfl⟩
  rcases he with he | ⟨a, b, img, he⟩
  · exact he ▸ hm
  · rw [he]
    generalize n.pageMarked r = m at hm
    obtain ⟨h1, h2, h3, h4⟩ := m.storeImage_spec r.page a b img
    exact ⟨h1.trans hm.state, h2.trans hm.tokens, (Node.reg_congr h4 _).trans hm.count, by rw [h3]; exact hm.arrived, by rw [h3]; exact hm.asked⟩

/-- Settling sequences leaves the losses, the entries and what was asked for. -/
theorem Node.settleSeq_frame (n : Node) (k : Nat) : (n.settleSeq k).rcv = n.rcv ∧ (n.settleSeq k).regs = n.regs := by
  unfold Node.settleSeq
  dsimp only
  split <;> exact ⟨rfl, rfl⟩

theorem Node.pageRestore_spec (n : Node) (p : Nat) (r : Replica) (hr : n.rcv.arrivedPages.find? (fun r => r.page == p) = some r)
    (hs : (n.page p).state = .poisoned ∨ (n.page p).state = .quarantined) : r.page = p ∧ n.Restores (n.pageRestore p) r := by
  have hp : r.page = p := by simpa using List.find?_some hr
  have he : n.pageRestore p = (n.pageBack r).foldl ((n.pageBack r).seqsWith p) Node.settleSeq := by
    unfold Node.pageRestore
    rw [hr]
    dsimp only
    rw [if_neg (by rcases hs with h | h <;> simp [h])]
  have hb := n.pageBack_spec r
  rw [he]
  generalize n.pageBack r = m at hb
  have hpage : ∀ q, (m.foldl (m.seqsWith p) Node.settleSeq).page q = m.page q := fun q =>
    Node.foldl_keeps (fun x : Node => x.page q) _ Node.settleSeq (fun x k => x.settleSeq_page k q) m
  have hrcv : (m.foldl (m.seqsWith p) Node.settleSeq).rcv = m.rcv := Node.foldl_keeps (fun x : Node => x.rcv) _ Node.settleSeq (fun x k => (x.settleSeq_frame k).1) m
  have hregs : (m.foldl (m.seqsWith p) Node.settleSeq).regs = m.regs := Node.foldl_keeps (fun x : Node => x.regs) _ Node.settleSeq (fun x k => (x.settleSeq_frame k).2) m
  exact ⟨hp, by rw [hpage]; exact hb.state, by rw [hpage]; exact hb.tokens, (Node.reg_congr hregs _).trans hb.count, by rw [hrcv]; exact hb.arrived,
    by rw [hrcv]; exact hb.asked⟩

/-! ### Sequences that are lost (R462) -/

/-- A step that leaves the state and the identifier of every sequence but those that fork. -/
def Node.Steady (n m : Node) : Prop := ∀ k, (n.seq k).state ≠ .forking → (m.seq k).state = (n.seq k).state ∧ (m.seq k).id = (n.seq k).id

namespace Node.Steady

variable {n m l : Node}

theorem of_eq (h : m.seqs.seqs = n.seqs.seqs) : n.Steady m := fun k _ => by
  have hk : m.seq k = n.seq k := by rw [Node.seq, h]; rfl
  rw [hk]
  exact ⟨rfl, rfl⟩

theorem refl (n : Node) : n.Steady n := of_eq rfl

theorem trans (h : n.Steady m) (h' : m.Steady l) : n.Steady l := fun k hk => by
  obtain ⟨h1, h2⟩ := h k hk
  obtain ⟨g1, g2⟩ := h' k (h1 ▸ hk)
  exact ⟨g1.trans h1, g2.trans h2⟩

theorem foldl {α : Type} {f : Node → α → Node} (h : ∀ (n : Node) x, n.Steady (f n x)) (xs : List α) (n : Node) : n.Steady (n.foldl xs f) := by
  induction xs generalizing n with
  | nil => exact refl n
  | cons x t ih => exact (h n x).trans (ih _)

end Node.Steady

theorem Node.steady_setTrack (n : Node) (k t : Nat) (f : Track → Track) : n.Steady (n.setTrack k t f) := fun j _ => by
  unfold Node.setTrack
  dsimp only
  rw [Node.seq_setSeq]
  split
  · next h => exact h ▸ ⟨rfl, rfl⟩
  · exact ⟨rfl, rfl⟩

theorem Node.steady_unpinItem (n : Node) (i : Item) : n.Steady (n.unpinItem i) := by
  unfold Node.unpinItem
  split
  · exact .foldl (fun n p => show n.Steady (n.unpinPage p) from .of_eq rfl) _ _
  · exact .refl n

theorem Node.steady_setPartial (n : Node) (gs : List Nat) : n.Steady (n.setPartial gs) := .foldl (fun n g => by
  split
  · exact .refl n
  · split
    · exact .refl n
    · exact .of_eq rfl) _ _

/-- A sequence released is gone, and no other is touched (R110). -/
theorem Node.seq_releaseSeq (n : Node) (c k : Nat) : (n.releaseSeq c).seq k = if k = c then {} else n.seq k := by
  unfold Node.releaseSeq
  dsimp only
  have h1 : (n.foldl ((n.seq c).tracks.flatMap (·.pages)) fun n p => n.releaseRef p).seqs.seqs = n.seqs.seqs :=
    Node.foldl_keeps (fun x : Node => x.seqs.seqs) _ _ Node.seqs_releaseRef n
  generalize n.foldl ((n.seq c).tracks.flatMap (·.pages)) (fun n p => n.releaseRef p) = m at h1
  have h2 : (m.foldl ((n.seq c).tracks.filterMap (·.spare)) fun n p => n.dropPage p).seqs.seqs = m.seqs.seqs :=
    Node.foldl_keeps (fun x : Node => x.seqs.seqs) _ _ Node.seqs_dropPage m
  generalize m.foldl ((n.seq c).tracks.filterMap (·.spare)) (fun n p => n.dropPage p) = l at h2
  have h3 : (l.foldl ((n.seq c).tracks.filterMap fun t => t.refill.map (·.1)) fun n p => n.dropPage p).seqs.seqs = l.seqs.seqs :=
    Node.foldl_keeps (fun x : Node => x.seqs.seqs) _ _ Node.seqs_dropPage l
  generalize l.foldl ((n.seq c).tracks.filterMap fun t => t.refill.map (·.1)) (fun n p => n.dropPage p) = j at h3
  have hd : ∀ (ws : List PageRewrite) (x : Node), (x.foldl ws fun n w => match w.copy with
      | some g => n.dropSlot g
      | none => n).seqs.seqs = x.seqs.seqs := fun ws x =>
    Node.foldl_keeps (fun x : Node => x.seqs.seqs) ws _ (fun y w => by cases w.copy <;> rfl) x
  have hdrop : ∀ x : Node, (x.dropSeq c).seq k = if k = c then {} else x.seq k := fun x => x.seq_setSeq c k {}
  rw [hdrop]
  split
  · rfl
  · exact congrArg (fun x => Map.get {} x k) ((hd _ _).trans (h3.trans (h2.trans h1)))

theorem Node.steady_dropChild (n : Node) (c : Nat) : n.Steady (n.dropChild c) := by
  unfold Node.dropChild
  split
  · exact .refl n
  · next hf =>
    intro k hk
    have hne : k ≠ c := fun h => hf (by rw [← h]; simpa using hk)
    have h1 : (n.foldl ((n.seq c).tracks.map Track.tail) fun n p => n.dropPage p).seqs.seqs = n.seqs.seqs :=
      Node.foldl_keeps (fun x : Node => x.seqs.seqs) _ _ Node.seqs_dropPage n
    dsimp only
    rw [Node.seq_releaseSeq, if_neg hne, Node.seq_setSeq, if_neg hne, Node.seq, h1]
    exact ⟨rfl, rfl⟩

theorem Node.steady_undo (n : Node) (q : Admitted) : n.Steady (n.undo q) := by
  unfold Node.undo
  dsimp only
  have h1 : n.Steady (n.stopItems q) := (Node.Steady.foldl Node.steady_unpinItem q.items n).trans (.of_eq rfl)
  have h2 : (n.stopItems q).Steady ((n.stopItems q).unbook q) := by
    unfold Node.unbook
    split
    · exact .foldl (fun n t => n.steady_setTrack (seqLocal q.req.seqId) t _) _ _
    · exact .refl _
  have h3 : ((n.stopItems q).unbook q).Steady (((n.stopItems q).unbook q).gradEnd q) := by
    unfold Node.gradEnd
    dsimp only
    split
    · exact .of_eq rfl
    · exact Node.steady_setPartial _ _
  have h := (h1.trans h2).trans h3
  generalize ((n.stopItems q).unbook q).gradEnd q = m at h
  have h4 : m.Steady (m.foldl q.slots fun n g => n.dropSlot g) := .foldl (fun n g => show n.Steady (n.dropSlot g) from .of_eq rfl) _ _
  generalize m.foldl q.slots (fun n g => n.dropSlot g) = l at h4
  split
  · exact (h.trans h4).trans (l.steady_dropChild _)
  · exact h.trans h4

theorem Node.seqs_queueReply (n : Node) (now port : Nat) (rep : Reply) (notice : Option Nat) (w b : Nat) : (n.queueReply now port rep notice w b).seqs = n.seqs := by
  unfold Node.queueReply
  dsimp only
  split
  · split <;> rfl
  · split
    · rfl
    · split <;> rfl

theorem Node.steady_endRequest (n : Node) (now key status detail : Nat) : n.Steady (n.endRequest now key status detail) := by
  unfold Node.endRequest
  split
  · exact .refl n
  · next q _ =>
    split
    · exact .refl n
    · exact (n.steady_undo q).trans (.of_eq (congrArg SeqMgr.seqs (Node.seqs_queueReply ..)))

/-- Ending requests leaves every sequence that is not forking (R87). -/
theorem Node.steady_endAll (n : Node) (now status detail : Nat) (f : Admitted → Bool) : n.Steady (n.endAll now status detail false f) :=
  .foldl (fun n k => n.steady_endRequest now k status detail) _ _

theorem Node.losses_endAll (n : Node) (now status detail : Nat) (notice : Bool) (f : Admitted → Bool) : (n.endAll now status detail notice f).rcv.losses = n.rcv.losses := by
  have h := congrArg (fun x : Node => x.rcv.losses) (n.ends_endAll now status detail notice f).core_eq
  exact h

/-- A sequence lost: the others that do not fork stay, and every loss reported stays (R462). -/
theorem Node.loseSeq_frame (n : Node) (now j reason : Nat) : (∀ k, k ≠ j → (n.seq k).state ≠ .forking →
    ((n.loseSeq now j reason).seq k).state = (n.seq k).state ∧ ((n.loseSeq now j reason).seq k).id = (n.seq k).id) ∧
    (∀ x ∈ n.rcv.losses, x ∈ (n.loseSeq now j reason).rcv.losses) := by
  unfold Node.loseSeq
  dsimp only
  split
  · exact ⟨fun _ _ _ => ⟨rfl, rfl⟩, fun _ h => h⟩
  · have hs := n.steady_endAll now stSeqLost 0 fun a => a.names j
    have hl := n.losses_endAll now stSeqLost 0 false fun a => a.names j
    generalize n.endAll now stSeqLost 0 false (fun a => a.names j) = m at hs hl
    generalize ({ m.seq j with state := .lost, publish := none } : Seq) = v
    refine ⟨fun k hk hf => ?_, fun x hx => ?_⟩
    · rw [show ∀ (y : Node) (a b c d e : Nat), (y.lossReport now a b c d e).seq k = y.seq k from fun y a b c d e => by
        rw [Node.seq, (y.lossReport_spec now a b c d e).1]; rfl, Node.seq_setSeq, if_neg hk]
      exact hs k hf
    · unfold Node.lossReport
      dsimp only
      rw [(Node.sequenceReply_frame ..).2]
      exact List.mem_append_left _ (by
        show x ∈ m.rcv.losses
        rw [hl]
        exact hx)

/-- Sequences lost one after the other: each that was open is LOST, with its loss reported. -/
theorem Node.loseSeqs_spec (now reason : Nat) (l : List Nat) (n : Node) (k : Nat) (hk : k ∈ l) (ho : (n.seq k).state = .opened) :
    ((n.foldl l fun n k => n.loseSeq now k reason).seq k).state = .lost ∧
    ∃ x ∈ (n.foldl l fun n k => n.loseSeq now k reason).rcv.losses, x.seqId = (n.seq k).id ∧ x.reason = reason := by
  have hkeep : ∀ (l : List Nat) (n : Node), (n.seq k).state = .lost → ((n.foldl l fun n k => n.loseSeq now k reason).seq k).state = .lost ∧
      ∀ x ∈ n.rcv.losses, x ∈ (n.foldl l fun n k => n.loseSeq now k reason).rcv.losses := fun l => by
    induction l with
    | nil => exact fun _ h => ⟨h, fun _ hx => hx⟩
    | cons j t ih =>
      intro n h
      obtain ⟨f1, f2⟩ := n.loseSeq_frame now j reason
      have hl : ((n.loseSeq now j reason).seq k).state = .lost := by
        by_cases hj : k = j
        · unfold Node.loseSeq
          dsimp only
          rw [if_pos (.inr (hj ▸ h))]
          exact h
        · exact (f1 k hj (by rw [h]; nofun)).1.trans h
      obtain ⟨i1, i2⟩ := ih _ hl
      exact ⟨i1, fun x hx => i2 x (f2 x hx)⟩
  induction l generalizing n with
  | nil => exact absurd hk List.not_mem_nil
  | cons j t ih =>
    by_cases hj : k = j
    · subst hj
      obtain ⟨hst, r, hr, hid, hre, -⟩ := n.loseSeq_spec now k reason (by rw [ho]; nofun) (by rw [ho]; nofun)
      obtain ⟨i1, i2⟩ := hkeep t _ hst
      exact ⟨i1, r, i2 r hr, hid, hre⟩
    · obtain ⟨f1, f2⟩ := (n.loseSeq_frame now j reason).1 k hj (by rw [ho]; nofun)
      obtain ⟨i1, x, hx, hid, hre⟩ := ih (n.loseSeq now j reason) ((List.mem_cons.mp hk).resolve_left hj) (f1.trans ho)
      exact ⟨i1, x, hx, hid.trans f2, hre⟩

/-- A page that is not restored in time: the sequences open on it are LOST (R453, R463). -/
theorem Node.pageGone_spec (n : Node) (now p : Nat) (hp : (n.page p).state = .poisoned) : (∀ x ∈ (n.pageGone now p).rcv.restores, x.1 ≠ p) ∧
    ∀ k ∈ n.seqsWith p, (n.seq k).state = .opened → ((n.pageGone now p).seq k).state = .lost ∧
      ∃ x ∈ (n.pageGone now p).rcv.losses, x.seqId = (n.seq k).id ∧ x.reason = 3 := by
  have he : n.pageGone now p = ({ n with rcv := { n.rcv with restores := n.rcv.restores.filter fun e => e.1 != p } } : Node).foldl (n.seqsWith p)
      fun n k => n.loseSeq now k 3 := by
    unfold Node.pageGone
    exact if_neg (not_not.mpr hp)
  rw [he]
  refine ⟨fun x hx => ?_, fun k hk ho => Node.loseSeqs_spec now 3 (n.seqsWith p) _ k hk ho⟩
  have hr : ∀ (m : Node) (j : Nat), (m.loseSeq now j 3).rcv.restores = m.rcv.restores := fun m j => by
    unfold Node.loseSeq
    dsimp only
    split
    · rfl
    · unfold Node.lossReport
      dsimp only
      rw [(Node.sequenceReply_frame ..).2]
      have h := congrArg (fun x : Node => x.rcv.restores) (m.ends_endAll now stSeqLost 0 false fun a => a.names j).core_eq
      exact h
  have hfold := Node.foldl_keeps (fun x : Node => x.rcv.restores) (n.seqsWith p) (fun n k => n.loseSeq now k 3) hr
    { n with rcv := { n.rcv with restores := n.rcv.restores.filter fun e => e.1 != p } }
  have hx' : x ∈ n.rcv.restores.filter fun e => e.1 != p := by
    rw [hfold] at hx
    exact hx
  simpa using (List.mem_filter.mp hx').2

end Sys2Proof.Machine
end

section
/-!
Replication messages, takeover commands and lost nodes (R455 to R462): O57.
-/

namespace Sys2Proof.Machine

/-! ### Replication messages (R455) -/

/-- A write of a sequence that comes in a cut's last message is held, and the cut acknowledged (R455). -/
theorem Node.replReceive_entry (n : Node) (now src : Nat) (v : Bytes) (e : JEntry) (q : Nat) (h1 : fieldB v 0 1 = 1) (ht : fieldB v 17 4 ≤ 1)
    (he : entriesOf v.length (v.drop 22) = [e]) (hk : e.kind = 1) (hno : ∀ c ∈ n.rcv.cutsIn, ¬(c.source = src ∧ c.round = fieldB v 1 8))
    (hq : n.route src = some q) :
    (n.replReceive now src v).rcv.heldJournal =
      n.rcv.heldJournal ++ [{ source := src, round := fieldB v 1 8, tick := fieldB v 9 8, entry := e }] ∧
    Map.find (n.replReceive now src v).rcv.cutsHeld src = some (fieldB v 1 8, fieldB v 9 8) ∧
    ∃ x, (n.replReceive now src v).queue q 4 = n.queue q 4 ++ [x] ∧ x.ftype = 5 ∧ x.dst = src ∧ x.bytes = leBytes 1 7 ++ leBytes 8 (fieldB v 1 8) := by
  have hhold : n.holdEntry src (fieldB v 1 8) (fieldB v 9 8) e =
      { n with rcv := { n.rcv with heldJournal := n.rcv.heldJournal ++ [{ source := src, round := fieldB v 1 8, tick := fieldB v 9 8, entry := e }] } } := by
    unfold Node.holdEntry
    dsimp only
    rw [if_neg (by omega), if_neg (by omega), if_neg (by omega)]
  have heq : n.replReceive now src v = (n.holdEntry src (fieldB v 1 8) (fieldB v 9 8) e).cutPart now src (fieldB v 1 8) (fieldB v 9 8) (fieldB v 17 4)
      (fieldB v 21 1) := by
    unfold Node.replReceive
    dsimp only
    rw [if_pos h1, he]
    rfl
  obtain ⟨m, hm, hcuts, hheld, hlinks, hcomp⟩ := Node.cutPart_last
    (n.holdEntry src (fieldB v 1 8) (fieldB v 9 8) e) now src (fieldB v 1 8) (fieldB v 9 8) (fieldB v 17 4) (fieldB v 21 1) ht (by rw [hhold]; exact hno)
  rw [hhold] at hcuts hheld hlinks hcomp
  rw [heq, hm, (m.sendNode_frame ..).1, hcuts, hheld]
  have hroute : m.route src = some q := by
    rw [← hq]
    unfold Node.route
    rw [hcomp]
  have hqueue : m.queue q 4 = n.queue q 4 := by
    unfold Node.queue
    rw [hlinks]
  rw [m.sendNode_queue now 5 4 src _ q _ hroute, hqueue]
  exact ⟨rfl, (Map.find_put ..).trans (if_pos rfl), _, rfl, rfl, rfl, rfl⟩

/-- A replica of a page of a slice that is BOUND is held (R454). -/
theorem Node.replReceive_replica (n m : Node) (now src : Nat) (v : Bytes) (h2 : fieldB v 0 1 = 2) (hb : (n.slice (fieldB v 21 1)).state = .bound)
    (hs : n.storeReplica src (fieldB v 22 4) (fieldB v 21 1) (v.drop 26) = some m) : ∃ r, (n.replReceive now src v).replicaOf src (fieldB v 22 4) = some r ∧
      r.slice = fieldB v 21 1 ∧ r.tokens = fieldB v 27 2 ∧ r.format = fieldB v 29 1 := by
  obtain ⟨r, hr, hsl, htok, hfmt⟩ := Node.storeReplica_spec n m _ _ _ _ hs
  rw [fieldB_drop] at htok hfmt
  refine ⟨r, ?_, hsl, htok, hfmt⟩
  have heq : n.replReceive now src v = m.cutPart now src (fieldB v 1 8) (fieldB v 9 8) (fieldB v 17 4) (fieldB v 21 1) := by
    unfold Node.replReceive
    dsimp only
    rw [if_neg (by omega), if_pos h2, if_neg (not_not.mpr hb), hs]
  rw [heq, ← hr]
  unfold Node.replicaOf
  rw [Node.cutPart_replicas]

theorem Node.partnerSuspect_spec (n : Node) (now : Nat) (m : CompMap) (c : Cut) (hm : n.comp.current = some m) (hc : c ∈ n.rcv.cuts) (hr : c.round < n.roundAt now)
    (hb : n.reg Reg.roundBase ≤ now) (hw : m.weltA ∈ c.waiting) : (n.partnerSuspect now).octet Reg.partnerState 0 ≠ 0 :=
  Node.suspects_spec m _ n hm (.inr (List.mem_flatMap.mpr ⟨c, List.mem_filter.mpr ⟨hc, by simp [hr, hb]⟩, hw⟩))

/-! ### Takeover (R460 to R462) -/

/-- A start of a takeover: refused with its code, or begun with the sequences in their order (R460). -/
theorem Node.takeoverCmd_start (n : Node) (w : Bytes) (h : fieldB w 0 1 = 1) : ∃ free : Bool,
    let lost := fieldB w 2 2 % 1024
    let spare := fieldB w 4 2 % 1024
    let code := firstCode [((Map.find n.rcv.cutsHeld lost).isNone, 1), (free, 2), (n.directPorts spare == [], 3)]
    (n.takeoverCmd w).reg Reg.takeoverResult = code ∧
    (n.takeoverCmd w).rcv = if code ≠ 0 then n.rcv else { n.rcv with takeovers := n.rcv.takeovers ++
      [{ lost := lost, spare := spare, slice := fieldB w 6 1, spareSlice := fieldB w 7 1, left := n.takeoverOrder lost (fieldB w 6 1) }] } := by
  refine ⟨Config.open 82 (leNat w + 2 ^ 200 * n.freeCount) % 2 == 1, ?_⟩
  unfold Node.takeoverCmd
  dsimp only
  rw [if_neg (by omega), if_pos h]
  generalize firstCode [((Map.find n.rcv.cutsHeld (fieldB w 2 2 % 1024)).isNone, 1), (Config.open 82 (leNat w + 2 ^ 200 * n.freeCount) % 2 == 1, 2),
    (n.directPorts (fieldB w 4 2 % 1024) == [], 3)] = code
  split
  · exact ⟨(Node.reg_setReg ..).trans (if_pos rfl), rfl⟩
  · exact ⟨(Node.reg_setReg ..).trans (if_pos rfl), rfl⟩

theorem Node.takeoverCmd_stop (n : Node) (w : Bytes) (h : fieldB w 0 1 = 2) : (n.takeoverCmd w).regs = n.regs ∧
    ∀ t, t ∈ (n.takeoverCmd w).rcv.takeovers ↔ t ∈ n.rcv.takeovers ∧ ¬(t.lost = fieldB w 2 2 % 1024 ∧ t.slice = fieldB w 6 1) := by
  unfold Node.takeoverCmd
  dsimp only
  rw [if_pos h]
  refine ⟨rfl, fun t => List.mem_filter.trans (and_congr_right fun _ => ?_)⟩
  simp [imp_iff_not_or]

theorem Node.sequenceRestored_spec (n m : Node) (now id : Nat) (c : Incoming) (hc : Map.find n.rcv.incoming id = some c) (hl : c.lost.isSome = true)
    (hm : n.openIncoming now id = some m) : ((n.sequenceRestored now id).seq (seqLocal id)).state = .opened ∧
      Map.find (n.sequenceRestored now id).rcv.incoming id = none := by
  obtain ⟨hs, hi⟩ := n.openIncoming_spec m now id hm
  obtain ⟨host, heq⟩ : ∃ host, n.sequenceRestored now id = m.sequenceReply now stDone 0x70 m.straps id c.session host (c.cutTick % 2 ^ 32) := by
    unfold Node.sequenceRestored
    rw [hc]
    dsimp only
    rw [if_neg (by simpa [Option.isNone_iff_eq_none, Option.isSome_iff_ne_none] using hl), hm]
    exact ⟨_, rfl⟩
  obtain ⟨f1, f2⟩ := m.sequenceReply_frame now stDone 0x70 m.straps id c.session host (c.cutTick % 2 ^ 32)
  rw [heq, f2, Node.seq, f1]
  exact ⟨hs, hi⟩

/-- A sequence of the roster that is lost is reported (R462, R463). -/
theorem Node.loseRoster_spec (n : Node) (now reason : Nat) (r : Roster) : ∃ l ∈ (n.loseRoster now reason r).rcv.losses, l.seqId = r.seqId ∧ l.reason = reason := by
  unfold Node.loseRoster
  split
  · next h =>
    obtain ⟨c, hc⟩ := Option.isSome_iff_exists.mp h
    obtain ⟨-, l, hl, hid, hre, -⟩ := n.loseIncoming_spec now r.seqId reason c hc
    exact ⟨l, hl, hid, hre⟩
  · exact ⟨_, (Node.lossReport_spec ..).2, rfl, rfl⟩

/-- Settles O57: a step of each event of recovery, by the lemmas of its rule. The layout of REPL messages is the model's (log entry 78), and whether the slice is BOUND
on the spare is free (log entry 82): a start of a takeover ends with code 2 or not, as that value says. -/
theorem recovery : Obligations.Recovery := by
  unfold Obligations.Recovery
  intro s
  have hstay : s.on s.node = .next s := State.on_eq s s.node
  refine ⟨fun hin hb hp ho hr => ⟨_, State.on_eq .., s.node.journalCut_spec _ hin hb hp ho hr⟩, fun h => ?_, fun src v => ?_, fun m c hm hc hr hb => ?_,
    fun page r hr hs => ?_, fun page d hd ht hs => ?_, fun via v => ?_, fun via v => ?_, fun id c m hc hl hm => ?_, fun t ht => ⟨fun hlt => ?_, fun x r hle hx hr => ?_⟩⟩
  · show s.on (s.node.journalCut s.clock.tick) = _
    rw [s.node.journalCut_idle _ h]
    exact hstay
  · refine ⟨fun e q h1 ht he hk hno hq => ?_, fun m h2 hb hs => ?_, fun c hc hw => ⟨_, State.on_eq .., s.node.cutAck_last _ v c hc hw⟩,
      fun c hc hw => ⟨_, State.on_eq .., s.node.cutAck_more _ v c hc hw⟩, fun h => ⟨_, State.on_eq .., s.node.rosterReceive_one v h⟩⟩
    · obtain ⟨hj, hcut, x, hx⟩ := s.node.replReceive_entry s.clock.tick src.toNat v e q h1 ht he hk hno hq
      exact ⟨_, x, State.on_eq .., hj, hcut, hx⟩
    · obtain ⟨r, hr⟩ := s.node.replReceive_replica m s.clock.tick src.toNat v h2 hb hs
      exact ⟨_, r, State.on_eq .., hr⟩
  · exact ⟨_, State.on_eq .., s.node.partnerSuspect_spec s.clock.tick m c hm hc hr hb⟩
  · obtain ⟨hp, h⟩ := s.node.pageRestore_spec page.toNat r hr hs
    refine ⟨_, State.on_eq s (s.node.pageRestore page.toNat), ?_⟩
    obtain ⟨h1, h2, h3, h4, h5⟩ := h
    rw [hp] at h1 h2 h4 h5
    exact ⟨h1, h2, h3, h4, h5⟩
  · have hexec : exec (.pageRestoreTimeout page) s = s.on (s.node.pageGone s.clock.tick page.toNat) := by
      show s.on (if _ then _ else _) = _
      rw [if_pos (List.any_eq_true.mpr ⟨_, hd, by simp [ht]⟩)]
    exact ⟨_, hexec.trans (State.on_eq ..), s.node.pageGone_spec s.clock.tick page.toNat hs⟩
  · refine State.accepts_of s (.takeoverStart via v) via 0x3504 1 (forceOp 1 v) (fun n => n.takeoverCmd (forceOp 1 v)) _ rfl ?_
    obtain ⟨sec, haw⟩ := s.node.noteAwl_eq via
    rw [haw]
    obtain ⟨free, hcode, hrcv⟩ := Node.takeoverCmd_start { s.node with sec := sec } (forceOp 1 v) rfl
    dsimp only at hcode hrcv ⊢
    rw [hcode, hrcv]
    refine ⟨fun h => ?_, fun h hd => ?_, fun h hd => ?_, fun h => by rw [if_neg (not_not.mpr h)]; rfl, fun h => by rw [if_pos h]⟩
    · rw [h]
      rfl
    · obtain ⟨y, hy⟩ := Option.isSome_iff_exists.mp h
      rw [hy, show ({ s.node with sec := sec } : Node).directPorts (fieldB (forceOp 1 v) 4 2 % 1024) = [] from hd]
      cases free
      · exact .inr rfl
      · exact .inl rfl
    · obtain ⟨y, hy⟩ := Option.isSome_iff_exists.mp h
      rw [hy, show (({ s.node with sec := sec } : Node).directPorts (fieldB (forceOp 1 v) 4 2 % 1024) == []) = false from beq_eq_false_iff_ne.mpr hd]
      cases free
      · exact .inl rfl
      · exact .inr rfl
  · refine State.accepts_of s (.takeoverStop via v) via 0x3504 1 (forceOp 2 v) (fun n => n.takeoverCmd (forceOp 2 v)) _ rfl ?_
    obtain ⟨sec, haw⟩ := s.node.noteAwl_eq via
    rw [haw]
    exact Node.takeoverCmd_stop { s.node with sec := sec } (forceOp 2 v) rfl
  · exact ⟨_, State.on_eq .., s.node.sequenceRestored_spec m s.clock.tick id.toNat c hc hl hm⟩
  · have hexec : exec .takeoverTimeout s = s.on s.node := by
      show execTakeoverTimeout s = _
      unfold execTakeoverTimeout
      dsimp only
      rw [ht]
      exact if_pos hlt
    exact hexec.trans hstay
  · obtain ⟨l, hl, hid, hre⟩ := s.node.loseRoster_spec s.clock.tick 2 r
    have hfold : s.node.foldl s.node.rcv.takeoverNodes (fun n x => n.foldl (n.rosterOpen x) fun n r => n.loseRoster s.clock.tick 2 r) =
        s.node.loseRoster s.clock.tick 2 r := by
      rw [hx]
      show s.node.foldl (s.node.rosterOpen x) _ = _
      rw [hr]
      rfl
    have hexec : exec .takeoverTimeout s = s.on { s.node.loseRoster s.clock.tick 2 r with
        rcv := { (s.node.loseRoster s.clock.tick 2 r).rcv with takeoverDue := none, takeoverNodes := [] } } := by
      show execTakeoverTimeout s = _
      unfold execTakeoverTimeout
      dsimp only
      rw [ht]
      dsimp only
      rw [if_neg (by omega), hfold]
    exact ⟨_, hexec.trans (State.on_eq ..), rfl, rfl, l, hl, hid, hre⟩

end Sys2Proof.Machine
end

section
/-!
Requests that arrive, and ABORT (R63, R69, R87): O34.
-/

namespace Sys2Proof.Machine

/-! ### What arriving leaves -/

/-- The node with the activity of a request's session noted (R69). -/
def Node.stirred (n : Node) (now : Nat) (r : Request) : Node :=
  if (n.session r.sess).state = 0 then n else n.setSession r.sess { n.session r.sess with lastActivity := now - 1 }

/-- A node that differs from `n` in the activity of sessions only. -/
structure Node.Stirs (n m : Node) : Prop where
  adm : ∃ ss, m = { n with adm := { n.adm with sessions := ss } }
  session : ∀ k, (m.session k).state = (n.session k).state ∧ (m.session k).tenant = (n.session k).tenant ∧ (m.session k).slice = (n.session k).slice ∧
    (m.session k).replyPort = (n.session k).replyPort

theorem Node.stirs (n : Node) (now : Nat) (r : Request) : n.Stirs (n.stirred now r) := by
  unfold Node.stirred
  split
  · exact ⟨⟨_, rfl⟩, fun _ => ⟨rfl, rfl, rfl, rfl⟩⟩
  · refine ⟨⟨_, rfl⟩, fun k => ?_⟩
    rw [Node.session_setSession]
    split
    · next h => exact h ▸ ⟨rfl, rfl, rfl, rfl⟩
    · exact ⟨rfl, rfl, rfl, rfl⟩

theorem Node.Stirs.replyPort {n m : Node} (h : n.Stirs m) (r : Request) : m.replyPort r = n.replyPort r := by
  obtain ⟨hst, -, -, hp⟩ := h.session r.hdr.session.toNat
  unfold Node.replyPort
  dsimp only
  rw [hst, hp]

theorem Node.Stirs.statusPort {n m : Node} (h : n.Stirs m) (p s : Nat) : m.statusPort p s = n.statusPort p s := by
  obtain ⟨ss, rfl⟩ := h.adm
  exact Node.statusPort_congr (fun _ => rfl) rfl p s

theorem Node.Stirs.abortCheck {n m : Node} (h : n.Stirs m) (r : Request) : m.abortCheck r = n.abortCheck r := by
  obtain ⟨hst, hten, hsl, -⟩ := h.session r.sess
  obtain ⟨ss, hm⟩ := h.adm
  have hslice : ∀ k, m.slice k = n.slice k := fun k => by rw [hm]; rfl
  unfold Node.abortCheck
  dsimp only
  rw [hst, hten, hsl, hslice]

theorem Node.Stirs.windowAt {n m : Node} (h : n.Stirs m) (t kind target : Nat) : m.windowAt t kind target = n.windowAt t kind target := by
  obtain ⟨ss, rfl⟩ := h.adm
  rfl

/-- The window that is open depends on the active last and the tick only. -/
theorem Node.windowAt_congr {n m : Node} (hs : m.sched = n.sched) (hr : ∀ k, k ≠ Reg.refused → m.reg k = n.reg k) (t kind target : Nat) :
    m.windowAt t kind target = n.windowAt t kind target := by
  unfold Node.windowAt Node.offset
  rw [hs, hr _ (by decide), hr _ (by decide)]

/-- A request arrives: in the pool, or refused where the pool is full (R69). -/
theorem Node.arrive_eq (n : Node) (now : Nat) (r : Request) (h : r.op ≠ opAbort) : n.arrive now r =
    if (n.stirred now r).reg Reg.poolSize ≤ (n.stirred now r).adm.pool.length then (n.stirred now r).refuse now r stNotAdmitted 0x31 0xFFFFFFFF
    else { n.stirred now r with adm := { (n.stirred now r).adm with pool := insertBy poolBefore (waitingFor now r) (n.stirred now r).adm.pool } } := by
  unfold Node.arrive
  dsimp only
  rw [if_neg h]
  rfl

theorem Node.admitTick_idle (n : Node) (now : Nat) (h : n.windowAt now 1 0xFFFF = none) : n.admitTick now = n := by
  unfold Node.admitTick
  rw [h]

/-- A refused request is answered with a status entry at its port, and counted (R71, R76). -/
theorem Node.refuse_spec (n : Node) (now : Nat) (r : Request) (status detail info : Nat) (hp : n.replyPort r < 48) :
    ∃ m rep, (n.refuse now r status detail info).adm = n.adm ∧ (n.refuse now r status detail info).sched = n.sched ∧
      (n.refuse now r status detail info).reg Reg.refused = (n.reg Reg.refused + 1) % 2 ^ 64 ∧
      (∀ k, k ≠ Reg.refused → (n.refuse now r status detail info).reg k = n.reg k) ∧
      (n.refuse now r status detail info).queue (n.statusPort (n.replyPort r) (n.session r.sess).slice) 7 =
        n.queue (n.statusPort (n.replyPort r) (n.session r.sess).slice) 7 ++ [m] ∧
      m.reply = some rep ∧ rep.status = status ∧ rep.detail = detail ∧ rep.requestId = r.hdr.requestId.toNat ∧ rep.body = [] := by
  obtain ⟨m, he, hm⟩ := (n.bump Reg.refused).queueReply_status now (n.replyPort r) (r.reply status detail info []) none 0 0 hp rfl
  have hport : (n.bump Reg.refused).statusPort (n.replyPort r) ((n.bump Reg.refused).session r.sess).slice =
      n.statusPort (n.replyPort r) (n.session r.sess).slice :=
    Node.statusPort_congr (fun p => Node.reg_bump_ne _ _ _ (by simp only [linkKey, Reg.portState, Reg.refused]; omega)) rfl _ _
  have hq : n.refuse now r status detail info = (n.bump Reg.refused).enqueue (n.statusPort (n.replyPort r) (n.session r.sess).slice) 7 m :=
    he.trans (congrArg (fun p => (n.bump Reg.refused).enqueue p 7 m) hport)
  refine ⟨m, _, ?_, ?_, ?_, fun k hk => ?_, ?_, hm, rfl, rfl, rfl, rfl⟩
  · rw [hq]; rfl
  · rw [hq]; rfl
  · rw [hq]
    exact n.reg_bump Reg.refused _ rfl
  · rw [hq]
    exact n.reg_bump_ne Reg.refused k hk
  · rw [hq]
    exact (n.bump Reg.refused).queue_enqueue_same ..

/-! ### The request opcodes -/

/-- Every row that is a request makes one arrive, of an opcode that is not ABORT's. -/
theorem requestRows_exec : ∀ e ∈ requestRows, ∀ (r : Request) (s : State), exec (e.1 r) s = s.request (e.2 r) ∧ (e.2 r).op ≠ opAbort ∧
    (e.2 r).hdr.requestId = r.hdr.requestId := by
  intro e he r s
  simp only [requestRows, List.mem_cons, List.not_mem_nil, or_false] at he
  rcases he with rfl | rfl | rfl | rfl | rfl | rfl | rfl | rfl | rfl | rfl | rfl | rfl | rfl | rfl | rfl | rfl <;>
    exact ⟨rfl, (by decide : BitVec.toNat (BitVec.ofNat 8 _) ≠ opAbort), rfl⟩

/-- With no ADMIT window open a request only arrives. -/
theorem State.request_idle (s : State) (r : Request) (h : (s.node.arrive s.clock.tick r).windowAt s.clock.tick 1 0xFFFF = none) :
    s.request r = s.on (s.node.arrive s.clock.tick r) := by
  unfold State.request
  dsimp only
  rw [Node.admitTick_idle _ _ h, ite_self]

/-! ### ABORT -/

/-- A reply queued leaves the pool, and admits nothing. -/
theorem Node.mem_queueReply (n : Node) (now port : Nat) (rep : Reply) (notice : Option Nat) (w b : Nat) :
    ∀ x ∈ (n.queueReply now port rep notice w b).adm.admitted, x ∈ n.adm.admitted := by
  unfold Node.queueReply
  dsimp only
  split
  · split <;> exact fun _ h => h
  · split
    · exact fun _ h => h
    · split
      · exact fun x h => (List.mem_filter.mp h).1
      · exact fun _ h => h

theorem Node.endRequest_pool (n : Node) (now key status detail : Nat) : (n.endRequest now key status detail).adm.pool = n.adm.pool := by
  unfold Node.endRequest
  split
  · rfl
  · next q _ =>
    split
    · rfl
    · show (Node.queueReply ..).adm.pool = _
      rw [(Node.queueReply_keeps ..).2.1, n.undo_adm]

/-- An ABORT of an open request ends it (R87). -/
theorem Node.abort_open (n : Node) (now : Nat) (r : Request) (q : Admitted) (hc : n.abortCheck r = none)
    (hp : n.adm.pool.any (fun w => w.req.key == reqKey r.sess (r.arg 32 4)) = false) (hq : n.admitted? (reqKey r.sess (r.arg 32 4)) = some q) (h2 : q.phase < 2) :
    (n.abort now r).adm.pool = n.adm.pool ∧ ∀ x ∈ (n.abort now r).adm.admitted, x.req.key = reqKey r.sess (r.arg 32 4) → x.phase = 2 := by
  have he : n.abort now r = (n.endRequest now (reqKey r.sess (r.arg 32 4)) stAborted 0).abortReply now r stDone := by
    unfold Node.abort
    rw [hc]
    dsimp only
    rw [if_neg (by rw [hp]; decide), hq]
    exact if_neg (Nat.not_le.mpr h2)
  rw [he]
  refine ⟨((Node.queueReply_keeps ..).2.1).trans (n.endRequest_pool ..), fun x hx hk => ?_⟩
  exact n.endRequest_phase now _ stAborted 0 q hq h2 x (Node.mem_queueReply _ _ _ _ _ _ _ x hx) hk

/-- Settles O34: what arriving does, by the room in the pool; ABORT by its checks. The port that takes the status entry of a request whose own port is not in service is
the model's choice (log entry 131), and so is the port of a request with no open session (log entry 12). -/
theorem requestArrives : Obligations.RequestArrives := by
  unfold Obligations.RequestArrives
  refine ⟨fun e he r s hw hroom => ?_, fun e he r s hw hfull hp => ?_, fun r s q => ?_⟩
  · obtain ⟨hexec, hop, -⟩ := requestRows_exec e he r s
    have hs := s.node.stirs s.clock.tick (e.2 r)
    have harr := s.node.arrive_eq s.clock.tick (e.2 r) hop
    generalize s.node.stirred s.clock.tick (e.2 r) = m at hs harr
    have hwin := hs.windowAt s.clock.tick 1 0xFFFF
    obtain ⟨ss, rfl⟩ := hs.adm
    replace harr := harr.trans (if_neg (Nat.not_le.mpr hroom))
    refine ⟨s.node.arrive s.clock.tick (e.2 r), hexec.trans ((s.request_idle _ ?_).trans (State.on_eq ..)), ?_⟩
    · rw [harr]
      exact hwin.trans hw
    · rw [harr]
      exact ⟨rfl, rfl, rfl, rfl, rfl⟩
  · obtain ⟨hexec, hop, hid⟩ := requestRows_exec e he r s
    have hs := s.node.stirs s.clock.tick (e.2 r)
    have harr := s.node.arrive_eq s.clock.tick (e.2 r) hop
    generalize s.node.stirred s.clock.tick (e.2 r) = m at hs harr
    have hwin := hs.windowAt s.clock.tick 1 0xFFFF
    obtain ⟨out, rep, hadm, hsched, hcount, hreg, hqueue, hrep, hst, hdet, hreq, hbody⟩ :=
      m.refuse_spec s.clock.tick (e.2 r) stNotAdmitted 0x31 0xFFFFFFFF (by rw [hs.replyPort]; exact hp)
    rw [hs.replyPort, (hs.session _).2.2.1, hs.statusPort] at hqueue
    obtain ⟨ss, rfl⟩ := hs.adm
    replace harr := harr.trans (if_pos hfull)
    intro p
    refine ⟨s.node.arrive s.clock.tick (e.2 r), out, rep, hexec.trans ((s.request_idle _ ?_).trans (State.on_eq ..)), ?_⟩
    · rw [harr, Node.windowAt_congr hsched (fun k hk => hreg k hk)]
      exact hwin.trans hw
    · rw [harr, hadm]
      exact ⟨rfl, rfl, hcount, hqueue, hrep, hst, hdet, hreq.trans (congrArg BitVec.toNat hid), hbody⟩
  · intro a key hc hp hq h2
    have hs := s.node.stirs s.clock.tick a
    have harr : s.node.arrive s.clock.tick a = (s.node.stirred s.clock.tick a).abort s.clock.tick a := by
      unfold Node.arrive
      exact if_pos rfl
    generalize s.node.stirred s.clock.tick a = m at hs harr
    have hcheck := (hs.abortCheck a).trans hc
    obtain ⟨ss, rfl⟩ := hs.adm
    refine ⟨s.node.arrive s.clock.tick a, State.on_eq .., ?_⟩
    rw [harr]
    exact Node.abort_open _ s.clock.tick a q hcheck hp hq h2

end Sys2Proof.Machine
end

section
/-!
What placing a request keeps of it, and what booking keeps of the node (R74 to R76).
-/

namespace Sys2Proof.Machine

/-! ### The request that is placed -/

theorem Node.placeItems_req (n : Node) (s hi : Nat) (l : List (Item × Nat)) (q q' : Admitted) (h : n.placeItems s hi l q = some q') : q'.req = q.req := by
  induction l generalizing q with
  | nil => exact (Option.some.inj h) ▸ rfl
  | cons e t ih =>
    unfold Node.placeItems at h
    dsimp only at h
    split at h
    · cases h
    · exact (ih _ h).trans rfl

theorem Node.placeStages_req (n : Node) (l : List (List (Item × Nat))) (ready : Nat) (q q' : Admitted) (h : n.placeStages ready l q = some q') : q'.req = q.req := by
  induction l generalizing q ready with
  | nil => exact (Option.some.inj h) ▸ rfl
  | cons e t ih =>
    unfold Node.placeStages at h
    split at h
    · cases h
    · next q1 h1 => exact (ih _ _ h).trans (n.placeItems_req _ _ _ q q1 h1)

theorem Node.placeMerge_req (n : Node) (r cycles lo g : Nat) (q : Admitted) (x : Nat × Admitted) (h : n.placeMerge r cycles lo g q = some x) : x.2.req = q.req := by
  unfold Node.placeMerge at h
  obtain ⟨b, -, rfl⟩ := Option.map_eq_some_iff.mp h
  rfl

theorem Node.placeBlock_req (n : Node) (k ready : Nat) (l : List (Nat × List Item)) (g : Nat) (q : Admitted) (x : Nat × Nat × Admitted)
    (h : n.placeBlock k ready l g q = some x) : x.2.2.req = q.req := by
  induction l generalizing g q x with
  | nil => exact (Option.some.inj h) ▸ rfl
  | cons e t ih =>
    unfold Node.placeBlock at h
    split at h
    · exact ih _ _ _ h
    · split at h
      · cases h
      · next q1 h1 =>
        dsimp only at h
        split at h
        · cases h
        · next gr q2 h2 =>
          obtain ⟨y, hy, rfl⟩ := Option.map_eq_some_iff.mp h
          exact ((ih _ _ _ hy).trans (n.placeMerge_req _ _ _ _ q1 (gr, q2) h2)).trans (n.placeItems_req _ _ _ q q1 h1)

theorem Node.placeScan_req (n : Node) (k ready : Nat) (rs : List (Nat × List Item)) (q : Admitted) (x : Nat × Admitted) (h : n.placeScan k ready rs q = some x) :
    x.2.req = q.req := by
  unfold Node.placeScan at h
  split at h
  · cases h
  · next g regions q1 h1 =>
    have hq := n.placeBlock_req k ready rs ready q (g, regions, q1) h1
    dsimp only at h
    split at h
    · exact (Option.some.inj h) ▸ hq
    · exact (n.placeMerge_req _ _ _ _ q1 x h).trans hq

theorem Node.placeRed_req (n : Node) (w : Work) (now : Nat) (q : Admitted) (x : Nat × Admitted) (h : n.placeRed w now q = some x) : x.2.req = q.req := by
  unfold Node.placeRed at h
  dsimp only at h
  split at h
  · exact (Option.some.inj h) ▸ rfl
  · obtain ⟨b, -, rfl⟩ := Option.map_eq_some_iff.mp h
    rfl

/-- The coarse stage of a search (R333): when it is done, and the request with its items. -/
def Node.placeCoarse (n : Node) (now : Nat) (sw : SearchWork) (q : Admitted) : Option (Nat × Admitted) :=
  (n.placeStages 0 [sw.coarse.map fun i => (i, now + 1)] q).map fun q => (q.items.foldl (fun m i => Nat.max m i.endTick) now, q)

/-- The coarse stage and the scans of its lists. -/
def Node.placeLists (n : Node) (now : Nat) (sw : SearchWork) (q : Admitted) : Option (Nat × Admitted) :=
  if sw.ivf = [] then n.placeCoarse now sw q else (n.placeCoarse now sw q).bind fun c => n.placeScan sw.k (c.1 + n.reg Reg.meshTicks) sw.ivf c.2

theorem Node.placeWork_eq (n : Node) (now : Nat) (w : Work) (q : Admitted) : n.placeWork now w q =
    match w.search with
    | none => (n.placeStages 0 w.stages q).bind fun q => n.placeRed w now q
    | some sw => if sw.tree = [] then n.placeLists now sw q else (n.placeLists now sw q).bind fun c =>
        (n.placeScan sw.k (now + n.reg Reg.meshTicks) sw.tree c.2).map fun d => (Nat.max c.1 d.1, d.2) := rfl

theorem Node.placeCoarse_req (n : Node) (now : Nat) (sw : SearchWork) (q : Admitted) (x : Nat × Admitted) (h : n.placeCoarse now sw q = some x) :
    x.2.req = q.req := by
  obtain ⟨q1, h1, rfl⟩ := Option.map_eq_some_iff.mp h
  exact n.placeStages_req _ _ q q1 h1

theorem Node.placeLists_req (n : Node) (now : Nat) (sw : SearchWork) (q : Admitted) (x : Nat × Admitted) (h : n.placeLists now sw q = some x) :
    x.2.req = q.req := by
  unfold Node.placeLists at h
  split at h
  · exact n.placeCoarse_req now sw q x h
  · obtain ⟨c, hc, hs⟩ := Option.bind_eq_some_iff.mp h
    exact (n.placeScan_req _ _ _ c.2 x hs).trans (n.placeCoarse_req now sw q c hc)

theorem Node.placeWork_req (n : Node) (now : Nat) (w : Work) (q : Admitted) (x : Nat × Admitted) (h : n.placeWork now w q = some x) : x.2.req = q.req := by
  rw [n.placeWork_eq] at h
  cases hw : w.search with
  | none =>
    rw [hw] at h
    obtain ⟨q1, h1, h2⟩ := Option.bind_eq_some_iff.mp h
    exact (n.placeRed_req w now q1 x h2).trans (n.placeStages_req _ _ q q1 h1)
  | some sw =>
    rw [hw] at h
    dsimp only at h
    split at h
    · exact n.placeLists_req now sw q x h
    · obtain ⟨c, hc, h2⟩ := Option.bind_eq_some_iff.mp h
      obtain ⟨d, hd, rfl⟩ := Option.map_eq_some_iff.mp h2
      exact (n.placeScan_req _ _ _ c.2 d hd).trans (n.placeLists_req now sw q c hc)

theorem Node.placeSend_req (n : Node) (w : Work) (g : Nat) (q q' : Admitted) (s : Nat) (q6 : Bool) (h : n.placeSend w g q = some (s, q6, some q')) :
    q'.req = q.req := by
  unfold Node.placeSend at h
  split at h
  · cases h
  · next a sb hb =>
    dsimp only at h
    split at h
    · cases h
    · split at h
      · cases h
      · split at h
        · split at h
          · cases h
          · cases h
            rfl
        · cases h
          rfl

/-- A request that finds its places is the same request (R74). -/
theorem Node.place_req (n : Node) (now : Nat) (w : Work) (q q' : Admitted) (h : n.place now w q = .ok q') : q'.req = q.req := by
  unfold Node.place at h
  dsimp only at h
  split at h
  · cases h
  · next g q1 h1 =>
    have hw := n.placeWork_req now w _ (g, q1) h1
    split at h
    · cases h
    · next s q6 q2 h2 =>
      have hs := n.placeSend_req w g q1 q2 s q6 h2
      split at h
      · cases h
      · exact (Placed.ok.inj h) ▸ hs.trans hw
    · cases h

end Sys2Proof.Machine
end

section
/-!
What the bookings of an admission leave (R74 to R76, R106 to R109).
-/

namespace Sys2Proof.Machine

/-- A step that leaves the requests and the count of admissions. -/
def Node.Books (n m : Node) : Prop := m.adm = n.adm ∧ m.reg Reg.admitted = n.reg Reg.admitted

namespace Node.Books

variable {n m l : Node}

theorem refl (n : Node) : n.Books n := ⟨rfl, rfl⟩

theorem trans (h : n.Books m) (h' : m.Books l) : n.Books l := ⟨h'.1.trans h.1, h'.2.trans h.2⟩

theorem of_regs (ha : m.adm = n.adm) (hr : m.regs = n.regs) : n.Books m := ⟨ha, Node.reg_congr hr _⟩

theorem bump (n : Node) {k : Nat} (hk : Reg.admitted ≠ k) : n.Books (n.bump k) := ⟨rfl, n.reg_bump_ne k _ hk⟩

theorem bumpBy (n : Node) {k : Nat} (d : Nat) (hk : Reg.admitted ≠ k) : n.Books (n.bumpBy k d) := ⟨rfl, (Node.reg_setReg ..).trans (if_neg hk)⟩

theorem foldl {α : Type} {f : Node → α → Node} (h : ∀ (n : Node) x, n.Books (f n x)) (xs : List α) (n : Node) : n.Books (n.foldl xs f) := by
  induction xs generalizing n with
  | nil => exact refl n
  | cons x t ih => exact (h n x).trans (ih _)

end Node.Books

/-! ### Slots and reads -/

theorem Node.books_dropSlots (n : Node) (gs : List Nat) : n.Books (n.foldl gs fun n g => n.dropSlot g) :=
  .foldl (fun n g => show n.Books (n.dropSlot g) from .of_regs rfl rfl) gs n

theorem Node.books_takeLowest (s stack c : Nat) (n m : Node) (gs : List Nat) (h : n.takeLowest s stack c = some (gs, m)) : n.Books m := by
  induction c generalizing n gs with
  | zero => cases h; exact .refl _
  | succ c ih =>
    unfold Node.takeLowest at h
    split at h
    · cases h
    · obtain ⟨x, hx, he⟩ := Option.map_eq_some_iff.mp h
      cases he
      exact (Node.Books.of_regs rfl rfl : n.Books (n.takeSlot s _)).trans (ih _ _ hx)

theorem Node.books_takeListSlots (slice : Nat) (d : VIndex) (l : List (Nat × List VRec)) (n m : Node) (gs : List Nat) (h : n.takeListSlots slice d l = some (gs, m)) :
    n.Books m := by
  induction l generalizing n gs with
  | nil => cases h; exact .refl _
  | cons e t ih =>
    unfold Node.takeListSlots at h
    split at h
    · cases h
    · next g1 m1 h1 =>
      obtain ⟨x, hx, he⟩ := Option.map_eq_some_iff.mp h
      cases he
      exact (Node.books_takeLowest _ _ _ n m1 g1 h1).trans (ih _ _ hx)

theorem Node.books_bookReads (slice s d key : Nat) (l : List (Nat × Nat)) (n m : Node) (h : n.bookReads slice s d key l = some m) : n.Books m := by
  induction l generalizing n with
  | nil => cases h; exact .refl _
  | cons e t ih =>
    unfold Node.bookReads at h
    split at h
    · split at h
      · cases h
      · next n' h' =>
        refine Node.Books.trans ?_ (ih _ h)
        unfold Node.bookRead at h'
        repeat' split at h'
        all_goals cases h'
        exact .of_regs rfl rfl
    · exact ih _ h

theorem Node.books_bookTiles (region s d fuel : Nat) (n m : Node) (slot last x : Nat) (h : Node.bookTiles n region s d fuel slot last = some (x, m)) : n.Books m := by
  induction fuel generalizing n slot last with
  | zero => cases h; exact .refl _
  | succ fuel ih =>
    unfold Node.bookTiles at h
    split at h
    · cases h
    · refine Node.Books.trans ?_ (ih _ _ _ h)
      exact .of_regs rfl rfl

theorem Node.books_bookWeights (slice home s d : Nat) (l : List Nat) (n m : Node) (t x : Nat) (h : n.bookWeights slice home s d l t = some (x, m)) : n.Books m := by
  induction l generalizing n t with
  | nil => cases h; exact .refl _
  | cons w rest ih =>
    unfold Node.bookWeights at h
    dsimp only at h
    split at h
    · split at h
      · cases h
      · split at h
        · cases h
        · next gs n1 h1 =>
          split at h
          · cases h
          · next last n2 h2 =>
            have hb := (Node.books_takeLowest _ _ _ n n1 gs h1).trans (Node.books_bookTiles _ _ _ _ n1 n2 _ _ last h2)
            refine hb.trans (.trans ?_ (ih _ _ h))
            exact .of_regs rfl rfl
    · split at h
      · exact ih _ _ h
      · exact ih _ _ h

theorem Node.books_reserveGrads (now k slice slots : Nat) (l : List (Nat × Nat × Nat)) (n m : Node) (h : n.reserveGrads now k slice slots l = some m) : n.Books m := by
  induction l generalizing n with
  | nil => cases h; exact .refl _
  | cons e t ih =>
    unfold Node.reserveGrads at h
    split at h
    · cases h
    · next g _ =>
      have hf := Node.Books.foldl (f := fun n j => (n.takeSlot slice (g + j)).fillSlot (g + j) (0x40000000 + gradKey k e.1 e.2.1 % 2 ^ 30)
        (n.tagOf false kindGradient slice)) (fun n j => .of_regs rfl rfl) (List.range slots) n
      refine hf.trans (.trans ?_ (ih _ h))
      exact .of_regs rfl rfl

theorem Node.books_cancelSpill (n : Node) (p : Nat) : n.Books (n.cancelSpill p) := by
  unfold Node.cancelSpill
  dsimp only
  split
  · exact .refl n
  · split
    · exact .trans (.of_regs rfl rfl) (.bump _ (by decide))
    · exact .trans (.of_regs rfl rfl) (.bump _ (by decide))

theorem Node.books_takePages (n : Node) (ps : List Nat) : n.Books (n.takePages ps) := .foldl (fun n p => by
  dsimp only
  split
  · exact (n.books_cancelSpill p).trans (.of_regs rfl rfl)
  · exact n.books_cancelSpill p) ps n

theorem Node.books_setTracks (n : Node) (k : Nat) (ts : List Nat) (f : Track → Track) : n.Books (n.foldl ts fun n t => n.setTrack k t f) :=
  .foldl (fun n t => show n.Books (n.setTrack k t f) from .of_regs rfl rfl) ts n

theorem Node.books_freeGrads (n : Node) (k : Nat) : n.Books (n.freeGrads k) := by
  unfold Node.freeGrads
  refine .trans ?_ (.foldl (fun n e => .foldl (fun n i => ?_) _ n) _ _)
  · exact .of_regs rfl rfl
  · exact .of_regs rfl rfl

/-- No gradient record of the sequence is left (R232). -/
theorem Node.freeGrads_grads (n : Node) (k : Nat) : ∀ g ∈ (n.freeGrads k).grads, g.2.seq ≠ k := by
  have he : (n.freeGrads k).grads = n.grads.filter fun e => e.2.seq != k :=
    Node.foldl_keeps (fun x : Node => x.grads) (n.grads.filter fun e => e.2.seq == k)
      (fun (x : Node) (e : Nat × Grad) => x.foldl (List.range e.2.count) fun n i => n.dropSlot (e.2.slot + i))
      (fun x e => Node.foldl_keeps (fun x : Node => x.grads) (List.range e.2.count) (fun (n : Node) i => n.dropSlot (e.2.slot + i)) (fun _ _ => rfl) x)
      { n with grads := n.grads.filter fun e => e.2.seq != k }
  intro g hg
  rw [he] at hg
  simpa using (List.mem_filter.mp hg).2

/-! ### Sequences that are opened and forked -/

theorem Node.books_newPage (n : Node) (s format g : Nat) (st : PState) : n.Books (n.newPage s format g st).2 := .of_regs rfl rfl

theorem Node.books_takeSeq (n : Node) : n.Books n.takeSeq := by
  unfold Node.takeSeq
  split
  · exact .refl n
  · split <;> exact .of_regs rfl rfl

/-- The pages of a sequence that is opened: one TAIL and one SPARE for each track (R109). -/
theorem Node.openPages_spec (s format c : Nat) (n m : Node) (st : Option Nat) (ps : List (Nat × Nat)) (h : n.openPages s format st c = some (ps, m)) :
    n.Books m ∧ ps.length = c := by
  induction c generalizing n st ps with
  | zero => cases h; exact ⟨.refl _, rfl⟩
  | succ c ih =>
    unfold Node.openPages at h
    dsimp only at h
    split at h
    · cases h
    · split at h
      · cases h
      · obtain ⟨x, hx, he⟩ := Option.map_eq_some_iff.mp h
        cases he
        obtain ⟨hb, hl⟩ := ih _ _ _ hx
        exact ⟨((Node.books_newPage ..).trans (Node.books_newPage ..)).trans hb, by rw [List.length_cons, hl]⟩

theorem Node.books_forkPages (s format pi : Nat) (l : List Track) (n m : Node) (ps : List (Nat × Nat)) (h : n.forkPages s format pi l = some (ps, m)) : n.Books m := by
  induction l generalizing n ps with
  | nil => cases h; exact .refl _
  | cons t rest ih =>
    unfold Node.forkPages at h
    dsimp only at h
    repeat' split at h
    all_goals try cases h
    obtain ⟨x, hx, he⟩ := Option.map_eq_some_iff.mp h
    cases he
    exact ((Node.books_newPage ..).trans (Node.books_newPage ..)).trans (ih _ _ hx)

/-- A step that keeps the head of a sequence: its state, its identifier, its parent and how many tracks it has. -/
def Node.Heads (c : Nat) (n m : Node) : Prop := (m.seq c).state = (n.seq c).state ∧ (m.seq c).id = (n.seq c).id ∧ (m.seq c).parent = (n.seq c).parent ∧
  (m.seq c).tracks.length = (n.seq c).tracks.length

namespace Node.Heads

variable {c : Nat} {n m l : Node}

theorem of_eq (h : m.seqs.seqs = n.seqs.seqs) : n.Heads c m := by
  have hk : m.seq c = n.seq c := by rw [Node.seq, h]; rfl
  unfold Node.Heads
  rw [hk]
  exact ⟨rfl, rfl, rfl, rfl⟩

theorem trans (h : n.Heads c m) (h' : m.Heads c l) : n.Heads c l :=
  ⟨h'.1.trans h.1, h'.2.1.trans h.2.1, h'.2.2.1.trans h.2.2.1, h'.2.2.2.trans h.2.2.2⟩

theorem foldl {α : Type} {f : Node → α → Node} (h : ∀ (n : Node) x, n.Heads c (f n x)) (xs : List α) (n : Node) : n.Heads c (n.foldl xs f) := by
  induction xs generalizing n with
  | nil => exact of_eq rfl
  | cons x t ih => exact (h n x).trans (ih _)

end Node.Heads

theorem Node.heads_setTrack (c : Nat) (n : Node) (k t : Nat) (f : Track → Track) : n.Heads c (n.setTrack k t f) := by
  unfold Node.Heads Node.setTrack
  dsimp only
  rw [Node.seq_setSeq]
  split
  · next h => exact h ▸ ⟨rfl, rfl, rfl, List.length_modify ..⟩
  · exact ⟨rfl, rfl, rfl, rfl⟩

theorem Node.heads_pushPages (c : Nat) (n : Node) (k t : Nat) (ps : List Nat) : n.Heads c (n.pushPages k t ps) := by
  unfold Node.pushPages
  exact Node.Heads.trans (.of_eq rfl) (Node.heads_setTrack ..)

theorem Node.books_pushPages (n : Node) (k t : Nat) (ps : List Nat) : n.Books (n.pushPages k t ps) := .of_regs rfl rfl

end Sys2Proof.Machine
end

section
/-!
A request that is examined alone (R70 to R73).
-/

namespace Sys2Proof.Machine

/-- The node once a request's examination is counted (R70). -/
def Node.counted (n : Node) (now : Nat) : Node := { n with adm := { n.adm with examTick := now, examined := n.examinedIn now + 1 } }

theorem Node.takeExam_one (n : Node) (now mask any left : Nat) (w : Waiting) (hl : left ≠ 0) (hh : Node.hashing w = false) (he : w.examined = none)
    (ha : bitOf any (n.bucket w.req) = true) (hm : bitOf mask (n.bucket w.req) = true) : n.takeExam now mask any left [w] = [(w, n.bucket w.req, false)] := by
  unfold Node.takeExam
  rw [if_neg hl]
  dsimp only
  rw [if_neg (by rw [hh, he]; simp), if_neg (by rw [ha]; decide), if_neg (by rw [hm]; decide)]
  rfl

/-- A pool of one request that its checks let pass: the second pass takes it (R70, R73). -/
theorem Node.admitTick_alone (n : Node) (now x : Nat) (win : Window) (w : Waiting) (hw : n.windowAt now 1 0xFFFF = some (x, win)) (hp : n.adm.pool = [w])
    (hroom : n.examinedIn now < n.reg Reg.examineRate) (hh : Node.hashing w = false) (he : w.examined = none)
    (ha : bitOf n.anyBucket (n.bucket w.req) = true) (hm : bitOf win.param (n.bucket w.req) = true) (ht : ¬(n.st = stSafe ∧ n.reg Reg.stateTick = now))
    (hf : (n.counted now).first now w = .pass) : n.admitTick now = (n.counted now).second now w := by
  have hex : n.takeExam now win.param n.anyBucket (n.reg Reg.examineRate - n.examinedIn now) n.adm.pool = [(w, n.bucket w.req, false)] := by
    rw [hp]
    exact n.takeExam_one now win.param n.anyBucket _ w (by omega) hh he ha hm
  have htrip : ((n.counted now).st == stSafe && (n.counted now).reg Reg.stateTick == now) = false := by
    rw [Bool.eq_false_iff]
    intro h
    simp only [Bool.and_eq_true, beq_iff_eq] at h
    exact ht h
  unfold Node.admitTick
  rw [hw]
  dsimp only
  rw [hex]
  rw [show ({ n with adm := { n.adm with examTick := now, examined := n.examinedIn now + [(w, n.bucket w.req, false)].length } } : Node) = n.counted now
    from rfl]
  dsimp only [List.foldl]
  rw [if_neg (by rw [htrip]; decide), if_neg (by decide), hf]
  rfl

/-- What admission does for a request that nothing holds back, by its opcode (R74). -/
def Node.admitBy (n : Node) (now : Nat) (q : Admitted) : Node :=
  if q.req.isAtt || q.req.isBackward 0 then n.admitAtt now q
  else if q.req.op = opSeqOpen then n.admitOpen now q
  else if q.req.op = opSeqFork then n.admitFork now q
  else if q.req.op = opSeqClose then n.admitClose now q
  else if q.req.op = opAppend then n.admitAppend now q
  else if q.req.op = opBackward then n.admitGrad now q
  else if q.req.op = opWeightLoad then n.admitWeight now q
  else n.admitVector now q

theorem Node.second_pass (n : Node) (now : Nat) (w : Waiting) (hp : n.adm.pool = [w]) (hl : n.late now (n.draft now w) = .pass)
    (hr : n.poolEmptied.roundFull now (n.draft now w) = false)
    (hh : ¬(n.time.holdover = true ∧ n.time.holdoverStart + n.time.limit < (n.draft now w).deadline)) :
    n.second now w = n.poolEmptied.admitBy now (n.draft now w) := by
  have he : ({ n with adm := { n.adm with pool := n.adm.pool.erase w } } : Node) = n.poolEmptied := by
    rw [hp, List.erase_cons_head]
    rfl
  have hno : ¬(n.poolEmptied.roundFull now (n.draft now w) = true ∨
      (n.time.holdover && decide (n.time.holdoverStart + n.time.limit < (n.draft now w).deadline)) = true) := by
    rintro (h | h)
    · exact absurd (hr.symm.trans h) (by decide)
    · simp only [Bool.and_eq_true, decide_eq_true_eq] at h
      exact hh h
  rw [← he] at hno ⊢
  unfold Node.second
  dsimp only
  rw [hl]
  exact if_neg hno

/-- A request that comes alone in an ADMIT tick, and that no check holds back, is admitted by its opcode (R70 to R74). -/
theorem State.request_alone (s : State) (r : Request) (hop : r.op ≠ opAbort) (h : s.examinesAlone r) :
    s.request r = s.on ((s.node.underExam s.clock.tick r).poolEmptied.admitBy s.clock.tick ((s.node.underExam s.clock.tick r).draft s.clock.tick (waitingFor s.clock.tick r))) := by
  obtain ⟨hpend, hpool, hsize, hroom, ⟨x, win, hwin, hmask⟩, hany, hhash, htrip, hfirst, hlate, hfull, hhold⟩ := h
  have hs := s.node.stirs s.clock.tick r
  have harr := s.node.arrive_eq s.clock.tick r hop
  have hund : s.node.underExam s.clock.tick r = { s.node.stirred s.clock.tick r with
      adm := { (s.node.stirred s.clock.tick r).adm with pool := [waitingFor s.clock.tick r], examTick := s.clock.tick, examined := s.node.examinedIn s.clock.tick + 1 } } := by
    unfold Node.underExam Node.stirred
    dsimp only
    split <;> rfl
  generalize s.node.stirred s.clock.tick r = m at hs harr hund
  obtain ⟨ss, rfl⟩ := hs.adm
  replace harr := harr.trans (if_neg (by show ¬(s.node.reg Reg.poolSize ≤ s.node.adm.pool.length); rw [hpool]; exact Nat.not_le.mpr hsize))
  rw [hpool] at harr
  have hcounted : (s.node.arrive s.clock.tick r).counted s.clock.tick = s.node.underExam s.clock.tick r := by
    rw [harr, hund]
    rfl
  have htick : (s.node.arrive s.clock.tick r).admitTick s.clock.tick = (s.node.underExam s.clock.tick r).second s.clock.tick (waitingFor s.clock.tick r) := by
    rw [← hcounted]
    refine Node.admitTick_alone _ s.clock.tick x win (waitingFor s.clock.tick r) ?_ ?_ ?_ hhash rfl ?_ ?_ ?_ (by rw [hcounted]; exact hfirst)
    · rw [harr]; exact hwin
    · rw [harr]; rfl
    · rw [harr]; exact hroom
    · rw [hund] at hany; rw [harr]; exact hany
    · rw [hund] at hmask; rw [harr]; exact hmask
    · rw [harr]; exact htrip
  unfold State.request
  dsimp only
  rw [if_neg (by rw [hpend]; decide), htick]
  congr 1
  exact Node.second_pass _ _ _ (by rw [hund]) hlate hfull hhold

/-- The other way to the same examination: a tick's turn with the request already in the pool. -/
theorem State.request_admitTick (s : State) (r : Request) (hop : r.op ≠ opAbort) (h : s.examinesAlone r) :
    s.request r = exec .admitTick (s.withNode { s.node.underExam s.clock.tick r with adm := { (s.node.underExam s.clock.tick r).adm with
      examTick := s.node.adm.examTick, examined := s.node.adm.examined } }) := by
  obtain ⟨hpend, hpool, hsize, -⟩ := h
  have harr : s.node.arrive s.clock.tick r = { s.node.underExam s.clock.tick r with adm := { (s.node.underExam s.clock.tick r).adm with
      examTick := s.node.adm.examTick, examined := s.node.adm.examined } } := by
    rw [s.node.arrive_eq s.clock.tick r hop]
    unfold Node.underExam Node.stirred
    dsimp only
    split
    · rw [if_neg (by rw [hpool]; exact Nat.not_le.mpr hsize), hpool]; rfl
    · rw [if_neg (by show ¬(s.node.reg Reg.poolSize ≤ s.node.adm.pool.length); rw [hpool]; exact Nat.not_le.mpr hsize)]
      show ({ s.node with adm := { s.node.adm with sessions := _, pool := insertBy _ _ s.node.adm.pool } } : Node) = _
      rw [hpool]; rfl
  unfold State.request
  dsimp only
  rw [if_neg (by rw [hpend]; decide), harr]
  rfl

end Sys2Proof.Machine
end

section
/-!
What each opcode's admission leaves (R106, R107, R110, R113, R232, R299, R328): O35.
-/

namespace Sys2Proof.Machine

/-- `m` is `n` with a request admitted and counted, and the pool as it was. -/
structure Node.Enters (n m : Node) (q : Admitted) : Prop where
  admitted : q ∈ m.adm.admitted
  pool : m.adm.pool = n.adm.pool
  count : m.reg Reg.admitted = (n.reg Reg.admitted + 1) % 2 ^ 64

namespace Node.Enters

variable {n m l : Node} {q : Admitted}

theorem after (h : n.Books m) (he : m.Enters l q) : n.Enters l q := ⟨he.admitted, by rw [he.pool, h.1], by rw [he.count, h.2]⟩

theorem before (he : n.Enters m q) (h : m.Books l) : n.Enters l q := ⟨by rw [h.1]; exact he.admitted, by rw [h.1, he.pool], h.2.trans he.count⟩

end Node.Enters

/-- A request in the list of the admitted, with the sequence it names in the round's set (R94). -/
def Node.listed (n : Node) (now : Nat) (q : Admitted) : Node :=
  let rnd := n.roundAt now
  let names := if n.adm.roundOf = rnd then n.adm.roundSeqs else []
  let names := if q.req.noSeq then names else insertNat (seqLocal q.req.seqId) names
  { n with adm := { n.adm with admitted := n.adm.admitted ++ [q], roundSeqs := names, roundOf := rnd, orderNext := n.adm.orderNext + q.items.length } }

/-- The lead of an admitted request, noted for its epoch (R399), and a BACKWARD counted. -/
def Node.leadNoted (n : Node) (now : Nat) (q : Admitted) : Node :=
  let n := if q.req.op = opBackward then n.bump Reg.bwdAdmitted else n
  let lead := q.deadline - now
  if q.req.hdr.epoch.toNat = n.reg Reg.epoch then { n with comp := { n.comp with maxLead := Nat.max n.comp.maxLead lead } }
  else { n with comp := { n.comp with prevLead := Nat.max n.comp.prevLead lead } }

theorem Node.enter_eq (n : Node) (now : Nat) (q : Admitted) : n.enter now q = ((n.listed now q).leadNoted now q).bump Reg.admitted := rfl

theorem Node.leadNoted_spec (n : Node) (now : Nat) (q : Admitted) : n.Books (n.leadNoted now q) ∧ (n.leadNoted now q).seqs = n.seqs ∧
    (n.leadNoted now q).grads = n.grads ∧ (n.leadNoted now q).tiers = n.tiers := by
  have hb : n.Books (n.bump Reg.bwdAdmitted) := .bump n (by decide)
  unfold Node.leadNoted
  dsimp only
  by_cases h : q.req.op = opBackward
  · rw [if_pos h]
    split
    · exact ⟨hb, rfl, rfl, rfl⟩
    · exact ⟨hb, rfl, rfl, rfl⟩
  · rw [if_neg h]
    split
    · exact ⟨.refl n, rfl, rfl, rfl⟩
    · exact ⟨.refl n, rfl, rfl, rfl⟩

/-- Entering a request (R94). -/
theorem Node.enter_spec (n : Node) (now : Nat) (q : Admitted) : n.Enters (n.enter now q) q ∧ (n.enter now q).seqs = n.seqs ∧ (n.enter now q).grads = n.grads ∧
    (n.enter now q).tiers = n.tiers := by
  have hmem : q ∈ (n.listed now q).adm.admitted := List.mem_append_right _ List.mem_cons_self
  obtain ⟨⟨ha, hr⟩, hs, hg, ht⟩ := (n.listed now q).leadNoted_spec now q
  rw [n.enter_eq]
  generalize (n.listed now q).leadNoted now q = m at ha hr hs hg ht
  refine ⟨⟨?_, ?_, ?_⟩, hs, hg, ht⟩
  · show q ∈ m.adm.admitted
    rw [ha]
    exact hmem
  · show m.adm.pool = n.adm.pool
    rw [ha]
    rfl
  · rw [Node.reg_bump _ _ _ rfl, hr]
    rfl

/-- An admission that reserves nothing further, placed (R74). -/
theorem Node.admitPlain_ok (n : Node) (now : Nat) (q q' : Admitted) (h : n.place now (n.workOf now q 0) q = .ok q') : n.admitPlain now q = (n.enter now q', true) := by
  unfold Node.admitPlain
  rw [h]

/-- Setting tracks one after another, each once (R113). -/
theorem Node.track_setTracks (n : Node) (k : Nat) (ts : List Nat) (f : Track → Track) (hn : ts.Nodup) (t : Nat) (ht : t ∈ ts) (hl : t < (n.seq k).tracks.length) :
    ((n.foldl ts fun n t => n.setTrack k t f).seq k).track t = f ((n.seq k).track t) := by
  have hset : ∀ (n : Node) (j t : Nat), t < (n.seq k).tracks.length → ((n.setTrack k j f).seq k).track t = if t = j then f ((n.seq k).track t) else (n.seq k).track t :=
    fun n j t hl => by
      unfold Node.setTrack
      dsimp only
      rw [Node.seq_setSeq, if_pos rfl, Seq.track, Seq.track, List.getD_eq_getElem?_getD, List.getD_eq_getElem?_getD, List.getElem?_modify,
        List.getElem?_eq_getElem hl]
      by_cases h : t = j
      · simp [h]
      · simp [h, Ne.symm h]
  have hlen : ∀ (n : Node) (j : Nat), ((n.setTrack k j f).seq k).tracks.length = (n.seq k).tracks.length := fun n j => (Node.heads_setTrack k n k j f).2.2.2
  have hkeep : ∀ (ts : List Nat) (n : Node), t ∉ ts → t < (n.seq k).tracks.length → ((n.foldl ts fun n t => n.setTrack k t f).seq k).track t = (n.seq k).track t := by
    intro ts
    induction ts with
    | nil => exact fun _ _ _ => rfl
    | cons j rest ih =>
      intro n hm hl
      refine (ih _ (fun h => hm (List.mem_cons_of_mem _ h)) (by rw [hlen]; exact hl)).trans ?_
      rw [hset n j t hl, if_neg fun h : t = j => hm (h ▸ List.mem_cons_self)]
  induction ts generalizing n with
  | nil => exact absurd ht List.not_mem_nil
  | cons j rest ih =>
    obtain ⟨hj, hrest⟩ := List.nodup_cons.mp hn
    by_cases h : t = j
    · subst h
      refine (hkeep rest _ hj (by rw [hlen]; exact hl)).trans ?_
      rw [hset n t t hl, if_pos rfl]
    · refine (ih (n.setTrack k j f) hrest ((List.mem_cons.mp ht).resolve_left h) (by rw [hlen]; exact hl)).trans ?_
      rw [hset n j t hl, if_neg h]

theorem Node.admitAppend_spec (n : Node) (now : Nat) (q q' : Admitted) (h : n.place now (n.workOf now q 0) q = .ok q') : n.Enters (n.admitAppend now q) q' ∧
    (q.tracks.Nodup → ∀ t ∈ q.tracks, t < (n.seq (seqLocal q.req.seqId)).tracks.length →
      (((n.admitAppend now q).seq (seqLocal q.req.seqId)).track t).booked = ((n.seq (seqLocal q.req.seqId)).track t).booked + q.tokens) := by
  obtain ⟨he, hs, -⟩ := n.enter_spec now q'
  have heq : n.admitAppend now q = (n.enter now q').foldl q.tracks fun n t =>
      n.setTrack (seqLocal q.req.seqId) t fun tr => { tr with booked := tr.booked + q.tokens } := by
    unfold Node.admitAppend
    rw [n.admitPlain_ok now q q' h]
    rfl
  rw [heq]
  refine ⟨he.before (Node.books_setTracks ..), fun hn t ht hl => ?_⟩
  have hseq : (n.enter now q').seq (seqLocal q.req.seqId) = n.seq (seqLocal q.req.seqId) := by rw [Node.seq, hs]; rfl
  rw [← hseq] at hl ⊢
  rw [Node.track_setTracks _ _ _ _ hn t ht hl]

end Sys2Proof.Machine
end

section
/-!
Sequences that are opened and forked at their admission (R106 to R109): O35.
-/

namespace Sys2Proof.Machine

theorem Node.books_journal (n : Node) (kind seq track pos : Nat) (bytes : Bytes) : n.Books (n.journal kind seq track pos bytes) := .of_regs rfl rfl

theorem Node.heads_journal (c : Nat) (n : Node) (kind seq track pos : Nat) (bytes : Bytes) : n.Heads c (n.journal kind seq track pos bytes) := .of_eq rfl

/-- A step that leaves the requests, the count of admissions and the head of a sequence. -/
def Node.Fills (c : Nat) (n m : Node) : Prop := n.Books m ∧ n.Heads c m

namespace Node.Fills

variable {c : Nat} {n m l : Node}

theorem of_eq (ha : m.adm = n.adm) (hr : m.regs = n.regs) (hs : m.seqs.seqs = n.seqs.seqs) : n.Fills c m := ⟨.of_regs ha hr, .of_eq hs⟩

theorem trans (h : n.Fills c m) (h' : m.Fills c l) : n.Fills c l := ⟨h.1.trans h'.1, h.2.trans h'.2⟩

theorem foldl {α : Type} {f : Node → α → Node} (h : ∀ (n : Node) x, n.Fills c (f n x)) (xs : List α) (n : Node) : n.Fills c (n.foldl xs f) :=
  ⟨.foldl (fun n x => (h n x).1) xs n, .foldl (fun n x => (h n x).2) xs n⟩

end Node.Fills

theorem Node.fills_pushPages (c : Nat) (n : Node) (k t : Nat) (ps : List Nat) : n.Fills c (n.pushPages k t ps) := ⟨n.books_pushPages k t ps, Node.heads_pushPages c n k t ps⟩

theorem Node.fills_refs (c : Nat) (n : Node) (ps : List Nat) : n.Fills c (n.foldl ps fun n p => n.setPage p { n.page p with ref := (n.page p).ref + 1 }) :=
  .foldl (fun n p => show n.Fills c (n.setPage p _) from .of_eq rfl rfl rfl) ps n

/-- A sequence that is opened takes its pages, those of the domain among them, and what is attached is counted (R106, R138, R139). -/
def Node.seqFilled (n : Node) (now k : Nat) (r : Request) (ps : List (Nat × Nat)) (sets : List (List Nat)) : Node :=
  let n := n.foldl ((ps.map (·.1)).zipIdx) fun n e => n.pushPages k e.2 (sets.map (fun st => st.getD e.2 0) ++ [e.1])
  let n := n.foldl sets.flatten fun n p => n.setPage p { n.page p with ref := (n.page p).ref + 1 }
  let cnt := sets.length * (r.arg 34 2 * r.arg 36 1)
  let share := if cnt = 0 then n.share else
    { n.share with domains := Map.modify n.share.domains r.shareDomain fun d => { d with attaches := d.attaches + cnt } }
  let n := { n with share := share, seqs := { n.seqs with attachTick := now, attachedNow := n.attachedIn now + cnt } }
  if r.shareDomain ≠ 0 && r.attach then (n.bump Reg.lookups).bumpBy Reg.pagesAttached cnt else n

theorem Node.fills_seqFilled (n : Node) (now k c : Nat) (r : Request) (ps : List (Nat × Nat)) (sets : List (List Nat)) : n.Fills c (n.seqFilled now k r ps sets) := by
  have hpush := Node.Fills.foldl (f := fun n (e : Nat × Nat) => n.pushPages k e.2 (sets.map (fun st => st.getD e.2 0) ++ [e.1]))
    (fun n e => Node.fills_pushPages c n k _ _) ((ps.map (·.1)).zipIdx) n
  have href := hpush.trans (Node.fills_refs c _ sets.flatten)
  unfold Node.seqFilled
  dsimp only
  generalize Node.foldl _ sets.flatten _ = m at href
  split
  · refine href.trans (.trans (.of_eq rfl rfl rfl) ⟨.trans (.bump _ ?_) (.bumpBy _ _ ?_), .of_eq rfl⟩)
    · decide
    · decide
  · exact href.trans (.of_eq rfl rfl rfl)

/-- The match of a SEQ_OPEN, empty where it names no domain (R138). -/
def Node.openSets (n : Node) (r : Request) : List (List Nat) :=
  let (sets, _) := if r.shareDomain = 0 then ([], 4) else n.walk r
  sets

/-- The descriptor of a sequence that is opened (R106). -/
def Node.openDesc (n : Node) (now k dir : Nat) (q : Admitted) (ps : List (Nat × Nat)) (sets : List (List Nat)) : Seq :=
  let r := q.req
  let m := n.model (r.arg 43 1)
  let groups := r.arg 36 1
  let trs := ps.zipIdx.map fun e =>
    ({ layer := r.arg 32 2 + e.2 / groups, group := e.2 % groups, tokens := 16 * sets.length, spare := some e.1.2 } : Track)
  let pb : Option Publish :=
    if (r.shareDomain != 0 && r.publishes) && decide (sets.length < r.prefixPages) then
      some { tokens := r.prefixList, tag := fieldB r.payload 8 8, pages := r.prefixPages, next := sets.length }
    else none
  { id := seqTenant r.seqId * 2 ^ 20 + k, state := .opened, slice := q.slice, home := n.pageSlot (ps.headD (0, 0)).1 / 2 ^ 22, attached := decide (0 < sets.length),
    layerFirst := r.arg 32 2, layerCount := r.arg 34 2, groupCount := groups, format := r.arg 37 1, spanBase := r.arg 38 5, spanLimit := r.arg 44 4,
    domain := r.shareDomain, dir := dir, openTick := now, aBytes := m.aBytes, bBytes := m.bBytes, tracks := trs, publish := pb, session := r.sess }

theorem Node.openDesc_spec (n : Node) (now k dir : Nat) (q : Admitted) (ps : List (Nat × Nat)) (sets : List (List Nat)) :
    (n.openDesc now k dir q ps sets).state = .opened ∧ (n.openDesc now k dir q ps sets).id = seqTenant q.req.seqId * 2 ^ 20 + k ∧
    (n.openDesc now k dir q ps sets).tracks.length = ps.length := by
  unfold Node.openDesc
  dsimp only
  refine ⟨rfl, rfl, ?_⟩
  rw [List.length_map, List.length_zipIdx]

/-- A sequence that is opened, with the pages it has taken (R106). -/
def Node.openWith (n : Node) (now k : Nat) (q : Admitted) (ps : List (Nat × Nat)) : Node :=
  let n1 := { n with seqs := { n.seqs with dirNext := n.seqs.dirNext + q.req.arg 34 2 * q.req.arg 36 1 } }
  let sq := n1.openDesc now k n.seqs.dirNext q ps (n.openSets q.req)
  let m := (n1.setSeq k sq).seqFilled now k q.req ps (n.openSets q.req)
  m.journal 2 sq.id 0 q.req.sess (m.seq k).image

theorem Node.openSeq_eq (n : Node) (now : Nat) (q : Admitted) : n.openSeq now q =
    match n.nextSeq with
    | none => none
    | some k =>
      if n.freeSlots q.slice < 2 * (q.req.arg 34 2 * q.req.arg 36 1) ∨ (q.req.shareDomain != 0 && q.req.publishes &&
        decide (n.reg Reg.publishSeqMax ≤ (n.seqs.seqs.filter fun e => e.2.publish.isSome).length)) then none
      else
        match n.takeSeq.openPages q.slice (q.req.arg 37 1) none (q.req.arg 34 2 * q.req.arg 36 1) with
        | none => none
        | some (ps, n1) => some (k, n1.openWith now k q ps) := by
  unfold Node.openSeq
  cases n.nextSeq with
  | none => rfl
  | some k =>
    dsimp only
    split
    · rfl
    · cases n.takeSeq.openPages q.slice (q.req.arg 37 1) none (q.req.arg 34 2 * q.req.arg 36 1) with
      | none => rfl
      | some e => rfl

/-- A descriptor written, its pages filled in and journalled, keeps its head. -/
theorem Node.books_begun (n : Node) (now k id se : Nat) (r : Request) (sq : Seq) (ps : List (Nat × Nat)) (sets : List (List Nat)) (img : Bytes) :
    n.Books (((n.setSeq k sq).seqFilled now k r ps sets).journal 2 id 0 se img) ∧
    ((((n.setSeq k sq).seqFilled now k r ps sets).journal 2 id 0 se img).seq k).state = sq.state ∧
    ((((n.setSeq k sq).seqFilled now k r ps sets).journal 2 id 0 se img).seq k).id = sq.id ∧
    ((((n.setSeq k sq).seqFilled now k r ps sets).journal 2 id 0 se img).seq k).tracks.length = sq.tracks.length := by
  obtain ⟨fb, fh⟩ := (n.setSeq k sq).fills_seqFilled now k k r ps sets
  have hset : n.Books (n.setSeq k sq) := .of_regs rfl rfl
  obtain ⟨g1, g2, -, g4⟩ := fh.trans (Node.heads_journal k _ 2 id 0 se img)
  rw [Node.seq_setSeq, if_pos rfl] at g1 g2 g4
  exact ⟨(hset.trans fb).trans (Node.books_journal ..), g1, g2, g4⟩

theorem Node.openWith_spec (n : Node) (now k : Nat) (q : Admitted) (ps : List (Nat × Nat)) : n.Books (n.openWith now k q ps) ∧
    ((n.openWith now k q ps).seq k).state = .opened ∧ ((n.openWith now k q ps).seq k).id = seqTenant q.req.seqId * 2 ^ 20 + k ∧
    ((n.openWith now k q ps).seq k).tracks.length = ps.length := by
  unfold Node.openWith
  dsimp only
  have hb : n.Books { n with seqs := { n.seqs with dirNext := n.seqs.dirNext + q.req.arg 34 2 * q.req.arg 36 1 } } := .of_regs rfl rfl
  generalize ({ n with seqs := { n.seqs with dirNext := n.seqs.dirNext + q.req.arg 34 2 * q.req.arg 36 1 } } : Node) = n2 at hb
  obtain ⟨d1, d2, d3⟩ := n2.openDesc_spec now k n.seqs.dirNext q ps (n.openSets q.req)
  generalize n2.openDesc now k n.seqs.dirNext q ps (n.openSets q.req) = sq at d1 d2 d3
  obtain ⟨g, g1, g2, g3⟩ := n2.books_begun now k sq.id q.req.sess q.req sq ps (n.openSets q.req)
    (((n2.setSeq k sq).seqFilled now k q.req ps (n.openSets q.req)).seq k).image
  exact ⟨hb.trans g, g1.trans d1, g2.trans d2, g3.trans d3⟩

/-- A sequence opened (R106): OPEN, with its identifier and a track for each layer and group. -/
theorem Node.openSeq_spec (n m : Node) (now : Nat) (q : Admitted) (c : Nat) (h : n.openSeq now q = some (c, m)) : n.Books m ∧ (m.seq c).state = .opened ∧
    (m.seq c).id = seqTenant q.req.seqId * 2 ^ 20 + c ∧ (m.seq c).tracks.length = q.req.arg 34 2 * q.req.arg 36 1 := by
  rw [n.openSeq_eq] at h
  split at h
  · cases h
  · split at h
    · cases h
    · split at h
      · cases h
      · next ps n1 hps =>
        obtain ⟨hb, hl⟩ := Node.openPages_spec _ _ _ _ _ _ _ hps
        cases h
        obtain ⟨ob, o1, o2, o3⟩ := n1.openWith_spec now c q ps
        exact ⟨(n.books_takeSeq.trans hb).trans ob, o1, o2, o3.trans hl⟩

/-! ### A fork -/

/-- A child takes the pages it shares with its parent, and its own tails (R108). -/
def Node.childFilled (n : Node) (k whole : Nat) (trs : List (Track × Nat × Nat)) : Node :=
  n.foldl trs.zipIdx fun n e =>
    let shared := e.1.1.pages.take whole
    let n := n.foldl shared fun n p => n.setPage p { n.page p with ref := (n.page p).ref + 1 }
    n.pushPages k e.2 (shared ++ [e.1.2.1])

theorem Node.fills_childFilled (n : Node) (k whole c : Nat) (trs : List (Track × Nat × Nat)) : n.Fills c (n.childFilled k whole trs) :=
  Node.Fills.foldl (fun n (e : (Track × Nat × Nat) × Nat) => (Node.fills_refs c n (e.1.1.pages.take whole)).trans (Node.fills_pushPages c _ k e.2 _)) trs.zipIdx n

/-- The descriptor of a child (R107). -/
def Node.childDesc (n : Node) (now k dir : Nat) (r : Request) (par : Seq) (ps : List (Nat × Nat)) : Seq :=
  { id := seqTenant r.seqId * 2 ^ 20 + k, state := .forking, slice := par.slice,
    home := n.pageSlot (ps.headD (0, 0)).1 / 2 ^ 22, forked := true, layerFirst := par.layerFirst,
    layerCount := par.layerCount, groupCount := par.groupCount, format := par.format,
    spanBase := par.spanBase, spanLimit := par.spanLimit, domain := par.domain, parent := par.id, dir := dir,
    openTick := now, aBytes := par.aBytes, bBytes := par.bBytes,
    tracks := (par.tracks.zip ps).map fun e => ({ layer := e.1.layer, group := e.1.group, tokens := r.arg 32 4, spare := some e.2.2 } : Track), session := r.sess }

/-- A child, with the pages it has taken (R107, R108). -/
def Node.forkWith (n : Node) (now k : Nat) (r : Request) (par : Seq) (ps : List (Nat × Nat)) : Node :=
  let n1 := { n with seqs := { n.seqs with dirNext := n.seqs.dirNext + par.tracks.length } }
  let sq := n1.childDesc now k n.seqs.dirNext r par ps
  let m := (n1.setSeq k sq).childFilled k (r.arg 32 4 / 16) (par.tracks.zip ps)
  m.journal 3 sq.id 0 r.sess (m.seq k).image

theorem Node.forkSeq_eq (n : Node) (now : Nat) (q : Admitted) : n.forkSeq now q =
    match n.nextSeq with
    | none => none
    | some k =>
      if n.freeSlots q.slice < 2 * (n.seq (seqLocal q.req.seqId)).tracks.length ∨
         (n.seq (seqLocal q.req.seqId)).tracks.any (fun t => (t.pages.take (q.req.arg 32 4 / 16)).any fun p => (n.page p).ref == 65535) then none
      else
        match n.takeSeq.forkPages q.slice (n.seq (seqLocal q.req.seqId)).format (q.req.arg 32 4 / 16) (n.seq (seqLocal q.req.seqId)).tracks with
        | none => none
        | some (ps, n1) => some (k, n1.forkWith now k q.req (n.seq (seqLocal q.req.seqId)) ps) := by
  unfold Node.forkSeq
  cases n.nextSeq with
  | none => rfl
  | some k =>
    dsimp only
    split
    · rfl
    · cases n.takeSeq.forkPages q.slice (n.seq (seqLocal q.req.seqId)).format (q.req.arg 32 4 / 16) (n.seq (seqLocal q.req.seqId)).tracks with
      | none => rfl
      | some e => rfl

theorem Node.forkWith_spec (n : Node) (now k : Nat) (r : Request) (par : Seq) (ps : List (Nat × Nat)) : n.Books (n.forkWith now k r par ps) ∧
    ((n.forkWith now k r par ps).seq k).state = .forking ∧ ((n.forkWith now k r par ps).seq k).parent = par.id := by
  unfold Node.forkWith
  dsimp only
  have hb : n.Books { n with seqs := { n.seqs with dirNext := n.seqs.dirNext + par.tracks.length } } := .of_regs rfl rfl
  generalize ({ n with seqs := { n.seqs with dirNext := n.seqs.dirNext + par.tracks.length } } : Node) = n2 at hb
  have d1 : (n2.childDesc now k n.seqs.dirNext r par ps).state = .forking := rfl
  have d3 : (n2.childDesc now k n.seqs.dirNext r par ps).parent = par.id := rfl
  generalize n2.childDesc now k n.seqs.dirNext r par ps = sq at d1 d3
  have hset : n2.Books (n2.setSeq k sq) := .of_regs rfl rfl
  obtain ⟨fb, fh⟩ := (n2.setSeq k sq).fills_childFilled k (r.arg 32 4 / 16) k (par.tracks.zip ps)
  generalize hm : (n2.setSeq k sq).childFilled k (r.arg 32 4 / 16) (par.tracks.zip ps) = m at fb fh
  obtain ⟨g1, -, g3, -⟩ := fh.trans (Node.heads_journal k m 3 sq.id 0 r.sess (m.seq k).image)
  rw [Node.seq_setSeq, if_pos rfl] at g1 g3
  exact ⟨((hb.trans hset).trans fb).trans (Node.books_journal ..), g1.trans d1, g3.trans d3⟩

/-- A child forked (R107): FORKING, of its parent. -/
theorem Node.forkSeq_spec (n m : Node) (now : Nat) (q : Admitted) (c : Nat) (h : n.forkSeq now q = some (c, m)) : n.Books m ∧ (m.seq c).state = .forking ∧
    (m.seq c).parent = (n.seq (seqLocal q.req.seqId)).id := by
  rw [n.forkSeq_eq] at h
  split at h
  · cases h
  · split at h
    · cases h
    · split at h
      · cases h
      · next ps n1 hps =>
        have hb := Node.books_forkPages _ _ _ _ _ _ _ hps
        cases h
        obtain ⟨ob, o1, o2⟩ := n1.forkWith_spec now c q.req (n.seq (seqLocal q.req.seqId)) ps
        exact ⟨(n.books_takeSeq.trans hb).trans ob, o1, o2⟩

end Sys2Proof.Machine
end

section
/-!
Admissions by opcode (R70 to R76): O35.
-/

namespace Sys2Proof.Machine

theorem Node.admitClose_spec (n : Node) (now : Nat) (q q' : Admitted) (h : n.place now (n.workOf now q 0) q = .ok q') : n.Enters (n.admitClose now q) q' ∧
    ((n.admitClose now q).seq (seqLocal q.req.seqId)).state = .closing := by
  obtain ⟨he, -⟩ := n.enter_spec now q'
  obtain ⟨v, id, hv, heq⟩ : ∃ v : Seq, ∃ id, v.state = .closing ∧
      n.admitClose now q = ((n.enter now q').setSeq (seqLocal q.req.seqId) v).journal 4 id 0 q.req.sess [] := by
    unfold Node.admitClose
    rw [n.admitPlain_ok now q q' h]
    exact ⟨_, _, rfl, rfl⟩
  have hset : (n.enter now q').Books ((n.enter now q').setSeq (seqLocal q.req.seqId) v) := .of_regs rfl rfl
  rw [heq]
  refine ⟨he.before (hset.trans (Node.books_journal ..)), (Node.heads_journal ..).1.trans ?_⟩
  rw [Node.seq_setSeq, if_pos rfl, hv]

theorem Node.admitGrad_spec (n : Node) (now : Nat) (q q' : Admitted) (h : n.place now (n.workOf now q 0) q = .ok q') : n.Enters (n.admitGrad now q) q' ∧
    (q.req.isBackward 2 = true → ∀ g ∈ (n.admitGrad now q).grads, g.2.seq ≠ seqLocal q.req.seqId) := by
  obtain ⟨he, -⟩ := n.enter_spec now q'
  unfold Node.admitGrad
  rw [n.admitPlain_ok now q q' h]
  dsimp only
  cases hr : q.req.isBackward 2 with
  | false => exact ⟨he, nofun⟩
  | true => exact ⟨he.before (Node.books_freeGrads ..), fun _ => Node.freeGrads_grads _ _⟩

theorem Node.admitVector_plain (n : Node) (now : Nat) (q q' : Admitted) (hop : q.req.op ≠ opFold)
    (hw : q.req.op = opInsert ∨ q.req.op = opDelete → (n.vindex q.target).sideCount + n.pendingSide q.target + q.req.arg 36 2 ≤ (n.vindex q.target).sideMax)
    (hs : q.req.op = opSearch → q.req.arg 32 1 ≠ 1 → (n.vindex q.target).unassigned = 0)
    (h : n.place now (n.workOf now { q with tokenBase := (n.vindex q.target).gen } 0) { q with tokenBase := (n.vindex q.target).gen } = .ok q') :
    n.Enters (n.admitVector now q) q' := by
  unfold Node.admitVector
  dsimp only
  rw [if_neg (by rintro ⟨h1, h2⟩; exact absurd (hw h1) (by omega)), if_neg (by rintro ⟨h1, h2, h3⟩; exact absurd (hs h1 h2) (by omega)), if_neg hop,
    n.admitPlain_ok now _ q' h]
  exact (n.enter_spec now q').1

/-- A FOLD holds the slots of its new versions (R328). -/
theorem Node.admitVector_fold (n m : Node) (now : Nat) (q q' : Admitted) (gs : List Nat) (hop : q.req.op = opFold)
    (hg : n.takeListSlots q.slice (n.vindex q.target) ((n.vindex q.target).foldPlan now).1 = some (gs, m))
    (h : n.place now (n.workOf now q 0) q = .ok q') : n.Enters (n.admitVector now q) { q' with slots := gs } := by
  unfold Node.admitVector
  dsimp only
  rw [if_neg (by rw [hop]; rintro ⟨h, -⟩; exact absurd h (by decide)), if_neg (by rw [hop]; rintro ⟨h, -⟩; exact absurd h (by decide)), if_pos hop, hg]
  dsimp only
  rw [h]
  exact (m.enter_spec now _).1.after (Node.books_takeListSlots _ _ _ n m gs hg)

theorem Node.admitWeight_later (n : Node) (now : Nat) (q q' : Admitted) (hp : q.req.arg 36 4 ≠ 0)
    (h : n.place now (n.workOf now { q with home := ((n.weight q.target).t1.getD 0) / 2 ^ 22 } 0) { q with home := ((n.weight q.target).t1.getD 0) / 2 ^ 22 } = .ok q') :
    n.Enters (n.admitWeight now q) q' := by
  unfold Node.admitWeight
  dsimp only
  rw [if_pos hp, n.admitPlain_ok now _ q' h]
  exact (n.enter_spec now q').1

/-- The first part of a load takes the copy's slots, and the descriptor is LOADING (R299). -/
theorem Node.admitWeight_first (n m1 : Node) (now st : Nat) (q q' : Admitted) (gs : List Nat) (hp : q.req.arg 36 4 = 0)
    (hmax : (n.tiers.weights.map fun e => if e.1 = q.target then 0 else e.2.slotCount).sum + ceilDiv (q.req.arg 40 4) 16384 ≤ n.reg Reg.weightTilesMax)
    (hst : (n.foldl (n.weight q.target).slots fun n g => n.dropSlot g).mostFree q.slice = some st)
    (hg : (n.foldl (n.weight q.target).slots fun n g => n.dropSlot g).takeLowest q.slice st (ceilDiv (q.req.arg 40 4) 16384) = some (gs, m1))
    (h : (n.foldl (n.weight q.target).slots fun n g => n.dropSlot g).place now
      ((n.foldl (n.weight q.target).slots fun n g => n.dropSlot g).workOf now { q with home := st } 0) { q with home := st } = .ok q') :
    n.Enters (n.admitWeight now q) q' ∧ ((n.admitWeight now q).weight q.target).state = 1 ∧ ((n.admitWeight now q).weight q.target).slots = gs ∧
      ((n.admitWeight now q).weight q.target).digest = q.req.payload.take 64 := by
  have hb := n.books_dropSlots (n.weight q.target).slots
  have hregs : (n.foldl (n.weight q.target).slots fun n g => n.dropSlot g).regs = n.regs :=
    Node.foldl_keeps (fun x : Node => x.regs) _ (fun (n : Node) g => n.dropSlot g) (fun _ _ => rfl) n
  generalize hm0 : (n.foldl (n.weight q.target).slots fun n g => n.dropSlot g) = m0 at hst hg h hb hregs
  have hb1 := hb.trans (Node.books_takeLowest _ _ _ m0 m1 gs hg)
  unfold Node.admitWeight
  dsimp only
  rw [if_neg (not_not.mpr hp), hm0, if_neg (by rw [Node.reg_congr hregs]; omega), hst]
  dsimp only
  rw [hg]
  dsimp only
  rw [h]
  dsimp only
  have hset : ∀ (w : Weight), ((m1.setWeight q.target w).enter now q').weight q.target = w := fun w => by
    rw [Node.weight, (Node.enter_spec ..).2.2.2]
    exact m1.weight_setWeight q.target w
  refine ⟨.after ?_ (Node.enter_spec _ now q').1, ?_, ?_, ?_⟩
  · exact hb1.trans (.of_regs rfl rfl)
  · rw [hset]
  · rw [hset]
  · rw [hset]

theorem Node.admitOpen_spec (n m1 : Node) (now c : Nat) (q q' : Admitted) (hc : n.openSeq now q = some (c, m1))
    (h : n.place now (n.workOf now { q with home := (m1.seq c).home, target := c } 0) { q with home := (m1.seq c).home, target := c } = .ok q') :
    ∃ a, a.req = q'.req ∧ n.Enters (n.admitOpen now q) a ∧ (n.admitOpen now q).seq c = m1.seq c := by
  have hb := (Node.openSeq_spec n m1 now q c hc).1
  unfold Node.admitOpen
  rw [hc]
  dsimp only
  rw [h]
  dsimp only
  have hbump : ∀ (b : Prop) [Decidable b], m1.Books (if b then m1.bump Reg.hashCollisions else m1) ∧
      (if b then m1.bump Reg.hashCollisions else m1).seqs = m1.seqs := fun b _ => by
    split
    · exact ⟨.bump m1 (by decide), rfl⟩
    · exact ⟨.refl m1, rfl⟩
  refine ⟨_, ?_, (Node.enter_spec _ now _).1.after (hb.trans (hbump _).1), ?_⟩
  · rfl
  · rw [Node.seq, (Node.enter_spec ..).2.1, (hbump _).2]
    rfl

theorem Node.admitFork_spec (n m1 : Node) (now c : Nat) (q q' : Admitted) (hc : n.forkSeq now q = some (c, m1))
    (h : n.place now (n.workOf now { q with target := c, home := (m1.seq c).home } 0) { q with target := c, home := (m1.seq c).home } = .ok q') :
    n.Enters (n.admitFork now q) q' ∧ (n.admitFork now q).seq c = m1.seq c := by
  have hb := (Node.forkSeq_spec n m1 now q c hc).1
  obtain ⟨he, hs, -⟩ := m1.enter_spec now q'
  have heq : n.admitFork now q = m1.enter now q' := by
    unfold Node.admitFork
    rw [hc]
    dsimp only
    rw [h]
  rw [heq, Node.seq, hs]
  exact ⟨he.after hb, rfl⟩

/-- An attention request whose weights are resident or held is admitted with its pages (R74, R309). -/
theorem Node.admitAtt_spec (n m1 m2 : Node) (now wr : Nat) (q q' : Admitted) (hn : ∀ d ∈ q.needs, (n.weight d).state = 2 ∨ (n.weight d).state = 3)
    (ht : q.req.tenantProg = true → (n.prog (q.req.arg 36 1)).state ≠ 1) (h1 : n.bookReads q.slice now q.deadline q.req.key (n.attPages q) = some m1)
    (h2 : ((m1.bookWeights q.slice q.home now q.deadline q.needs 0).bind fun e =>
        (e.2.reserveGrads now (seqLocal q.req.seqId) q.slice (n.seq (seqLocal q.req.seqId)).gradSlots (n.gradsMissing q)).map fun x => (e.1, x)) = some (wr, m2))
    (h : m2.place now (m2.workOf now q wr) q = .ok q') : ∃ a, a.req = q'.req ∧ n.Enters (n.admitAtt now q) a := by
  have hb : n.Books m2 := by
    obtain ⟨⟨t, x⟩, hx, hr⟩ := Option.bind_eq_some_iff.mp h2
    obtain ⟨y, hy, he⟩ := Option.map_eq_some_iff.mp hr
    cases he
    exact ((Node.books_bookReads _ _ _ _ _ n m1 h1).trans (Node.books_bookWeights _ _ _ _ _ m1 x _ _ hx)).trans (Node.books_reserveGrads _ _ _ _ _ x m2 hy)
  have hstates : ∀ s ∈ q.needs.map fun d => (n.weight d).state, s = 2 ∨ s = 3 := fun s hs => by
    obtain ⟨d, hd, rfl⟩ := List.mem_map.mp hs
    exact hn d hd
  unfold Node.admitAtt
  dsimp only
  have h01 : ¬((q.needs.map fun d => (n.weight d).state).any (fun s => s == 0 || s == 1) = true) := fun h => by
    obtain ⟨s, hs, h⟩ := List.any_eq_true.mp h
    rcases hstates s hs with rfl | rfl <;> exact absurd h (by decide)
  have h4 : ¬((q.needs.map fun d => (n.weight d).state).contains 4 = true) := fun h => by
    rcases hstates 4 (List.contains_iff_mem.mp h) with h | h <;> exact absurd h (by decide)
  rw [if_neg h01, if_neg h4, if_neg (by simpa using ht), h1]
  dsimp only [Option.bind_some]
  rw [h2]
  dsimp only [Option.map_some]
  rw [h]
  dsimp only
  have htake := m2.books_takePages ((n.attPages q).map (·.1))
  generalize m2.takePages ((n.attPages q).map (·.1)) = m3 at htake
  have hwrite : m3.Books (if q.req.isWrite = true then m3.foldl q.tracks fun n t =>
      n.setTrack (seqLocal q.req.seqId) t fun tr => { tr with booked := tr.booked + q.tokens } else m3) := by
    split
    · exact Node.books_setTracks ..
    · exact .refl m3
  generalize (if q.req.isWrite = true then m3.foldl q.tracks fun n t =>
      n.setTrack (seqLocal q.req.seqId) t fun tr => { tr with booked := tr.booked + q.tokens } else m3) = m4 at hwrite
  refine ⟨_, ?_, (Node.enter_spec _ now _).1.after (((hb.trans htake).trans hwrite).trans ?_)⟩
  · split <;> rfl
  · split
    · exact .of_regs rfl rfl
    · exact .refl m4

end Sys2Proof.Machine
end

section
/-!
An admitted request has its opcode's effect (R70 to R76): O35.
-/

namespace Sys2Proof.Machine

theorem Node.admitBy_grad (n : Node) (now : Nat) (q : Admitted) (mode : Nat) (hm : mode ≠ 0) (h : q.req.isBackward mode = true) :
    n.admitBy now q = n.admitGrad now q := by
  obtain ⟨hop, hmode⟩ : q.req.op = opBackward ∧ q.req.arg 32 1 = mode := by simpa [Request.isBackward] using h
  simp [Node.admitBy, Request.isAtt, Request.isBackward, hop, hmode, hm]

/-- Settles O35: the request is examined alone (`State.request_alone`), and the admission of its opcode has its effect. That the last of a run of requests has the pool
examined is the model's choice (log entry 130). -/
theorem requestAdmitted : Obligations.RequestAdmitted := by
  unfold Obligations.RequestAdmitted
  intro e he r0 s r now m q k h
  obtain ⟨hexec, hop, -⟩ := requestRows_exec e he r0 s
  have hrun : exec (e.1 r0) s = .next (s.withNode (m.admitBy now q)) := (hexec.trans (s.request_alone r hop h)).trans (State.on_eq ..)
  have hlast := hexec.trans (s.request_admitTick r hop h)
  have hpool : m.adm.pool = [] := rfl
  have hcount : m.reg Reg.admitted = s.node.reg Reg.admitted := by
    show (s.node.underExam now r).reg Reg.admitted = _
    unfold Node.underExam
    dsimp only
    split <;> rfl
  have hreq : q.req = r := rfl
  have htok : q.tokens = r.tokenCount := rfl
  intro admits enters
  clear_value q
  clear_value m
  have hgo : ∀ (x : Node) (P : Node → Prop), m.admitBy now q = x → x.adm.pool = m.adm.pool → P x → admits P := fun x P hx hp hP =>
    ⟨x, hrun.trans (by rw [hx]), hp.trans hpool, hP⟩
  have hent : ∀ (x : Node) (a : Admitted), m.Enters x a → a.req = r → enters x := fun x a ha hr => ⟨⟨a, ha.admitted, hr⟩, ha.count.trans (by rw [hcount])⟩
  clear_value r
  subst hreq
  refine ⟨fun q' ho hp => ?_, fun q' ho hw hs hp => ?_, fun c m1 q' ho hc hp => ?_, fun c m1 q' ho hc hp => ?_, fun q' ho hp => ?_, fun q' ho ha hp => ?_,
    fun st gs m1 q' ho ha hmax => ?_, fun gs m1 q' ho hg hp => ?_, fun wr m1 m2 q' ho hn ht h1 h2 hp => ?_, hlast⟩
  · have hq := m.place_req now _ q q' hp
    rcases ho with ho | ho | ho
    · obtain ⟨ha, hb⟩ := m.admitAppend_spec now q q' hp
      refine hgo (m.admitAppend now q) _ (by simp [Node.admitBy, Request.isAtt, Request.isBackward, ho]) ha.pool ⟨hent _ q' ha hq, fun hr => ?_, fun _ hn t ht hl => ?_⟩
      · exact absurd hr (by simp [Request.isBackward, ho])
      · rw [← htok]
        exact hb hn t ht hl
    · obtain ⟨ha, hb⟩ := m.admitGrad_spec now q q' hp
      refine hgo (m.admitGrad now q) _ (m.admitBy_grad now q 1 (by decide) ho) ha.pool ⟨hent _ q' ha hq, hb, fun h => ?_⟩
      exact absurd ho (by simp [Request.isBackward, h])
    · obtain ⟨ha, hb⟩ := m.admitGrad_spec now q q' hp
      refine hgo (m.admitGrad now q) _ (m.admitBy_grad now q 2 (by decide) ho) ha.pool ⟨hent _ q' ha hq, hb, fun h => ?_⟩
      exact absurd ho (by simp [Request.isBackward, h])
  · have hq := m.place_req now _ _ q' hp
    have ha : m.Enters (m.admitVector now q) q' := m.admitVector_plain now q q' (by rcases ho with ho | ho | ho <;> rw [ho] <;> decide) hw hs hp
    refine hgo (m.admitVector now q) _ ?_ ha.pool (hent _ q' ha hq)
    rcases ho with ho | ho | ho <;> simp [Node.admitBy, Request.isAtt, Request.isBackward, ho]
  · have hq := m.place_req now _ _ q' hp
    obtain ⟨a, har, ha, hseq⟩ := m.admitOpen_spec m1 now c q q' hc hp
    obtain ⟨-, h1, h2, h3⟩ := m.openSeq_spec m1 now q c hc
    refine hgo (m.admitOpen now q) _ (by simp [Node.admitBy, Request.isAtt, Request.isBackward, ho]) ha.pool ⟨hent _ a ha (har.trans hq), ?_⟩
    rw [hseq]
    exact ⟨h1, h2, h3⟩
  · have hq := m.place_req now _ _ q' hp
    obtain ⟨ha, hseq⟩ := m.admitFork_spec m1 now c q q' hc hp
    obtain ⟨-, h1, h2⟩ := m.forkSeq_spec m1 now q c hc
    refine hgo (m.admitFork now q) _ (by simp [Node.admitBy, Request.isAtt, Request.isBackward, ho]) ha.pool ⟨hent _ q' ha hq, ?_⟩
    rw [hseq]
    exact ⟨h1, h2⟩
  · obtain ⟨ha, hcl⟩ := m.admitClose_spec now q q' hp
    exact hgo (m.admitClose now q) _ (by simp [Node.admitBy, Request.isAtt, Request.isBackward, ho]) ha.pool ⟨hent _ q' ha (m.place_req now _ q q' hp), hcl⟩
  · have hq := m.place_req now _ _ q' hp
    have he := m.admitWeight_later now q q' ha hp
    exact hgo (m.admitWeight now q) _ (by simp [Node.admitBy, Request.isAtt, Request.isBackward, ho]) he.pool (hent _ q' he hq)
  · intro m0 hst hg hp
    have hq := m0.place_req now _ _ q' hp
    obtain ⟨he, h1, h2, h3⟩ := m.admitWeight_first m1 now st q q' gs ha hmax hst hg hp
    exact hgo (m.admitWeight now q) _ (by simp [Node.admitBy, Request.isAtt, Request.isBackward, ho]) he.pool
      ⟨hent _ q' he hq, h1, h2, h3⟩
  · have he := m.admitVector_fold m1 now q q' gs ho hg hp
    have hq := m.place_req now _ q q' hp
    exact hgo (m.admitVector now q) _ (by simp [Node.admitBy, Request.isAtt, Request.isBackward, ho]) he.pool ⟨hent _ _ he hq, _, he.admitted, hq, rfl⟩
  · obtain ⟨a, har, ha⟩ := m.admitAtt_spec m1 m2 now wr q q' hn ht h1 h2 hp
    refine hgo (m.admitAtt now q) _ ?_ ha.pool (hent _ a ha (har.trans (m2.place_req now _ q q' hp)))
    exact if_pos (by simpa using ho)

end Sys2Proof.Machine
end

section
/-!
Events of requests, sequences, weights and indexes: O36.
-/

namespace Sys2Proof.Machine

/-- One tick of the hash engine, request by request (R132). -/
theorem Node.hashTick_spec (n : Node) (now : Nat) : (n.hashTick now).adm.admitted = n.adm.admitted ∧ (n.hashTick now).adm.pool.length = n.adm.pool.length ∧
    ∀ (i : Nat) (w : Waiting), n.adm.pool[i]? = some w → ∃ w' : Waiting, (n.hashTick now).adm.pool[i]? = some w' ∧ w'.req = w.req ∧
      (Node.hashing w = false → w' = w) ∧
      (Node.hashing w = true → w'.hashed = Nat.max w.hashed (Nat.min w.req.prefixPages (n.reg Reg.hashRate * (now - (w.arrival + 1))))) := by
  refine ⟨rfl, List.length_map .., fun i w h => ?_⟩
  unfold Node.hashTick
  dsimp only
  rw [List.getElem?_map, h]
  refine ⟨_, rfl, ?_⟩
  cases hw : Node.hashing w with
  | false => simp [hw]
  | true => simp [hw]

theorem Node.forkDone_spec (n : Node) (c : Nat) (q : Admitted)
    (hq : n.adm.admitted.find? (fun q => q.req.op == opSeqFork && q.target == c && decide (q.phase < 2)) = some q) (hs : (n.seq c).state = .forking)
    (hi : q.items.any Item.open = false) : ((n.forkDone c).seq c).state = .opened ∧ ((n.forkDone c).seq c).tracks = (n.seq c).tracks := by
  have he : n.forkDone c = n.setSeq c { n.seq c with state := .opened } := by
    unfold Node.forkDone
    rw [hq]
    exact if_neg (by simp [hs, hi])
  rw [he, Node.seq_setSeq, if_pos rfl]
  exact ⟨rfl, rfl⟩

/-! ### A sequence that is free (R110) -/

theorem Node.grads_removePageNode (n : Node) (p : Nat) : (n.removePageNode p).grads = n.grads := by
  unfold Node.removePageNode
  split
  · rfl
  · unfold Node.removeNodes
    dsimp only
    split <;> rfl

theorem Node.grads_stopPacker (n : Node) (p : Nat) : (n.stopPacker p).grads = n.grads := by
  unfold Node.stopPacker
  dsimp only
  split <;> rfl

theorem Node.grads_releaseRef (n : Node) (p : Nat) : (n.releaseRef p).grads = n.grads := by
  unfold Node.releaseRef
  dsimp only
  split
  · have h := (Node.grads_stopPacker ((n.setPage p { n.page p with ref := (n.page p).ref - 1 }).removePageNode p) p).trans (Node.grads_removePageNode _ p)
    generalize ((n.setPage p { n.page p with ref := (n.page p).ref - 1 }).removePageNode p).stopPacker p = m at h ⊢
    exact h
  · rfl

theorem Node.grads_dropPage (n : Node) (p : Nat) : (n.dropPage p).grads = n.grads := by
  unfold Node.dropPage Node.freePageSlots
  dsimp only
  cases (n.page p).t1 <;> cases (n.page p).slow <;> rfl

/-- A sequence released is listed as free, and the gradient records of others stay (R110). -/
theorem Node.releaseSeq_frame (n : Node) (c : Nat) : c ∈ (n.releaseSeq c).seqs.released ∧ (n.releaseSeq c).grads = n.grads := by
  unfold Node.releaseSeq
  dsimp only
  have h1 : (n.foldl ((n.seq c).tracks.flatMap (·.pages)) fun n p => n.releaseRef p).grads = n.grads :=
    Node.foldl_keeps (fun x : Node => x.grads) _ _ Node.grads_releaseRef n
  generalize n.foldl ((n.seq c).tracks.flatMap (·.pages)) (fun n p => n.releaseRef p) = m at h1
  have h2 : (m.foldl ((n.seq c).tracks.filterMap (·.spare)) fun n p => n.dropPage p).grads = m.grads :=
    Node.foldl_keeps (fun x : Node => x.grads) _ _ Node.grads_dropPage m
  generalize m.foldl ((n.seq c).tracks.filterMap (·.spare)) (fun n p => n.dropPage p) = l at h2
  have h3 : (l.foldl ((n.seq c).tracks.filterMap fun t => t.refill.map (·.1)) fun n p => n.dropPage p).grads = l.grads :=
    Node.foldl_keeps (fun x : Node => x.grads) _ _ Node.grads_dropPage l
  generalize l.foldl ((n.seq c).tracks.filterMap fun t => t.refill.map (·.1)) (fun n p => n.dropPage p) = j at h3
  refine ⟨List.mem_append_right _ List.mem_cons_self, ?_⟩
  refine (Node.foldl_keeps (fun x : Node => x.grads) (j.seqs.rewrites.filter fun w => w.seq == c) (fun n w => match w.copy with
      | some g => n.dropSlot g
      | none => n) (fun y w => by cases w.copy <;> rfl) j).trans (h3.trans (h2.trans h1))

theorem Node.sequenceFree_spec (n : Node) (k : Nat) (hs : (n.seq k).state = .closing) (hr : ∀ t, t < (n.seq k).tracks.length → n.readers k t = 0) :
    (n.sequenceFree k).seq k = {} ∧ k ∈ (n.sequenceFree k).seqs.released ∧ ∀ g ∈ (n.sequenceFree k).grads, g.2.seq ≠ k := by
  have he : n.sequenceFree k = (n.freeGrads k).releaseSeq k := by
    unfold Node.sequenceFree
    refine if_neg fun h => ?_
    simp only [hs, Bool.or_eq_true, List.any_eq_true, List.mem_range, decide_eq_true_eq] at h
    rcases h with h | ⟨t, ht, h⟩
    · exact absurd h (by decide)
    · exact absurd (hr t ht) (by omega)
  obtain ⟨h1, h2⟩ := (n.freeGrads k).releaseSeq_frame k
  rw [he, Node.seq_releaseSeq, if_pos rfl, h2]
  exact ⟨rfl, h1, n.freeGrads_grads k⟩

/-! ### A loaded matrix, and indexes -/

theorem Node.tiers_queueReply (n : Node) (now port : Nat) (rep : Reply) (notice : Option Nat) (w b : Nat) : (n.queueReply now port rep notice w b).tiers = n.tiers := by
  unfold Node.queueReply
  dsimp only
  split
  · split <;> rfl
  · split
    · rfl
    · split <;> rfl

theorem Node.tiers_queueResult (n : Node) (now key status info : Nat) (body : Bytes) : (n.queueResult now key status info body).tiers = n.tiers := by
  unfold Node.queueResult
  split
  · rfl
  · exact Node.tiers_queueReply ..

/-- The digest of a matrix that is whole decides (R300). -/
theorem Node.digestCheck_spec (n : Node) (now d se id : Nat) (hl : (n.weight d).lastPart = some (se, id)) (hs : (n.weight d).state = 1)
    (hb : (n.weight d).loaded = (n.weight d).bytes) (ho : ∀ q, n.admitted? (reqKey se id) = some q → q.items.any Item.open = false) :
    (sha3_512 ((List.range (n.weight d).slotCount).flatMap fun t => n.slotBytes ((n.weight d).slots.getD t 0) 0 ((n.weight d).tileBytes t)) = (n.weight d).digest →
      ((n.digestCheck now d).weight d).state = 2 ∧ ((n.digestCheck now d).weight d).loadTick = now ∧ ((n.digestCheck now d).weight d).slots = (n.weight d).slots) ∧
    (sha3_512 ((List.range (n.weight d).slotCount).flatMap fun t => n.slotBytes ((n.weight d).slots.getD t 0) 0 ((n.weight d).tileBytes t)) ≠ (n.weight d).digest →
      (n.digestCheck now d).weight d = {}) := by
  have hweight : ∀ (m l : Node) (w : Weight), l.tiers = (m.setWeight d w).tiers → l.weight d = w := fun m l w h => by
    rw [Node.weight, h]
    exact m.weight_setWeight d w
  have hdone : (!(match n.admitted? (reqKey se id) with | some q => !q.items.any Item.open | none => true)) = false := by
    cases hq : n.admitted? (reqKey se id) with
    | none => rfl
    | some q => simp [ho q hq]
  unfold Node.digestCheck
  dsimp only
  rw [hl]
  dsimp only
  rw [if_neg (by
    rintro (h | h | h)
    · exact h hs
    · exact h hb
    · exact absurd (hdone.symm.trans h) (by decide))]
  rw [← List.flatMap_def]
  refine ⟨fun h => ?_, fun h => ?_⟩
  · rw [if_pos h, hweight n _ _ (Node.tiers_queueResult ..)]
    exact ⟨rfl, rfl, rfl⟩
  · rw [if_neg h]
    generalize n.foldl (n.weight d).slots (fun n g => n.dropSlot g) = m
    split
    · split
      · exact hweight m _ {} rfl
      · exact hweight m _ {} (Node.tiers_queueReply ..)
    · exact hweight m _ {} rfl

theorem Node.generationReclaim_spec (n : Node) (k : Nat) (hs : (n.vindex k).state ≠ 0) (hq : ∀ q ∈ n.unfinished, ¬(q.req.op = opSearch ∧ q.target = k)) :
    ((n.generationReclaim k).vindex k).lists = (n.vindex k).lists.filter (fun l => l.toGen.isNone) ∧
    ((n.generationReclaim k).vindex k).side = (n.vindex k).side.filter (fun e => e.foldGen == 0) ∧ ((n.generationReclaim k).vindex k).gen = (n.vindex k).gen := by
  have hpins : (n.unfinished.filter fun q => q.req.op == opSearch && q.target == k) = [] :=
    List.filter_eq_nil_iff.mpr fun q hm => by simpa using hq q hm
  unfold Node.generationReclaim
  dsimp only
  rw [hpins, if_neg hs, Node.vindex_setIndex]
  refine ⟨List.filter_congr fun l _ => ?_, List.filter_congr fun e _ => ?_, rfl⟩
  · cases l.toGen <;> rfl
  · simp [bne]

/-- Settles O36: each event by the lemma of its rule. -/
theorem requestEvents : Obligations.RequestEvents := by
  unfold Obligations.RequestEvents
  intro s
  refine ⟨⟨_, State.on_eq .., s.node.hashTick_spec _⟩, fun c q hq hs hi => ⟨_, State.on_eq .., s.node.forkDone_spec _ q hq hs hi⟩,
    fun k hs hr => ⟨_, State.on_eq .., s.node.sequenceFree_spec _ hs hr⟩, fun d se id => ?_,
    fun i hs hq => ⟨_, State.on_eq .., s.node.generationReclaim_spec _ hs hq⟩, fun i hs => ?_⟩
  · intro w hl hs hb ho image
    exact ⟨_, State.on_eq .., s.node.digestCheck_spec _ _ se id hl hs hb ho⟩
  · have he : s.node.ballTreeBuild i.toNat = s.node.setIndex i.toNat { s.node.vindex i.toNat with treeGen := some (s.node.vindex i.toNat).gen } := if_neg hs
    refine ⟨s.node.ballTreeBuild i.toNat, State.on_eq .., ?_⟩
    rw [he, Node.vindex_setIndex]
    exact ⟨rfl, rfl, rfl, rfl⟩

end Sys2Proof.Machine
end

section
/-!
A COMPUTE window opens: items are issued (R188): O37.
-/

namespace Sys2Proof.Machine

/-- `j` is the item `i`, issued or not (R115, R188). -/
def Item.Issued (i j : Item) : Prop := ∃ st vw, j = { i with state := st, view := vw } ∧ (st = i.state ∨ st = 1)

/-- `a` is the request `q`, some of its items issued. -/
def Admitted.Issued (q a : Admitted) : Prop := ∃ its b t, a = { q with items := its, body := b, tokenBase := t } ∧
  its.map (·.num) = q.items.map (·.num) ∧ ∀ i ∈ q.items, ∃ j ∈ its, i.Issued j

/-- A step that at most issues items: requests, sequences, what pages hold and gradient records stay, and queues grow. -/
structure Node.Issues (n m : Node) : Prop where
  keys : (m.adm.admitted.map fun q => q.req.key) = n.adm.admitted.map fun q => q.req.key
  requests : ∀ q ∈ n.adm.admitted, ∃ a ∈ m.adm.admitted, q.Issued a
  seqs : m.seqs.seqs = n.seqs.seqs
  pages : ∀ p, (m.page p).state = (n.page p).state ∧ (m.page p).tokens = (n.page p).tokens
  grads : m.grads = n.grads
  queues : ∀ c, ∀ e ∈ Map.get [] n.cells.queues c, e ∈ Map.get [] m.cells.queues c

theorem Item.Issued.refl (i : Item) : i.Issued i := ⟨i.state, i.view, rfl, .inl rfl⟩

theorem Item.Issued.trans {i j l : Item} (h : i.Issued j) (h' : j.Issued l) : i.Issued l := by
  obtain ⟨st, vw, rfl, h⟩ := h
  obtain ⟨st', vw', rfl, h'⟩ := h'
  refine ⟨st', vw', rfl, ?_⟩
  rcases h' with h' | h'
  · exact h' ▸ h
  · exact .inr h'

theorem Admitted.Issued.refl (q : Admitted) : q.Issued q := ⟨q.items, q.body, q.tokenBase, rfl, rfl, fun i h => ⟨i, h, .refl i⟩⟩

theorem Admitted.Issued.trans {q a b : Admitted} (h : q.Issued a) (h' : a.Issued b) : q.Issued b := by
  obtain ⟨its, bd, t, rfl, hn, hi⟩ := h
  obtain ⟨its', bd', t', rfl, hn', hi'⟩ := h'
  refine ⟨its', bd', t', rfl, hn'.trans hn, fun i h => ?_⟩
  obtain ⟨j, hj, hij⟩ := hi i h
  obtain ⟨l, hl, hjl⟩ := hi' j hj
  exact ⟨l, hl, hij.trans hjl⟩

namespace Node.Issues

variable {n m l : Node}

theorem of_eq (ha : m.adm = n.adm) (hs : m.seqs = n.seqs) (hg : m.grads = n.grads) (hc : m.cells = n.cells) : n.Issues m where
  keys := by rw [ha]
  requests q h := ⟨q, by rw [ha]; exact h, .refl q⟩
  seqs := by rw [hs]
  pages p := by rw [Node.page, hs]; exact ⟨rfl, rfl⟩
  grads := hg
  queues c e h := by rw [hc]; exact h

theorem trans (h : n.Issues m) (h' : m.Issues l) : n.Issues l where
  keys := h'.keys.trans h.keys
  requests q hq := by
    obtain ⟨a, ha, hqa⟩ := h.requests q hq
    obtain ⟨b, hb, hab⟩ := h'.requests a ha
    exact ⟨b, hb, hqa.trans hab⟩
  seqs := h'.seqs.trans h.seqs
  pages p := ⟨(h'.pages p).1.trans (h.pages p).1, (h'.pages p).2.trans (h.pages p).2⟩
  grads := h'.grads.trans h.grads
  queues c e he := h'.queues c e (h.queues c e he)

theorem foldl {α : Type} {f : Node → α → Node} (h : ∀ (n : Node) x, n.Issues (f n x)) (xs : List α) (n : Node) : n.Issues (n.foldl xs f) := by
  induction xs generalizing n with
  | nil => exact of_eq rfl rfl rfl rfl
  | cons x t ih => exact (h n x).trans (ih _)

/-- A change of one request that keeps what an issue keeps. -/
theorem setAdmitted (n : Node) (key : Nat) (f : Admitted → Admitted) (hf : ∀ q : Admitted, q.Issued (f q)) : n.Issues (n.setAdmitted key f) where
  keys := by
    rw [Node.setAdmitted_admitted]
    refine map_keys _ _ fun q _ => ?_
    obtain ⟨its, b, t, he, -⟩ := hf q
    unfold Admitted.onKey
    split
    · rw [he]
    · rfl
  requests q hq := by
    rw [Node.setAdmitted_admitted]
    refine ⟨q.onKey key f, List.mem_map.mpr ⟨q, hq, rfl⟩, ?_⟩
    unfold Admitted.onKey
    split
    · exact hf q
    · exact .refl q
  seqs := rfl
  pages _ := ⟨rfl, rfl⟩
  grads := rfl
  queues _ _ h := h

theorem setPage (n : Node) (p : Nat) (d : Page) (hs : d.state = (n.page p).state) (ht : d.tokens = (n.page p).tokens) : n.Issues (n.setPage p d) where
  keys := rfl
  requests q h := ⟨q, h, .refl q⟩
  seqs := rfl
  pages k := by
    rw [Node.page_setPage]
    split
    · next h => exact h ▸ ⟨hs, ht⟩
    · exact ⟨rfl, rfl⟩
  grads := rfl
  queues _ _ h := h

end Node.Issues

/-- An item of a request marked issued is the same item, and so is the request (R188). -/
theorem Admitted.issued_setItem (q : Admitted) (num : Nat) (view : List ViewPage) :
    q.Issued { q with items := q.items.map fun i => if i.num = num then { i with state := 1, view := view } else i } := by
  refine ⟨_, q.body, q.tokenBase, rfl, ?_, fun i hi => ⟨_, List.mem_map.mpr ⟨i, hi, rfl⟩, ?_⟩⟩
  · rw [List.map_map]
    refine List.map_congr_left fun i _ => ?_
    show (if i.num = num then ({ i with state := 1, view := view } : Item) else i).num = i.num
    split <;> rfl
  · split
    · exact ⟨1, view, rfl, .inr rfl⟩
    · exact .refl i

/-- Nothing that an item reads is poisoned (R124, R234). -/
def Node.Clean (n : Node) (q : Admitted) (it : Item) : Prop :=
  (∀ v ∈ n.viewOf q it, (n.page v.page).state ≠ .poisoned ∧ (n.page v.page).state ≠ .quarantined) ∧
  ∀ g ∈ n.itemGrads q it, ∀ x, Map.find n.grads g = some x → x.state ≠ 3

theorem Node.Clean.issues {n m : Node} {q a : Admitted} {i j : Item} (hc : n.Clean q i) (h : n.Issues m) (hq : q.Issued a) (hi : i.Issued j) : m.Clean a j := by
  obtain ⟨its, b, t, rfl, -⟩ := hq
  obtain ⟨st, vw, rfl, -⟩ := hi
  have hseq : m.seq = n.seq := funext fun k => by rw [Node.seq, h.seqs]; rfl
  have hview : m.viewOf { q with items := its, body := b, tokenBase := t } { i with state := st, view := vw } = n.viewOf q i := by
    unfold Node.viewOf
    simp only [hseq, (h.pages _).1, (h.pages _).2]
  obtain ⟨h1, h2⟩ := hc
  refine ⟨fun v hv => ?_, fun g hg x hx => h2 g ?_ x ?_⟩
  · rw [hview] at hv
    rw [(h.pages _).1]
    exact h1 v hv
  · unfold Node.itemGrads at hg ⊢
    rw [h.grads] at hg
    exact hg
  · rw [h.grads] at hx
    exact hx

/-! ### Issuing -/

/-- The one element of a list without a key twice that has the key. -/
theorem find_of_nodup {α : Type} {l : List α} {f : α → Nat} (hn : (l.map f).Nodup) {x : α} (hx : x ∈ l) : l.find? (fun y => f y == f x) = some x := by
  cases h : l.find? fun y => f y == f x with
  | none => exact absurd (List.find?_eq_none.mp h x hx) (by simp)
  | some y => exact congrArg some (List.inj_on_of_nodup_map hn (List.mem_of_find?_eq_some h) hx (by simpa using List.find?_some h))

/-- An item is issued, and queued on its cell (R188). -/
def Node.HasIssued (n : Node) (q : Admitted) (i : Item) : Prop :=
  (∃ a ∈ n.adm.admitted, a.req = q.req ∧ ∃ j ∈ a.items, j.num = i.num ∧ j.state = 1) ∧
  (q.req.sess, q.req.hdr.requestId.toNat, i.num) ∈ Map.get [] n.cells.queues (cellNum i.region i.cell)

theorem Node.Issues.hasIssued {n m : Node} (h : n.Issues m) {q : Admitted} {i : Item} (hi : n.HasIssued q i) : m.HasIssued q i := by
  obtain ⟨⟨a, ha, hr, j, hj, hn, hs⟩, he⟩ := hi
  obtain ⟨b, hb, its, bd, t, rfl, -, hits⟩ := h.requests a ha
  obtain ⟨l, hl, st, vw, rfl, hst⟩ := hits j hj
  exact ⟨⟨_, hb, hr, _, hl, hn, hst.elim (fun h => h.trans hs) id⟩, h.queues _ _ he⟩

/-- The node with an item in the queue of its cell. -/
def Node.onCell (n : Node) (c : Nat) (e : Nat × Nat × Nat) : Node :=
  { n with cells := { n.cells with queues := Map.set [] n.cells.queues c (Map.get [] n.cells.queues c ++ [e]) } }

theorem Node.onCell_queue (n : Node) (c k : Nat) (e : Nat × Nat × Nat) : Map.get [] (n.onCell c e).cells.queues k =
    if k = c then Map.get [] n.cells.queues c ++ [e] else Map.get [] n.cells.queues k := Map.get_set ..

theorem Node.issues_onCell (n : Node) (c : Nat) (e : Nat × Nat × Nat) : n.Issues (n.onCell c e) where
  keys := rfl
  requests q h := ⟨q, h, .refl q⟩
  seqs := rfl
  pages _ := ⟨rfl, rfl⟩
  grads := rfl
  queues k x hx := by
    rw [n.onCell_queue]
    split
    · next h => exact List.mem_append_left _ (h ▸ hx)
    · exact hx

/-- A FETCH's body is read at its issue (R221). -/
def Node.fetched (n : Node) (key : Nat) (q : Admitted) (it : Item) : Node :=
  if it.kind = .fetch then
    let (b, c) := n.fetchBody q it
    n.setAdmitted key fun q => { q with body := b, tokenBase := c } else n

theorem Node.issues_fetched (n : Node) (key : Nat) (q : Admitted) (it : Item) : n.Issues (n.fetched key q it) := by
  unfold Node.fetched
  split
  · exact .setAdmitted n key _ fun q => ⟨q.items, _, _, rfl, rfl, fun i hi => ⟨i, hi, .refl i⟩⟩
  · exact .of_eq rfl rfl rfl rfl

/-- The pages of a view, pinned (R115). -/
def Node.viewPinned (n : Node) (now : Nat) (view : List ViewPage) : Node :=
  n.foldl view fun n v => n.setPage v.page { n.page v.page with pin := (n.page v.page).pin + 1, lastUse := now }

theorem Node.issues_viewPinned (n : Node) (now : Nat) (view : List ViewPage) : n.Issues (n.viewPinned now view) :=
  Node.Issues.foldl (fun n (v : ViewPage) => .setPage n v.page { n.page v.page with pin := (n.page v.page).pin + 1, lastUse := now } rfl rfl) view n

theorem Node.issueItem_eq (n : Node) (now : Nat) (q : Admitted) (it : Item) (hq : n.admitted? q.req.key = some q)
    (hi : q.items.find? (fun i => i.num == it.num) = some it) (hc : n.Clean q it) : n.issueItem now q.req.key it.num =
      (((((n.viewPinned now (n.viewOf q it)).setItem q.req.key it.num fun i => { i with state := 1, view := n.viewOf q it }).fetched q.req.key q it).onCell
        (cellNum it.region it.cell) (q.req.sess, q.req.hdr.requestId.toNat, it.num)).bump (regionKey it.region Reg.itemsIssued)) := by
  obtain ⟨h1, h2⟩ := hc
  unfold Node.issueItem
  rw [hq]
  dsimp only
  rw [hi]
  dsimp only
  rw [if_neg]
  · rfl
  · intro h
    simp only [Bool.or_eq_true, List.any_eq_true, beq_iff_eq] at h
    rcases h with ⟨v, hv, h | h⟩ | ⟨g, hg, h⟩
    · exact (h1 v hv).1 h
    · exact (h1 v hv).2 h
    · cases hx : Map.find n.grads g with
      | none => rw [hx] at h; exact absurd h (by decide)
      | some x => rw [hx] at h; exact h2 g hg x hx (by simpa using h)

theorem Node.issueItem_spec (n : Node) (now : Nat) (q : Admitted) (it : Item) (hk : (n.adm.admitted.map fun q => q.req.key).Nodup) (hq : q ∈ n.adm.admitted)
    (hn : (q.items.map (·.num)).Nodup) (hi : it ∈ q.items) (hc : n.Clean q it) : n.Issues (n.issueItem now q.req.key it.num) ∧
      (n.issueItem now q.req.key it.num).HasIssued q it := by
  rw [n.issueItem_eq now q it (find_of_nodup (f := fun q : Admitted => q.req.key) hk hq) (find_of_nodup (f := fun i : Item => i.num) hn hi) hc]
  generalize n.viewOf q it = view
  have hpin := n.issues_viewPinned now view
  have hmem : q ∈ (n.viewPinned now view).adm.admitted := by
    rw [show (n.viewPinned now view).adm = n.adm from Node.foldl_keeps (fun x : Node => x.adm) view
      (fun (n : Node) v => n.setPage v.page { n.page v.page with pin := (n.page v.page).pin + 1, lastUse := now }) (fun _ _ => rfl) n]
    exact hq
  generalize n.viewPinned now view = n1 at hpin hmem
  have hset : n.Issues (n1.setItem q.req.key it.num fun i => { i with state := 1, view := view }) :=
    hpin.trans (.setAdmitted n1 q.req.key _ fun q => q.issued_setItem it.num view)
  have hitem : ∃ a ∈ (n1.setItem q.req.key it.num fun i => { i with state := 1, view := view }).adm.admitted, a.req = q.req ∧ ∃ j ∈ a.items, j.num = it.num ∧ j.state = 1 := by
    refine ⟨_, List.mem_map.mpr ⟨q, hmem, rfl⟩, ?_⟩
    rw [if_pos rfl]
    exact ⟨rfl, _, List.mem_map.mpr ⟨it, hi, rfl⟩, by rw [if_pos rfl], by rw [if_pos rfl]⟩
  have hfet := Node.issues_fetched (n1.setItem q.req.key it.num fun i => { i with state := 1, view := view }) q.req.key q it
  generalize (n1.setItem q.req.key it.num fun i => { i with state := 1, view := view }) = n2 at hset hitem hfet
  generalize n2.fetched q.req.key q it = n3 at hfet
  obtain ⟨a, ha, hr, j, hj, hnum, hst⟩ := hitem
  obtain ⟨b, hb, its, bd, t, rfl, -, hits⟩ := hfet.requests a ha
  obtain ⟨l, hl, st, vw, rfl, hl1⟩ := hits j hj
  refine ⟨(hset.trans hfet).trans ((n3.issues_onCell ..).trans (.of_eq rfl rfl rfl rfl)), ⟨_, hb, hr, _, hl, hnum, hl1.elim (fun h => h.trans hst) id⟩, ?_⟩
  show _ ∈ Map.get [] (n3.onCell _ _).cells.queues _
  rw [n3.onCell_queue, if_pos rfl]
  exact List.mem_append_right _ List.mem_cons_self

/-- Items issued one after another, each clean at the start: all are issued (R188). -/
theorem Node.issueItems_spec (now : Nat) (n0 : Node) (hk : (n0.adm.admitted.map fun q => q.req.key).Nodup) (l : List (Nat × Nat × Nat))
    (hl : ∀ e ∈ l, ∃ q ∈ n0.adm.admitted, ∃ i ∈ q.items, e.2 = (q.req.key, i.num) ∧ (q.items.map (·.num)).Nodup ∧ n0.Clean q i) (n : Node) (hn : n0.Issues n) :
    n.Issues (n.foldl l fun n e => n.issueItem now e.2.1 e.2.2) ∧
    ∀ q ∈ n0.adm.admitted, ∀ i ∈ q.items, (∃ o, (o, q.req.key, i.num) ∈ l) → (n.foldl l fun n e => n.issueItem now e.2.1 e.2.2).HasIssued q i := by
  induction l generalizing n with
  | nil => exact ⟨.of_eq rfl rfl rfl rfl, fun _ _ _ _ h => by obtain ⟨_, h⟩ := h; cases h⟩
  | cons e t ih =>
    obtain ⟨q, hq, i, hi, he, hnum, hc⟩ := hl e List.mem_cons_self
    obtain ⟨a, ha, hqa⟩ := hn.requests q hq
    have hqa' := hqa
    obtain ⟨its, bd, tb, rfl, hnums, hits⟩ := hqa
    obtain ⟨j, hj, hij⟩ := hits i hi
    have hclean' := hc.issues hn hqa' hij
    obtain ⟨st, vw, rfl, -⟩ := hij
    obtain ⟨hstep, hhas⟩ := n.issueItem_spec now _ _ (by rw [hn.keys]; exact hk) ha (by rw [hnums]; exact hnum) hj hclean'
    have hstep' : n.Issues (n.issueItem now e.2.1 e.2.2) := by rw [he]; exact hstep
    obtain ⟨hrest, hall⟩ := ih (fun x hx => hl x (List.mem_cons_of_mem _ hx)) _ (hn.trans hstep')
    refine ⟨hstep'.trans hrest, fun q' hq' i' hi' hm => ?_⟩
    obtain ⟨o, ho⟩ := hm
    rcases List.mem_cons.mp ho with ho | ho
    · have hee : (q'.req.key, i'.num) = (q.req.key, i.num) := by rw [← he, ← ho]
      obtain ⟨h1, h2⟩ := Prod.mk.inj hee
      obtain rfl := List.inj_on_of_nodup_map hk hq' hq h1
      obtain rfl := List.inj_on_of_nodup_map hnum hi' hi h2
      refine hrest.hasIssued ?_
      rw [he]
      exact hhas
    · exact hall q' hq' i' hi' ⟨o, ho⟩

end Sys2Proof.Machine
end

section
/-!
Items issued, started and completed: O37.
-/

namespace Sys2Proof.Machine

/-- Every item booked in a window that opens is issued and queued (R188). -/
theorem Node.computeOpen_spec (n : Node) (now r : Nat) (hin : n.inRounds = true) (hw : (n.windowOpens now 2 r).isSome = true)
    (hk : (n.adm.admitted.map fun q => q.req.key).Nodup) (hn : ∀ q ∈ n.unfinished, (q.items.map fun i => i.num).Nodup)
    (hc : ∀ q ∈ n.unfinished, ∀ i ∈ q.items, n.Clean q i) : ∀ q ∈ n.unfinished, ∀ i ∈ q.items, i.state = 0 → i.region = r → i.winStart = now →
      (n.computeOpen now r).HasIssued q i := by
  have hsub : ∀ q ∈ n.unfinished, q ∈ n.adm.admitted := fun q h => (List.mem_filter.mp h).1
  intro q hq i hi hs hr ht
  unfold Node.computeOpen
  dsimp only
  rw [if_neg (by
    simp only [Bool.or_eq_true, Bool.not_eq_true', Option.isNone_iff_eq_none]
    rintro (h | h)
    · exact absurd (hin.symm.trans h) (by decide)
    · rw [h] at hw; exact absurd hw (by decide))]
  refine (Node.issueItems_spec now n hk _ (fun e he => ?_) n (.of_eq rfl rfl rfl rfl)).2 q (hsub q hq) i hi ⟨i.order, (mem_sortBy ..).mpr ?_⟩
  · obtain ⟨q', hq', he⟩ := List.mem_flatMap.mp ((mem_sortBy ..).mp he)
    obtain ⟨j, hj, rfl⟩ := List.mem_map.mp he
    obtain ⟨hj, -⟩ := List.mem_filter.mp hj
    exact ⟨q', hsub q' hq', j, hj, rfl, hn q' hq', hc q' hq' j hj⟩
  · exact List.mem_flatMap.mpr ⟨q, hq, List.mem_map.mpr ⟨i, List.mem_filter.mpr ⟨hi, by simp [hs, hr, ht]⟩, rfl⟩⟩

/-- The item at the head of a cell's queue starts on a free thread (R186, R188). -/
theorem Node.itemStart_spec (n : Node) (r c se id num : Nat) (rest : List (Nat × Nat × Nat)) (q : Admitted) (it : Item) (t : Nat)
    (hq : Map.get [] n.cells.queues (cellNum r c) = (se, id, num) :: rest) (ha : n.admitted? (reqKey se id) = some q)
    (hi : q.items.find? (fun i => i.num == num) = some it) (ht : n.freeThreadOf r c = some t) (hl : n.tilesFor q it ≤ (n.freeTiles r c).length)
    (hu : n.unitUp .cell (cellNum r c) = true) : ∃ m, n.itemStart r c = some (t, m) ∧ Map.get [] m.cells.queues (cellNum r c) = rest ∧
      ∃ u, m.thread (cellNum r c * 16 + t) = u ∧ u.running = true ∧ u.session = se ∧ u.request = id ∧ u.item = num ∧
        u.tiles = (n.freeTiles r c).take (n.tilesFor q it) ∧ u.x = [] ∧ u.acc = [] := by
  unfold Node.itemStart
  rw [hq]
  dsimp only
  rw [ha]
  dsimp only
  rw [hi, ht]
  dsimp only
  rw [if_neg (by rw [hu]; simpa using hl)]
  refine ⟨_, rfl, (Map.get_set ..).trans (if_pos rfl), _, (Node.thread_setThread ..).trans (if_pos rfl), rfl, rfl, rfl, rfl, rfl, rfl, rfl⟩

/-! ### Completion (R197) -/

theorem Node.adm_unpinItem (n : Node) (i : Item) : (n.unpinItem i).adm = n.adm := by
  unfold Node.unpinItem
  split
  · exact Node.foldl_keeps (fun x : Node => x.adm) _ Node.unpinPage (fun _ _ => rfl) n
  · rfl

/-- An item with its partials (R178). -/
def Admitted.withItem (q : Admitted) (num : Nat) (f : Item → Item) : Admitted := { q with items := q.items.map fun i => if i.num = num then f i else i }

theorem Node.mem_setItem (n : Node) (key num : Nat) (f : Item → Item) (a : Admitted) (ha : a ∈ n.adm.admitted) (hk : a.req.key = key) :
    a.withItem num f ∈ (n.setItem key num f).adm.admitted := List.mem_map.mpr ⟨a, ha, if_pos hk⟩

/-- A completion whose effect leaves its request open frees the thread, and the item is done (R197). -/
theorem Node.itemComplete_eq (n m : Node) (now th : Nat) (q q1 : Admitted) (it : Item) (hr : (n.thread th).ready = true)
    (ha : n.admitted? (reqKey (n.thread th).session (n.thread th).request) = some q) (hi : q.items.find? (fun i => i.num == (n.thread th).item) = some it)
    (he : n.itemEffect now q it = m) (ha1 : m.admitted? (reqKey (n.thread th).session (n.thread th).request) = some q1) (h2 : q1.phase < 2) (hh : q1.held = false)
    (hs : q1.stateLost = false) (hf : q1.req.op ≠ opFold) : n.itemComplete now th =
      ((m.unpinItem it).freeThread th).setItem (reqKey (n.thread th).session (n.thread th).request) it.num fun i => { i with state := 3 } := by
  have hadm : ((m.unpinItem it).freeThread th).admitted? (reqKey (n.thread th).session (n.thread th).request) = some q1 := by
    rw [← ha1]
    show ((m.unpinItem it).adm.admitted.find? _) = _
    rw [m.adm_unpinItem]
    rfl
  have hset : (((m.unpinItem it).freeThread th).setItem (reqKey (n.thread th).session (n.thread th).request) it.num fun i => { i with state := 3 }).admitted?
      (reqKey (n.thread th).session (n.thread th).request) = some (q1.withItem it.num fun i => { i with state := 3 }) :=
    Node.admitted?_setAdmitted ((m.unpinItem it).freeThread th) _ (fun q => q.withItem it.num fun i => { i with state := 3 }) q1 hadm rfl
  unfold Node.itemComplete
  dsimp only
  rw [if_neg (by rw [hr]; decide), ha]
  dsimp only
  rw [hi]
  dsimp only
  rw [he, ha1]
  dsimp only
  rw [if_neg (by rw [hh, hs]; simpa using h2)]
  rw [hset]
  exact if_neg fun h => hf h.1

/-- What completing a built-in attention item does (R174, R197). -/
theorem Node.itemComplete_attn (n : Node) (now th : Nat) (q : Admitted) (it : Item) (keys : List KeyTok) (hr : (n.thread th).ready = true)
    (ho : n.itemOf (n.thread th) = some (q, it)) (hk : it.kind = .attn) (hp : it.program q = none) (h2 : q.phase < 2) (hh : q.held = false)
    (hs : q.stateLost = false) (hf : q.req.op ≠ opFold) (hv : n.readView q it.view = .keys keys) :
    ((n.itemComplete now th).thread th).running = false ∧
    ∃ a ∈ (n.itemComplete now th).adm.admitted, a.req = q.req ∧ ∃ j ∈ a.items, j.num = it.num ∧ j.state = 3 ∧
      j.partials = (n.itemPartials q.req it (keys ++ n.payloadKeys q it)).1 := by
  obtain ⟨q', ha, hm⟩ := Option.bind_eq_some_iff.mp ho
  obtain ⟨it', hi, he⟩ := Option.map_eq_some_iff.mp hm
  cases he
  obtain ⟨hqm, hqk⟩ := Node.mem_of_admitted? ha
  have hnum : it.num = (n.thread th).item := by simpa using List.find?_some hi
  have hitm := List.mem_of_find?_eq_some hi
  obtain ⟨m, he, ha1⟩ : ∃ m, n.itemEffect now q it = m ∧ m.admitted? q.req.key =
      some (q.withItem it.num fun i => { i with partials := (n.itemPartials q.req it (keys ++ n.payloadKeys q it)).1 }) := by
    refine ⟨_, rfl, ?_⟩
    have hset := Node.admitted?_setAdmitted n q.req.key
      (fun q' => q'.withItem it.num fun i => { i with partials := (n.itemPartials q.req it (keys ++ n.payloadKeys q it)).1 }) q (by rw [hqk]; exact ha) rfl
    unfold Node.itemEffect
    rw [hk]
    dsimp only
    rw [hp, hv]
    exact hset
  rw [hqk] at ha1
  have heq := n.itemComplete_eq m now th q _ it hr ha hi he ha1 h2 hh hs hf
  obtain ⟨hmem, -⟩ := Node.mem_of_admitted? ha1
  rw [heq]
  refine ⟨congrArg Thread.running ((m.unpinItem it).thread_freeThread th), ?_⟩
  have hadm : ((m.unpinItem it).freeThread th).adm = m.adm := m.adm_unpinItem it
  refine ⟨_, Node.mem_setItem _ _ _ _ (q.withItem it.num fun i => { i with partials := (n.itemPartials q.req it (keys ++ n.payloadKeys q it)).1 })
    (by rw [hadm]; exact hmem) hqk, ?_⟩
  refine ⟨rfl, _, List.mem_map.mpr ⟨_, List.mem_map.mpr ⟨it, hitm, rfl⟩, rfl⟩, ?_⟩
  rw [if_pos rfl, if_pos rfl]
  exact ⟨rfl, rfl, rfl⟩

/-- Settles O37: the windows that open, the item that starts and the item that completes. How many tile registers an item takes is the model's choice for kinds that
Table 7-10 does not name (log entry 62). -/
theorem itemEvents : Obligations.ItemEvents := by
  unfold Obligations.ItemEvents
  intro s
  refine ⟨fun r hst hin hw hk hn hc => ?_, fun r cell se id num rest q it t hq ha hi ht hl hu => ?_, fun t q it keys hr ho hk hp h2 hh hs hf hv => ?_⟩
  · have hexec : exec (.computeWindowOpen r) s = s.on (s.node.computeOpen s.clock.tick r.val) := by
      show s.on (if _ then _ else _) = _
      rw [if_neg (by rw [hst]; decide)]
    exact ⟨_, hexec.trans (State.on_eq ..), s.node.computeOpen_spec s.clock.tick r.val hin hw hk hn hc⟩
  · obtain ⟨m, hm, hqueue, u, hu, h1, h2, h3, h4, h5, h6, h7⟩ := s.node.itemStart_spec r.val cell.val se id num rest q it t hq ha hi ht hl hu
    have hexec : exec (.itemStart r cell) s = .next { s with node := m, mem := clearMem s.mem (windowBase r.val cell.val t) 8192 } := by
      show execItemStart r cell s = _
      unfold execItemStart
      rw [hm]
    refine ⟨m, _, hexec, ?_⟩
    intro w
    obtain rfl : w = u := hu
    refine ⟨h1, h2, h3, h4, h5, fun i => ?_, fun i j => ?_, hqueue, fun b hb hb' => ?_, fun b hb => ?_⟩
    · unfold Thread.getX
      rw [h6]
      exact ite_self 0
    · unfold Thread.getAcc
      rw [h7]
      rfl
    · rw [Memory.byte_clearMem, if_pos ⟨hb, hb'⟩]
    · rw [Memory.byte_clearMem, if_neg (by omega)]
  · obtain ⟨hrun, hitem⟩ := s.node.itemComplete_attn s.clock.tick t.key q it keys hr ho hk hp h2 hh hs hf hv
    refine ⟨_, _, rfl, hrun, hitem, fun b hb => ?_⟩
    unfold threadWindow at hb
    split
    · rw [Memory.byte_clearMem, if_neg (by omega)]
    · rfl

end Sys2Proof.Machine
end

section
/-!
Tokens written, and spares refilled (R113, R114, R120): O39.
-/

namespace Sys2Proof.Machine

/-- A step that leaves the sequences and the requests. -/
def Node.Stores (n m : Node) : Prop := m.seqs.seqs = n.seqs.seqs ∧ m.adm = n.adm

namespace Node.Stores

variable {n m l : Node}

theorem refl (n : Node) : n.Stores n := ⟨rfl, rfl⟩

theorem trans (h : n.Stores m) (h' : m.Stores l) : n.Stores l := ⟨h'.1.trans h.1, h'.2.trans h.2⟩

theorem update (h : n.Stores m) (hs : l.seqs.seqs = m.seqs.seqs) (ha : l.adm = m.adm) : n.Stores l := ⟨hs.trans h.1, ha.trans h.2⟩

theorem foldl {α : Type} {f : Node → α → Node} (h : ∀ (n : Node) x, n.Stores (f n x)) (xs : List α) (n : Node) : n.Stores (n.foldl xs f) := by
  induction xs generalizing n with
  | nil => exact refl n
  | cons x t ih => exact (h n x).trans (ih _)

theorem seq (h : n.Stores m) (k : Nat) : m.seq k = n.seq k := by rw [Node.seq, h.1]; rfl

end Node.Stores

theorem Node.adm_writeSlotGo (g owner tag fuel : Nat) : ∀ (off : Nat) (bs : Bytes) (n : Node), (Node.writeSlotGo g owner tag fuel off bs n).adm = n.adm := by
  induction fuel with
  | zero => exact fun _ _ _ => rfl
  | succ fuel ih =>
    intro off bs n
    unfold Node.writeSlotGo
    split
    · rfl
    · exact ih _ _ _

theorem Node.stores_writeSlot (n : Node) (g off : Nat) (bs : Bytes) (owner tag : Nat) : n.Stores (n.writeSlot g off bs owner tag) :=
  ⟨congrArg SeqMgr.seqs (n.writeSlot_frame g off bs owner tag).1, Node.adm_writeSlotGo g owner tag 257 off bs n⟩

theorem Node.stores_pageBytes (n : Node) (p off : Nat) (bs : Bytes) : n.Stores (n.pageBytes p off bs) := by
  unfold Node.pageBytes
  dsimp only
  split
  · exact .refl n
  · exact (n.stores_writeSlot ..).trans (.foldl (fun n l => show n.Stores (n.poisonLine _) from ⟨rfl, rfl⟩) _ _)

theorem Node.stores_putToken (n : Node) (p a b tag : Nat) (rc : Bytes) : n.Stores (n.putToken p a b tag rc) := by
  unfold Node.putToken
  exact (((n.stores_pageBytes ..).trans (Node.stores_pageBytes ..)).trans (Node.stores_pageBytes ..)).update rfl rfl

/-- Writing a token into a track's page leaves the sequences and the requests (R113). -/
theorem Node.stores_trackToken (n : Node) (k t tag : Nat) (rc : Bytes) : n.Stores (n.trackToken k t tag rc) := by
  unfold Node.trackToken
  exact (Node.stores_putToken ..).update rfl rfl

/-- What a token write does to one track (R113). -/
def Node.trackWritten (n : Node) (now : Nat) (q : Admitted) (e : Nat × Nat) : Node :=
  let k := seqLocal q.req.seqId
  let c := q.tokens
  let n := n.foldl (List.range c) fun n j =>
    let (tag, rc) := n.storedRecord q e.2 j
    let n := n.trackToken k e.1 tag rc
    n.setTrack k e.1 fun tr => { tr with tokens := tr.tokens + 1 }
  let full := decide (16 ≤ (n.page ((n.seq k).track e.1).tail).tokens)
  n.setTrack k e.1 fun tr => { tr with booked := tr.booked - c, sealDue := if full && tr.spare.isSome then some (now + 1) else tr.sealDue }

/-- One track of a sequence changed. -/
theorem Node.track_setTrack (n : Node) (k j t : Nat) (f : Track → Track) : ((n.setTrack k j f).seq k).track t =
    if t = j ∧ t < (n.seq k).tracks.length then f ((n.seq k).track t) else (n.seq k).track t := by
  unfold Node.setTrack
  dsimp only
  rw [Node.seq_setSeq, if_pos rfl, Seq.track, Seq.track, List.getD_eq_getElem?_getD, List.getD_eq_getElem?_getD, List.getElem?_modify]
  by_cases hl : t < (n.seq k).tracks.length
  · rw [List.getElem?_eq_getElem hl]
    by_cases h : t = j
    · simp [h, h ▸ hl]
    · simp [h, Ne.symm h]
  · rw [List.getElem?_eq_none (Nat.le_of_not_lt hl), if_neg fun h => hl h.2]
    rfl

/-- One track of a sequence, changed: the others, their number and the requests as they were. -/
structure Node.OneTrack (n m : Node) (k t : Nat) : Prop where
  others : ∀ j, j ≠ t → (m.seq k).track j = (n.seq k).track j
  length : (m.seq k).tracks.length = (n.seq k).tracks.length
  adm : m.adm = n.adm

theorem Node.OneTrack.trans {n m l : Node} {k t : Nat} (h : n.OneTrack m k t) (h' : m.OneTrack l k t) : n.OneTrack l k t :=
  ⟨fun j hj => (h'.others j hj).trans (h.others j hj), h'.length.trans h.length, h'.adm.trans h.adm⟩

theorem Node.oneTrack_setTrack (n : Node) (k t : Nat) (f : Track → Track) : n.OneTrack (n.setTrack k t f) k t :=
  ⟨fun j hj => (n.track_setTrack k t j f).trans (if_neg fun h => hj h.1), (Node.heads_setTrack k n k t f).2.2.2, rfl⟩

theorem Node.Stores.oneTrack {n m : Node} (h : n.Stores m) (k t : Nat) : n.OneTrack m k t :=
  ⟨fun j _ => by rw [h.seq], by rw [h.seq], h.2⟩

/-- The tokens of a request in one track (R113). -/
theorem Node.trackTokens_spec (k t : Nat) (rec' : Node → Nat → Nat × Bytes) (l : List Nat) (n : Node) :
    n.OneTrack (n.foldl l fun n j => (n.trackToken k t (rec' n j).1 (rec' n j).2).setTrack k t fun tr => { tr with tokens := tr.tokens + 1 }) k t ∧
    (t < (n.seq k).tracks.length → ((n.foldl l fun n j => (n.trackToken k t (rec' n j).1 (rec' n j).2).setTrack k t
      fun tr => { tr with tokens := tr.tokens + 1 }).seq k).track t = { (n.seq k).track t with tokens := ((n.seq k).track t).tokens + l.length }) := by
  induction l generalizing n with
  | nil => exact ⟨(Node.Stores.refl n).oneTrack k t, fun _ => rfl⟩
  | cons x rest ih =>
    have hst := n.stores_trackToken k t (rec' n x).1 (rec' n x).2
    have hone := (hst.oneTrack k t).trans (Node.oneTrack_setTrack _ k t fun tr => { tr with tokens := tr.tokens + 1 })
    obtain ⟨h1, h2⟩ := ih ((n.trackToken k t (rec' n x).1 (rec' n x).2).setTrack k t fun tr => { tr with tokens := tr.tokens + 1 })
    refine ⟨hone.trans h1, fun hl => (h2 (by rw [hone.length]; exact hl)).trans ?_⟩
    rw [Node.track_setTrack, if_pos ⟨rfl, by rw [hst.seq]; exact hl⟩, hst.seq, List.length_cons]
    simp only [Nat.add_assoc, Nat.add_comm 1]

theorem Node.trackWritten_spec (n : Node) (now : Nat) (q : Admitted) (e : Nat × Nat) : n.OneTrack (n.trackWritten now q e) (seqLocal q.req.seqId) e.1 ∧
    (e.1 < (n.seq (seqLocal q.req.seqId)).tracks.length →
      (((n.trackWritten now q e).seq (seqLocal q.req.seqId)).track e.1).tokens = ((n.seq (seqLocal q.req.seqId)).track e.1).tokens + q.tokens ∧
      (((n.trackWritten now q e).seq (seqLocal q.req.seqId)).track e.1).booked = ((n.seq (seqLocal q.req.seqId)).track e.1).booked - q.tokens) := by
  obtain ⟨h1, h2⟩ := Node.trackTokens_spec (seqLocal q.req.seqId) e.1 (fun n j => n.storedRecord q e.2 j) (List.range q.tokens) n
  unfold Node.trackWritten
  dsimp only
  generalize n.foldl (List.range q.tokens) _ = m at h1 h2 ⊢
  refine ⟨h1.trans (Node.oneTrack_setTrack ..), fun hl => ?_⟩
  rw [Node.track_setTrack, if_pos ⟨rfl, by rw [h1.length]; exact hl⟩, h2 hl, List.length_range]
  exact ⟨rfl, rfl⟩

/-- The tracks of a request written one after another, each once (R113). -/
theorem Node.tracksWritten_spec (now : Nat) (q : Admitted) (l : List (Nat × Nat)) (hn : (l.map Prod.fst).Nodup) (n : Node) :
    (n.foldl l fun n e => n.trackWritten now q e).adm = n.adm ∧
    (∀ t, t ∉ l.map Prod.fst → ((n.foldl l fun n e => n.trackWritten now q e).seq (seqLocal q.req.seqId)).track t = (n.seq (seqLocal q.req.seqId)).track t) ∧
    ∀ t ∈ l.map Prod.fst, t < (n.seq (seqLocal q.req.seqId)).tracks.length →
      (((n.foldl l fun n e => n.trackWritten now q e).seq (seqLocal q.req.seqId)).track t).tokens = ((n.seq (seqLocal q.req.seqId)).track t).tokens + q.tokens ∧
      (((n.foldl l fun n e => n.trackWritten now q e).seq (seqLocal q.req.seqId)).track t).booked = ((n.seq (seqLocal q.req.seqId)).track t).booked - q.tokens := by
  induction l generalizing n with
  | nil => exact ⟨rfl, fun _ _ => rfl, fun _ h => absurd h List.not_mem_nil⟩
  | cons e rest ih =>
    rw [List.map_cons] at hn
    obtain ⟨he, hrest⟩ := List.nodup_cons.mp hn
    obtain ⟨h1, h2⟩ := n.trackWritten_spec now q e
    obtain ⟨i1, i2, i3⟩ := ih hrest (n.trackWritten now q e)
    refine ⟨i1.trans h1.adm, fun t ht => ?_, fun t ht hl => ?_⟩
    · rw [List.map_cons] at ht
      exact (i2 t fun h => ht (List.mem_cons_of_mem _ h)).trans (h1.others t fun h => ht (h ▸ List.mem_cons_self))
    · by_cases h : t = e.1
      · subst h
        have hsame := i2 e.1 he
        obtain ⟨g1, g2⟩ := h2 hl
        exact ⟨(congrArg Track.tokens hsame).trans g1, (congrArg Track.booked hsame).trans g2⟩
      · obtain ⟨g1, g2⟩ := i3 t ((List.mem_cons.mp ht).resolve_left h) (by rw [h1.length]; exact hl)
        rw [h1.others t h] at g1 g2
        exact ⟨g1, g2⟩

/-- The token write of a request (R113). -/
theorem Node.writeTokens_spec (n : Node) (now key : Nat) (a : Admitted) (ha : n.admitted? key = some a) (hn : a.tracks.Nodup) :
    ((n.writeTokens now a).seq (seqLocal a.req.seqId)).lastAppend = now - 1 ∧
    (∀ t ∈ a.tracks, t < (n.seq (seqLocal a.req.seqId)).tracks.length →
      (((n.writeTokens now a).seq (seqLocal a.req.seqId)).track t).tokens = ((n.seq (seqLocal a.req.seqId)).track t).tokens + a.tokens ∧
      (((n.writeTokens now a).seq (seqLocal a.req.seqId)).track t).booked = ((n.seq (seqLocal a.req.seqId)).track t).booked - a.tokens) ∧
    (∀ t, t ∉ a.tracks → ((n.writeTokens now a).seq (seqLocal a.req.seqId)).track t = (n.seq (seqLocal a.req.seqId)).track t) ∧
    ∃ x ∈ (n.writeTokens now a).adm.admitted, x.req = a.req ∧ x.tokenWritten = true := by
  obtain ⟨v, first, heq, hv, htr⟩ : ∃ (v : Seq) (first : Nat),
      n.writeTokens now a = ((n.foldl a.tracks.zipIdx fun n e => n.trackWritten now a e).setSeq (seqLocal a.req.seqId) v).setAdmitted a.req.key
        (fun q => { q with tokenWritten := true, tokenBase := first }) ∧
      v.lastAppend = now - 1 ∧ v.tracks = ((n.foldl a.tracks.zipIdx fun n e => n.trackWritten now a e).seq (seqLocal a.req.seqId)).tracks :=
    ⟨_, _, rfl, rfl, rfl⟩
  obtain ⟨h1, h2, h3⟩ := Node.tracksWritten_spec now a a.tracks.zipIdx (by rw [List.zipIdx_map_fst]; exact hn) n
  rw [List.zipIdx_map_fst] at h2 h3
  generalize (n.foldl a.tracks.zipIdx fun n e => n.trackWritten now a e) = m at htr heq h1 h2 h3
  have hseq : (n.writeTokens now a).seq (seqLocal a.req.seqId) = v := by
    rw [heq]
    exact (m.seq_setSeq _ _ v).trans (if_pos rfl)
  have htrack : ∀ t, v.track t = (m.seq (seqLocal a.req.seqId)).track t := fun t => by rw [Seq.track, htr]; rfl
  rw [hseq]
  refine ⟨hv, fun t ht hl => ?_, fun t ht => ?_, ?_⟩
  · rw [htrack]
    exact h3 t ht hl
  · rw [htrack]
    exact h2 t ht
  · obtain ⟨hm, -⟩ := Node.mem_of_admitted? ha
    rw [heq]
    refine ⟨_, List.mem_map.mpr ⟨a, by show a ∈ m.adm.admitted; rw [h1]; exact hm, rfl⟩, ?_⟩
    rw [if_pos rfl]
    exact ⟨rfl, rfl⟩

/-! ### Refills (R120) -/

theorem slotSearch_free (taken : Map Nat) (stack mask fuel slot g : Nat) (h : slotSearch taken stack mask fuel slot = some g) :
    Map.find taken (stack * 2 ^ 22 + g) = none := by
  induction fuel generalizing slot with
  | zero => cases h
  | succ fuel ih =>
    unfold slotSearch at h
    split at h
    · cases h
    · split at h
      · next hb =>
        cases h
        simp only [Bool.and_eq_true, Option.isNone_iff_eq_none] at hb
        exact hb.2
      · exact ih _ h

/-- A slot that is given is one that nothing has (R109). -/
theorem Node.lowestSlot_free (n : Node) (s stack g : Nat) (h : n.lowestSlot s stack = some g) : Map.find n.seqs.slots g = none := by
  unfold Node.lowestSlot at h
  dsimp only at h
  split at h
  · cases h
  · obtain ⟨x, hx, rfl⟩ := Option.map_eq_some_iff.mp h
    exact slotSearch_free _ _ _ _ _ _ hx

/-- A refill given: a slot, and the page that will be the spare (R120). -/
theorem Node.refillOne_given (n : Node) (now k t g : Nat) (hq : n.t1Used (n.seq k).slice < (n.quota (n.seq k).slice).t1Slots)
    (hg : (n.spareStack (n.seq k).slice (n.reg Reg.sparePolicy) (n.pageRegion ((n.seq k).track t).tail)).bind (n.lowestSlot (n.seq k).slice) = some g) :
    n.refillOne now k t = (n.newPage (n.seq k).slice (n.seq k).format g .spare).2.setTrack k t fun tr => { tr with refill := some (n.freePage, now + n.reg Reg.refillBound) } := by
  unfold Node.refillOne
  dsimp only
  rw [if_neg (Nat.not_le.mpr hq), hg]
  rfl

theorem Node.refillOne_full (n : Node) (now k t : Nat) (hq : (n.quota (n.seq k).slice).t1Slots ≤ n.t1Used (n.seq k).slice) :
    n.refillOne now k t = n.setQuota (n.seq k).slice { n.quota (n.seq k).slice with refillFailed := true } := by
  unfold Node.refillOne
  dsimp only
  rw [if_pos hq]

/-- What a refill of one track leaves: refills of other tracks, slots that are taken, and failures. -/
theorem Node.refillOne_frame (n : Node) (now k t : Nat) : (∀ k' t', (k', t') ≠ (k, t) → ((n.refillOne now k t).seq k').track t' = (n.seq k').track t') ∧
    (∀ g s, Map.find n.seqs.slots g = some s → Map.find (n.refillOne now k t).seqs.slots g = some s) ∧
    ∀ s, (n.quota s).refillFailed = true → ((n.refillOne now k t).quota s).refillFailed = true := by
  have hfail : ∀ s, (n.quota s).refillFailed = true →
      ((n.setQuota (n.seq k).slice { n.quota (n.seq k).slice with refillFailed := true }).quota s).refillFailed = true := fun s hs => by
    rw [Node.quota_setQuota]
    split
    · rfl
    · exact hs
  unfold Node.refillOne
  dsimp only
  split
  · exact ⟨fun _ _ _ => rfl, fun _ _ h => h, hfail⟩
  · split
    · exact ⟨fun _ _ _ => rfl, fun _ _ h => h, hfail⟩
    · next g hg =>
      obtain ⟨st, -, hfree⟩ := Option.bind_eq_some_iff.mp hg
      refine ⟨fun k' t' hne => ?_, fun g' s h => ?_, fun s hs => hs⟩
      · by_cases hk : k' = k
        · subst hk
          rw [Node.track_setTrack, if_neg fun h => hne (by rw [h.1])]
          rfl
        · unfold Node.setTrack
          rw [Node.seq_setSeq, if_neg hk]
          rfl
      · refine (Map.find_put ..).trans ?_
        rw [if_neg]
        · exact h
        · intro he
          rw [he, n.lowestSlot_free _ _ _ hfree] at h
          cases h

theorem Node.refillRest_frame (now : Nat) (l : List (Nat × Nat)) (n : Node) :
    (∀ k t, (k, t) ∉ l → ((n.foldl l fun n e => n.refillOne now e.1 e.2).seq k).track t = (n.seq k).track t) ∧
    (∀ g s, Map.find n.seqs.slots g = some s → Map.find (n.foldl l fun n e => n.refillOne now e.1 e.2).seqs.slots g = some s) ∧
    ∀ s, (n.quota s).refillFailed = true → ((n.foldl l fun n e => n.refillOne now e.1 e.2).quota s).refillFailed = true := by
  induction l generalizing n with
  | nil => exact ⟨fun _ _ _ => rfl, fun _ _ h => h, fun _ h => h⟩
  | cons e rest ih =>
    obtain ⟨f1, f2, f3⟩ := n.refillOne_frame now e.1 e.2
    obtain ⟨i1, i2, i3⟩ := ih (n.refillOne now e.1 e.2)
    exact ⟨fun k t h => (i1 k t fun hm => h (List.mem_cons_of_mem _ hm)).trans (f1 k t fun he => h (he ▸ List.mem_cons_self)),
      fun g s h => i2 g s (f2 g s h), fun s h => i3 s (f3 s h)⟩

/-- Settles O39: a token write, and the first refill of a tick, by the order of refills. Which free page is given (log entry 14) and from which tick the refill is timed
(log entry 45) are the model's choices. -/
theorem tokenWrites : Obligations.TokenWrites := by
  unfold Obligations.TokenWrites
  intro s now n1 n2
  refine ⟨fun q a ha hw hst hn => ?_, fun k t rest g ho hr hl hq hg => ?_, fun k t rest ho hq => ?_⟩
  · intro k
    have hexec : exec (.appendWrite q) s = s.on (n1.writeTokens now a) := by
      show execAppendWrite q s = _
      unfold execAppendWrite
      dsimp only
      rw [show (s.node.settleTracks s.clock.tick).admitted? q.key = some a from ha]
      exact congrArg s.on (if_pos (by rw [hw, show (s.node.settleTracks s.clock.tick).stopped = false from hst]; rfl))
    exact ⟨_, hexec.trans (State.on_eq ..), n1.writeTokens_spec now q.key a ha hn⟩
  · have hexec : exec .refillAttempt s = s.on ((n2.refillOne now k t).foldl rest fun n e => n.refillOne now e.1 e.2) := by
      show s.on (n2.foldl n2.refillOrder _) = _
      rw [ho]
      rfl
    refine ⟨_, hexec.trans (State.on_eq ..), ?_⟩
    obtain ⟨r1, r2, -⟩ := Node.refillRest_frame now rest (n2.refillOne now k t)
    rw [r1 k t hr]
    refine ⟨?_, r2 g _ ?_⟩
    · rw [n2.refillOne_given now k t g hq hg, Node.track_setTrack, if_pos ⟨rfl, hl⟩]
    · rw [n2.refillOne_given now k t g hq hg]
      exact (Map.find_put ..).trans (if_pos rfl)
  · have hexec : exec .refillAttempt s = s.on ((n2.refillOne now k t).foldl rest fun n e => n.refillOne now e.1 e.2) := by
      show s.on (n2.foldl n2.refillOrder _) = _
      rw [ho]
      rfl
    refine ⟨_, hexec.trans (State.on_eq ..), (Node.refillRest_frame now rest (n2.refillOne now k t)).2.2 _ ?_⟩
    rw [n2.refillOne_full now k t hq, Node.quota_setQuota, if_pos rfl]

end Sys2Proof.Machine
end

section
/-!
Reclaim, rewrite and packing of pages (R149, R145, R243, R246): O40.
-/

namespace Sys2Proof.Machine

/-! ### Reclaim -/

theorem Node.dropPage_page (n : Node) (p q : Nat) : (n.dropPage p).page q = if q = p then {} else n.page q := by
  have h : (n.freePageSlots p).seqs.pages = n.seqs.pages := by
    unfold Node.freePageSlots
    dsimp only
    cases (n.page p).t1 <;> cases (n.page p).slow <;> rfl
  unfold Node.dropPage
  rw [Node.page_setPage, Node.page, h]
  rfl

theorem Node.dropPage_slot (n : Node) (p g : Nat) (h : (n.page p).t1 = some g) : Map.find (n.dropPage p).seqs.slots g = none := by
  unfold Node.dropPage Node.freePageSlots
  dsimp only
  rw [h]
  dsimp only
  cases (n.page p).slow
  · exact (Map.find_erase ..).trans (if_pos rfl)
  · exact (Map.find_erase ..).trans (if_pos rfl)

theorem Node.regs_dropPage (n : Node) (p : Nat) : (n.dropPage p).regs = n.regs := by
  unfold Node.dropPage Node.freePageSlots
  dsimp only
  cases (n.page p).t1 <;> cases (n.page p).slow <;> rfl

theorem Node.reclaim_spec (n : Node) (p g : Nat) (hs : (n.page p).state = .released) (hr : (n.page p).ref = 0) (hp : (n.page p).pin = 0) (hg : (n.page p).t1 = some g)
    (hq : ∀ r ∈ n.tiers.reads, r.page = p → r.started = false) : (n.reclaim p).page p = {} ∧ Map.find (n.reclaim p).seqs.slots g = none ∧
      (n.reclaim p).reg Reg.reclaimed = (n.reg Reg.reclaimed + 1) % 2 ^ 64 ∧ ∀ k, k ≠ p → (n.reclaim p).page k = n.page k := by
  obtain ⟨m, hm, hseqs, hregs⟩ : ∃ m : Node, n.reclaim p = (m.dropPage p).bump Reg.reclaimed ∧ m.seqs = n.seqs ∧ m.regs = n.regs := by
    unfold Node.reclaim
    dsimp only
    rw [if_neg]
    · exact ⟨_, rfl, rfl, rfl⟩
    · intro h
      simp only [hs, hr, hp, Bool.or_eq_true, List.any_eq_true, Bool.and_eq_true, beq_iff_eq] at h
      rcases h with ((h | h) | h) | ⟨r, hr, h1, h2⟩
      · exact absurd h (by decide)
      · exact absurd h (by decide)
      · exact absurd h (by decide)
      · rw [hq r hr h1] at h2
        exact absurd h2 (by decide)
  have hpage : ∀ k, m.page k = n.page k := fun k => by rw [Node.page, hseqs]; rfl
  rw [hm]
  refine ⟨(m.dropPage_page p p).trans (if_pos rfl), m.dropPage_slot p g (by rw [hpage]; exact hg), ?_, fun k hk => ?_⟩
  · rw [Node.reg_bump _ _ _ rfl, Node.reg_congr (m.regs_dropPage p), Node.reg_congr hregs]
  · exact (m.dropPage_page p k).trans ((if_neg hk).trans (hpage k))

/-! ### Rewrites (R145) -/

/-- A page without a node that is gone. -/
def Page.without (d : Page) (dead : List Nat) : Page :=
  match d.node with
  | some h => if dead.contains h then { d with node := none } else d
  | none => d

/-- A page whose node is removed names none (R145). -/
theorem Node.removePageNode_spec (n : Node) (p : Nat) (h : ∀ h, (n.page p).node = some h → (Map.find n.share.nodes h).isSome = true) :
    ((n.removePageNode p).page p).node = none ∧ (n.removePageNode p).seqs.rewrites = n.seqs.rewrites ∧ (n.removePageNode p).seqs.slots = n.seqs.slots := by
  unfold Node.removePageNode
  cases hn : (n.page p).node with
  | none => exact ⟨hn, rfl, rfl⟩
  | some k =>
    dsimp only
    obtain ⟨v, hv⟩ := Option.isSome_iff_exists.mp (h k hn)
    have hmem : k ∈ deadNodes n.share.nodes (fun j _ => j == k) := mem_deadNodes _ _ (k, v) (Map.find_mem _ _ _ hv) (beq_self_eq_true k)
    generalize hd : deadNodes n.share.nodes (fun j _ => j == k) = dead at hmem
    have hpages : (n.removeNodes fun j _ => j == k).seqs.pages = n.seqs.pages.map fun e => (e.1, e.2.without dead) := by
      unfold Node.removeNodes
      dsimp only
      rw [hd, if_neg (List.ne_nil_of_mem hmem)]
      refine List.map_congr_left fun e _ => ?_
      unfold Page.without
      cases e.2.node with
      | none => rfl
      | some j =>
        dsimp only
        split <;> rfl
    have hrest : (n.removeNodes fun j _ => j == k).seqs.rewrites = n.seqs.rewrites ∧ (n.removeNodes fun j _ => j == k).seqs.slots = n.seqs.slots := by
      unfold Node.removeNodes
      dsimp only
      split <;> exact ⟨rfl, rfl⟩
    refine ⟨?_, hrest⟩
    rw [Node.page, hpages, Map.get_map {} n.seqs.pages (fun _ d => d.without dead) p]
    cases hf : Map.find n.seqs.pages p with
    | none => rfl
    | some d =>
      have hdn : d.node = some k := by rw [← hn, Node.page, Map.get_of_find, hf, Option.getD_some]
      dsimp only
      unfold Page.without
      rw [hdn]
      dsimp only
      rw [if_pos (List.contains_iff_mem.mpr hmem)]

/-- A command put behind the others of a channel. -/
def Node.onChannel (stack : Nat) (c : NbCommand) (n : Node) (ch : Nat) : Node :=
  let k := stack * 32 + ch
  { n with stk := { n.stk with queues := Map.set [] n.stk.queues k (Map.get [] n.stk.queues k ++ [c]) } }

/-- Issuing a near-bank command leaves pages, slots, rewrites and the packers' order. -/
theorem Node.issueCommand_frame (n : Node) (now op : Nat) (a : NbArgs) (w : Bool) (issuer : Nat) : (n.issueCommand now op a w issuer).2.seqs = n.seqs ∧
    (n.issueCommand now op a w issuer).2.packOrder = n.packOrder := by
  unfold Node.issueCommand
  dsimp only
  split
  · exact ⟨rfl, rfl⟩
  · obtain ⟨c, hc⟩ : ∃ c : NbCommand, c = { op := op, args := a, workClass := w, issuer := issuer, id := n.stk.cmdNext } := ⟨_, rfl⟩
    have h1 := Node.foldl_keeps (fun x : Node => x.seqs) (nbChannels a) (Node.onChannel a.stack.val c) (fun _ _ => rfl)
      { n with stk := { n.stk with cmdNext := n.stk.cmdNext + 1 } }
    have h2 := Node.foldl_keeps (fun x : Node => x.packOrder) (nbChannels a) (Node.onChannel a.stack.val c) (fun _ _ => rfl)
      { n with stk := { n.stk with cmdNext := n.stk.cmdNext + 1 } }
    rw [hc] at h1 h2
    exact ⟨h1, h2⟩

/-- A rewrite may start: its sequence is open, its page whole, and no other rewrites it (R145). -/
def Node.Rewritable (n : Node) (w : Rewrite) : Prop :=
  let q := n.seq w.seq.toNat
  let d := n.page ((q.track w.track).pages.getD w.page 0xFFFFFFFF)
  q.state = .opened ∧ w.page < (q.track w.track).pages.length ∧ (d.state = .sealed ∨ d.state = .compressed) ∧
  ∀ x ∈ n.seqs.rewrites, ¬(x.seq = w.seq.toNat ∧ x.track = w.track ∧ x.index = w.page)

theorem Node.Rewritable.not_refused {n : Node} {w : Rewrite} (h : n.Rewritable w) : ¬((n.seq w.seq.toNat).state ≠ .opened ∨
    ((n.seq w.seq.toNat).track w.track).pages.length ≤ w.page ∨
    (!((n.page (((n.seq w.seq.toNat).track w.track).pages.getD w.page 0xFFFFFFFF)).state == .sealed ||
      (n.page (((n.seq w.seq.toNat).track w.track).pages.getD w.page 0xFFFFFFFF)).state == .compressed)) = true ∨
    (n.seqs.rewrites.any fun x => x.seq == w.seq.toNat && x.track == w.track && x.index == w.page) = true) := by
  obtain ⟨h1, h2, h3, h4⟩ := h
  rintro (h | h | h | h)
  · exact h h1
  · omega
  · rcases h3 with h3 | h3 <;> rw [h3] at h <;> exact absurd h (by decide)
  · obtain ⟨x, hx, h⟩ := List.any_eq_true.mp h
    exact h4 x hx (by simpa [and_assoc] using h)

/-- A rewrite in place (R145): no other sequence shares the page. -/
theorem Node.rewriteStart_inPlace (n : Node) (now : Nat) (w : Rewrite) (p : Nat) (hp : ((n.seq w.seq.toNat).track w.track).pages.getD w.page 0xFFFFFFFF = p)
    (hw : n.Rewritable w) (hr : (n.page p).ref = 1) (hpin : (n.page p).pin = 0) (hn : ∀ h, (n.page p).node = some h → (Map.find n.share.nodes h).isSome = true) :
    ((n.rewriteStart now w).page p).node = none ∧ (∀ e ∈ (n.rewriteStart now w).packOrder, e.2 ≠ p) ∧ (n.rewriteStart now w).seqs.rewrites = n.seqs.rewrites ++
      [{ seq := w.seq.toNat, track := w.track, index := w.page, page := p, copy := none, op := w.op.toNat, scalar := w.scalar.toNat }] := by
  have hno := hw.not_refused
  obtain ⟨r1, r2, -⟩ := n.removePageNode_spec p hn
  unfold Node.rewriteStart
  dsimp only
  rw [hp] at hno ⊢
  rw [if_neg hno, if_pos hr, if_neg (not_not.mpr hpin)]
  generalize n.removePageNode p = m at r1 r2
  unfold Node.rewriteCommand
  dsimp only
  rw [(Node.issueCommand_frame ..).2, Node.page, (Node.issueCommand_frame ..).1]
  refine ⟨r1, fun e he => ?_, congrArg (· ++ _) r2⟩
  simpa using (List.mem_filter.mp he).2

theorem Node.rewriteStart_pinned (n : Node) (now : Nat) (w : Rewrite) (p : Nat) (hp : ((n.seq w.seq.toNat).track w.track).pages.getD w.page 0xFFFFFFFF = p)
    (hw : n.Rewritable w) (hr : (n.page p).ref = 1) (hpin : (n.page p).pin ≠ 0) : n.rewriteStart now w = n := by
  have hno := hw.not_refused
  unfold Node.rewriteStart
  dsimp only
  rw [hp] at hno ⊢
  rw [if_neg hno, if_pos hr, if_pos hpin]

/-- A rewrite on a copy (R145): a slot for the new page. -/
theorem Node.rewriteStart_copy (n : Node) (now : Nat) (w : Rewrite) (p g : Nat) (hp : ((n.seq w.seq.toNat).track w.track).pages.getD w.page 0xFFFFFFFF = p)
    (hw : n.Rewritable w) (hr : (n.page p).ref ≠ 1) (hq : n.t1Used (n.seq w.seq.toNat).slice < (n.quota (n.seq w.seq.toNat).slice).t1Slots)
    (hg : (n.spareStack (n.seq w.seq.toNat).slice 0 ((n.page p).t1.getD 0 / 2 ^ 22)).bind (n.lowestSlot (n.seq w.seq.toNat).slice) = some g) :
    ∃ np, ((n.rewriteStart now w).page np).t1 = some g ∧ Map.find (n.rewriteStart now w).seqs.slots g = some (n.seq w.seq.toNat).slice ∧
      (n.rewriteStart now w).seqs.rewrites = n.seqs.rewrites ++
        [{ seq := w.seq.toNat, track := w.track, index := w.page, page := p, copy := some np, op := w.op.toNat, scalar := w.scalar.toNat }] := by
  have hno := hw.not_refused
  unfold Node.rewriteStart
  dsimp only
  rw [hp] at hno ⊢
  rw [if_neg hno, if_neg hr, if_neg (Nat.not_le.mpr hq), hg]
  dsimp only
  have hm : ∃ m : Node, m.seqs.rewrites = n.seqs.rewrites ∧ m.seqs.slots = (n.takeSlot (n.seq w.seq.toNat).slice g).seqs.slots ∧
      (if (n.page p).copies = 0 then (n.takeSlot (n.seq w.seq.toNat).slice g).setPage p { n.page p with copies := 1, pin := (n.page p).pin + 1 }
        else (n.takeSlot (n.seq w.seq.toNat).slice g).setPage p { n.page p with copies := (n.page p).copies + 1 }) = m := by
    refine ⟨_, ?_, ?_, rfl⟩
    · split <;> rfl
    · split <;> rfl
  obtain ⟨m, h1, h2, hm⟩ := hm
  rw [hm]
  refine ⟨m.freePage, ?_, ?_, ?_⟩
  · rw [Node.page, (Node.issueCommand_frame ..).1]
    have hpage := (m.page_setPage m.freePage m.freePage { state := .spare, slice := (n.page p).slice, format := (n.page p).format, t1 := some g }).trans (if_pos rfl)
    exact congrArg Page.t1 hpage
  · rw [(Node.issueCommand_frame ..).1]
    show Map.find m.seqs.slots g = _
    rw [h2]
    exact (Map.find_put ..).trans (if_pos rfl)
  · rw [(Node.issueCommand_frame ..).1]
    exact congrArg (· ++ _) h1

/-! ### Packers (R243, R246) -/

/-- What another page's packer leaves of a page, of the packers' order and of the packers. -/
theorem Node.startPacker_frame (n : Node) (now r p x : Nat) (hx : x ≠ p) : (n.startPacker now r x).page p = n.page p ∧
    (∀ e ∈ (n.startPacker now r x).packOrder, e ∈ n.packOrder) ∧ ∀ k ∈ n.packers, k ∈ (n.startPacker now r x).packers := by
  unfold Node.startPacker
  dsimp only
  split
  · exact ⟨rfl, fun _ h => h, fun _ h => h⟩
  · split
    · exact ⟨rfl, fun _ h => h, fun _ h => h⟩
    · refine ⟨?_, fun e h => (List.mem_filter.mp h).1, fun k h => List.mem_append_left _ h⟩
      exact ((n.unqueuePacker x).page_setPage x p _).trans (if_neg (Ne.symm hx))

theorem Node.startPackers_frame (now r p : Nat) (l : List Nat) (hp : p ∉ l) (n : Node) : (n.foldl l fun n x => n.startPacker now r x).page p = n.page p ∧
    (∀ e ∈ (n.foldl l fun n x => n.startPacker now r x).packOrder, e ∈ n.packOrder) ∧
    ∀ k ∈ n.packers, k ∈ (n.foldl l fun n x => n.startPacker now r x).packers := by
  induction l generalizing n with
  | nil => exact ⟨rfl, fun _ h => h, fun _ h => h⟩
  | cons x t ih =>
    obtain ⟨f1, f2, f3⟩ := n.startPacker_frame now r p x fun h => hp (h ▸ List.mem_cons_self)
    obtain ⟨i1, i2, i3⟩ := ih (fun h => hp (List.mem_cons_of_mem _ h)) (n.startPacker now r x)
    exact ⟨i1.trans f1, fun e h => f2 e (i2 e h), fun k h => i3 k (f3 k h)⟩

/-- A packer that starts takes its copy of the page, and pins it (R243). -/
theorem Node.startPacker_spec (n : Node) (now r p a b : Nat) (img : Bytes) (hr : n.recordOf p = some (a, b))
    (hi : n.pageImage p (elemOf (n.page p).format) a b = .ok img) : ((n.startPacker now r p).page p).pin = (n.page p).pin + 1 ∧
      (∀ e ∈ (n.startPacker now r p).packOrder, e.2 ≠ p) ∧ ∃ k ∈ (n.startPacker now r p).packers, k.page = p ∧ k.region = r ∧ k.start = now ∧ k.raw = img := by
  unfold Node.startPacker
  dsimp only
  rw [hr]
  dsimp only
  rw [hi]
  refine ⟨?_, fun e he => ?_, _, List.mem_append_right _ List.mem_cons_self, rfl, rfl, rfl, rfl⟩
  · exact congrArg Page.pin (((n.unqueuePacker p).page_setPage p p _).trans (if_pos rfl))
  · simpa using (List.mem_filter.mp he).2

/-- Writing a packed block counts blocks and granules only (R245). -/
theorem Node.writeBlock_reg (n : Node) (p g i : Nat) (k : Packed) : (n.writeBlock p g i k).reg Reg.pagesPacked = n.reg Reg.pagesPacked := by
  have h1 := (n.writeSlot_frame g (4096 * i) k.bytes p (n.tagOf true kindPage (n.page p).slice)).2.2
  unfold Node.writeBlock
  dsimp only
  generalize n.writeSlot g (4096 * i) k.bytes p (n.tagOf true kindPage (n.page p).slice) = m at h1
  rw [← Node.reg_congr h1]
  have hkind : (m.bump (if k.len = 1 then Reg.blocksZero else if k.len = 64 then Reg.blocksRaw else Reg.blocksPacked)).reg Reg.pagesPacked = m.reg Reg.pagesPacked := by
    refine Node.reg_bump_ne _ _ _ ?_
    split
    · decide
    · split <;> decide
  generalize m.bump (if k.len = 1 then Reg.blocksZero else if k.len = 64 then Reg.blocksRaw else Reg.blocksPacked) = l at hkind
  refine ((Node.reg_setReg ..).trans (if_neg (by decide))).trans ?_
  split
  · exact (l.reg_bump_ne _ _ (by decide)).trans hkind
  · exact hkind

/-- A page whose packer's writes are complete is COMPRESSED (R246). -/
theorem Node.packed_spec (n : Node) (p g a b : Nat) (k : Packer) (hk : n.packers.find? (fun k => k.page == p) = some k) (hg : (n.page p).t1 = some g)
    (hr : n.recordOf p = some (a, b)) (hs : (n.page p).state = .sealed ∨ (n.page p).state = .compressed) :
    ((n.packed p).page p).state = .compressed ∧
    ((n.packed p).page p).blockLen = ((List.range 4).map fun i => choosePack (n.reg Reg.packMode) (sliceB (tileImage (elemOf (n.page p).format) a b k.raw) (4096 * i) 4096)).map
      (fun x => x.len) ∧
    ((n.packed p).page p).pin = (n.page p).pin - 1 ∧ (∀ x ∈ (n.packed p).packers, x.page ≠ p) ∧
    (n.packed p).reg Reg.pagesPacked = (n.reg Reg.pagesPacked + 1) % 2 ^ 64 := by
  generalize hb : ((List.range 4).map fun i => choosePack (n.reg Reg.packMode) (sliceB (tileImage (elemOf (n.page p).format) a b k.raw) (4096 * i) 4096)) = blocks
  have hfold : (n.foldl blocks.zipIdx fun n e => n.writeBlock p g e.2 e.1).reg Reg.pagesPacked = n.reg Reg.pagesPacked :=
    Node.foldl_keeps (fun x : Node => x.reg Reg.pagesPacked) blocks.zipIdx (fun (n : Node) (e : Packed × Nat) => n.writeBlock p g e.2 e.1)
      (fun n e => n.writeBlock_reg p g e.2 e.1) n
  unfold Node.packed
  dsimp only
  rw [hk, hg, hr]
  dsimp only
  rw [if_neg (by rcases hs with h | h <;> rw [h] <;> decide), hb]
  generalize n.foldl blocks.zipIdx (fun n e => n.writeBlock p g e.2 e.1) = m at hfold
  have hpage : ∀ (x : Node) (d : Page), ((x.setPage p d).bump Reg.pagesPacked).page p = d := fun x d => (x.page_setPage p p d).trans (if_pos rfl)
  refine ⟨by rw [hpage], by rw [hpage], by rw [hpage], fun x hx => ?_, ?_⟩
  · have hx' : x ∈ m.packers.filter fun k => k.page != p := hx
    simpa using (List.mem_filter.mp hx').2
  · rw [Node.reg_bump _ _ _ rfl, ← hfold]
    rfl

/-- Settles O40: reclaim, rewrites and packers, each by its lemma. That a pinned page is not rewritten is the model's choice (log entry 50: R145 names no pin). -/
theorem pageEvents : Obligations.PageEvents := by
  unfold Obligations.PageEvents
  intro s
  refine ⟨fun page g => ?_, fun w => ?_, fun r p a b rest img hst hp hn hf hr hi => ?_, fun page k g a b => ?_⟩
  · intro d hs hr hp hg hq
    exact ⟨_, State.on_eq .., s.node.reclaim_spec page.toNat g hs hr hp hg hq⟩
  · intro q p d ho hl hs hb
    have hw : s.node.Rewritable w := ⟨ho, hl, hs, hb⟩
    refine ⟨fun hr hp hn => ⟨_, State.on_eq .., s.node.rewriteStart_inPlace _ w p rfl hw hr hp hn⟩, fun g hr hq hg => ?_, fun hr hp => ?_⟩
    · obtain ⟨np, h⟩ := s.node.rewriteStart_copy s.clock.tick w p g rfl hw hr hq hg
      exact ⟨_, np, State.on_eq .., h⟩
    · show s.on (s.node.rewriteStart s.clock.tick w) = _
      rw [s.node.rewriteStart_pinned _ w p rfl hw hr hp]
      exact State.on_eq s s.node
  · obtain ⟨j, hj⟩ := Nat.exists_eq_add_of_lt hf
    have hexec : exec (.packerStart r) s = s.on ((s.node.startPacker s.clock.tick r.val p).foldl (rest.take j) fun n x => n.startPacker s.clock.tick r.val x) := by
      show s.on (if _ then _ else _) = _
      rw [if_neg (by rw [hst]; decide), hp, hj, Nat.zero_add, List.take_succ_cons]
      rfl
    obtain ⟨h1, h2, x, hx, hx'⟩ := s.node.startPacker_spec s.clock.tick r.val p a b img hr hi
    obtain ⟨f1, f2, f3⟩ := Node.startPackers_frame s.clock.tick r.val p (rest.take j) (fun h => hn (List.mem_of_mem_take h)) (s.node.startPacker s.clock.tick r.val p)
    refine ⟨_, hexec.trans (State.on_eq ..), by rw [f1, h1], fun e he => h2 e (f2 e he), x, f3 x hx, hx'⟩
  · intro p d blocks hst hk hlt hg hr hs
    have hexec : exec (.pageCompressed page) s = s.on (s.node.packed page.toNat) := by
      show s.on (if _ then _ else _) = _
      rw [if_pos]
      simp only [hst, Bool.not_false, Bool.true_and, List.any_eq_true]
      exact ⟨k, List.mem_of_find?_eq_some hk, by simpa using ⟨by simpa using List.find?_some hk, hlt⟩⟩
    exact ⟨_, hexec.trans (State.on_eq ..), s.node.packed_spec page.toNat g a b k hk hg hr hs⟩

end Sys2Proof.Machine
end

section
/-!
Spills, prefetches and reads of the slow tier (R290, R122, R292, R123, R297, R533): O41.
-/

namespace Sys2Proof.Machine

/-! ### What spills leave of one page -/

theorem Map.mem_set {α : Type} [DecidableEq α] (d : α) (m : Map α) (k : Nat) (v : α) (e : Nat × α) (h : e ∈ Map.set d m k v) :
    e = (k, v) ∨ (e ∈ m ∧ e.1 ≠ k) := by
  have hrest : e ∈ Map.erase m k → e ∈ m ∧ e.1 ≠ k := fun h => by simpa [Map.erase] using h
  unfold Map.set at h
  split at h
  · exact .inr (hrest h)
  · exact ((Map.mem_insert ..).mp h).imp_right hrest

/-- `m` has page `p` as `n` has it, lists no entry of it that `n` does not list, and has the spills of `n` under way. -/
structure Node.Spares (p : Nat) (n m : Node) : Prop where
  page : m.page p = n.page p
  listed : ∀ e ∈ m.seqs.pages, e.1 = p → e ∈ n.seqs.pages
  spills : ∀ e ∈ n.tiers.spillsNow, e ∈ m.tiers.spillsNow

namespace Node.Spares

variable {p : Nat} {n m l : Node}

theorem of_eq (hp : m.seqs.pages = n.seqs.pages) (hs : m.tiers.spillsNow = n.tiers.spillsNow) : n.Spares p m :=
  ⟨by rw [Node.page, hp]; rfl, fun e he _ => hp ▸ he, fun e he => hs ▸ he⟩

theorem refl (p : Nat) (n : Node) : n.Spares p n := of_eq rfl rfl

theorem trans (h : n.Spares p m) (h' : m.Spares p l) : n.Spares p l :=
  ⟨h'.page.trans h.page, fun e he hk => h.listed e (h'.listed e he hk) hk, fun e he => h'.spills e (h.spills e he)⟩

theorem setPage (n : Node) {q : Nat} (d : Page) (h : q ≠ p) : n.Spares p (n.setPage q d) := by
  refine ⟨(n.page_setPage q p d).trans (if_neg h.symm), fun e he hk => ?_, fun e he => he⟩
  rcases Map.mem_set _ _ _ _ _ he with rfl | ⟨hm, -⟩
  · exact absurd hk h
  · exact hm

theorem foldl {α : Type} {f : Node → α → Node} (xs : List α) (h : ∀ (n : Node), ∀ x ∈ xs, n.Spares p (f n x)) (n : Node) : n.Spares p (n.foldl xs f) := by
  induction xs generalizing n with
  | nil => exact refl ..
  | cons x t ih => exact (h n x List.mem_cons_self).trans (ih (fun n y hy => h n y (List.mem_cons_of_mem _ hy)) _)

end Node.Spares

/-- Every entry of page `p` is one that moves: no candidate and no copy to drop. -/
def Node.Moving (n : Node) (p : Nat) : Prop := ∀ e ∈ n.seqs.pages, e.1 = p → e.2.moving = true

theorem Node.Spares.moving {p : Nat} {n m : Node} (h : n.Spares p m) (hn : n.Moving p) : m.Moving p := fun e he hk => hn e (h.listed e he hk) hk

theorem Node.entry_setPage (n : Node) (p : Nat) (d : Page) (e : Nat × Page) (he : e ∈ (n.setPage p d).seqs.pages) (hk : e.1 = p) : e.2 = d := by
  rcases Map.mem_set _ _ _ _ _ he with rfl | ⟨-, h⟩
  · rfl
  · exact absurd hk h

/-- A page once its spill is written (R122). -/
def Page.out (d : Page) : Page := { d with state := .spilled, t1 := none, moving := false, dirty := false }

theorem Node.spilled_frame (n : Node) (p : Nat) (clean : Bool) : (n.spilled p clean).seqs.pages = Map.set {} n.seqs.pages p (n.page p).out ∧
    (n.spilled p clean).tiers = n.tiers := by
  unfold Node.spilled
  dsimp only
  cases (n.page p).t1 <;> cases clean <;> exact ⟨rfl, rfl⟩

theorem Node.spilled_spec (n : Node) (p g : Nat) (hg : (n.page p).t1 = some g) : Map.find (n.spilled p false).seqs.slots g = none ∧
    (n.spilled p false).reg Reg.spills = (n.reg Reg.spills + 1) % 2 ^ 64 := by
  unfold Node.spilled
  dsimp only
  rw [hg]
  exact ⟨(Map.find_erase ..).trans (if_pos rfl), Node.reg_bump _ _ _ rfl⟩

theorem Node.spares_spilled (n : Node) (p q : Nat) (clean : Bool) (h : q ≠ p) : n.Spares p (n.spilled q clean) := by
  obtain ⟨hp, ht⟩ := n.spilled_frame q clean
  exact (Node.Spares.setPage n (n.page q).out h).trans (.of_eq hp (by rw [ht]; rfl))

/-- Drop the slow-tier copy of one page (R291). -/
def Node.dropCopy (n : Node) (p : Nat) : Node :=
  ((match (n.page p).slow with | some k => n.dropSlow k | none => n).setPage p { n.page p with slow := none, dirty := true }).bump Reg.slowCopiesDropped

theorem Node.dropCopies_eq (n : Node) (s : Nat) : n.dropCopies s =
    if n.slowUsed s < (n.quota s).slowSlots then n
    else n.foldl ((n.seqs.pages.filter fun e => e.2.slice == s && e.2.state == .compressed && !e.2.dirty && e.2.slow.isSome && !e.2.moving).map (·.1)) Node.dropCopy :=
  rfl

theorem Node.dropCopy_frame (n : Node) (p : Nat) : (n.dropCopy p).seqs.slots = n.seqs.slots ∧ ∀ k, k ≠ Reg.slowCopiesDropped → (n.dropCopy p).reg k = n.reg k := by
  unfold Node.dropCopy
  cases (n.page p).slow with
  | none => exact ⟨rfl, fun k hk => Node.reg_bump_ne _ _ _ hk⟩
  | some g => exact ⟨rfl, fun k hk => Node.reg_bump_ne _ _ _ hk⟩

theorem Node.dropCopies_frame (n : Node) (s : Nat) : (n.dropCopies s).seqs.slots = n.seqs.slots ∧
    ∀ k, k ≠ Reg.slowCopiesDropped → (n.dropCopies s).reg k = n.reg k := by
  rw [n.dropCopies_eq s]
  split
  · exact ⟨rfl, fun _ _ => rfl⟩
  · exact ⟨Node.foldl_keeps (fun n : Node => n.seqs.slots) _ _ (fun n p => (n.dropCopy_frame p).1) n,
      fun k hk => Node.foldl_keeps (fun n : Node => n.reg k) _ _ (fun n p => (n.dropCopy_frame p).2 k hk) n⟩

theorem Node.spares_dropCopy (n : Node) (p q : Nat) (h : q ≠ p) : n.Spares p (n.dropCopy q) := by
  unfold Node.dropCopy
  cases (n.page q).slow with
  | none => exact (Node.Spares.setPage n { n.page q with slow := none, dirty := true } h).trans (.of_eq rfl rfl)
  | some g => exact (Node.Spares.setPage n { n.page q with slow := none, dirty := true } h).trans (.of_eq rfl rfl)

/-- A page that moves, or is not COMPRESSED, keeps its copy (R291). -/
theorem Node.spares_dropCopies (n : Node) (p s : Nat) (h : ∀ e ∈ n.seqs.pages, e.1 = p → e.2.state ≠ .compressed ∨ e.2.moving = true) :
    n.Spares p (n.dropCopies s) := by
  rw [n.dropCopies_eq s]
  split
  · exact .refl ..
  · refine .foldl _ (fun m q hq => m.spares_dropCopy p q ?_) n
    rintro rfl
    obtain ⟨e, he, rfl⟩ := List.mem_map.mp hq
    obtain ⟨hl, hc⟩ := List.mem_filter.mp he
    simp only [Bool.and_eq_true, beq_iff_eq, Bool.not_eq_true'] at hc
    rcases h e hl rfl with hs | hm
    · exact hs hc.1.1.1.2
    · rw [hm] at hc
      exact absurd hc.2 (by decide)

/-! ### Spills (R290, R122) -/

/-- The write of a page's spill to slot `k` starts (R290). -/
def Node.spillPage (n : Node) (now p k g : Nat) : Node :=
  let m := (n.writeSlow k (n.page p).slice (n.slotLines g 0 256)).setPage p { n.page p with moving := true, slow := some k }
  { m with tiers := { m.tiers with spillsNow := m.tiers.spillsNow ++ [(p, k, now)] } }

/-- The write of a weight copy's spill from slot `k` on starts (R302). -/
def Node.spillWeight (n : Node) (now d k : Nat) : Node :=
  let w := n.weight d
  let m := (n.foldl w.slots.zipIdx fun n e => n.writeSlow (k + e.2) w.slice (n.slotLines e.1 0 256)).setWeight d { w with moving := true, slow := some k }
  { m with tiers := { m.tiers with spillsNow := m.tiers.spillsNow ++ [(2 ^ 40 + d, k, now)] } }

theorem Node.spillPage_spec (n : Node) (now p k g : Nat) : ((n.spillPage now p k g).page p).moving = true ∧ ((n.spillPage now p k g).page p).slow = some k ∧
    (n.spillPage now p k g).Moving p ∧ (p, k, now) ∈ (n.spillPage now p k g).tiers.spillsNow := by
  have hp : (n.spillPage now p k g).page p = { n.page p with moving := true, slow := some k } := (Node.page_setPage ..).trans (if_pos rfl)
  refine ⟨by rw [hp], by rw [hp], fun e he hk => ?_, List.mem_append_right _ (List.mem_singleton_self _)⟩
  rw [Node.entry_setPage _ _ _ e he hk]

theorem Node.spares_spillPage (n : Node) (now p q k g : Nat) (h : q ≠ p) : n.Spares p (n.spillPage now q k g) := by
  have hm := Node.Spares.setPage (n.writeSlow k (n.page q).slice (n.slotLines g 0 256)) { n.page q with moving := true, slow := some k } h
  exact ⟨hm.page, hm.listed, fun e he => List.mem_append_left _ he⟩

theorem Node.spares_spillWeight (n : Node) (now p d k : Nat) : n.Spares p (n.spillWeight now d k) := by
  have hm := Node.Spares.foldl (p := p) (f := fun (m : Node) (e : Nat × Nat) => m.writeSlow (k + e.2) (n.weight d).slice (m.slotLines e.1 0 256))
    (n.weight d).slots.zipIdx (fun _ _ _ => .of_eq rfl rfl) n
  exact ⟨hm.page, hm.listed, fun e he => List.mem_append_left _ (hm.spills e he)⟩

theorem Node.spillOne_page (n : Node) (now p k g : Nat) (c : SpillCand) (hc : c.isPage = true) (hn : c.num = p) (hd : (n.page p).dirty = true)
    (hs : (n.page p).slow = none) (hf : n.slowFree 1 = some k) (hg : (n.page p).t1 = some g) (hw : n.writesIn now < n.reg Reg.writeSlotsTick)
    (ho : n.writesOn now (n.slowPortOf k) < 3) : n.spillOne now c = (n.spillPage now p k g).dropCopies (n.page p).slice := by
  subst hn
  unfold Node.spillOne
  dsimp only
  rw [if_pos hc, if_neg (by simp [hd])]
  split
  · next k' g' hk' hg' =>
    rw [hs] at hk'
    obtain rfl : k = k' := Option.some.inj (hf.symm.trans hk')
    obtain rfl : g = g' := Option.some.inj (hg.symm.trans hg')
    rw [if_neg (by simp [hw, ho])]
    rfl
  · next h => exact absurd hg (h k g (by rw [hs]; exact hf))

/-- A spill of something else spares a page that moves. -/
theorem Node.spares_spillOne (n : Node) (now p : Nat) (c : SpillCand) (hc : c.isPage = true → c.num ≠ p) (hm : n.Moving p) : n.Spares p (n.spillOne now c) := by
  unfold Node.spillOne
  dsimp only
  split
  · next hp =>
    have hne := hc hp
    split
    · exact n.spares_spilled p c.num true hne
    · split
      · next k g _ _ =>
        split
        · exact .refl ..
        · have h := n.spares_spillPage now p c.num k g hne
          exact h.trans (Node.spares_dropCopies _ p _ fun e he hk => .inr (h.moving hm e he hk))
      · exact .refl ..
  · split
    · exact .refl ..
    · next k _ =>
      split
      · exact .refl ..
      · exact n.spares_spillWeight now p c.num k

/-- A page that moves is no candidate of a region (R290). -/
theorem Node.spillCands_page (n : Node) (r p : Nat) (hm : n.Moving p) (c : SpillCand) (hc : c ∈ n.spillCands r) (hp : c.isPage = true) : c.num ≠ p := by
  rintro rfl
  unfold Node.spillCands at hc
  rcases List.mem_append.mp ((mem_sortBy ..).mp hc) with h | h
  · obtain ⟨e, he, rfl⟩ := List.mem_map.mp h
    obtain ⟨hl, hf⟩ := List.mem_filter.mp he
    simp [hm e hl rfl] at hf
  · obtain ⟨e, -, rfl⟩ := List.mem_map.mp h
    exact Bool.noConfusion hp

theorem Node.spares_spills (now p : Nat) (cs : List SpillCand) (hc : ∀ c ∈ cs, c.isPage = true → c.num ≠ p) (n : Node) (hm : n.Moving p) :
    n.Spares p (n.foldl cs fun n c => n.spillOne now c) := by
  induction cs generalizing n with
  | nil => exact .refl ..
  | cons c cs ih =>
    have h := n.spares_spillOne now p c (hc c List.mem_cons_self) hm
    exact h.trans (ih (fun x hx => hc x (List.mem_cons_of_mem _ hx)) _ (h.moving hm))

theorem Node.spares_regions (now p : Nat) (rs : List Nat) (n : Node) (hm : n.Moving p) :
    n.Spares p (n.foldl rs fun n r => n.foldl (n.spillCands r) fun n c => n.spillOne now c) := by
  induction rs generalizing n with
  | nil => exact .refl ..
  | cons r rs ih =>
    have h := Node.spares_spills now p (n.spillCands r) (fun c hc => n.spillCands_page r p hm c hc) n hm
    exact h.trans (ih _ (h.moving hm))

/-- The first candidate of the first region with a spill window is written to the slow tier (R290). -/
theorem Node.spillStart_spec (n : Node) (now r k g : Nat) (rs : List Nat) (c : SpillCand) (cs : List SpillCand) (hr : n.inRounds = true)
    (hp : n.slowPresent = true) (hw : (List.range 16).filter (fun r => n.maintAt now r 0) = r :: rs) (hcs : n.spillCands r = c :: cs) (hc : c.isPage = true)
    (hne : ∀ x ∈ cs, x.isPage = true → x.num ≠ c.num) (hd : (n.page c.num).dirty = true) (hs : (n.page c.num).slow = none) (hf : n.slowFree 1 = some k)
    (hg : (n.page c.num).t1 = some g) (hi : n.writesIn now < n.reg Reg.writeSlotsTick) (ho : n.writesOn now (n.slowPortOf k) < 3) :
    ((n.spillStart now).page c.num).moving = true ∧ ((n.spillStart now).page c.num).slow = some k ∧ (c.num, k, now) ∈ (n.spillStart now).tiers.spillsNow := by
  obtain ⟨hm, hk, hall, hin⟩ := n.spillPage_spec now c.num k g
  have he : n.spillStart now = (((n.spillPage now c.num k g).dropCopies (n.page c.num).slice).foldl cs fun n c => n.spillOne now c).foldl rs fun n r =>
      n.foldl (n.spillCands r) fun n c => n.spillOne now c := by
    unfold Node.spillStart
    rw [if_neg (by simp [hr, hp]), hw, ← n.spillOne_page now c.num k g c hc rfl hd hs hf hg hi ho]
    show (n.foldl (n.spillCands r) fun n c => n.spillOne now c).foldl rs _ = _
    rw [hcs]
    rfl
  have h1 := Node.spares_dropCopies (n.spillPage now c.num k g) c.num (n.page c.num).slice fun e he hk => .inr (hall e he hk)
  have h2 := h1.trans (Node.spares_spills now c.num cs hne _ (h1.moving hall))
  have h := h2.trans (Node.spares_regions now c.num rs _ (h2.moving hall))
  rw [he]
  exact ⟨by rw [h.page, hm], by rw [h.page, hk], h.spills _ hin⟩

/-- A page's spill is acknowledged (R122). -/
theorem Node.spillDone_page (n : Node) (now slot p t g : Nat)
    (hf : n.tiers.spillsNow.find? (fun e => e.2.1 == slot && decide (e.2.2 < now)) = some (p, slot, t)) (hp : p < 2 ^ 40)
    (hm : (n.page p).moving = true) (hg : (n.page p).t1 = some g) : ((n.spillDone now slot).page p).state = .spilled ∧
      ((n.spillDone now slot).page p).t1 = none ∧ ((n.spillDone now slot).page p).moving = false ∧ Map.find (n.spillDone now slot).seqs.slots g = none ∧
      (n.spillDone now slot).reg Reg.spills = (n.reg Reg.spills + 1) % 2 ^ 64 := by
  obtain ⟨m, he, hseqs, hregs⟩ : ∃ m : Node, n.spillDone now slot = (m.spilled p false).dropCopies (m.page p).slice ∧ m.seqs = n.seqs ∧ m.regs = n.regs := by
    unfold Node.spillDone
    rw [hf]
    dsimp only
    rw [if_neg (by omega), if_pos]
    · exact ⟨_, rfl, rfl, rfl⟩
    · exact hm
  have hpage : m.page p = n.page p := by rw [Node.page, hseqs]; rfl
  obtain ⟨hpages, -⟩ := m.spilled_frame p false
  obtain ⟨hslot, hreg⟩ := m.spilled_spec p g (by rw [hpage]; exact hg)
  have hout : (m.spilled p false).page p = (n.page p).out := by
    rw [← hpage, Node.page, hpages]
    exact (Map.get_set ..).trans (if_pos rfl)
  have h := Node.spares_dropCopies (m.spilled p false) p (m.page p).slice fun e he hk => .inl (by
    rw [hpages] at he
    rw [m.entry_setPage p (m.page p).out e he hk]
    exact PState.noConfusion)
  obtain ⟨hslots, hregs'⟩ := (m.spilled p false).dropCopies_frame (m.page p).slice
  have hp' := h.page.trans hout
  rw [he]
  refine ⟨by rw [hp']; rfl, by rw [hp']; rfl, by rw [hp']; rfl, by rw [hslots]; exact hslot, ?_⟩
  rw [hregs' _ (by decide), hreg, Node.reg_congr hregs]

/-! ### Prefetches (R292, R123) -/

theorem Node.backgroundGo_reads (now fuel : Nat) : ∀ n : Node, n.tiers.reads <+: (Node.backgroundGo now fuel n).tiers.reads := by
  induction fuel with
  | zero => exact fun n => List.prefix_refl _
  | succ fuel ih =>
    intro n
    unfold Node.backgroundGo
    cases n.tiers.background with
    | nil => exact List.prefix_refl _
    | cons p rest =>
      dsimp only
      split
      · exact ih { n with tiers := { n.tiers with background := rest } }
      · split
        · exact List.prefix_refl _
        · split
          · exact List.prefix_refl _
          · split
            · exact List.prefix_refl _
            · refine List.IsPrefix.trans ?_ (ih _)
              exact List.prefix_append _ _

/-- The reads booked in a tick start in it (R292). -/
theorem Node.prefetchReads_spec (n : Node) (now i : Nat) (r : PageRead) (hr : n.inRounds = true) (hi : n.tiers.reads[i]? = some r) (ht : r.tick = now) :
    (n.prefetchReads now).tiers.reads[i]? = some { r with started := true } := by
  unfold Node.prefetchReads
  rw [if_neg (by simp [hr])]
  have hm : (n.tiers.reads.map fun r => if r.tick = now then { r with started := true } else r)[i]? = some { r with started := true } := by
    rw [List.getElem?_map, hi, Option.map_some, if_pos ht]
  obtain ⟨l, hl⟩ := Node.backgroundGo_reads now n.tiers.background.length
    { n with tiers := { n.tiers with reads := n.tiers.reads.map fun r => if r.tick = now then { r with started := true } else r } }
  dsimp only at hl ⊢
  rw [← hl]
  exact (List.getElem?_append_left (List.getElem?_eq_some_iff.mp hm).1).trans hm

/-- A prefetched page is COMPRESSED and clean (R123). -/
theorem Node.prefetchDone_spec (n : Node) (p : Nat) (r : PageRead) (hf : n.tiers.reads.find? (fun r => r.page == p && r.started) = some r)
    (hu : ((n.page p).units.all fun u => r.arrived.contains u) = true) (hs : (n.page p).state = .prefetching) :
    (n.prefetchDone p).page p = { n.page p with state := .compressed, dirty := false } ∧ ∀ x ∈ (n.prefetchDone p).tiers.reads, x.page ≠ p := by
  unfold Node.prefetchDone
  rw [hf]
  dsimp only
  rw [if_neg (by rw [hu]; decide), if_pos hs]
  have hset := n.page_setPage p p { n.page p with state := .compressed, dirty := false }
  rw [if_pos rfl] at hset
  exact ⟨hset, fun x hx => by simpa using (List.mem_filter.mp hx).2⟩

/-! ### A unit written to its slot (R297) -/

/-- The bytes of a number are those it is made of. -/
theorem leNat_lt (bs : Bytes) : leNat bs < 256 ^ bs.length := by
  induction bs with
  | nil => exact Nat.one_pos
  | cons b bs ih =>
    have hb := b.isLt
    rw [leNat, List.length_cons, Nat.pow_succ]
    omega

theorem leBytes_leNat (bs : Bytes) : leBytes bs.length (leNat bs) = bs := by
  induction bs with
  | nil => rfl
  | cons b bs ih =>
    have hb := b.isLt
    have hdiv : (b.toNat + 256 * leNat bs) / 256 = leNat bs := by omega
    have hbyte : BitVec.ofNat 8 (b.toNat + 256 * leNat bs) = b := by
      apply BitVec.eq_of_toNat_eq
      rw [BitVec.toNat_ofNat]
      omega
    rw [List.length_cons, leNat, leBytes, hdiv, hbyte, ih]

theorem spliceLine_whole (d : BitVec 512) (bs : Bytes) (h : bs.length = 64) : leBytes 64 (spliceLine d 0 bs).toNat = bs := by
  have hlt : leNat bs < 2 ^ 512 := by
    have hl := leNat_lt bs
    rw [h] at hl
    rw [show 512 = 8 * 64 from rfl, Nat.pow_mul]
    exact hl
  have hs : spliceLine d 0 bs = BitVec.ofNat 512 (leNat bs) := by
    have hdrop : (leBytes 64 d.toNat).drop 64 = [] := List.drop_of_length_le (leBytes_length ..).le
    unfold spliceLine
    dsimp only
    rw [List.take_zero, List.nil_append, Nat.zero_add, h, hdrop, List.append_nil]
  rw [hs, (BitVec.toNat_ofNat ..).trans (Nat.mod_eq_of_lt hlt), ← h]
  exact leBytes_leNat bs

theorem Node.line_setLine (n : Node) (k j : Nat) (l : Line) : (n.setLine k l).line j = if j = k then l else n.line j := by
  have hf := Map.find_put n.stk.lines k j l
  split
  · next h =>
    rw [if_pos h] at hf
    unfold Node.line Node.setLine
    dsimp only
    rw [hf]
  · next h =>
    rw [if_neg h] at hf
    exact Node.line_congr hf rfl

/-- Whole lines written from line `j` of a slot on are read back, and the lines before them stay. -/
theorem Node.writeSlotGo_lines (g owner tag m : Nat) : ∀ (fuel j : Nat) (bs : Bytes) (n : Node), m < fuel → bs.length = 64 * m →
    (∀ k, k < g * 256 + j → (Node.writeSlotGo g owner tag fuel (64 * j) bs n).line k = n.line k) ∧
    ((Node.writeSlotGo g owner tag fuel (64 * j) bs n).slotLines g j m).flatMap (fun d => leBytes 64 d.toNat) = bs := by
  induction m with
  | zero =>
    intro fuel j bs n hf hl
    obtain rfl : bs = [] := List.length_eq_zero_iff.mp hl
    obtain ⟨fuel, rfl⟩ := Nat.exists_eq_succ_of_ne_zero (Nat.ne_of_gt hf)
    unfold Node.writeSlotGo
    exact ⟨fun k _ => by rw [if_pos rfl], rfl⟩
  | succ m ih =>
    intro fuel j bs n hf hl
    obtain ⟨fuel, rfl⟩ := Nat.exists_eq_succ_of_ne_zero (show fuel ≠ 0 by omega)
    have hne : bs ≠ [] := by
      rintro rfl
      rw [List.length_nil] at hl
      omega
    have hnow : (bs.take 64).length = 64 := by rw [List.length_take]; omega
    have hoff : 64 * j % 64 = 0 := Nat.mul_mod_right ..
    have hline : 64 * j / 64 = j := Nat.mul_div_cancel_left _ (by decide)
    obtain ⟨m', hm'⟩ : ∃ m', m' = n.setLine (g * 256 + j) (mkLine (spliceLine (n.line (g * 256 + j)).data 0 (bs.take 64)) owner j tag) := ⟨_, rfl⟩
    have he : Node.writeSlotGo g owner tag (fuel + 1) (64 * j) bs n = Node.writeSlotGo g owner tag fuel (64 * (j + 1)) (bs.drop 64) m' := by
      rw [Node.writeSlotGo, if_neg hne]
      dsimp only
      rw [hoff, hline, Nat.sub_zero, hnow, Nat.mul_add_one 64 j, hm']
    obtain ⟨hkeep, hread⟩ := ih fuel (j + 1) (bs.drop 64) m' (by omega) (by rw [List.length_drop]; omega)
    rw [Nat.succ_eq_add_one, he]
    have hline' : ∀ k, m'.line k = if k = g * 256 + j then mkLine (spliceLine (n.line (g * 256 + j)).data 0 (bs.take 64)) owner j tag else n.line k := fun k => by
      rw [hm', Node.line_setLine]
    refine ⟨fun k hk => (hkeep k (by omega)).trans ((hline' k).trans (if_neg (by omega))), ?_⟩
    generalize Node.writeSlotGo g owner tag fuel (64 * (j + 1)) (bs.drop 64) m' = n' at hkeep hread ⊢
    have hsplit : n'.slotLines g j (m + 1) = (n'.line (g * 256 + j)).data :: n'.slotLines g (j + 1) m := by
      unfold Node.slotLines
      rw [List.range_succ_eq_map, List.map_cons, List.map_map]
      refine List.cons_eq_cons.mpr ⟨by rw [Nat.add_zero], List.map_congr_left fun i _ => ?_⟩
      show (n'.line (g * 256 + j + (i + 1))).data = (n'.line (g * 256 + (j + 1) + i)).data
      rw [Nat.add_comm i 1, ← Nat.add_assoc, ← Nat.add_assoc]
    have hfirst : leBytes 64 (n'.line (g * 256 + j)).data.toNat = bs.take 64 := by
      rw [hkeep _ (by omega), hline', if_pos rfl]
      exact spliceLine_whole _ _ hnow
    rw [hsplit, List.flatMap_cons, hread, hfirst]
    exact List.take_append_drop 64 bs

theorem Node.tiers_writeSlotGo (g owner tag fuel : Nat) : ∀ (off : Nat) (bs : Bytes) (n : Node),
    (Node.writeSlotGo g owner tag fuel off bs n).tiers = n.tiers := by
  induction fuel with
  | zero => exact fun _ _ _ => rfl
  | succ fuel ih =>
    intro off bs n
    unfold Node.writeSlotGo
    split
    · rfl
    · exact ih _ _ _

theorem Node.tiers_writeSlot (n : Node) (g off : Nat) (bs : Bytes) (owner tag : Nat) : (n.writeSlot g off bs owner tag).tiers = n.tiers :=
  Node.tiers_writeSlotGo ..

/-- A unit written to a slot is read back (R297). -/
theorem Node.slotBytes_writeSlot (n : Node) (g u : Nat) (bs : Bytes) (owner tag : Nat) (h : bs.length = 256) :
    (n.writeSlot g (256 * u) bs owner tag).slotBytes g (256 * u) 256 = bs := by
  have hread := (Node.writeSlotGo_lines g owner tag 4 257 (4 * u) bs n (by decide) h).2
  rw [← Nat.mul_assoc] at hread
  have h0 : 256 * u / 64 = 4 * u := by omega
  have h1 : (256 * u + 256 - 1) / 64 + 1 - 4 * u = 4 := by omega
  unfold Node.slotBytes Node.writeSlot
  dsimp only
  rw [if_neg (by decide), h0, h1, hread, show 256 * u - 4 * u * 64 = 0 by omega, ← h]
  exact sliceB_all bs

/-- A unit that is read lands in its destination and is noted (R297). -/
theorem Node.slowUnit_spec (n : Node) (slot unit : Nat) (data : Bytes) (r : PageRead)
    (hr : n.tiers.reads.find? (fun r => (n.page r.page).slow == some slot && r.started) = some r) :
    (n.slowUnit slot unit data).slotBytes r.dest (256 * unit) 256 = sliceB data 0 256 ∧
      ∃ x ∈ (n.slowUnit slot unit data).tiers.reads, x.page = r.page ∧ unit ∈ x.arrived := by
  have ht := n.tiers_writeSlot r.dest (256 * unit) (sliceB data 0 256) r.page (n.tagOf false kindPage (n.page r.page).slice)
  have hb := n.slotBytes_writeSlot r.dest unit (sliceB data 0 256) r.page (n.tagOf false kindPage (n.page r.page).slice) (sliceB_length ..)
  unfold Node.slowUnit
  rw [hr]
  refine ⟨hb, { r with arrived := r.arrived ++ [unit] }, ?_, rfl, List.mem_append_right _ (List.mem_singleton_self _)⟩
  dsimp only
  rw [ht]
  exact List.mem_map.mpr ⟨r, List.mem_of_find?_eq_some hr, if_pos rfl⟩

/-! ### A read that fails (R533) -/

/-- A page as a failed read leaves it. -/
def Page.poisonedOut (d : Page) : Page := { d with state := .poisoned, moving := false, t1 := if decide (d.state = .prefetching) = true then none else d.t1 }

theorem Node.poisonPage_state (n : Node) (p : Nat) (h : (n.page p).state = .prefetching) : ((n.poisonPage p).page p).state = .poisoned := by
  unfold Node.poisonPage
  dsimp only
  rw [if_neg (by rw [h]; decide)]
  generalize ((n.removePageNode p).stopPacker p).dropRewrites p = m
  generalize (if decide ((m.page p).state = PState.prefetching) = true then (match (m.page p).t1 with | some g => m.dropSlot g | none => m) else m) = k
  have hset := k.page_setPage p p (m.page p).poisonedOut
  rw [if_pos rfl] at hset
  exact congrArg Page.state hset

/-- A page whose read fails is POISONED, and its restore is awaited (R297, R453). -/
theorem Node.pageFault_spec (n : Node) (now p : Nat) (spare : Nat → Bool) (h : (n.page p).state = .prefetching)
    (hv : ∀ q ∈ n.unfinished, ∀ i ∈ q.items, ∀ v ∈ i.view, v.page ≠ p) : ((n.pageFault now p spare).page p).state = .poisoned ∧
      (p, now + n.reg Reg.pageRestoreTicks) ∈ (n.pageFault now p spare).rcv.restores := by
  have hnone : (n.unfinished.filter fun q => !spare q.req.key && q.items.any fun i => (i.state == 1 || i.state == 2) && i.view.any fun v => v.page == p) = [] := by
    rw [List.filter_eq_nil_iff]
    intro q hq hc
    simp only [Bool.and_eq_true, List.any_eq_true, beq_iff_eq] at hc
    obtain ⟨-, i, hi, -, v, hvi, he⟩ := hc
    exact hv q hq i hi v hvi he
  have hend : (n.endAll now stPoison 0 false fun q => !spare q.req.key && q.items.any fun i => (i.state == 1 || i.state == 2) && i.view.any fun v => v.page == p) = n := by
    unfold Node.endAll
    rw [hnone]
    rfl
  have hstate := n.poisonPage_state p h
  have hreg : (n.poisonPage p).reg Reg.pageRestoreTicks = n.reg Reg.pageRestoreTicks := (n.harms_poisonPage p).reg_eq _ (by decide)
  unfold Node.pageFault
  rw [if_neg (by rw [h]; decide)]
  dsimp only
  rw [hend, hreg]
  split
  · next w _ _ =>
    constructor
    · rw [Node.page, Node.sendNode_seqs]
      exact hstate
    · rw [(Node.sendNode_frame ..).1]
      exact List.mem_append_right _ (List.mem_singleton_self _)
  · exact ⟨hstate, List.mem_append_right _ (List.mem_singleton_self _)⟩

/-- A read that times out is counted, and its page is POISONED (R533). -/
theorem Node.slowFault_page (n : Node) (now slot : Nat) (r : PageRead)
    (hr : n.tiers.reads.find? (fun r => (n.page r.page).slow == some slot) = some r) (h : (n.page r.page).state = .prefetching)
    (hv : ∀ q ∈ n.unfinished, ∀ i ∈ q.items, ∀ v ∈ i.view, v.page ≠ r.page) :
    (((n.bump Reg.cxlTimeouts).slowFault now slot).page r.page).state = .poisoned ∧
      ((n.bump Reg.cxlTimeouts).slowFault now slot).reg Reg.cxlTimeouts = (n.reg Reg.cxlTimeouts + 1) % 2 ^ 64 ∧
      (r.page, now + n.reg Reg.pageRestoreTicks) ∈ ((n.bump Reg.cxlTimeouts).slowFault now slot).rcv.restores := by
  have he : (n.bump Reg.cxlTimeouts).slowFault now slot = ((n.bump Reg.cxlTimeouts).bump Reg.slowReadFaults).pageFault now r.page fun _ => false := by
    have hr' : ((n.bump Reg.cxlTimeouts).bump Reg.slowReadFaults).tiers.reads.find?
        (fun r => (((n.bump Reg.cxlTimeouts).bump Reg.slowReadFaults).page r.page).slow == some slot) = some r := hr
    unfold Node.slowFault
    dsimp only
    rw [hr']
  have hticks : ((n.bump Reg.cxlTimeouts).bump Reg.slowReadFaults).reg Reg.pageRestoreTicks = n.reg Reg.pageRestoreTicks :=
    (Node.reg_bump_ne _ _ _ (by decide)).trans (Node.reg_bump_ne _ _ _ (by decide))
  obtain ⟨h1, h2⟩ := Node.pageFault_spec ((n.bump Reg.cxlTimeouts).bump Reg.slowReadFaults) now r.page (fun _ => false) h hv
  rw [hticks] at h2
  rw [he]
  refine ⟨h1, ?_, h2⟩
  rw [(Node.harms_pageFault ..).reg_eq _ (by decide), Node.reg_bump_ne _ _ _ (by decide), Node.reg_bump _ _ _ rfl]

/-- Settles O41: each event by the lemma of its rule. That a spill takes the lowest free slot of the slow tier is the model's choice (log entry 14). -/
theorem tierEvents : Obligations.TierEvents := by
  unfold Obligations.TierEvents
  intro s
  refine ⟨fun r rs c cs k g hst hr hp hw hcs hc hne _ hd hs hf hg hi ho => ?_, fun slot p t g hf hp hm hg => ?_, fun hst hr => ?_, fun page r => ?_,
    fun slot unit data r hu hr => ?_, fun slot r hr hst ht hs hv => ?_⟩
  · have hexec : exec .spillStart s = s.on (s.node.spillStart s.clock.tick) := by
      show s.on (if _ then _ else _) = _
      rw [if_neg (by rw [hst]; decide)]
    exact ⟨_, hexec.trans (State.on_eq ..), s.node.spillStart_spec s.clock.tick r k g rs c cs hr hp hw hcs hc hne hd hs hf hg hi ho⟩
  · exact ⟨_, State.on_eq .., s.node.spillDone_page s.clock.tick slot.toNat p t g hf hp hm hg⟩
  · have hexec : exec .prefetchRead s = s.on (s.node.prefetchReads s.clock.tick) := by
      show s.on (if _ then _ else _) = _
      rw [if_neg (by rw [hst]; decide)]
    exact ⟨_, hexec.trans (State.on_eq ..), fun i r hi ht => s.node.prefetchReads_spec s.clock.tick i r hr hi ht⟩
  · intro p hf hu hs
    obtain ⟨h, hx⟩ := s.node.prefetchDone_spec p r hf hu hs
    exact ⟨_, State.on_eq .., by rw [h], by rw [h], by rw [h], hx⟩
  · have hexec : exec (.slowReadCompletion slot unit data true false) s = s.on (s.node.slowUnit slot.toNat unit.toNat data) := by
      show s.on (if _ then _ else if _ then _ else _) = _
      rw [if_neg (by decide), if_neg (Nat.not_le.mpr hu)]
      rfl
    exact ⟨_, hexec.trans (State.on_eq ..), s.node.slowUnit_spec slot.toNat unit.toNat data r hr⟩
  · have hslow := List.find?_some hr
    have hexec : exec (.slowReadTimeout slot) s = s.on ((s.node.bump Reg.cxlTimeouts).slowFault s.clock.tick slot.toNat) := by
      show s.on (if _ then _ else _) = _
      rw [if_pos]
      rw [Bool.or_eq_true]
      refine .inl (List.any_eq_true.mpr ⟨r, List.mem_of_find?_eq_some hr, ?_⟩)
      rw [hslow, hst, decide_eq_true ht]
      rfl
    exact ⟨_, hexec.trans (State.on_eq ..), s.node.slowFault_page s.clock.tick slot.toNat r hr hs hv⟩

end Sys2Proof.Machine
end
